-- ==== Sys2Proof/Word.lean ====
section
/-! DEFINITION. The widths of the H9: 64-bit words, bytes, 6-bit register fields (spec/08 R143 to R155). -/

namespace Sys2Proof

/-- A 64-bit register, address or instruction word. -/
abbrev Word := BitVec 64
/-- One byte of memory. -/
abbrev Byte := BitVec 8
/-- A register field of an instruction word. -/
abbrev Reg := BitVec 6

end Sys2Proof
end

