-- ==== Sys2Proof/Config.lean ====
section
/-! DEFINITION. The values that spec/ leaves open: opaque constants, applied to plain counters of the state.
Nothing can be proved of them (notes/assumptions 3, 4, 6, 7). -/

namespace Sys2Proof.Config

/-- Contents of an accumulator position that nothing has written since its hart started (R64): seed and position. -/
opaque freeAcc : Nat → Nat → BitVec 32
/-- A byte of data that the host, a device below a root port or a peer returns (R367): seed and position. -/
opaque freeByte : Nat → Nat → BitVec 8
/-- Arithmetic cycles that a step takes (R156). -/
opaque freeCycles : Nat → Nat
/-- Fabric cycles that a step takes (R359). -/
opaque freeFabric : Nat → Nat
/-- Application-core cycles that a step takes (R156). -/
opaque freeAppCycles : Nat → Nat
/-- Fetch-stall cycles that a step counts for the agent that moves (R95). -/
opaque freeFstall : Nat → Nat
/-- Other stall cycles that a step counts for the agent that moves (R95). -/
opaque freeOstall : Nat → Nat
/-- The xtval of cause 15 where the error lies at no physical page (R343): the step. -/
opaque freeTval : Nat → BitVec 64
/-- The code with which the boot after a function-level reset fails, where it does (R365, R371): the counter of free values. -/
opaque freeBoot : Nat → Nat
end Sys2Proof.Config
end

