-- ==== Sys2Proof/Syntax.lean ====
section
/-! DEFINITION. The instructions of Sniesh level 2 and the device events of the opcode table
(spec/opcode_table.json; formats of spec/08 R143 to R151). One constructor of `Instr` per row of the table.
An event of the device (a row without an encoding) is a constructor too: the decoder never yields it. -/

namespace Sys2Proof

/-- Fields d, a, b, c of format A without a mask (R145). -/
structure AArgs where
  d : Reg
  a : Reg
  b : Reg
  c : Reg
deriving DecidableEq, Repr

/-- Format I (R146): the 64-bit immediate of R146, or of R151 where a qualifying word stands before it (`pfx`). -/
structure IArgs where
  d : Reg
  a : Reg
  imm : Word
  pfx : Bool
deriving DecidableEq, Repr

/-- Scalar floating point (R161): the format code f of the function field, and d, a, b, c. -/
structure FArgs where
  f : BitVec 4
  d : Reg
  a : Reg
  b : Reg
  c : Reg
deriving DecidableEq, Repr

/-- Format B (R147): the word offset, sign-extended, or 64 bits of a pair (R151). -/
structure BArgs where
  a : Reg
  b : Reg
  off : Word
  pfx : Bool
deriving DecidableEq, Repr

/-- IPREF (R180): format B with the level in cond. -/
structure PArgs where
  cond : BitVec 4
  a : Reg
  b : Reg
  off : Word
  pfx : Bool
deriving DecidableEq, Repr

/-- Format M (R148). -/
structure MArgs where
  d : Reg
  a : Reg
  b : Reg
  oc : BitVec 4
  scope : BitVec 3
  size : BitVec 3
  me : Bool
  m : BitVec 4
  disp : BitVec 16
  sc : Bool
  ar : Bool
deriving DecidableEq, Repr

/-- AMO (R182): format M with the order in bits 46:45 of the word. -/
structure AmoArgs where
  d : Reg
  a : Reg
  b : Reg
  oc : BitVec 4
  scope : BitVec 3
  size : BitVec 3
  order : BitVec 2
deriving DecidableEq, Repr

/-- CSR access (R188). -/
structure CsrArgs where
  d : Reg
  a : Reg
  csr : BitVec 12
deriving DecidableEq, Repr

/-- SYSCALL and BREAK (R190): the service number. -/
structure NArgs where
  n : BitVec 32
deriving DecidableEq, Repr

/-- VCONF (R202): destination and N. -/
structure GArgs where
  d : Reg
  n : BitVec 32
deriving DecidableEq, Repr

/-- Vector format A (R145, R163): S, the mask, and d, a, b, c. -/
structure VArgs where
  s : Bool
  me : Bool
  m : BitVec 4
  d : Reg
  a : Reg
  b : Reg
  c : Reg
deriving DecidableEq, Repr

/-- Scratchpad forms of format M (R149): bits 35:30 carry the token. -/
structure SArgs where
  d : Reg
  a : Reg
  b : Reg
  oc : BitVec 4
  kf : BitVec 4
  tp : Bool
  tc : Bool
  me : Bool
  m : BitVec 4
  disp : BitVec 16
  sc : Bool
  ar : Bool
deriving DecidableEq, Repr

/-- Format X (R150). -/
structure XArgs where
  fn : BitVec 14
  tc : Bool
  tp : Bool
  pop : BitVec 4
  push : BitVec 4
  d : Reg
  a : Reg
  b : Reg
  c : Reg
deriving DecidableEq, Repr

/-- What a scrub read of a line finds (R355, R356): nothing, a corrected error, or an uncorrectable one. -/
inductive ScrubResult where
  | clean
  | corrected
  | uncorrectable
deriving DecidableEq, Repr

/-- The functions of the atomic instructions (R182). -/
inductive AmoFn where
  | swap
  | add
  | and
  | or
  | xor
  | min
  | max
  | minu
  | maxu
  | cas
  | fadd
deriving DecidableEq, Repr

/-- What a request from outside asks (R366, R368, R369): n bytes read; bytes written; and, from a peer alone, a counted load, a
counted store, RCCLOSE, RCQUERY, an atomic on n bytes with its operand and comparand, an addition of a format or of GSCAT, and
an arrival, a report or an EXPECT on a barrier object. -/
inductive OutsideOp where
  | read (n : Nat)
  | write (data : List Byte)
  | loadRd (n : Nat)
  | storeRc (count : Nat) (data : List Byte)
  | close (n : Nat)
  | atomic (f : AmoFn) (n v c : Nat)
  | add (ef val : Nat) (grid : Bool)
  | query
  | arrive
  | report (n : Nat)
  | expect (n : Word)
deriving DecidableEq, Repr

/-- Whose access meets an error (R343, R362, R367): an agent's, an engine command's, or that of a logical hart of a record,
which may have ended while its queued work still runs (R80). -/
inductive Struck where
  | agent (hid : Nat)
  | command (id : Nat)
  | logical (part launch l : Nat)
deriving DecidableEq, Repr

/-- What a link that retrains has lost (R362): the sequence number that the far end asks for, and the accesses that are in flight
on the port, each with its address, which end where no held flit has that number. -/
structure LinkGap where
  seq : Nat
  flying : List (Struck × Nat)
deriving DecidableEq, Repr

/-- A cache of translations, and the address space whose entries it takes (R335). -/
structure CachedSpace where
  cache : Nat
  asid : Nat
deriving DecidableEq, Repr

/-- The instructions (first part) and the device events (last part) of spec/opcode_table.json. -/
inductive Instr where
  -- Scalar integer (R160, R167, R168)
  | add (x : AArgs)
  | sub (x : AArgs)
  | and (x : AArgs)
  | or (x : AArgs)
  | xor (x : AArgs)
  | andn (x : AArgs)
  | sll (x : AArgs)
  | srl (x : AArgs)
  | sra (x : AArgs)
  | rol (x : AArgs)
  | ror (x : AArgs)
  | slt (x : AArgs)
  | sltu (x : AArgs)
  | min (x : AArgs)
  | max (x : AArgs)
  | minu (x : AArgs)
  | maxu (x : AArgs)
  | mul (x : AArgs)
  | mulh (x : AArgs)
  | mulhu (x : AArgs)
  | div (x : AArgs)
  | divu (x : AArgs)
  | rem (x : AArgs)
  | remu (x : AArgs)
  | clz (x : AArgs)
  | ctz (x : AArgs)
  | popc (x : AArgs)
  | bswap (x : AArgs)
  | sel (x : AArgs)
  -- Immediate forms (R169)
  | addi (x : IArgs)
  | andi (x : IArgs)
  | ori (x : IArgs)
  | xori (x : IArgs)
  | slli (x : IArgs)
  | srli (x : IArgs)
  | srai (x : IArgs)
  | slti (x : IArgs)
  | sltiu (x : IArgs)
  | addpc (x : IArgs)
  -- Scalar floating point (R161, R170 to R172)
  | fadd (x : FArgs)
  | fsub (x : FArgs)
  | fmul (x : FArgs)
  | fdiv (x : FArgs)
  | fsqrt (x : FArgs)
  | fmin (x : FArgs)
  | fmax (x : FArgs)
  | fmadd (x : FArgs)
  | fmsub (x : FArgs)
  | feq (x : FArgs)
  | flt (x : FArgs)
  | fle (x : FArgs)
  | fcvt (x : FArgs)
  | fclass (x : FArgs)
  -- Control transfer (R173 to R175)
  | beq (x : BArgs)
  | bne (x : BArgs)
  | blt (x : BArgs)
  | bge (x : BArgs)
  | bltu (x : BArgs)
  | bgeu (x : BArgs)
  | j (x : BArgs)
  | call (x : BArgs)
  | jr (x : AArgs)
  | callr (x : AArgs)
  -- Scalar loads and stores (R176 to R179)
  | ld (x : MArgs)
  | ldu (x : MArgs)
  | st (x : MArgs)
  | ldRd (x : MArgs)
  | lduRd (x : MArgs)
  | stRc (x : MArgs)
  -- Fetch control (R180, R181)
  | ipref (x : PArgs)
  | isync (x : MArgs)
  -- Atomics (R162, R182, R183)
  | amoswap (x : AmoArgs)
  | amoadd (x : AmoArgs)
  | amoand (x : AmoArgs)
  | amoor (x : AmoArgs)
  | amoxor (x : AmoArgs)
  | amomin (x : AmoArgs)
  | amomax (x : AmoArgs)
  | amominu (x : AmoArgs)
  | amomaxu (x : AmoArgs)
  | amocas (x : AmoArgs)
  | amofadd (x : AmoArgs)
  -- Fences and barrier objects (R184)
  | fence (x : MArgs)
  | arrive (x : MArgs)
  | arriveRel (x : MArgs)
  | expect (x : MArgs)
  | waitb (x : MArgs)
  -- Groups, launches and items (R186)
  | join (x : AArgs)
  | leave (x : AArgs)
  | gbar (x : AArgs)
  | spawn (x : AArgs)
  | idone (x : AArgs)
  | claim (x : MArgs)
  | clwait (x : AArgs)
  | vdrain (x : MArgs)
  -- CSR access and system calls (R188, R190)
  | csrr (x : CsrArgs)
  | csrw (x : CsrArgs)
  | csrs (x : CsrArgs)
  | csrc (x : CsrArgs)
  | syscall (x : NArgs)
  | brk (x : NArgs)
  -- Privileged instructions (R315)
  | xret (x : AArgs)
  | xwait (x : AArgs)
  | xinvt (x : AArgs)
  | xinvta (x : AArgs)
  | xinvtd (x : AArgs)
  -- Vector configuration (R202 to R205)
  | vconf (x : GArgs)
  | vsetb (x : VArgs)
  | vsete (x : VArgs)
  | vsetf (x : VArgs)
  -- Vector integer (R163, R206)
  | vadd (x : VArgs)
  | vsub (x : VArgs)
  | vmul (x : VArgs)
  | vmulh (x : VArgs)
  | vmulhu (x : VArgs)
  | vmin (x : VArgs)
  | vmax (x : VArgs)
  | vminu (x : VArgs)
  | vmaxu (x : VArgs)
  | vand (x : VArgs)
  | vor (x : VArgs)
  | vxor (x : VArgs)
  | vsll (x : VArgs)
  | vsrl (x : VArgs)
  | vsra (x : VArgs)
  | vsadd (x : VArgs)
  | vssub (x : VArgs)
  | vsaddu (x : VArgs)
  | vssubu (x : VArgs)
  | vmadd (x : VArgs)
  | vmv (x : VArgs)
  -- Vector floating point (R163, R207, R208, R40)
  | vfadd (x : VArgs)
  | vfsub (x : VArgs)
  | vfmul (x : VArgs)
  | vfdiv (x : VArgs)
  | vfsqrt (x : VArgs)
  | vfmin (x : VArgs)
  | vfmax (x : VArgs)
  | vfma (x : VArgs)
  | vfms (x : VArgs)
  | vfnma (x : VArgs)
  | vfabs (x : VArgs)
  | vfneg (x : VArgs)
  | vfexp2 (x : VArgs)
  | vflog2 (x : VArgs)
  | vrsqe (x : VArgs)
  -- Vector compares (R163, R209)
  | vceq (x : VArgs)
  | vcne (x : VArgs)
  | vclt (x : VArgs)
  | vcle (x : VArgs)
  | vcltu (x : VArgs)
  | vcleu (x : VArgs)
  | vfceq (x : VArgs)
  | vfclt (x : VArgs)
  | vfcle (x : VArgs)
  | vfcun (x : VArgs)
  -- Vector conversions (R163, R210)
  | cvt (x : VArgs)
  | cvtSr (x : VArgs)
  | vqmx (x : VArgs)
  | vdqmx (x : VArgs)
  | vexpand4 (x : VArgs)
  | vexpand6 (x : VArgs)
  | vrng (x : VArgs)
  | vclass (x : VArgs)
  -- Vector permutations (R163, R217)
  | vslup (x : VArgs)
  | vsldn (x : VArgs)
  | vbcast (x : VArgs)
  | vperm (x : VArgs)
  | vcompress (x : VArgs)
  | vxpand (x : VArgs)
  | vtrans (x : VArgs)
  | vzip (x : VArgs)
  | vunzip (x : VArgs)
  | vxch (x : VArgs)
  -- Vector masks (R163, R221)
  | vmand (x : VArgs)
  | vmor (x : VArgs)
  | vmxor (x : VArgs)
  | vmandn (x : VArgs)
  | vmnot (x : VArgs)
  | vmpopc (x : VArgs)
  | vmfirst (x : VArgs)
  | vmset (x : VArgs)
  -- Vector reductions and scans (R163, R222)
  | vredsum (x : VArgs)
  | vfredsum (x : VArgs)
  | vredmin (x : VArgs)
  | vredmax (x : VArgs)
  | vscan (x : VArgs)
  | vfscan (x : VArgs)
  -- Vector memory and scratchpad (R148, R149, R223 to R230)
  | vld (x : MArgs)
  | vlds (x : MArgs)
  | vldx (x : MArgs)
  | vst (x : MArgs)
  | vsts (x : MArgs)
  | vstx (x : MArgs)
  | vstxa (x : MArgs)
  | vldsp (x : SArgs)
  | vstsp (x : SArgs)
  | vconfl (x : VArgs)
  | vldRd (x : MArgs)
  | vstRc (x : MArgs)
  | vldspRd (x : SArgs)
  | vstspRc (x : SArgs)
  | vldxRd (x : MArgs)
  | vfence (x : MArgs)
  -- Coded (R231 to R241)
  | vcld (x : MArgs)
  | vcst (x : MArgs)
  | vcpos (x : VArgs)
  | vclen (x : VArgs)
  | vcdec (x : VArgs)
  | vcenc (x : VArgs)
  | vcadd (x : VArgs)
  | vcsub (x : VArgs)
  | vcskip (x : VArgs)
  | vccat (x : VArgs)
  -- Hashed grid (R242 to R251)
  | gdesc (x : MArgs)
  | gload (x : VArgs)
  | gscat (x : VArgs)
  | gsync (x : VArgs)
  -- Reader counts (R252 to R254)
  | rcclose (x : AArgs)
  | rcclosesp (x : AArgs)
  | rcquery (x : AArgs)
  | rcquerysp (x : AArgs)
  -- Matrix and engine (R258)
  | mcfg (x : XArgs)
  | msettl (x : XArgs)
  | mlda (x : XArgs)
  | mldb (x : XArgs)
  | mma (x : XArgs)
  | mopa (x : XArgs)
  | mzero (x : XArgs)
  | mld (x : XArgs)
  | mst (x : XArgs)
  | cpyin (x : XArgs)
  | cpyout (x : XArgs)
  | nest (x : XArgs)
  | loopb (x : XArgs)
  | scank (x : XArgs)
  | pftier (x : XArgs)
  | evtier (x : XArgs)
  | tokpost (x : XArgs)
  | tokwait (x : XArgs)
  | efence (x : XArgs)
  -- Device events: no encoding
  | waveForm (p : Nat) (launch : Nat)
  | copyComplete (id : Nat)
  | scanSegmentWritten (id : Nat) (ch : Nat)
  | tierGranuleReport (id : Nat)
  | matrixCommandComplete (cid : Nat)
  | recordSelect (p : Nat)
  | groupMembershipTake (p : Nat)
  | priorityAging (p : Nat) (q : Nat)
  | clusterGrant (p : Nat)
  | shutterLanesPass (core : Nat)
  | shutterWindowExpiry (hid : Nat)
  | lanesRelease (hid : Nat)
  | recordComplete (p : Nat) (launch : Nat)
  | drainRound (p : Nat) (launch : Nat)
  | pinWiden (line : Nat)
  | hartStop (hid : Nat)
  | trapEntry (hid : Nat) (cause : Nat) (tval : Word)
  | interruptEntry (hid : Nat)
  | asidtabWrite (v : Word)
  | release (p : Nat) (area : Word) (target : Nat)
  | resume (p : Nat) (area : Word) (target : Nat)
  | kill (p : Nat) (area : Word) (target : Nat)
  | curasidWrite (hid : Nat) (v : Word)
  | partcfgWrite (p : Nat) (v : Word)
  | rcvalWrite (hid : Nat) (v : Word)
  | tokvalWrite (hid : Nat) (v : Word)
  | registerWrite (pa : Nat) (v : Word)
  | eseqRead
  | ltailWrite (v : Word)
  | patrolScrub (line : Nat) (res : ScrubResult)
  | flitReceive (port : Nat) (seq : Nat) (ack : Nat) (good : Bool)
  | replayRequest (port : Nat) (seq : Nat)
  | linkRetrain (port : Nat) (gap : LinkGap) (core : Nat)
  | fingerprintGo
  | fingerprintIntervalExpiry
  | fingerprintPassEnd
  | heatHalving (p : Nat)
  | swapStart (p : Nat)
  | swapComplete (g : Nat)
  | remapPinWrite (g : Nat) (v : Word)
  | probe
  | inval
  | hirqWrite (v : Word)
  | devnumWrite (v : Word)
  | hostBar0Write (a : Nat) (data : List Byte)
  | hostBar0Read (a : Nat) (n : Nat)
  | inboundRequest (src : Nat) (a : Nat) (n : Nat) (op : OutsideOp)
  | powerLimitExceeded (core : Nat)
  | aerError (core : Nat)
  | rootPortInterrupt (r : Nat) (core : Nat)
  | deviceReset (fail : Nat)
  | functionLevelReset
  | vectorInstructionComplete (hid : Nat)
  | pageTableWalk (space : CachedSpace) (va : Nat)
  | codeRangeCommandComplete
deriving DecidableEq, Repr

end Sys2Proof
end

