-- ==== Sys2Proof/WellFormed.lean ====
section
/-! DEFINITION. Which terms of `Instr` are instructions: the limits of every field (spec/08 R148 to R163,
spec/12 R258). A term that `Instr.ok` refuses has no word: its word raises the illegal-instruction trap. -/

namespace Sys2Proof

/-- Without a qualifying word the immediate is the sign extension of its low half (R146). -/
def IArgs.immOk (x : IArgs) : Bool := x.pfx || x.imm == (x.imm.setWidth 32).signExtend 64
/-- Without a qualifying word the offset is the sign extension of its low half (R147). -/
def BArgs.offOk (x : BArgs) : Bool := x.pfx || x.off == (x.off.setWidth 32).signExtend 64
/-- As `BArgs.offOk`, for IPREF. -/
def PArgs.offOk (x : PArgs) : Bool := x.pfx || x.off == (x.off.setWidth 32).signExtend 64
/-- f is one of 10 to 13 (R161). -/
def FArgs.fOk (x : FArgs) : Bool := 10 ≤ x.f && x.f ≤ 13
/-- A code FCVT admits: 4 to 7 or 10 to 13 (R161). -/
def cvtCode (n : Nat) : Bool := (4 ≤ n && n ≤ 7) || (10 ≤ n && n ≤ 13)
/-- FCVT: both codes admitted, different, at least one floating point (R161, R172). -/
def FArgs.cvtOk (x : FArgs) : Bool :=
  cvtCode x.f.toNat && cvtCode x.c.toNat && x.f.toNat != x.c.toNat && (10 ≤ x.f.toNat || 10 ≤ x.c.toNat)
/-- No mask: ME and m are Zero (R155, R159). -/
def MArgs.noMask (x : MArgs) : Bool := !x.me && x.m == 0
/-- m is non-zero only where ME = 1 (R155). -/
def MArgs.maskOk (x : MArgs) : Bool := x.me || x.m == 0
/-- The scope field is Zero unless AR = 1, and never 7 (R148, R178). -/
def MArgs.relScope (x : MArgs) : Bool := if x.ar then x.scope != 7 else x.scope == 0
/-- As `MArgs.noMask`. -/
def VArgs.noMask (x : VArgs) : Bool := !x.me && x.m == 0
/-- As `MArgs.maskOk`. -/
def VArgs.maskOk (x : VArgs) : Bool := x.me || x.m == 0
/-- The c field of a reduction (R222): bit 2 leaves the initial value out, and then b is Zero. -/
def VArgs.redC (x : VArgs) : Bool := x.c == 0 || (x.c == 4 && x.b == 0)
/-- The c field of a scan (R222): bits 1:0 the operation 0 to 2, bit 2 as for a reduction. -/
def VArgs.scanC (x : VArgs) : Bool := x.c < 3 || (4 ≤ x.c && x.c < 7 && x.b == 0)
/-- As `MArgs.maskOk`. -/
def SArgs.maskOk (x : SArgs) : Bool := x.me || x.m == 0
/-- The token bits of a scratchpad form (R149). -/
def SArgs.tokOk (x : SArgs) : Bool := !(x.tc && x.tp) && (x.kf == 0 || x.tc || x.tp)
/-- With TP = 0 the push field is Zero, with TC = 0 the pop field is Zero (R150). -/
def XArgs.tokOk (x : XArgs) : Bool := (x.tp || x.push == 0) && (x.tc || x.pop == 0)

/-- The instruction's fields lie within the limits of the opcode map. An event has no fields to check. -/
def Instr.ok : Instr → Bool
  | .add x => x.c == 0
  | .sub x => x.c == 0
  | .and x => x.c == 0
  | .or x => x.c == 0
  | .xor x => x.c == 0
  | .andn x => x.c == 0
  | .sll x => x.c == 0
  | .srl x => x.c == 0
  | .sra x => x.c == 0
  | .rol x => x.c == 0
  | .ror x => x.c == 0
  | .slt x => x.c == 0
  | .sltu x => x.c == 0
  | .min x => x.c == 0
  | .max x => x.c == 0
  | .minu x => x.c == 0
  | .maxu x => x.c == 0
  | .mul x => x.c == 0
  | .mulh x => x.c == 0
  | .mulhu x => x.c == 0
  | .div x => x.c == 0
  | .divu x => x.c == 0
  | .rem x => x.c == 0
  | .remu x => x.c == 0
  | .clz x => x.b == 0 && x.c == 0
  | .ctz x => x.b == 0 && x.c == 0
  | .popc x => x.b == 0 && x.c == 0
  | .bswap x => x.b == 0 && x.c == 0
  | .sel _ => true
  | .addi x => x.immOk
  | .andi x => x.immOk
  | .ori x => x.immOk
  | .xori x => x.immOk
  | .slli x => x.immOk && x.imm < 64
  | .srli x => x.immOk && x.imm < 64
  | .srai x => x.immOk && x.imm < 64
  | .slti x => x.immOk
  | .sltiu x => x.immOk
  | .addpc x => x.immOk && x.a == 0
  | .fadd x => x.fOk && x.c == 0
  | .fsub x => x.fOk && x.c == 0
  | .fmul x => x.fOk && x.c == 0
  | .fdiv x => x.fOk && x.c == 0
  | .fsqrt x => x.fOk && x.b == 0 && x.c == 0
  | .fmin x => x.fOk && x.c == 0
  | .fmax x => x.fOk && x.c == 0
  | .fmadd x => x.fOk
  | .fmsub x => x.fOk
  | .feq x => x.fOk && x.c == 0
  | .flt x => x.fOk && x.c == 0
  | .fle x => x.fOk && x.c == 0
  | .fcvt x => x.cvtOk && x.b == 0
  | .fclass x => x.fOk && x.b == 0 && x.c == 0
  | .beq x => x.offOk
  | .bne x => x.offOk
  | .blt x => x.offOk
  | .bge x => x.offOk
  | .bltu x => x.offOk
  | .bgeu x => x.offOk
  | .j x => x.offOk && x.a == 0 && x.b == 0
  | .call x => x.offOk && x.a == 0 && x.b == 0
  | .jr x => x.d == 0 && x.b == 0 && x.c == 0
  | .callr x => x.d == 0 && x.b == 0 && x.c == 0
  | .ld x => x.noMask && x.size < 4 && x.relScope
  | .ldu x => x.noMask && x.size < 3 && x.relScope
  | .st x => x.noMask && x.size < 4 && x.relScope
  | .ldRd x => x.noMask && x.size < 4 && x.relScope
  | .lduRd x => x.noMask && x.size < 3 && x.relScope
  | .stRc x => x.noMask && x.size < 4 && x.scope == 0
  | .ipref x => x.offOk && x.a == 0 && x.b == 0 && (x.cond == 1 || x.cond == 2)
  | .isync x => x.noMask && x.d == 0 && x.oc == 0 && x.scope == 0 && x.size == 0 && x.disp == 0 && !x.ar && !x.sc
  | .amoswap x => (x.size == 2 || x.size == 3) && x.scope != 7
  | .amoadd x => (x.size == 2 || x.size == 3) && x.scope != 7
  | .amoand x => (x.size == 2 || x.size == 3) && x.scope != 7
  | .amoor x => (x.size == 2 || x.size == 3) && x.scope != 7
  | .amoxor x => (x.size == 2 || x.size == 3) && x.scope != 7
  | .amomin x => (x.size == 2 || x.size == 3) && x.scope != 7
  | .amomax x => (x.size == 2 || x.size == 3) && x.scope != 7
  | .amominu x => (x.size == 2 || x.size == 3) && x.scope != 7
  | .amomaxu x => (x.size == 2 || x.size == 3) && x.scope != 7
  | .amocas x => (x.size == 2 || x.size == 3) && x.scope != 7
  | .amofadd x => (x.size == 2 || x.size == 3) && x.scope != 7
  | .fence x => x.noMask && x.d == 0 && x.a == 0 && x.b == 0 && x.oc == 0 && x.scope != 7 && x.size == 0 && !x.ar && !x.sc
  | .arrive x => x.noMask && x.d == 0 && x.b == 0 && x.oc == 0 && x.scope != 7 && x.size == 0 && x.disp == 0 && !x.ar && !x.sc
  | .arriveRel x => x.noMask && x.d == 0 && x.b == 0 && x.oc == 0 && x.scope != 7 && x.size == 0 && x.disp == 0 && x.ar && !x.sc
  | .expect x => x.noMask && x.d == 0 && x.oc == 0 && x.scope == 0 && x.size == 0 && x.disp == 0 && !x.ar && !x.sc
  | .waitb x => x.noMask && x.oc == 0 && x.scope != 7 && x.size == 0 && x.disp == 0 && !x.ar && !x.sc
  | .join x => x.b == 0 && x.c == 0
  | .leave x => x.a == 0 && x.b == 0 && x.c == 0
  | .gbar x => x.a == 0 && x.b == 0 && x.c == 0
  | .spawn x => x.c == 0
  | .idone x => x.d == 0 && x.a == 0 && x.b == 0 && x.c == 0
  | .claim x => x.noMask && x.d == 0 && x.b == 0 && x.oc == 0 && x.scope == 0 && x.size == 0 && !x.ar && !x.sc
  | .clwait x => x.d == 0 && x.a == 0 && x.b == 0 && x.c == 0
  | .vdrain x => x.noMask && x.d == 0 && x.a == 0 && x.b == 0 && x.oc == 0 && x.scope != 7 && x.size == 0 && x.disp == 0 && !x.ar && !x.sc
  | .csrr x => x.a == 0
  | .csrw x => x.d == 0
  | .csrs _ => true
  | .csrc _ => true
  | .syscall _ => true
  | .brk _ => true
  | .xret x => x.d == 0 && x.a == 0 && x.b == 0 && x.c == 0
  | .xwait x => x.d == 0 && x.a == 0 && x.b == 0 && x.c == 0
  | .xinvt x => x.d == 0
  | .xinvta x => x.d == 0 && x.b == 0 && x.c == 0
  | .xinvtd x => x.d == 0 && x.a == 0 && x.b == 0 && x.c == 0
  | .vconf x => x.n == 8 || x.n == 16 || x.n == 32 || x.n == 64
  | .vsetb x => x.noMask && !x.s && x.b == 0 && x.c == 0
  | .vsete x => x.noMask && !x.s && x.b == 0 && x.c == 0
  | .vsetf x => x.noMask && !x.s && x.b == 0 && x.c == 0
  | .vadd x => x.maskOk && x.c == 0
  | .vsub x => x.maskOk && x.c == 0
  | .vmul x => x.maskOk && x.c == 0
  | .vmulh x => x.maskOk && x.c == 0
  | .vmulhu x => x.maskOk && x.c == 0
  | .vmin x => x.maskOk && x.c == 0
  | .vmax x => x.maskOk && x.c == 0
  | .vminu x => x.maskOk && x.c == 0
  | .vmaxu x => x.maskOk && x.c == 0
  | .vand x => x.maskOk && x.c == 0
  | .vor x => x.maskOk && x.c == 0
  | .vxor x => x.maskOk && x.c == 0
  | .vsll x => x.maskOk && x.c == 0
  | .vsrl x => x.maskOk && x.c == 0
  | .vsra x => x.maskOk && x.c == 0
  | .vsadd x => x.maskOk && x.c == 0
  | .vssub x => x.maskOk && x.c == 0
  | .vsaddu x => x.maskOk && x.c == 0
  | .vssubu x => x.maskOk && x.c == 0
  | .vmadd x => x.maskOk && true
  | .vmv x => x.maskOk && x.b == 0 && x.c == 0 && !x.s
  | .vfadd x => x.maskOk && x.c == 0
  | .vfsub x => x.maskOk && x.c == 0
  | .vfmul x => x.maskOk && x.c == 0
  | .vfdiv x => x.maskOk && x.c == 0
  | .vfsqrt x => x.maskOk && x.b == 0 && x.c == 0 && !x.s
  | .vfmin x => x.maskOk && x.c == 0
  | .vfmax x => x.maskOk && x.c == 0
  | .vfma x => x.maskOk && true
  | .vfms x => x.maskOk && true
  | .vfnma x => x.maskOk && true
  | .vfabs x => x.maskOk && x.b == 0 && x.c == 0 && !x.s
  | .vfneg x => x.maskOk && x.b == 0 && x.c == 0 && !x.s
  | .vfexp2 x => x.maskOk && x.b == 0 && x.c == 0 && !x.s
  | .vflog2 x => x.maskOk && x.b == 0 && x.c == 0 && !x.s
  | .vrsqe x => x.maskOk && x.c == 0
  | .vceq x => x.maskOk && x.c == 0 && x.d < 16
  | .vcne x => x.maskOk && x.c == 0 && x.d < 16
  | .vclt x => x.maskOk && x.c == 0 && x.d < 16
  | .vcle x => x.maskOk && x.c == 0 && x.d < 16
  | .vcltu x => x.maskOk && x.c == 0 && x.d < 16
  | .vcleu x => x.maskOk && x.c == 0 && x.d < 16
  | .vfceq x => x.maskOk && x.c == 0 && x.d < 16
  | .vfclt x => x.maskOk && x.c == 0 && x.d < 16
  | .vfcle x => x.maskOk && x.c == 0 && x.d < 16
  | .vfcun x => x.maskOk && x.c == 0 && x.d < 16
  | .cvt x => x.maskOk && !x.s && x.b == 0 && x.c < 14
  | .cvtSr x => x.maskOk && !x.s && 10 ≤ x.c && x.c < 14
  | .vqmx x => x.noMask && !x.s && 10 ≤ x.c && x.c < 13
  | .vdqmx x => x.noMask && !x.s && 10 ≤ x.c && x.c < 13
  | .vexpand4 x => x.maskOk && !x.s && x.b == 0 && x.c == 0
  | .vexpand6 x => x.maskOk && !x.s && x.b == 0 && x.c < 2
  | .vrng x => x.maskOk && !x.s && x.c == 0
  | .vclass x => x.maskOk && !x.s && x.b == 0 && x.c == 0
  | .vslup x => x.maskOk && !x.s && x.c < 5
  | .vsldn x => x.maskOk && !x.s && x.c < 5
  | .vbcast x => x.maskOk && !x.s && x.b == 0 && x.c == 0
  | .vperm x => x.maskOk && !x.s && x.c == 0
  | .vcompress x => x.maskOk && !x.s && x.b == 0 && x.c == 0
  | .vxpand x => x.maskOk && !x.s && x.b == 0 && x.c == 0
  | .vtrans x => x.noMask && !x.s && x.b == 0 && x.c == 0 && x.d &&& 7 == 0
  | .vzip x => x.maskOk && !x.s && x.c < 2
  | .vunzip x => x.maskOk && !x.s && x.c < 2
  | .vxch x => x.maskOk && !x.s && x.c == 0
  | .vmand x => x.noMask && !x.s && x.c == 0 && x.d < 16 && x.a < 16 && x.b < 16
  | .vmor x => x.noMask && !x.s && x.c == 0 && x.d < 16 && x.a < 16 && x.b < 16
  | .vmxor x => x.noMask && !x.s && x.c == 0 && x.d < 16 && x.a < 16 && x.b < 16
  | .vmandn x => x.noMask && !x.s && x.c == 0 && x.d < 16 && x.a < 16 && x.b < 16
  | .vmnot x => x.noMask && !x.s && x.b == 0 && x.c == 0 && x.d < 16 && x.a < 16
  | .vmpopc x => x.maskOk && !x.s && x.b == 0 && x.c == 0 && x.a < 16
  | .vmfirst x => x.maskOk && !x.s && x.b == 0 && x.c == 0 && x.a < 16
  | .vmset x => x.noMask && !x.s && x.b == 0 && x.c == 0 && x.d < 16
  | .vredsum x => x.maskOk && !x.s && x.redC
  | .vfredsum x => x.maskOk && !x.s && x.redC
  | .vredmin x => x.maskOk && !x.s && x.redC
  | .vredmax x => x.maskOk && !x.s && x.redC
  | .vscan x => x.maskOk && !x.s && x.scanC
  | .vfscan x => x.maskOk && !x.s && x.scanC
  | .vld x => x.maskOk && x.scope == 0 && x.size == 0 && x.b == 0 && !x.ar && !x.sc
  | .vlds x => x.maskOk && x.scope == 0 && x.size == 0 && !x.ar && !x.sc
  | .vldx x => x.maskOk && x.scope == 0 && x.size == 0 && !x.ar
  | .vst x => x.maskOk && x.scope == 0 && x.size == 0 && x.b == 0 && !x.ar && !x.sc
  | .vsts x => x.maskOk && x.scope == 0 && x.size == 0 && !x.ar && !x.sc
  | .vstx x => x.maskOk && x.scope == 0 && x.size == 0 && !x.ar
  | .vstxa x => x.maskOk && x.scope == 0 && x.size == 0 && !x.ar
  | .vldsp x => x.maskOk && x.tokOk && x.b == 0 && !x.ar && !x.sc
  | .vstsp x => x.maskOk && x.tokOk && x.b == 0 && !x.ar && !x.sc
  | .vconfl x => x.maskOk && !x.s && x.b == 0 && x.c == 0 && x.d < 16
  | .vldRd x => x.maskOk && x.scope == 0 && x.size == 0 && x.b == 0 && !x.ar && !x.sc
  | .vstRc x => x.maskOk && x.scope == 0 && x.size == 0 && true
  | .vldspRd x => x.maskOk && x.tokOk && x.b == 0 && !x.ar && !x.sc
  | .vstspRc x => x.maskOk && x.tokOk
  | .vldxRd x => x.maskOk && x.scope == 0 && x.size == 0 && !x.ar
  | .vfence x => x.noMask && x.d == 0 && x.a == 0 && x.b == 0 && x.oc == 0 && x.scope != 7 && x.size == 0 && !x.ar && !x.sc
  | .vcld x => x.noMask && x.scope == 0 && x.size == 0 && x.b == 0 && x.disp == 0 && !x.ar && !x.sc
  | .vcst x => x.noMask && x.scope == 0 && x.size == 0 && x.b == 0 && x.disp == 0 && !x.ar && !x.sc
  | .vcpos x => x.noMask && !x.s && x.c == 0
  | .vclen x => x.noMask && !x.s && x.c == 0
  | .vcdec x => x.noMask && !x.s && true
  | .vcenc x => x.noMask && !x.s && true
  | .vcadd x => x.noMask && !x.s && true
  | .vcsub x => x.noMask && !x.s && true
  | .vcskip x => x.noMask && !x.s && x.d == 0 && x.c == 0
  | .vccat x => x.noMask && !x.s && true
  | .gdesc x => x.noMask && x.d < 16 && x.scope == 0 && x.size == 0 && x.b == 0 && !x.ar && !x.sc
  | .gload x => x.noMask && !x.s && x.b < 16
  | .gscat x => x.noMask && !x.s && x.b < 16
  | .gsync x => x.noMask && !x.s && x.b < 16 && x.d == 0 && x.a == 0 && x.c == 0
  | .rcclose x => x.c == 0
  | .rcclosesp x => x.c == 0
  | .rcquery x => x.b == 0 && x.c == 0
  | .rcquerysp x => x.b == 0 && x.c == 0
  | .mcfg x => !x.tc && !x.tp && x.tokOk && x.fn == 0 && x.c == 0
  | .msettl x => !x.tc && !x.tp && x.tokOk && x.fn == 0 && x.d != 0 && x.d < 62
  | .mlda x => x.tokOk && x.fn < 2 && x.d == 0
  | .mldb x => x.tokOk && x.fn < 2 && x.d == 0 && x.b == 0
  | .mma x => x.tokOk && x.fn == 0 && x.d < 8 && x.a == 0 && x.b == 0 && x.c == 0
  | .mopa x => x.tokOk && x.fn == 0 && x.d < 8 && x.a == 0 && x.b == 0 && x.c == 0
  | .mzero x => x.tokOk && x.fn == 0 && x.d < 8 && x.a == 0 && x.b == 0 && x.c == 0
  | .mld x => x.tokOk && x.fn == 0 && x.d < 8 && x.b == 0 && x.c == 0
  | .mst x => x.tokOk && x.fn < 256 && x.d < 8
  | .cpyin x => x.tokOk && x.fn < 2048 && x.fn.getLsbD 0 == false
  | .cpyout x => x.tokOk && x.fn < 2048 && x.fn.getLsbD 0
  | .nest x => !x.tc && !x.tp && x.tokOk && x.fn == 0 && x.d == 0 && x.b == 0 && x.c == 0
  | .loopb x => !x.tc && !x.tp && x.tokOk && x.fn < 8 && x.d == 0 && x.a == 0 && x.b == 0 && x.c == 0
  | .scank x => x.tokOk && x.fn == 0 && x.b == 0 && x.c == 0
  | .pftier x => x.tokOk && x.fn == 0 && x.c == 0
  | .evtier x => x.tokOk && x.fn == 0 && x.c == 0
  | .tokpost x => x.tokOk && x.fn == 0 && x.d == 0 && x.a == 0 && x.b == 0 && x.c == 0 && x.tp && !x.tc
  | .tokwait x => x.tokOk && x.fn == 0 && x.d == 0 && x.a == 0 && x.b == 0 && x.c == 0 && x.tc && !x.tp
  | .efence x => x.tokOk && x.fn < 16 && x.d == 0 && x.a == 0 && x.b == 0 && x.c == 0
  | .waveForm _ _ => true
  | .copyComplete _ => true
  | .scanSegmentWritten _ _ => true
  | .tierGranuleReport _ => true
  | .matrixCommandComplete _ => true
  | .recordSelect _ => true
  | .groupMembershipTake _ => true
  | .priorityAging _ _ => true
  | .clusterGrant _ => true
  | .shutterLanesPass _ => true
  | .shutterWindowExpiry _ => true
  | .lanesRelease _ => true
  | .recordComplete _ _ => true
  | .drainRound _ _ => true
  | .pinWiden _ => true
  | .hartStop _ => true
  | .trapEntry _ _ _ => true
  | .interruptEntry _ => true
  | .asidtabWrite _ => true
  | .release _ _ _ => true
  | .resume _ _ _ => true
  | .kill _ _ _ => true
  | .curasidWrite _ _ => true
  | .partcfgWrite _ _ => true
  | .rcvalWrite _ _ => true
  | .tokvalWrite _ _ => true
  | .registerWrite _ _ => true
  | .eseqRead => true
  | .ltailWrite _ => true
  | .patrolScrub _ _ => true
  | .flitReceive _ _ _ _ => true
  | .replayRequest _ _ => true
  | .linkRetrain _ _ _ => true
  | .fingerprintGo => true
  | .fingerprintIntervalExpiry => true
  | .fingerprintPassEnd => true
  | .heatHalving _ => true
  | .swapStart _ => true
  | .swapComplete _ => true
  | .remapPinWrite _ _ => true
  | .probe => true
  | .inval => true
  | .hirqWrite _ => true
  | .devnumWrite _ => true
  | .hostBar0Write _ _ => true
  | .hostBar0Read _ _ => true
  | .inboundRequest _ _ _ _ => true
  | .powerLimitExceeded _ => true
  | .aerError _ => true
  | .rootPortInterrupt _ _ => true
  | .deviceReset _ => true
  | .functionLevelReset => true
  | .vectorInstructionComplete _ => true
  | .pageTableWalk _ _ => true
  | .codeRangeCommandComplete => true

/-- The instruction is one of the encoded rows of the table, not a device event. -/
def Instr.encoded : Instr → Bool
  | .waveForm _ _ => false
  | .copyComplete _ => false
  | .scanSegmentWritten _ _ => false
  | .tierGranuleReport _ => false
  | .matrixCommandComplete _ => false
  | .recordSelect _ => false
  | .groupMembershipTake _ => false
  | .priorityAging _ _ => false
  | .clusterGrant _ => false
  | .shutterLanesPass _ => false
  | .shutterWindowExpiry _ => false
  | .lanesRelease _ => false
  | .recordComplete _ _ => false
  | .drainRound _ _ => false
  | .pinWiden _ => false
  | .hartStop _ => false
  | .trapEntry _ _ _ => false
  | .interruptEntry _ => false
  | .asidtabWrite _ => false
  | .release _ _ _ => false
  | .resume _ _ _ => false
  | .kill _ _ _ => false
  | .curasidWrite _ _ => false
  | .partcfgWrite _ _ => false
  | .rcvalWrite _ _ => false
  | .tokvalWrite _ _ => false
  | .registerWrite _ _ => false
  | .eseqRead => false
  | .ltailWrite _ => false
  | .patrolScrub _ _ => false
  | .flitReceive _ _ _ _ => false
  | .replayRequest _ _ => false
  | .linkRetrain _ _ _ => false
  | .fingerprintGo => false
  | .fingerprintIntervalExpiry => false
  | .fingerprintPassEnd => false
  | .heatHalving _ => false
  | .swapStart _ => false
  | .swapComplete _ => false
  | .remapPinWrite _ _ => false
  | .probe => false
  | .inval => false
  | .hirqWrite _ => false
  | .devnumWrite _ => false
  | .hostBar0Write _ _ => false
  | .hostBar0Read _ _ => false
  | .inboundRequest _ _ _ _ => false
  | .powerLimitExceeded _ => false
  | .aerError _ => false
  | .rootPortInterrupt _ _ => false
  | .deviceReset _ => false
  | .functionLevelReset => false
  | .vectorInstructionComplete _ => false
  | .pageTableWalk _ _ => false
  | .codeRangeCommandComplete => false
  | _ => true

end Sys2Proof
end

