-- ==== Sys2Proof/Decode.lean ====
section
/-! DEFINITION. The decoder and the encoder (spec/08 R143 to R164). The decoder is total: a word is an instruction,
or it is refused under the name of the trap that R152 and R164 give it, with the word whose check failed. -/

namespace Sys2Proof

/-- Bits lo + n - 1 down to lo of a word (R4). -/
def field (w : Word) (lo n : Nat) : BitVec n := w.extractLsb' lo n
/-- One bit of a word. -/
def flag (w : Word) (i : Nat) : Bool := w.getLsbD i

/-- Why a statement is no instruction (R152, R154, R164): the word whose check failed. -/
inductive Reject where
  /-- MU = 1 (R154). -/
  | mustUnderstand (w : Word)
  /-- Illegal instruction (R158 to R164). -/
  | illegal (w : Word)
  /-- Fewer bytes than the statement has. -/
  | short
deriving DecidableEq, Repr

/-- The major opcode (R144). -/
def opcode (w : Word) : Nat := (field w 0 8).toNat
/-- The opcode of a qualifying word (R151). -/
def pairOpcode : Nat := 0x70
/-- The function of format A (R145), S included. -/
def functionA (w : Word) : Nat := (field w 37 11).toNat
/-- The function of a vector format A without S (R163). -/
def functionV (w : Word) : Nat := (field w 37 10).toNat
/-- The opcodes that a qualifying word may stand before (R151). -/
def qualifiable (op : Nat) : Bool := (0x02 ≤ op && op ≤ 0x0B) || op == 0x30 || op == 0x31 || op == 0x43

/-! ## Fields of each format -/

/-- Format A: d, a, b, c. -/
def aArgs (w : Word) : AArgs := ⟨field w 8 6, field w 14 6, field w 20 6, field w 26 6⟩
/-- The reserved bits of a scalar format A are 0: bits 58:48, ME and m (R145, R159). -/
def aZero (w : Word) : Bool := field w 48 11 == 0 && field w 32 5 == 0
/-- The reserved bits of a vector format A are 0: bits 58:48 (R145). -/
def vZero (w : Word) : Bool := field w 48 11 == 0
/-- Format A with a mask; S is bit 47 (R163). -/
def vArgs (w : Word) : VArgs :=
  ⟨flag w 47, flag w 36, field w 32 4, field w 8 6, field w 14 6, field w 20 6, field w 26 6⟩
/-- Format I: the immediate of R146, or of R151 with the high half `hi`. -/
def iImm (hi : Option (BitVec 32)) (w : Word) : Word :=
  match hi with
  | none => (field w 20 32).signExtend 64
  | some h => h ++ field w 20 32
/-- Format I: d, a and the immediate. -/
def iArgs (hi : Option (BitVec 32)) (w : Word) : IArgs := ⟨field w 8 6, field w 14 6, iImm hi w, hi.isSome⟩
/-- The reserved bits 58:52 of format I are 0 (R146). -/
def iZero (w : Word) : Bool := field w 52 7 == 0
/-- Scalar floating point: f is bits 3:0 of the function (R161). -/
def fArgs (w : Word) : FArgs := ⟨field w 37 4, field w 8 6, field w 14 6, field w 20 6, field w 26 6⟩
/-- Format B: the word offset of R147 or R151. -/
def bOff (hi : Option (BitVec 32)) (w : Word) : Word :=
  match hi with
  | none => (field w 24 32).signExtend 64
  | some h => h ++ field w 24 32
/-- Format B: a at 17:12, b at 23:18. -/
def bArgs (hi : Option (BitVec 32)) (w : Word) : BArgs := ⟨field w 12 6, field w 18 6, bOff hi w, hi.isSome⟩
/-- IPREF: cond, a, b and the offset. -/
def pArgs (hi : Option (BitVec 32)) (w : Word) : PArgs :=
  ⟨field w 8 4, field w 12 6, field w 18 6, bOff hi w, hi.isSome⟩
/-- The condition of format B. -/
def condB (w : Word) : Nat := (field w 8 4).toNat
/-- The reserved bits 58:56 of formats B and X are 0 (R147, R150). -/
def bZero (w : Word) : Bool := field w 56 3 == 0
/-- Format M (R148). -/
def mArgs (w : Word) : MArgs :=
  ⟨field w 8 6, field w 14 6, field w 20 6, field w 26 4, field w 30 3, field w 33 3, flag w 36, field w 37 4,
   field w 41 16, flag w 57, flag w 58⟩
/-- AMO: the operation is bits 44:41, the order bits 46:45 (R162). -/
def oArgs (w : Word) : AmoArgs :=
  ⟨field w 8 6, field w 14 6, field w 20 6, field w 26 4, field w 30 3, field w 33 3, field w 45 2⟩
/-- The reserved bits of AMO: 58:47, ME and m (R148, R162). -/
def oZero (w : Word) : Bool := field w 47 12 == 0 && field w 36 5 == 0
/-- CSR number in imm bits 11:0 (R188). -/
def cArgs (w : Word) : CsrArgs := ⟨field w 8 6, field w 14 6, field w 20 12⟩
/-- The reserved bits of a CSR access: imm bits 31:12 and bits 58:52 (R188). -/
def cZero (w : Word) : Bool := field w 32 27 == 0
/-- Scratchpad form of format M (R149). -/
def sArgs (w : Word) : SArgs :=
  ⟨field w 8 6, field w 14 6, field w 20 6, field w 26 4, field w 30 4, flag w 34, flag w 35, flag w 36, field w 37 4,
   field w 41 16, flag w 57, flag w 58⟩
/-- Format X (R150). -/
def xArgs (w : Word) : XArgs :=
  ⟨field w 42 14, flag w 41, flag w 40, field w 36 4, field w 32 4, field w 8 6, field w 14 6, field w 20 6, field w 26 6⟩

/-! ## The function tables (R158 to R163) -/

/-- Functions of opcode 0x01. -/
def op01 (fn : Nat) (x : AArgs) : Option Instr :=
  match fn with
  | 0 => some (.add x)
  | 1 => some (.sub x)
  | 2 => some (.and x)
  | 3 => some (.or x)
  | 4 => some (.xor x)
  | 5 => some (.andn x)
  | 6 => some (.sll x)
  | 7 => some (.srl x)
  | 8 => some (.sra x)
  | 9 => some (.rol x)
  | 10 => some (.ror x)
  | 11 => some (.slt x)
  | 12 => some (.sltu x)
  | 13 => some (.min x)
  | 14 => some (.max x)
  | 15 => some (.minu x)
  | 16 => some (.maxu x)
  | 17 => some (.mul x)
  | 18 => some (.mulh x)
  | 19 => some (.mulhu x)
  | 20 => some (.div x)
  | 21 => some (.divu x)
  | 22 => some (.rem x)
  | 23 => some (.remu x)
  | 24 => some (.clz x)
  | 25 => some (.ctz x)
  | 26 => some (.popc x)
  | 27 => some (.bswap x)
  | 28 => some (.sel x)
  | _ => none
/-- Operations of opcode 0x10: op is bits 10:4 of the function. -/
def op10 (op : Nat) (x : FArgs) : Option Instr :=
  match op with
  | 0 => some (.fadd x)
  | 1 => some (.fsub x)
  | 2 => some (.fmul x)
  | 3 => some (.fdiv x)
  | 4 => some (.fsqrt x)
  | 5 => some (.fmin x)
  | 6 => some (.fmax x)
  | 7 => some (.fmadd x)
  | 8 => some (.fmsub x)
  | 9 => some (.feq x)
  | 10 => some (.flt x)
  | 11 => some (.fle x)
  | 12 => some (.fcvt x)
  | 13 => some (.fclass x)
  | _ => none
/-- Conditions of opcode 0x30. -/
def op30 (c : Nat) (x : BArgs) : Option Instr :=
  match c with
  | 0 => some (.beq x)
  | 1 => some (.bne x)
  | 2 => some (.blt x)
  | 3 => some (.bge x)
  | 4 => some (.bltu x)
  | 5 => some (.bgeu x)
  | 6 => some (.j x)
  | _ => none
/-- Functions of opcode 0x32. -/
def op32 (fn : Nat) (x : AArgs) : Option Instr :=
  match fn with
  | 0 => some (.jr x)
  | 1 => some (.callr x)
  | _ => none
/-- Operations of AMO (R162). -/
def op48 (op : Nat) (x : AmoArgs) : Option Instr :=
  match op with
  | 0 => some (.amoswap x)
  | 1 => some (.amoadd x)
  | 2 => some (.amoand x)
  | 3 => some (.amoor x)
  | 4 => some (.amoxor x)
  | 5 => some (.amomin x)
  | 6 => some (.amomax x)
  | 7 => some (.amominu x)
  | 8 => some (.amomaxu x)
  | 9 => some (.amocas x)
  | 10 => some (.amofadd x)
  | _ => none
/-- Functions of opcode 0x4D. -/
def op4D (fn : Nat) (x : AArgs) : Option Instr :=
  match fn with
  | 0 => some (.join x)
  | 1 => some (.leave x)
  | 2 => some (.gbar x)
  | _ => none
/-- Functions of opcode 0x6A. -/
def op6A (fn : Nat) (x : AArgs) : Option Instr :=
  match fn with
  | 0 => some (.xinvt x)
  | 1 => some (.xinvta x)
  | 2 => some (.xinvtd x)
  | _ => none
/-- Functions of opcode 0x84 (R163). -/
def op84 (fn : Nat) (x : VArgs) : Option Instr :=
  match fn with
  | 0 => some (.vadd x)
  | 1 => some (.vsub x)
  | 2 => some (.vmul x)
  | 3 => some (.vmulh x)
  | 4 => some (.vmulhu x)
  | 5 => some (.vmin x)
  | 6 => some (.vmax x)
  | 7 => some (.vminu x)
  | 8 => some (.vmaxu x)
  | 9 => some (.vand x)
  | 10 => some (.vor x)
  | 11 => some (.vxor x)
  | 12 => some (.vsll x)
  | 13 => some (.vsrl x)
  | 14 => some (.vsra x)
  | 15 => some (.vsadd x)
  | 16 => some (.vssub x)
  | 17 => some (.vsaddu x)
  | 18 => some (.vssubu x)
  | 19 => some (.vmadd x)
  | 20 => some (.vmv x)
  | _ => none
/-- Functions of opcode 0x85 (R163). -/
def op85 (fn : Nat) (x : VArgs) : Option Instr :=
  match fn with
  | 0 => some (.vfadd x)
  | 1 => some (.vfsub x)
  | 2 => some (.vfmul x)
  | 3 => some (.vfdiv x)
  | 4 => some (.vfsqrt x)
  | 5 => some (.vfmin x)
  | 6 => some (.vfmax x)
  | 7 => some (.vfma x)
  | 8 => some (.vfms x)
  | 9 => some (.vfnma x)
  | 10 => some (.vfabs x)
  | 11 => some (.vfneg x)
  | 12 => some (.vfexp2 x)
  | 13 => some (.vflog2 x)
  | 14 => some (.vrsqe x)
  | _ => none
/-- Functions of opcode 0x86 (R163). -/
def op86 (fn : Nat) (x : VArgs) : Option Instr :=
  match fn with
  | 0 => some (.vceq x)
  | 1 => some (.vcne x)
  | 2 => some (.vclt x)
  | 3 => some (.vcle x)
  | 4 => some (.vcltu x)
  | 5 => some (.vcleu x)
  | 6 => some (.vfceq x)
  | 7 => some (.vfclt x)
  | 8 => some (.vfcle x)
  | 9 => some (.vfcun x)
  | _ => none
/-- Functions of opcode 0x87 (R163). -/
def op87 (fn : Nat) (x : VArgs) : Option Instr :=
  match fn with
  | 0 => some (.cvt x)
  | 1 => some (.cvtSr x)
  | 2 => some (.vqmx x)
  | 3 => some (.vdqmx x)
  | 4 => some (.vexpand4 x)
  | 5 => some (.vexpand6 x)
  | 6 => some (.vrng x)
  | 7 => some (.vclass x)
  | _ => none
/-- Functions of opcode 0x88 (R163). -/
def op88 (fn : Nat) (x : VArgs) : Option Instr :=
  match fn with
  | 0 => some (.vslup x)
  | 1 => some (.vsldn x)
  | 2 => some (.vbcast x)
  | 3 => some (.vperm x)
  | 4 => some (.vcompress x)
  | 5 => some (.vxpand x)
  | 6 => some (.vtrans x)
  | 7 => some (.vzip x)
  | 8 => some (.vunzip x)
  | 9 => some (.vxch x)
  | _ => none
/-- Functions of opcode 0x89 (R163). -/
def op89 (fn : Nat) (x : VArgs) : Option Instr :=
  match fn with
  | 0 => some (.vmand x)
  | 1 => some (.vmor x)
  | 2 => some (.vmxor x)
  | 3 => some (.vmandn x)
  | 4 => some (.vmnot x)
  | 5 => some (.vmpopc x)
  | 6 => some (.vmfirst x)
  | 7 => some (.vmset x)
  | _ => none
/-- Functions of opcode 0x8A (R163). -/
def op8A (fn : Nat) (x : VArgs) : Option Instr :=
  match fn with
  | 0 => some (.vredsum x)
  | 1 => some (.vfredsum x)
  | 2 => some (.vredmin x)
  | 3 => some (.vredmax x)
  | 4 => some (.vscan x)
  | 5 => some (.vfscan x)
  | _ => none
/-- Functions of opcode 0xD4. -/
def opD4 (fn : Nat) (x : AArgs) : Option Instr :=
  match fn with
  | 0 => some (.rcclose x)
  | 1 => some (.rcclosesp x)
  | _ => none
/-- Functions of opcode 0xD5. -/
def opD5 (fn : Nat) (x : AArgs) : Option Instr :=
  match fn with
  | 0 => some (.rcquery x)
  | 1 => some (.rcquerysp x)
  | _ => none

/-- The instruction that a word names by opcode and function, its reserved bits 0; `hi` is the high half that a
qualifying word gives. Limits of fields are checked after this (`accepts`). -/
def rawDecode (hi : Option (BitVec 32)) (w : Word) : Option Instr :=
  match opcode w with
  | 0x01 => if aZero w then op01 (functionA w) (aArgs w) else none
  | 0x02 => if iZero w then some (.addi (iArgs hi w)) else none
  | 0x03 => if iZero w then some (.andi (iArgs hi w)) else none
  | 0x04 => if iZero w then some (.ori (iArgs hi w)) else none
  | 0x05 => if iZero w then some (.xori (iArgs hi w)) else none
  | 0x06 => if iZero w then some (.slli (iArgs hi w)) else none
  | 0x07 => if iZero w then some (.srli (iArgs hi w)) else none
  | 0x08 => if iZero w then some (.srai (iArgs hi w)) else none
  | 0x09 => if iZero w then some (.slti (iArgs hi w)) else none
  | 0x0A => if iZero w then some (.sltiu (iArgs hi w)) else none
  | 0x0B => if iZero w then some (.addpc (iArgs hi w)) else none
  | 0x10 => if aZero w then op10 (functionA w / 16) (fArgs w) else none
  | 0x30 => if bZero w then op30 (condB w) (bArgs hi w) else none
  | 0x31 => if bZero w && condB w == 0 then some (.call (bArgs hi w)) else none
  | 0x32 => if aZero w then op32 (functionA w) (aArgs w) else none
  | 0x40 => some (.ld (mArgs w))
  | 0x41 => some (.ldu (mArgs w))
  | 0x42 => some (.st (mArgs w))
  | 0x43 => if bZero w then some (.ipref (pArgs hi w)) else none
  | 0x44 => some (.isync (mArgs w))
  | 0x45 => some (.ldRd (mArgs w))
  | 0x46 => some (.lduRd (mArgs w))
  | 0x47 => some (.stRc (mArgs w))
  | 0x48 => if oZero w then op48 (field w 41 4).toNat (oArgs w) else none
  | 0x49 => some (.fence (mArgs w))
  | 0x4A => if flag w 58 then some (.arriveRel (mArgs w)) else some (.arrive (mArgs w))
  | 0x4B => some (.expect (mArgs w))
  | 0x4C => some (.waitb (mArgs w))
  | 0x4D => if aZero w then op4D (functionA w) (aArgs w) else none
  | 0x50 => if aZero w && functionA w == 0 then some (.spawn (aArgs w)) else none
  | 0x51 => if aZero w && functionA w == 0 then some (.idone (aArgs w)) else none
  | 0x52 => some (.claim (mArgs w))
  | 0x53 => if aZero w && functionA w == 0 then some (.clwait (aArgs w)) else none
  | 0x54 => some (.vdrain (mArgs w))
  | 0x60 => if cZero w then some (.csrr (cArgs w)) else none
  | 0x61 => if cZero w then some (.csrw (cArgs w)) else none
  | 0x62 => if cZero w then some (.csrs (cArgs w)) else none
  | 0x63 => if cZero w then some (.csrc (cArgs w)) else none
  | 0x64 => if iZero w && field w 8 12 == 0 then some (.syscall ⟨field w 20 32⟩) else none
  | 0x65 => if iZero w && field w 8 12 == 0 then some (.brk ⟨field w 20 32⟩) else none
  | 0x68 => if aZero w && functionA w == 0 then some (.xret (aArgs w)) else none
  | 0x69 => if aZero w && functionA w == 0 then some (.xwait (aArgs w)) else none
  | 0x6A => if aZero w then op6A (functionA w) (aArgs w) else none
  | 0x80 => if iZero w && field w 14 6 == 0 then some (.vconf ⟨field w 8 6, field w 20 32⟩) else none
  | 0x81 => if vZero w && functionV w == 0 then some (.vsetb (vArgs w)) else none
  | 0x82 => if vZero w && functionV w == 0 then some (.vsete (vArgs w)) else none
  | 0x83 => if vZero w && functionV w == 0 then some (.vsetf (vArgs w)) else none
  | 0x84 => if vZero w then op84 (functionV w) (vArgs w) else none
  | 0x85 => if vZero w then op85 (functionV w) (vArgs w) else none
  | 0x86 => if vZero w then op86 (functionV w) (vArgs w) else none
  | 0x87 => if vZero w then op87 (functionV w) (vArgs w) else none
  | 0x88 => if vZero w then op88 (functionV w) (vArgs w) else none
  | 0x89 => if vZero w then op89 (functionV w) (vArgs w) else none
  | 0x8A => if vZero w then op8A (functionV w) (vArgs w) else none
  | 0xB0 => some (.vld (mArgs w))
  | 0xB1 => some (.vlds (mArgs w))
  | 0xB2 => some (.vldx (mArgs w))
  | 0xB3 => some (.vst (mArgs w))
  | 0xB4 => some (.vsts (mArgs w))
  | 0xB5 => some (.vstx (mArgs w))
  | 0xB6 => some (.vstxa (mArgs w))
  | 0xB7 => some (.vldsp (sArgs w))
  | 0xB8 => some (.vstsp (sArgs w))
  | 0xB9 => if vZero w && functionV w == 0 then some (.vconfl (vArgs w)) else none
  | 0xBA => some (.vldRd (mArgs w))
  | 0xBB => some (.vstRc (mArgs w))
  | 0xBC => some (.vldspRd (sArgs w))
  | 0xBD => some (.vstspRc (sArgs w))
  | 0xBE => some (.vldxRd (mArgs w))
  | 0xBF => some (.vfence (mArgs w))
  | 0xC0 => some (.vcld (mArgs w))
  | 0xC1 => some (.vcst (mArgs w))
  | 0xC2 => if vZero w && functionV w == 0 then some (.vcpos (vArgs w)) else none
  | 0xC3 => if vZero w && functionV w == 0 then some (.vclen (vArgs w)) else none
  | 0xC4 => if vZero w && functionV w == 0 then some (.vcdec (vArgs w)) else none
  | 0xC5 => if vZero w && functionV w == 0 then some (.vcenc (vArgs w)) else none
  | 0xC6 => if vZero w && functionV w == 0 then some (.vcadd (vArgs w)) else none
  | 0xC7 => if vZero w && functionV w == 0 then some (.vcsub (vArgs w)) else none
  | 0xC8 => if vZero w && functionV w == 0 then some (.vcskip (vArgs w)) else none
  | 0xC9 => if vZero w && functionV w == 0 then some (.vccat (vArgs w)) else none
  | 0xD0 => some (.gdesc (mArgs w))
  | 0xD1 => if vZero w && functionV w == 0 then some (.gload (vArgs w)) else none
  | 0xD2 => if vZero w && functionV w == 0 then some (.gscat (vArgs w)) else none
  | 0xD3 => if vZero w && functionV w == 0 then some (.gsync (vArgs w)) else none
  | 0xD4 => if aZero w then opD4 (functionA w) (aArgs w) else none
  | 0xD5 => if aZero w then opD5 (functionA w) (aArgs w) else none
  | 0xD8 => if bZero w then some (.mcfg (xArgs w)) else none
  | 0xD9 => if bZero w then some (.msettl (xArgs w)) else none
  | 0xDA => if bZero w then some (.mlda (xArgs w)) else none
  | 0xDB => if bZero w then some (.mldb (xArgs w)) else none
  | 0xDC => if bZero w then some (.mma (xArgs w)) else none
  | 0xDD => if bZero w then some (.mopa (xArgs w)) else none
  | 0xDE => if bZero w then some (.mzero (xArgs w)) else none
  | 0xDF => if bZero w then some (.mld (xArgs w)) else none
  | 0xE0 => if bZero w then some (.mst (xArgs w)) else none
  | 0xE1 => if bZero w then (if flag w 42 then some (.cpyout (xArgs w)) else some (.cpyin (xArgs w))) else none
  | 0xE2 => if bZero w then some (.nest (xArgs w)) else none
  | 0xE3 => if bZero w then some (.loopb (xArgs w)) else none
  | 0xE4 => if bZero w then some (.scank (xArgs w)) else none
  | 0xE5 => if bZero w then some (.pftier (xArgs w)) else none
  | 0xE6 => if bZero w then some (.evtier (xArgs w)) else none
  | 0xE7 => if bZero w then some (.tokpost (xArgs w)) else none
  | 0xE8 => if bZero w then some (.tokwait (xArgs w)) else none
  | 0xE9 => if bZero w then some (.efence (xArgs w)) else none
  | _ => none

/-- The decoder's check of an instruction's fields (R164 step 5). -/
def accepts (i : Instr) : Bool := i.ok

/-- Steps 3 to 5 of R164 for one word, but for what depends on the issuing agent. -/
def decodeWord (hi : Option (BitVec 32)) (w : Word) : Except Reject Instr :=
  match rawDecode hi w with
  | some i => if accepts i then .ok i else .error (.illegal w)
  | none => .error (.illegal w)

/-- A statement of one word (R164). -/
def decodeOne (w : Word) : Except Reject Instr :=
  if flag w 59 then .error (.mustUnderstand w) else decodeWord none w

/-- A pair, checked in the order of R152. -/
def decodePair (w0 w1 : Word) : Except Reject Instr :=
  if flag w0 59 then .error (.mustUnderstand w0)
  else if flag w1 59 then .error (.mustUnderstand w1)
  else if !qualifiable (opcode w1) then .error (.illegal w1)
  else if field w0 52 7 != 0 || field w0 8 12 != 0 then .error (.illegal w0)
  else decodeWord (some (field w0 20 32)) w1

/-- The word opens a pair. -/
def opensPair (w : Word) : Bool := opcode w == pairOpcode

/-- Eight bytes, the first the lowest (R143). -/
def wordOfBytes (b0 b1 b2 b3 b4 b5 b6 b7 : Byte) : Word := b7 ++ b6 ++ b5 ++ b4 ++ b3 ++ b2 ++ b1 ++ b0

/-- The statement at the head of a list of bytes, and the bytes after it. -/
def decodeBytes : List Byte → Except Reject (Instr × List Byte)
  | b0 :: b1 :: b2 :: b3 :: b4 :: b5 :: b6 :: b7 :: rest =>
    let w0 := wordOfBytes b0 b1 b2 b3 b4 b5 b6 b7
    if opensPair w0 then
      match rest with
      | c0 :: c1 :: c2 :: c3 :: c4 :: c5 :: c6 :: c7 :: rest' =>
        (decodePair w0 (wordOfBytes c0 c1 c2 c3 c4 c5 c6 c7)).map fun i => (i, rest')
      | _ => .error .short
    else (decodeOne w0).map fun i => (i, rest)
  | _ => .error .short

/-- The n bytes of a number, the lowest first. -/
def bytesOfNat : Nat → Nat → List Byte
  | 0, _ => []
  | n + 1, v => BitVec.ofNat 8 v :: bytesOfNat n (v / 256)

/-- The instruction read from bits w, numbered as the opcode table numbers them: bit 0 is bit 0 of the first word. -/
def decodeTableWord (nbits w : Nat) : Option Instr :=
  match decodeBytes (bytesOfNat 16 (w % 2 ^ nbits)) with
  | .ok (i, _) => some i
  | .error _ => none

/-! ## The encoder, from the same drawings -/

/-- Format A (R145). -/
def packA (op : BitVec 8) (fn : BitVec 11) (x : AArgs) : Word :=
  (0#16 ++ fn ++ 0#5 ++ x.c ++ x.b ++ x.a ++ x.d ++ op : BitVec 64)
/-- Format A with a mask and S (R145, R163). -/
def packV (op : BitVec 8) (fn : BitVec 10) (x : VArgs) : Word :=
  (0#16 ++ BitVec.ofBool x.s ++ fn ++ BitVec.ofBool x.me ++ x.m ++ x.c ++ x.b ++ x.a ++ x.d ++ op : BitVec 64)
/-- Format I (R146). -/
def packI (op : BitVec 8) (d a : Reg) (imm : BitVec 32) : Word :=
  (0#12 ++ imm ++ a ++ d ++ op : BitVec 64)
/-- Scalar floating point (R161). -/
def packF (fop : BitVec 7) (x : FArgs) : Word :=
  (0#16 ++ fop ++ x.f ++ 0#5 ++ x.c ++ x.b ++ x.a ++ x.d ++ 0x10#8 : BitVec 64)
/-- Format B (R147). -/
def packB (op : BitVec 8) (cond : BitVec 4) (a b : Reg) (off : BitVec 32) : Word :=
  (0#8 ++ off ++ b ++ a ++ cond ++ op : BitVec 64)
/-- Format M (R148). -/
def packM (op : BitVec 8) (x : MArgs) : Word :=
  (0#5 ++ BitVec.ofBool x.ar ++ BitVec.ofBool x.sc ++ x.disp ++ x.m ++ BitVec.ofBool x.me ++ x.size ++ x.scope ++ x.oc
    ++ x.b ++ x.a ++ x.d ++ op : BitVec 64)
/-- AMO (R182). -/
def packO (fop : BitVec 4) (x : AmoArgs) : Word :=
  (0#17 ++ x.order ++ fop ++ 0#5 ++ x.size ++ x.scope ++ x.oc ++ x.b ++ x.a ++ x.d ++ 0x48#8 : BitVec 64)
/-- CSR access (R188). -/
def packC (op : BitVec 8) (x : CsrArgs) : Word :=
  (0#32 ++ x.csr ++ x.a ++ x.d ++ op : BitVec 64)
/-- Scratchpad form (R149). -/
def packS (op : BitVec 8) (x : SArgs) : Word :=
  (0#5 ++ BitVec.ofBool x.ar ++ BitVec.ofBool x.sc ++ x.disp ++ x.m ++ BitVec.ofBool x.me ++ BitVec.ofBool x.tc
    ++ BitVec.ofBool x.tp ++ x.kf ++ x.oc ++ x.b ++ x.a ++ x.d ++ op : BitVec 64)
/-- Format X (R150). -/
def packX (op : BitVec 8) (x : XArgs) : Word :=
  (0#8 ++ x.fn ++ BitVec.ofBool x.tc ++ BitVec.ofBool x.tp ++ x.pop ++ x.push ++ x.c ++ x.b ++ x.a ++ x.d ++ op
    : BitVec 64)
/-- The qualifying word of a pair with the high half of v (R151). -/
def packPair (v : Word) : Word := (0#12 ++ v.extractLsb' 32 32 ++ 0#12 ++ 0x70#8 : BitVec 64)
/-- One word, or a pair, around a 64-bit immediate or offset. -/
def withPair (pfx : Bool) (v w : Word) : List Word := if pfx then [packPair v, w] else [w]
/-- An immediate form. -/
def encI (op : BitVec 8) (x : IArgs) : List Word := withPair x.pfx x.imm (packI op x.d x.a (x.imm.setWidth 32))
/-- A branch or call. -/
def encB (op : BitVec 8) (cond : BitVec 4) (x : BArgs) : List Word :=
  withPair x.pfx x.off (packB op cond x.a x.b (x.off.setWidth 32))
/-- IPREF. -/
def encP (x : PArgs) : List Word := withPair x.pfx x.off (packB 0x43 x.cond x.a x.b (x.off.setWidth 32))

/-- The words of an instruction; an event has none. -/
def encode : Instr → List Word
  | .add x => [packA 0x01 0 x]
  | .sub x => [packA 0x01 1 x]
  | .and x => [packA 0x01 2 x]
  | .or x => [packA 0x01 3 x]
  | .xor x => [packA 0x01 4 x]
  | .andn x => [packA 0x01 5 x]
  | .sll x => [packA 0x01 6 x]
  | .srl x => [packA 0x01 7 x]
  | .sra x => [packA 0x01 8 x]
  | .rol x => [packA 0x01 9 x]
  | .ror x => [packA 0x01 10 x]
  | .slt x => [packA 0x01 11 x]
  | .sltu x => [packA 0x01 12 x]
  | .min x => [packA 0x01 13 x]
  | .max x => [packA 0x01 14 x]
  | .minu x => [packA 0x01 15 x]
  | .maxu x => [packA 0x01 16 x]
  | .mul x => [packA 0x01 17 x]
  | .mulh x => [packA 0x01 18 x]
  | .mulhu x => [packA 0x01 19 x]
  | .div x => [packA 0x01 20 x]
  | .divu x => [packA 0x01 21 x]
  | .rem x => [packA 0x01 22 x]
  | .remu x => [packA 0x01 23 x]
  | .clz x => [packA 0x01 24 x]
  | .ctz x => [packA 0x01 25 x]
  | .popc x => [packA 0x01 26 x]
  | .bswap x => [packA 0x01 27 x]
  | .sel x => [packA 0x01 28 x]
  | .addi x => encI 0x02 x
  | .andi x => encI 0x03 x
  | .ori x => encI 0x04 x
  | .xori x => encI 0x05 x
  | .slli x => encI 0x06 x
  | .srli x => encI 0x07 x
  | .srai x => encI 0x08 x
  | .slti x => encI 0x09 x
  | .sltiu x => encI 0x0A x
  | .addpc x => encI 0x0B x
  | .fadd x => [packF 0 x]
  | .fsub x => [packF 1 x]
  | .fmul x => [packF 2 x]
  | .fdiv x => [packF 3 x]
  | .fsqrt x => [packF 4 x]
  | .fmin x => [packF 5 x]
  | .fmax x => [packF 6 x]
  | .fmadd x => [packF 7 x]
  | .fmsub x => [packF 8 x]
  | .feq x => [packF 9 x]
  | .flt x => [packF 10 x]
  | .fle x => [packF 11 x]
  | .fcvt x => [packF 12 x]
  | .fclass x => [packF 13 x]
  | .beq x => encB 0x30 0 x
  | .bne x => encB 0x30 1 x
  | .blt x => encB 0x30 2 x
  | .bge x => encB 0x30 3 x
  | .bltu x => encB 0x30 4 x
  | .bgeu x => encB 0x30 5 x
  | .j x => encB 0x30 6 x
  | .call x => encB 0x31 0 x
  | .jr x => [packA 0x32 0 x]
  | .callr x => [packA 0x32 1 x]
  | .ld x => [packM 0x40 x]
  | .ldu x => [packM 0x41 x]
  | .st x => [packM 0x42 x]
  | .ldRd x => [packM 0x45 x]
  | .lduRd x => [packM 0x46 x]
  | .stRc x => [packM 0x47 x]
  | .ipref x => encP x
  | .isync x => [packM 0x44 x]
  | .amoswap x => [packO 0 x]
  | .amoadd x => [packO 1 x]
  | .amoand x => [packO 2 x]
  | .amoor x => [packO 3 x]
  | .amoxor x => [packO 4 x]
  | .amomin x => [packO 5 x]
  | .amomax x => [packO 6 x]
  | .amominu x => [packO 7 x]
  | .amomaxu x => [packO 8 x]
  | .amocas x => [packO 9 x]
  | .amofadd x => [packO 10 x]
  | .fence x => [packM 0x49 x]
  | .arrive x => [packM 0x4A x]
  | .arriveRel x => [packM 0x4A x]
  | .expect x => [packM 0x4B x]
  | .waitb x => [packM 0x4C x]
  | .join x => [packA 0x4D 0 x]
  | .leave x => [packA 0x4D 1 x]
  | .gbar x => [packA 0x4D 2 x]
  | .spawn x => [packA 0x50 0 x]
  | .idone x => [packA 0x51 0 x]
  | .claim x => [packM 0x52 x]
  | .clwait x => [packA 0x53 0 x]
  | .vdrain x => [packM 0x54 x]
  | .csrr x => [packC 0x60 x]
  | .csrw x => [packC 0x61 x]
  | .csrs x => [packC 0x62 x]
  | .csrc x => [packC 0x63 x]
  | .syscall x => [packI 0x64 0 0 x.n]
  | .brk x => [packI 0x65 0 0 x.n]
  | .xret x => [packA 0x68 0 x]
  | .xwait x => [packA 0x69 0 x]
  | .xinvt x => [packA 0x6A 0 x]
  | .xinvta x => [packA 0x6A 1 x]
  | .xinvtd x => [packA 0x6A 2 x]
  | .vconf x => [packI 0x80 x.d 0 x.n]
  | .vsetb x => [packV 0x81 0 x]
  | .vsete x => [packV 0x82 0 x]
  | .vsetf x => [packV 0x83 0 x]
  | .vadd x => [packV 0x84 0 x]
  | .vsub x => [packV 0x84 1 x]
  | .vmul x => [packV 0x84 2 x]
  | .vmulh x => [packV 0x84 3 x]
  | .vmulhu x => [packV 0x84 4 x]
  | .vmin x => [packV 0x84 5 x]
  | .vmax x => [packV 0x84 6 x]
  | .vminu x => [packV 0x84 7 x]
  | .vmaxu x => [packV 0x84 8 x]
  | .vand x => [packV 0x84 9 x]
  | .vor x => [packV 0x84 10 x]
  | .vxor x => [packV 0x84 11 x]
  | .vsll x => [packV 0x84 12 x]
  | .vsrl x => [packV 0x84 13 x]
  | .vsra x => [packV 0x84 14 x]
  | .vsadd x => [packV 0x84 15 x]
  | .vssub x => [packV 0x84 16 x]
  | .vsaddu x => [packV 0x84 17 x]
  | .vssubu x => [packV 0x84 18 x]
  | .vmadd x => [packV 0x84 19 x]
  | .vmv x => [packV 0x84 20 x]
  | .vfadd x => [packV 0x85 0 x]
  | .vfsub x => [packV 0x85 1 x]
  | .vfmul x => [packV 0x85 2 x]
  | .vfdiv x => [packV 0x85 3 x]
  | .vfsqrt x => [packV 0x85 4 x]
  | .vfmin x => [packV 0x85 5 x]
  | .vfmax x => [packV 0x85 6 x]
  | .vfma x => [packV 0x85 7 x]
  | .vfms x => [packV 0x85 8 x]
  | .vfnma x => [packV 0x85 9 x]
  | .vfabs x => [packV 0x85 10 x]
  | .vfneg x => [packV 0x85 11 x]
  | .vfexp2 x => [packV 0x85 12 x]
  | .vflog2 x => [packV 0x85 13 x]
  | .vrsqe x => [packV 0x85 14 x]
  | .vceq x => [packV 0x86 0 x]
  | .vcne x => [packV 0x86 1 x]
  | .vclt x => [packV 0x86 2 x]
  | .vcle x => [packV 0x86 3 x]
  | .vcltu x => [packV 0x86 4 x]
  | .vcleu x => [packV 0x86 5 x]
  | .vfceq x => [packV 0x86 6 x]
  | .vfclt x => [packV 0x86 7 x]
  | .vfcle x => [packV 0x86 8 x]
  | .vfcun x => [packV 0x86 9 x]
  | .cvt x => [packV 0x87 0 x]
  | .cvtSr x => [packV 0x87 1 x]
  | .vqmx x => [packV 0x87 2 x]
  | .vdqmx x => [packV 0x87 3 x]
  | .vexpand4 x => [packV 0x87 4 x]
  | .vexpand6 x => [packV 0x87 5 x]
  | .vrng x => [packV 0x87 6 x]
  | .vclass x => [packV 0x87 7 x]
  | .vslup x => [packV 0x88 0 x]
  | .vsldn x => [packV 0x88 1 x]
  | .vbcast x => [packV 0x88 2 x]
  | .vperm x => [packV 0x88 3 x]
  | .vcompress x => [packV 0x88 4 x]
  | .vxpand x => [packV 0x88 5 x]
  | .vtrans x => [packV 0x88 6 x]
  | .vzip x => [packV 0x88 7 x]
  | .vunzip x => [packV 0x88 8 x]
  | .vxch x => [packV 0x88 9 x]
  | .vmand x => [packV 0x89 0 x]
  | .vmor x => [packV 0x89 1 x]
  | .vmxor x => [packV 0x89 2 x]
  | .vmandn x => [packV 0x89 3 x]
  | .vmnot x => [packV 0x89 4 x]
  | .vmpopc x => [packV 0x89 5 x]
  | .vmfirst x => [packV 0x89 6 x]
  | .vmset x => [packV 0x89 7 x]
  | .vredsum x => [packV 0x8A 0 x]
  | .vfredsum x => [packV 0x8A 1 x]
  | .vredmin x => [packV 0x8A 2 x]
  | .vredmax x => [packV 0x8A 3 x]
  | .vscan x => [packV 0x8A 4 x]
  | .vfscan x => [packV 0x8A 5 x]
  | .vld x => [packM 0xB0 x]
  | .vlds x => [packM 0xB1 x]
  | .vldx x => [packM 0xB2 x]
  | .vst x => [packM 0xB3 x]
  | .vsts x => [packM 0xB4 x]
  | .vstx x => [packM 0xB5 x]
  | .vstxa x => [packM 0xB6 x]
  | .vldsp x => [packS 0xB7 x]
  | .vstsp x => [packS 0xB8 x]
  | .vconfl x => [packV 0xB9 0 x]
  | .vldRd x => [packM 0xBA x]
  | .vstRc x => [packM 0xBB x]
  | .vldspRd x => [packS 0xBC x]
  | .vstspRc x => [packS 0xBD x]
  | .vldxRd x => [packM 0xBE x]
  | .vfence x => [packM 0xBF x]
  | .vcld x => [packM 0xC0 x]
  | .vcst x => [packM 0xC1 x]
  | .vcpos x => [packV 0xC2 0 x]
  | .vclen x => [packV 0xC3 0 x]
  | .vcdec x => [packV 0xC4 0 x]
  | .vcenc x => [packV 0xC5 0 x]
  | .vcadd x => [packV 0xC6 0 x]
  | .vcsub x => [packV 0xC7 0 x]
  | .vcskip x => [packV 0xC8 0 x]
  | .vccat x => [packV 0xC9 0 x]
  | .gdesc x => [packM 0xD0 x]
  | .gload x => [packV 0xD1 0 x]
  | .gscat x => [packV 0xD2 0 x]
  | .gsync x => [packV 0xD3 0 x]
  | .rcclose x => [packA 0xD4 0 x]
  | .rcclosesp x => [packA 0xD4 1 x]
  | .rcquery x => [packA 0xD5 0 x]
  | .rcquerysp x => [packA 0xD5 1 x]
  | .mcfg x => [packX 0xD8 x]
  | .msettl x => [packX 0xD9 x]
  | .mlda x => [packX 0xDA x]
  | .mldb x => [packX 0xDB x]
  | .mma x => [packX 0xDC x]
  | .mopa x => [packX 0xDD x]
  | .mzero x => [packX 0xDE x]
  | .mld x => [packX 0xDF x]
  | .mst x => [packX 0xE0 x]
  | .cpyin x => [packX 0xE1 x]
  | .cpyout x => [packX 0xE1 x]
  | .nest x => [packX 0xE2 x]
  | .loopb x => [packX 0xE3 x]
  | .scank x => [packX 0xE4 x]
  | .pftier x => [packX 0xE5 x]
  | .evtier x => [packX 0xE6 x]
  | .tokpost x => [packX 0xE7 x]
  | .tokwait x => [packX 0xE8 x]
  | .efence x => [packX 0xE9 x]
  | .waveForm _ _ => []
  | .copyComplete _ => []
  | .scanSegmentWritten _ _ => []
  | .tierGranuleReport _ => []
  | .matrixCommandComplete _ => []
  | .recordSelect _ => []
  | .groupMembershipTake _ => []
  | .priorityAging _ _ => []
  | .clusterGrant _ => []
  | .shutterLanesPass _ => []
  | .shutterWindowExpiry _ => []
  | .lanesRelease _ => []
  | .recordComplete _ _ => []
  | .drainRound _ _ => []
  | .pinWiden _ => []
  | .hartStop _ => []
  | .trapEntry _ _ _ => []
  | .interruptEntry _ => []
  | .asidtabWrite _ => []
  | .release _ _ _ => []
  | .resume _ _ _ => []
  | .kill _ _ _ => []
  | .curasidWrite _ _ => []
  | .partcfgWrite _ _ => []
  | .rcvalWrite _ _ => []
  | .tokvalWrite _ _ => []
  | .registerWrite _ _ => []
  | .eseqRead => []
  | .ltailWrite _ => []
  | .patrolScrub _ _ => []
  | .flitReceive _ _ _ _ => []
  | .replayRequest _ _ => []
  | .linkRetrain _ _ _ => []
  | .fingerprintGo => []
  | .fingerprintIntervalExpiry => []
  | .fingerprintPassEnd => []
  | .heatHalving _ => []
  | .swapStart _ => []
  | .swapComplete _ => []
  | .remapPinWrite _ _ => []
  | .probe => []
  | .inval => []
  | .hirqWrite _ => []
  | .devnumWrite _ => []
  | .hostBar0Write _ _ => []
  | .hostBar0Read _ _ => []
  | .inboundRequest _ _ _ _ => []
  | .powerLimitExceeded _ => []
  | .aerError _ => []
  | .rootPortInterrupt _ _ => []
  | .deviceReset _ => []
  | .functionLevelReset => []
  | .vectorInstructionComplete _ => []
  | .pageTableWalk _ _ => []
  | .codeRangeCommandComplete => []

/-- The statement of a list of words. -/
def decodeStmt : List Word → Except Reject Instr
  | [w] => if opensPair w then .error .short else decodeOne w
  | [w0, w1] => if opensPair w0 then decodePair w0 w1 else .error .short
  | _ => .error .short

end Sys2Proof
end

