-- ==== Sys2Proof/Machine/State.lean ====
section
/-! DEFINITION. The state of the H9, all of it plain data, and the state after reset (INVENTORY.md, State).
Sparse maps are lists of (key, value) with rising keys and no entry equal to the default. -/

namespace Sys2Proof.Machine

/-- Why the machine stops. -/
inductive Fault where
  /-- The device reads a block below asidtab, or writes a save area or the trap queue, at a physical address that R329
  reserves: no memory is there. Raised by a write of asidtab and by the save of a stopping hart. Safe: the spec gives no
  bytes there. -/
  | noSuchAddress (pa : Nat)
  /-- As `noSuchAddress`, where the address lies in the device window, whose registers are reached by scalar accesses alone
  (R86): the spec does not say what an access of the device itself does there. Raised by the same two. Safe: the run stops. -/
  | deviceBlock (pa : Nat)
deriving DecidableEq, Repr

/-- Why an instruction has no meaning here. -/
inductive Refusal where
  /-- An instruction whose meaning is not written. Raised by `exec` only. Safe: the run stops. -/
  | notModelled (mnemonic : String)
deriving DecidableEq, Repr

/-- The causes of traps (R343); a translation fault carries its reason code (R333). -/
inductive Cause where
  | illegal
  | mustUnderstand
  | privilege
  | misaligned
  | translation (reason : Nat)
  | pageClass
  | access
  | overrun
  | claim
  | gridDescriptor
  | engine
  | systemCall
  | breakpoint
  | preemption
  | memory
  | restore
deriving DecidableEq, Repr

/-- States of a hart, a sequencer or an application core (R58, R324, R347, R349, R352). `free` is a slot with no hart, which
keeps the registers of the hart that ended there; `waiting` is a hart held at its own statement; `stopping` has stopped and
not been saved; `held` has been saved and its slot not released; `parked` is a Shutter victim without an item; `ending` is a
hart of a record that a context-fatal event has ended, whose issued work is not yet complete. -/
inductive Status where
  | free
  | running
  | waiting
  | stopping
  | held
  | parked
  | ending
deriving DecidableEq, Repr

/-- A vector register: the fill and the bits below vb (R45, R46). -/
structure VReg where
  fill : Nat
  bits : Nat
deriving DecidableEq, Repr

/-- A grid slot (R244): the 64 descriptor bytes as a number, the page class of the tables, and its validity. -/
structure GSlot where
  desc : Nat
  cls : Nat
  valid : Bool
deriving DecidableEq, Repr

/-- A cached translation (R335, R337): a page-table entry by ASID, level and index prefix of the address, or an ASID-table
entry (level 0). `cache` is 0 to 639 for the cache of a vector core, 640 to 799 for that of a cluster, 800 to 823 for that of
an application core, and 824 for that of the base dies; `use` is false where the next accesses walk afresh instead. -/
structure TlbEntry where
  cache : Nat
  asid : Nat
  level : Nat
  index : Nat
  w0 : Word
  w1 : Word
  use : Bool
deriving DecidableEq, Repr

/-- Progress of a LOOPB (R272): the iteration, the next body statement within it, and the words of the LOOPB and
of its body as they were read; none where the position was restored, and they are read anew. -/
structure LoopPos where
  q : Nat
  k : Nat
  body : List Word
deriving DecidableEq, Repr

/-- An entry of the vector instruction queue (R79, R194): the instruction, its address and word, the state current when
it was queued, and the g operands it captured. Once a later scalar statement has retired, `checked` says that the entry has
passed every check that can make it stop, and `xl` holds the translations that passed (R344). A LOOPB has its position in
`loop`, and in `regs` the g registers that its body reads (R194, R272). -/
structure QEntry where
  ins : Instr
  pc : Word
  ir : Word
  vtype : Word
  vb : Nat
  vstart : Nat
  n : Nat
  vfbthr : Word
  ga : Word
  gb : Word
  gc : Word
  gd : Word
  checked : Bool
  xl : List TlbEntry
  loop : Option LoopPos
  regs : List (Nat × Word)
deriving DecidableEq, Repr

/-- A nest descriptor (R270). -/
structure Nest where
  bounds : List Nat
  run : Nat
  mstr : List Int
  sstr : List Int
deriving DecidableEq, Repr

/-- An operand latch of the matrix engine (R262): rows of element bits, scale bytes per row, and the record. -/
structure Latch where
  rows : List Nat
  scales : List (List Nat)
  tm : Nat
  tn : Nat
  tk : Nat
  fmt : Word
  kr : Bool
  blk : Nat
  /-- An uncorrectable error poisoned it (R355, R356). -/
  bad : Bool
deriving DecidableEq, Repr

/-- An accumulator (R255, R256): positions of 32 bits by number 128 m + n. Until `zeroed` an unlisted position is a
free value; after it an unlisted position is 0. `bad` lists the positions that an uncorrectable error poisoned (R355, R356). -/
structure AccReg where
  zeroed : Bool
  cells : List (Nat × BitVec 32)
  bad : List Nat
deriving DecidableEq, Repr

/-- A command of the matrix queue (R257) with what it captured at issue. -/
structure MCmd where
  seq : Nat
  ins : Instr
  pc : Word
  ga : Word
  gb : Word
  gc : Word
  vtype : Word
  fmt : Word
  pitch : Word
  tm : Nat
  tn : Nat
  tk : Nat
  q : Nat
  rows : List Nat
  /-- It has performed, and waits for room to push its token (R82, R276). -/
  retiring : Bool
deriving DecidableEq, Repr

/-- Vector state of a vector hart (R64, R79, R193, R202, R203, R228, R244, R323). -/
structure Vec where
  n : Nat
  vb : Nat
  vstart : Nat
  vfbthr : Word
  vgn : Word
  vga : Word
  vgb : Word
  vgo : Word
  v : List (Nat × VReg)
  m : List (Nat × Nat)
  gd : List (Nat × GSlot)
  queue : List QEntry
  /-- The stopped instruction has already popped its token (R228, R349). -/
  popped : Bool
  /-- Lanes that limit the grant: none, or the lanes the Shutter left this hart (SMAX of a victim, the maximum of a guest). -/
  lanes : Option Nat
  /-- A Shutter victim whose VSETB has not come (R323 step 3). -/
  victim : Bool
  /-- A Shutter victim whose lanes have passed (R323 step 4). -/
  passed : Bool
  /-- A guest, placed in an upper slot (R323). -/
  guest : Bool
  /-- A guest whose first vector instruction waits for lanes (R323). -/
  vwait : Bool
  /-- TAKEN of the saved context (R325, R349). -/
  taken : Bool
  /-- The window of R325 has passed without the VSETB of a victim, which a full context switch is to take. -/
  expired : Bool
deriving DecidableEq, Repr

/-- Matrix state of a sequencer (R255, R257). -/
structure Mx where
  fmt : Word
  pitch : Word
  tm : Nat
  tn : Nat
  tk : Nat
  la : Option Latch
  lb : Option Latch
  acc : List (Nat × AccReg)
  accSeed : Nat
  queue : List MCmd
deriving DecidableEq, Repr

/-- Privileged state of an application core (R305, R306) and its pending interrupts (bit c for code c). -/
structure AppCore where
  xstatus : Word
  xepc : Word
  xcause : Word
  xtval : Word
  xvec : Word
  xscratch : Word
  curasid : Word
  curpart : Word
  rcaddr : Word
  tokaddr : Word
  pending : Nat
  /-- The core waits in XWAIT (R316). -/
  xwait : Bool
deriving DecidableEq, Repr

/-- What a stop leaves for the save area and the trap record (R347, R349). -/
structure StopInfo where
  cause : Cause
  tval : Word
  vstart : Nat
  xpc : Word
deriving DecidableEq, Repr

/-- One hart, sequencer or application core. -/
structure Hart where
  status : Status
  pc : Word
  g : List (Nat × Word)
  fcsr : Word
  instret : Word
  fstall : Word
  ostall : Word
  part : Nat
  launch : Nat
  logical : Nat
  asid : Nat
  share : Nat
  vtype : Word
  vstat : Word
  nest : Option Nest
  loopPos : Option LoopPos
  vec : Vec
  mx : Mx
  app : AppCore
  stop : Option StopInfo
  /-- A full context switch of the hart is wanted (R322, R325). -/
  preempt : Bool
deriving DecidableEq, Repr

/-- A start record as the queue holds it (R59, R60), with its launch number (R61). -/
structure StartRec where
  launch : Nat
  entry : Word
  arg : Word
  ctl : Word
  group : Nat
  cmask : Nat
  done : Word
  bounds : List Nat
deriving DecidableEq, Repr

/-- Admission of an item (R74). -/
inductive Admission where
  | none
  | pending
  | admitted
deriving DecidableEq, Repr

/-- The fields of a trap record but SEQ (R347). -/
structure TrapRec where
  hart : Nat
  asid : Nat
  cause : Cause
  xpc : Word
  tval : Word
  vstart : Nat
  launch : Nat
  area : Nat
deriving DecidableEq, Repr

/-- A held entry of deterministic mode (R127): bits of one byte, or one addition. `round` is the drain point it
belongs to; `cls` its ordering class; `whole` says that its store writes all 128 bytes of the line (R356); `grid` marks an
addition of GSCAT (R250). -/
inductive Held where
  | byte (round cls pa : Nat) (mask val : Byte) (whole : Bool)
  | add (round pa ef val : Nat) (grid : Bool)
deriving DecidableEq, Repr

/-- Where a logical hart is in its life (R58). -/
inductive Place where
  | unplaced
  | placed (hid : Nat)
  | suspended
  | ended
deriving DecidableEq, Repr

/-- What the device keeps of a context that it has saved, beside its area (R325, R351): the slot that it was taken from, and
how the Shutter had it there: as a victim, a guest, a guest that waits for lanes, and its lanes. -/
structure Saved where
  hid : Nat
  victim : Bool
  guest : Bool
  vwait : Bool
  lanes : Option Nat
deriving DecidableEq, Repr

/-- One logical hart of a selected record: place, item and claims (R66 to R74), the group wait (R70, R187), its held entries
and drain points (R127, R128), the translations that the held entries used (R317), the flags of additions that drained while no
slot had its registers (R127), the word at 0x010 of the area that its last stop wrote (R349, R350), and how that stop found it
(R325, R351). -/
structure LHart where
  place : Place
  item : Option Nat
  taken : Nat
  claims : List Nat
  nclaims : Nat
  adm : Admission
  gwait : Option Nat
  drains : Nat
  drainWait : Bool
  held : List Held
  xl : List TlbEntry
  fl : BitVec 5
  layout : Option Word
  saved : Option Saved
deriving DecidableEq, Repr

/-- A selected record that has not completed (R63 to R78). -/
structure Rec where
  part : Nat
  sr : StartRec
  selected : Bool
  granted : Nat
  nextItem : Nat
  /-- Aging intervals since it reached the head of its queue (R319, R322). -/
  aged : Nat
  wave : Nat
  drained : Nat
  /-- A context-fatal event has ended the record (R352): the trap record of the hart struck, if it gets one. -/
  ending : Option (Option TrapRec)
  lh : List (Nat × LHart)
deriving DecidableEq, Repr

/-- A group (R69, R70): members and arrivals are (launch, logical index). -/
structure Grp where
  part : Nat
  id : Nat
  phase : Nat
  members : List (Nat × Nat)
  arrived : List (Nat × Nat)
deriving DecidableEq, Repr

/-- A barrier object that a command reports to (R275): its virtual address, its physical address; none without one. -/
structure BObj where
  va : Word
  pa : Nat
deriving DecidableEq, Repr

/-- What a tier command does with its next granule (R274, R340): it has not begun, it swaps two names of a group, or the swap is
complete and the granule has still to report. -/
inductive TierStage where
  | ready
  | moving (group j k : Nat)
  | moved
deriving DecidableEq, Repr

/-- What a copy, scan or tier command does (R271, R273, R274), as captured at issue. `xl` holds the translations: the
64 KiB page number of a virtual address and its physical base. -/
inductive CmdKind where
  | copyIn (s : Nat) (p : Word) (steps : List (Int × Int)) (run : Nat) (rc : Option Nat)
  | copyOut (s : Nat) (p : Word) (steps : List (Int × Int)) (run : Nat)
  | scan (rbase : Word) (count thr fmt : Nat) (obuf : Word) (seg : Nat) (todo : List Nat)
  | tier (evict : Bool) (granules : List Nat) (scheduled : Bool) (stage : TierStage)
deriving DecidableEq, Repr

/-- An engine command issued and not completed (R257, R117, R119). -/
structure Cmd where
  id : Nat
  pc : Word
  owner : Nat
  launch : Nat
  logical : Nat
  part : Nat
  cluster : Nat
  kind : CmdKind
  xl : List (Nat × Nat)
  held : List TlbEntry
  asid : Nat
  bobj : Option BObj
  push : Option Nat
  /-- It has performed, and waits for room to push its token (R82, R276). -/
  retiring : Bool
deriving DecidableEq, Repr

/-- A pinned line (R122, R123): `wide` is cluster scope, else core scope; `unit` the cluster or core; `holders` the
agents whose synchronising accesses keep it; `refused` those that it refused, in the order of their first refusal. `ended`
keeps the refused that are still to be served. -/
structure Pin where
  line : Nat
  wide : Bool
  unit : Nat
  holders : List Nat
  ended : Bool
  refused : List Nat
deriving DecidableEq, Repr

/-- A cached instruction line (R95): the cache, the address space and virtual line it was filled for, the physical line
and its 128 bytes. Caches 0 to 639 are the L1
instruction caches by coreid, 640 to 799 the L2 caches by cluster, 800 to 823 those of the application cores. -/
structure ICLine where
  cache : Nat
  asid : Nat
  vline : Nat
  line : Nat
  bytes : List Byte
deriving DecidableEq, Repr

/-- A partition's scheduling block as last read (R318). -/
structure Sched where
  age : Nat
  swin : Nat
  hold : Nat
deriving DecidableEq, Repr

/-- A partition's trap block as last read (R346), with the heads the device counts. -/
structure TrapBlk where
  tqbase : Word
  tqctl : Word
  tqhead : Word
  tqtail : Word
  rlbase : Word
  rlctl : Word
  rlhead : Word
  rltail : Word
  sabase : Word
deriving DecidableEq, Repr

/-- A start queue: its records, oldest first, and how many aging intervals its head has waited (R61, R319). -/
structure SQueue where
  recs : List StartRec
  aged : Nat
deriving DecidableEq, Repr

/-- One partition: what the executive set, its queues, its selection, its tracker and its event counts. -/
structure Part where
  sched : Sched
  trap : TrapBlk
  queues : List (Nat × SQueue)
  launches : Nat
  placing : Option Nat
  cand : List (Nat × Nat)
  swap : Option (Nat × Nat × Nat)
  /-- Commands numbered below it were issued before the last change from scheduled to swap mode (R310). -/
  tierMark : Nat
  uread : Word
  tskip : Word
  ovrun : Word
  swaps : Word
deriving DecidableEq, Repr

/-- The remap entry of a congruence group (R339), without CNT, which the counts give. -/
structure Remap where
  pin : Nat
  mov : Bool
  heat : List Nat
  loc : Nat
deriving DecidableEq, Repr

/-- A record of the error log (R359). -/
structure LogRec where
  w0 : Word
  w1 : Word
  w2 : Word
  w3 : Word
deriving DecidableEq, Repr

/-- An entry of the classer (R360): key, FIRST, CNT; the list runs from the least recently hit. -/
structure ClassEnt where
  key : Nat
  first : Nat
  cnt : Nat
deriving DecidableEq, Repr

/-- The error block (R357 to R360): live counts and the values the last read of ESEQ latched. -/
structure ErrBlk where
  eseq : Word
  lhead : Word
  ltail : Word
  ovf : Word
  cnt : List (Nat × Word)
  latLhead : Word
  latOvf : Word
  latCnt : List (Nat × Word)
  ectl : Word
  elwin : Word
  elcnt : Word
  log : List (Nat × LogRec)
  classer : List ClassEnt
deriving DecidableEq, Repr

/-- The fingerprint words (R363). -/
structure FpBlk where
  base : Word
  log : Word
  tree : Word
  int : Word
  busy : Bool
  passes : BitVec 32
deriving DecidableEq, Repr

/-- The host register block (R366, R368). -/
structure HostBlk where
  hstat : Word
  mbbase : Word
  pwrlim : Word
  devnum : Word
  devnumSet : Bool
  /-- asidtab has been written since reset (R371 step 6). -/
  asidtabSet : Bool
  inwin : List (Nat × Word)
deriving DecidableEq, Repr

/-- The code-range block (R374). -/
structure CodeBlk where
  base : Word
  len : Word
  asid : Word
  result : BitVec 32
  cmd : Option Nat
deriving DecidableEq, Repr

/-- A device-link port (R362): next flit to send, flits still held for replay, next flit expected, and whether it has asked
for that flit. -/
structure Link where
  next : Nat
  held : List Nat
  expect : Nat
  asked : Bool
deriving DecidableEq, Repr

/-- What leaves the device (R356, R362, R366, R367, R369): an access forwarded to the host or a root port; a response with
data, one that carries poison, Unsupported Request, an error response, or the overrun of a peer's counted load; a flit, or a
request to replay from one. -/
inductive OutKind where
  | access
  | response
  | poison
  | unsupported
  | error
  | overrun
  | flit
  | replay
deriving DecidableEq, Repr

/-- One thing that left the device: for a flit and a replay request `pa` is 4,096 times the port plus the sequence number, and a
flit's `data` is the number of the last flit that the port has received in order (R362). -/
structure OutReq where
  pa : Nat
  data : List Byte
  kind : OutKind
deriving DecidableEq, Repr

/-- An access from outside that has arrived and not performed (R104, R117, R366): its source, a root port 0 to 7, 8 the device
links or 9 the host, and its local physical address. -/
structure OutsideReq where
  src : Nat
  a : Nat
  op : OutsideOp
deriving DecidableEq, Repr

/-- An error that the hardware finds (R355, R356, R361), `fixed` where it is corrected: in a line of memory, of the memory-side
cache or of a scalar L1; in a scratchpad block, an accumulator position, a latch or a cached translation; in elements of a
register file, by core and lane; in an instruction line; and a check-value mismatch that was retried, or that a store, a load, or
a read of the host or a peer did not recover from. `finder` says whose access met it, which it strikes. -/
inductive Upset where
  | line (fixed : Bool) (line : Nat) (finder : Option Struck)
  | slice (fixed : Bool) (line : Nat) (finder : Option Struck)
  | scalarL1 (fixed : Bool) (hid line : Nat) (finder : Option Struck)
  | block (fixed : Bool) (cluster blk : Nat) (finder : Option Struck)
  | acc (fixed : Bool) (cluster a pos : Nat) (finder : Option Struck)
  | latch (fixed : Bool) (cluster : Nat) (isB : Bool) (finder : Option Struck)
  | tlb (fixed : Bool) (k : Nat)
  | lane (core lane : Nat)
  | lanes (core lane1 lane2 : Nat)
  | parity (cache line : Nat)
  | retried (unit place : Nat)
  | badStore (unit line : Nat) (finder : Option Struck)
  | badBlock (cluster blk : Nat) (finder : Option Struck)
  | badLoad (unit place : Nat) (who : Struck)
  | badRead (unit src a n : Nat)
deriving DecidableEq, Repr

/-- Which agent or mechanism moves next: an agent, an event of the opcode table, or a choice that the hardware makes by itself
or that comes from outside (R95, R97, R335, R341, R355, R361, R362, R365, R367, R371). -/
inductive Turn where
  | agent (hid : Nat)
  | event (i : Instr)
  | icFill (cache asid vline : Nat)
  | icEvict (cache line : Nat)
  | tlbEvict (k : Nat)
  | tlbUse (k : Nat)
  | tlbHalf (second : Bool) (cache asid level : Nat) (va : Word)
  | tlbFill (k : Nat)
  | earlyEvict (granule : Nat)
  | heat (line : Nat)
  | upsets (us : List Upset)
  | errorResponse (who : Struck) (pa : Nat)
  | flitSend (port : Nat)
  | bootStep
  | bar2Read (off n : Nat)
deriving DecidableEq, Repr

/-- The machine. The fields of the first group are the model's own (log 1 to 3); the rest is the spec's. -/
structure State where
  /-- Turns to be taken before the default one. -/
  agenda : List Turn
  /-- The agent that moves when the agenda is empty. -/
  cur : Nat
  /-- The word last fetched by `cur`, which an illegal-instruction trap reports. -/
  ir : Word
  /-- Issued work completes within the step that issued it, where it can. -/
  eager : Bool
  /-- Steps taken: the argument of the free counts of cycles. -/
  tick : Nat
  /-- Free values taken: the argument of the free data. -/
  free : Nat
  mem : List Host.Cell
  under : List (Nat × List Byte)
  /-- Counted lines written back early that their home slice has not fetched since (R97). -/
  away : List Nat
  cnt : List (Nat × Nat)
  spad : List Host.Cell
  spcnt : List (Nat × Nat)
  tok : List (Nat × Nat)
  poison : List (Nat × Bool)
  /-- Poisoned scratchpad blocks (R355, R356). -/
  spoison : List (Nat × Bool)
  pins : List Pin
  /-- Names in the queues of refusals, in the order of their first refusal (R123). -/
  lineup : List Nat
  tlb : List TlbEntry
  /-- Entries of which a walk has read one word and not yet the other (R335): w0 holds what it read, which is word 0 where `use`
  is set and word 1 where it is not, and w1 the address of the other. -/
  walks : List TlbEntry
  icache : List ICLine
  asidtab : Word
  partcfg : List (Nat × Word)
  qctl : List (Nat × Word)
  parts : List (Nat × Part)
  recs : List Rec
  groups : List Grp
  cmds : List Cmd
  seq : Nat
  remap : List (Nat × Remap)
  err : ErrBlk
  fp : FpBlk
  host : HostBlk
  code : CodeBlk
  links : List (Nat × Link)
  msix : List Nat
  out : List OutReq
  reqs : List OutsideReq
  halted : Bool
  arith : Word
  fabric : Word
  app : Word
  harts : List (Nat × Hart)
  tails : List (Nat × List Hart)
deriving DecidableEq, Repr

/-! ## Reset values -/

/-- A register of zeros with fill 0 (R64). -/
def VReg.zero : VReg := ⟨0, 0⟩
/-- An invalid grid slot (R244). -/
def GSlot.zero : GSlot := ⟨0, 0, false⟩
/-- Vector state at a hart's start (R64). -/
def Vec.start : Vec :=
  { n := 32, vb := 0, vstart := 0, vfbthr := 0, vgn := 0, vga := 0, vgb := 0, vgo := 0, v := [], m := [], gd := [],
    queue := [], popped := false, lanes := none, victim := false, passed := false, guest := false, vwait := false,
    taken := false, expired := false }
/-- Matrix state at a sequencer hart's start (R255); the accumulators are free values. -/
def Mx.start (seed : Nat) : Mx :=
  { fmt := 0, pitch := 0, tm := 0, tn := 0, tk := 0, la := none, lb := none, acc := [], accSeed := seed, queue := [] }
/-- Privileged state after reset (R305, R306). -/
def AppCore.reset : AppCore :=
  { xstatus := 1, xepc := 0, xcause := 0, xtval := 0, xvec := 0, xscratch := 0, curasid := 0, curpart := 0, rcaddr := 0,
    tokaddr := 0, pending := 0, xwait := false }
/-- A free slot. -/
def Hart.free : Hart :=
  { status := .free, pc := 0, g := [], fcsr := 0, instret := 0, fstall := 0, ostall := 0, part := 0, launch := 0,
    logical := 0, asid := 0, share := 1, vtype := 0, vstat := 0, nest := none, loopPos := none, vec := Vec.start,
    mx := Mx.start 0, app := AppCore.reset, stop := none, preempt := false }
/-- Lowest hartid of a sequencer and of an application core, and the number past the last one (R7). -/
def seqBase : Nat := 5120
def appBase : Nat := 5280
def hartEnd : Nat := 5304
/-- The firmware entry (R371 step 2): the spec gives no address (log 4). -/
def firmwareEntry : Word := 0x10000
/-- Application core k after reset (R371 step 2): core 0 runs the firmware, the others wait in XWAIT. -/
def Hart.appReset (k : Nat) : Hart :=
  { Hart.free with status := if k = 0 then .running else .waiting, pc := firmwareEntry,
                   app := { AppCore.reset with xwait := k ≠ 0 } }
/-- Scheduling parameters before the first write of asidtab (R318). -/
def Sched.reset : Sched := ⟨65536, 1048576, 0⟩
/-- A trap block before the first read. -/
def TrapBlk.zero : TrapBlk := ⟨0, 0, 0, 0, 0, 0, 0, 0, 0⟩
/-- A partition after reset. -/
def Part.reset : Part :=
  { sched := Sched.reset, trap := TrapBlk.zero, queues := [], launches := 0, placing := none, cand := [], swap := none, tierMark := 0,
    uread := 0, tskip := 0, ovrun := 0, swaps := 0 }
/-- A remap entry after reset (R339). -/
def Remap.reset : Remap := ⟨0, false, [0, 0, 0, 0], 0xE4⟩
/-- The error block after reset (R357). -/
def ErrBlk.reset : ErrBlk :=
  { eseq := 0, lhead := 0, ltail := 0, ovf := 0, cnt := [], latLhead := 0, latOvf := 0, latCnt := [], ectl := 0,
    elwin := 1880000, elcnt := 3, log := [], classer := [] }
/-- The fingerprint words after reset (R363). -/
def FpBlk.reset : FpBlk := ⟨0, 0, 0, 0, false, 0⟩
/-- The host register block after reset (R366). -/
def HostBlk.reset : HostBlk := ⟨0, 0, 2800, 0, false, false, []⟩
/-- The code-range block after reset (R374). -/
def CodeBlk.reset : CodeBlk := ⟨0, 0, 0, 0, none⟩
/-- A link after reset. -/
def Link.reset : Link := ⟨0, [], 0, false⟩

/-- The machine right after reset (R371 steps 2 to 4): application core 0 at the firmware entry at executive level, the
other cores in XWAIT, memory and scratchpad zero, no hart placed. -/
def State.reset : State :=
  { agenda := [], cur := appBase, ir := 0, eager := true, tick := 0, free := 0,
    mem := [], under := [], away := [], cnt := [], spad := [], spcnt := [], tok := [], poison := [], spoison := [],
    pins := [], lineup := [], tlb := [], walks := [],
    icache := [], asidtab := 0, partcfg := [], qctl := [], parts := [], recs := [], groups := [], cmds := [], seq := 0,
    remap := [], err := ErrBlk.reset, fp := FpBlk.reset, host := HostBlk.reset, code := CodeBlk.reset, links := [],
    msix := [], out := [], reqs := [], halted := false, arith := 0, fabric := 0, app := 0,
    harts := (List.range 24).map fun k => (appBase + k, Hart.appReset k), tails := [] }

end Sys2Proof.Machine
end

