-- ==== Sys2Proof/Machine/Ops.lean ====
section
/-! DEFINITION. Named operations over registers and agents, and taking and leaving a trap (spec/01 R7, R8; spec/18
R304, R305, R316; spec/21 R343, R344). -/

namespace Sys2Proof.Machine

/-- What an instruction answers. -/
abbrev Out := Host.Outcome State Fault Refusal

/-! ## Sparse maps -/

/-- The value of a key; an unlisted key has the default. -/
def assocGet {α : Type} (d : α) : List (Nat × α) → Nat → α
  | [], _ => d
  | (k, v) :: r, a => if k = a then v else assocGet d r a

/-- The map without a key. -/
def assocDel {α : Type} : List (Nat × α) → Nat → List (Nat × α)
  | [], _ => []
  | (k, v) :: r, a => if k = a then assocDel r a else (k, v) :: assocDel r a

/-- Puts an entry before the first larger key. -/
def assocIns {α : Type} : List (Nat × α) → Nat → α → List (Nat × α)
  | [], a, x => [(a, x)]
  | (k, v) :: r, a, x => if a < k then (a, x) :: (k, v) :: r else (k, v) :: assocIns r a x

/-- Sets a key, listed whatever its value. -/
def assocSet {α : Type} (m : List (Nat × α)) (a : Nat) (x : α) : List (Nat × α) := assocIns (assocDel m a) a x

/-- Sets a key; the default value is not listed. -/
def assocPut {α : Type} [DecidableEq α] (d : α) (m : List (Nat × α)) (a : Nat) (x : α) : List (Nat × α) :=
  if x = d then assocDel m a else assocSet m a x

/-- Keys rise strictly from `lo`, and no value is the default. -/
def assocWfFrom {α : Type} [DecidableEq α] (d : α) : Nat → List (Nat × α) → Bool
  | _, [] => true
  | lo, (k, v) :: r => lo ≤ k && v != d && assocWfFrom d (k + 1) r

/-- The canonical form of a sparse map. -/
def assocWf {α : Type} [DecidableEq α] (d : α) (m : List (Nat × α)) : Bool := assocWfFrom d 0 m

/-! ## Bits -/

/-- The low n bits of x, sign-extended (R4). -/
def sext64 (x : Word) (n : Nat) : Word := (x.setWidth n).signExtend 64
/-- The low n bits of x, zero-extended (R4). -/
def zext64 (x : Word) (n : Nat) : Word := (x.setWidth n).setWidth 64
/-- Bits hi..lo of x as a number (R4). -/
def bitsOf (x : Word) (hi lo : Nat) : Nat := (x.toNat >>> lo) % 2 ^ (hi + 1 - lo)
/-- x with bits hi..lo set to v. -/
def setBits (x : Word) (hi lo : Nat) (v : Nat) : Word :=
  let m : Word := BitVec.ofNat 64 ((2 ^ (hi + 1 - lo) - 1) <<< lo)
  (x &&& ~~~m) ||| (BitVec.ofNat 64 (v <<< lo) &&& m)
/-- A number as a word. -/
def word (n : Nat) : Word := BitVec.ofNat 64 n
/-- A truth value as a word. -/
def word1 (b : Bool) : Word := if b then 1 else 0
/-- A bit of a number. -/
def nbit (n i : Nat) : Bool := n.testBit i
/-- n with bit i set to b. -/
def setNBit (n i : Nat) (b : Bool) : Nat := if b then n ||| (1 <<< i) else if n.testBit i then n ^^^ (1 <<< i) else n
/-- The number of one bits below bit n. -/
def popcountTo : Nat → Nat → Nat
  | 0, _ => 0
  | n + 1, v => v % 2 + popcountTo n (v / 2)
/-- A number read as a signed value of w bits. -/
def toSigned (w v : Nat) : Int := if v % 2 ^ w < 2 ^ w / 2 then (v % 2 ^ w : Nat) else ((v % 2 ^ w : Nat) : Int) - 2 ^ w
/-- A signed value reduced to w bits. -/
def ofSigned (w : Nat) (v : Int) : Nat := (v % (2 ^ w : Nat)).toNat
/-- Big-number value of bytes, the first the lowest (R2). -/
def natOfBytes : List Byte → Nat
  | [] => 0
  | b :: r => b.toNat + 256 * natOfBytes r

/-! ## Agents (R7, R8) -/

/-- The three kinds of agent that execute instructions. -/
inductive Kind where
  | vector
  | sequencer
  | app
  | none
deriving DecidableEq, Repr

/-- The kind of a hartid (R7). -/
def kindOf (h : Nat) : Kind :=
  if h < seqBase then .vector else if h < appBase then .sequencer else if h < hartEnd then .app else .none
/-- The core of a vector hart (R7). -/
def coreOf (h : Nat) : Nat := h / 8
/-- The cluster of a vector hart or sequencer (R7); application cores lie in none. -/
def clusterOf (h : Nat) : Nat := if h < seqBase then h / 32 else h - seqBase
/-- The quadrant of a cluster (R7). -/
def quadrantOf (c : Nat) : Nat := c / 40

/-! ## Harts -/

/-- The agent with a hartid. -/
def State.hart (s : State) (h : Nat) : Hart := assocGet Hart.free s.harts h
/-- Replaces an agent. -/
def State.setHart (s : State) (h : Nat) (x : Hart) : State := { s with harts := assocSet s.harts h x }
/-- The agent that executes. -/
def State.me (s : State) : Hart := s.hart s.cur
/-- Replaces the agent that executes. -/
def State.setMe (s : State) (x : Hart) : State := s.setHart s.cur x
/-- Changes an agent. -/
def State.updHart (s : State) (h : Nat) (f : Hart → Hart) : State := s.setHart h (f (s.hart h))
/-- A partition. -/
def State.part (s : State) (p : Nat) : Part := assocGet Part.reset s.parts p
/-- Changes a partition. -/
def State.updPart (s : State) (p : Nat) (f : Part → Part) : State :=
  { s with parts := assocSet s.parts p (f (s.part p)) }

/-- g[r]: g0 reads 0 (R155). -/
def Hart.getG (h : Hart) (r : Reg) : Word := if r = 0 then 0 else assocGet 0 h.g r.toNat
/-- Writes g[r]; a write to g0 is discarded (R155). -/
def Hart.setG (h : Hart) (r : Reg) (v : Word) : Hart := if r = 0 then h else { h with g := assocPut 0 h.g r.toNat v }
/-- Changes the vector state of a hart. -/
def Hart.updVec (h : Hart) (f : Vec → Vec) : Hart := { h with vec := f h.vec }
/-- Changes the matrix state of a hart. -/
def Hart.updMx (h : Hart) (f : Mx → Mx) : Hart := { h with mx := f h.mx }
/-- Changes the privileged state of a core. -/
def Hart.updApp (h : Hart) (f : AppCore → AppCore) : Hart := { h with app := f h.app }
/-- The core is at executive level (R304, R305). -/
def Hart.executive (h : Hart) : Bool := h.app.xstatus.getLsbD 0
/-- The agent is an application core at executive level (R304). -/
def State.privileged (s : State) (h : Nat) : Bool := kindOf h == .app && (s.hart h).executive
/-- The address space an agent's accesses translate under (R307, R60). -/
def State.asidOf (s : State) (h : Nat) : Nat :=
  if kindOf h = .app then bitsOf (s.hart h).app.curasid 10 0 else (s.hart h).asid
/-- The partition an agent issues SPAWN in (R61). -/
def State.partOf (s : State) (h : Nat) : Nat :=
  if kindOf h = .app then bitsOf (s.hart h).app.curpart 1 0 else (s.hart h).part

/-! ## Completing a statement (R165) -/

/-- The statement completes: the pc moves n bytes on, and instret advances (R165). -/
def Hart.retire (h : Hart) (n : Nat) : Hart :=
  { h with pc := h.pc + word n, instret := h.instret + 1, status := .running }
/-- The statement completes and transfers control (R165, R173). -/
def Hart.retireTo (h : Hart) (pc : Word) : Hart := { h with pc := pc, instret := h.instret + 1, status := .running }
/-- The executing agent completes a statement of n bytes after the change f. -/
def State.retire (s : State) (n : Nat) (f : Hart → Hart) : State := s.setMe ((f s.me).retire n)
/-- The executing agent completes a transfer of control. -/
def State.retireTo (s : State) (pc : Word) (f : Hart → Hart) : State := s.setMe ((f s.me).retireTo pc)
/-- The length of a statement (R143, R151). -/
def stmtLen (pfx : Bool) : Nat := if pfx then 16 else 8
/-- The agent waits at its statement, which executes again (R187). -/
def State.waitMe (s : State) : State := s.setMe { s.me with status := .waiting }

/-! ## Traps (R305, R343) -/

/-- The code of a cause (R343). -/
def Cause.code : Cause → Nat
  | .illegal => 1
  | .mustUnderstand => 2
  | .privilege => 3
  | .misaligned => 4
  | .translation _ => 5
  | .pageClass => 6
  | .access => 7
  | .overrun => 8
  | .claim => 9
  | .gridDescriptor => 10
  | .engine => 11
  | .systemCall => 12
  | .breakpoint => 13
  | .preemption => 14
  | .memory => 15
  | .restore => 16
/-- The reason code of a cause (R333, R347). -/
def Cause.reason : Cause → Nat
  | .translation r => r
  | _ => 0

/-- An application core enters a trap or an interrupt (R305): the saved pc, the cause, PLVL and PIE, level 1, interrupts
off, and the vector. -/
def Hart.enter (h : Hart) (interrupt : Bool) (code : Nat) (tval epc : Word) : Hart :=
  let x := h.app
  let st := setBits (setBits (setBits (setBits x.xstatus 1 1 (bitsOf x.xstatus 0 0)) 3 3 (bitsOf x.xstatus 2 2)) 0 0 1) 2 2 0
  { h with
    status := .running
    pc := if interrupt then x.xvec + word (128 * code) else x.xvec
    app := { x with xepc := epc, xcause := word ((if interrupt then 2 ^ 63 else 0) + code), xtval := tval, xstatus := st,
                    xwait := false } }

/-- Returns from a trap (R316): pc, level and IE from the saved values. -/
def Hart.leave (h : Hart) : Hart :=
  let x := h.app
  let st := setBits (setBits x.xstatus 0 0 (bitsOf x.xstatus 1 1)) 2 2 (bitsOf x.xstatus 3 3)
  { h with pc := x.xepc, app := { x with xstatus := st } }

/-- A vector hart or sequencer stops (R343, R344, R349): HART_STOP then saves it. Later queue entries are discarded. -/
def Hart.stopAt (h : Hart) (c : Cause) (tval : Word) (vstart : Nat) (xpc : Word) : Hart :=
  { h with status := .stopping, pc := xpc, stop := some ⟨c, tval, vstart, xpc⟩,
           vec := { h.vec with queue := [], vstart := vstart } }

/-- The pin ends: what was refused remains to be served (R123). -/
def endPin (p : Pin) : Pin := { p with ended := true, holders := [] }
/-- Ends the pins that f names. -/
def State.endPins (s : State) (f : Pin → Bool) : State :=
  let ps := s.pins.map fun p => if !p.ended && f p then endPin p else p
  { s with pins := ps.filter fun p => !(p.ended && p.refused.isEmpty) }
/-- A holder that traps or is preempted ends its pins (R123). -/
def State.dropPins (s : State) (who : Nat) : State := s.endPins fun p => p.holders.contains who

/-- Takes a trap at the statement of the executing agent (R343). An application core vectors (R305), any other agent
stops; either ends the pins that it holds (R123). A scalar trap is taken only after every earlier vector instruction has
completed (R344): until then the agent waits. -/
def trapAt (c : Cause) (tval epc : Word) (s : State) : State :=
  let h := s.me
  if kindOf s.cur = .app then (s.dropPins s.cur).setMe (h.enter false c.code tval epc)
  else if !h.vec.queue.isEmpty then s.waitMe
  else (s.dropPins s.cur).setMe (h.stopAt c tval h.vec.vstart epc)

/-- Raises a trap that names the statement's own address (R165). -/
def raise (c : Cause) (tval : Word) (s : State) : Out := .next (trapAt c tval s.me.pc s)
/-- Raises the illegal-instruction trap (R164, R343). -/
def illegal (s : State) : Out := raise .illegal s.ir s

/-- The agents that may execute an opcode (R158): vector harts, sequencers, application cores. -/
def allowed (v q a : Bool) (h : Nat) : Bool :=
  match kindOf h with
  | .vector => v
  | .sequencer => q
  | .app => a
  | .none => false

/-- Runs a meaning on the agents of its row, and raises the illegal-instruction trap on the others (R158). -/
def onAgents (v q a : Bool) (s : State) (k : Out) : Out := if allowed v q a s.cur then k else illegal s

end Sys2Proof.Machine
end

