-- ==== Sys2Proof/Machine/Float.lean ====
section
/-! DEFINITION. Number formats and exact arithmetic (spec/02 R16 to R40): values are unpacked to exact numbers, the
operation is exact, and one rounding narrows the result. -/

namespace Sys2Proof.Machine

/-- Exception flags, as bits 4:0 of fcsr (R25). -/
abbrev Flags := BitVec 5
def fNX : Flags := 1
def fUF : Flags := 2
def fOF : Flags := 4
def fDZ : Flags := 8
def fNV : Flags := 16
/-- Sets flags where a condition holds. -/
def flagIf (b : Bool) (f : Flags) : Flags := if b then f else 0

/-- How a format spends its top exponent (R17). -/
inductive FKind where
  | ieee
  | e4m3
  | e2m1
deriving DecidableEq, Repr

/-- A floating-point format (R17). -/
structure Fmt where
  ebits : Nat
  fbits : Nat
  bias : Nat
  kind : FKind
deriving DecidableEq, Repr

def fp64 : Fmt := ⟨11, 52, 1023, .ieee⟩
def fp32 : Fmt := ⟨8, 23, 127, .ieee⟩
def fp16 : Fmt := ⟨5, 10, 15, .ieee⟩
def bf16 : Fmt := ⟨8, 7, 127, .ieee⟩
def fp8e5m2 : Fmt := ⟨5, 2, 15, .ieee⟩
def fp8e4m3 : Fmt := ⟨4, 3, 7, .e4m3⟩
def fpE2M1 : Fmt := ⟨2, 1, 1, .e2m1⟩
def fp6e3m2 : Fmt := ⟨3, 2, 3, .e2m1⟩
def fp6e2m3 : Fmt := ⟨2, 3, 1, .e2m1⟩

/-- The floating-point format of an EF code (R23). -/
def fmtOf : Nat → Option Fmt
  | 8 => some fp8e4m3
  | 9 => some fp8e5m2
  | 10 => some fp16
  | 11 => some bf16
  | 12 => some fp32
  | 13 => some fp64
  | _ => none

/-- Width of a format in bits. -/
def Fmt.width (F : Fmt) : Nat := 1 + F.ebits + F.fbits
/-- Subnormal operands and results follow the policy in these formats only (R27). -/
def Fmt.flushable (F : Fmt) : Bool := F == fp64 || F == fp32 || F == fp16 || F == bf16
/-- Exponent of the least subnormal, and of the spacing of the least normals. -/
def Fmt.emin (F : Fmt) : Int := 1 - (F.bias : Int) - F.fbits
/-- Integer significand and exponent of the greatest finite value (R17). -/
def Fmt.maxM (F : Fmt) : Nat := match F.kind with | .e4m3 => 14 | _ => 2 ^ (F.fbits + 1) - 1
def Fmt.maxE (F : Fmt) : Int :=
  match F.kind with
  | .ieee => ((2 ^ F.ebits - 2 : Nat) : Int) - F.bias - F.fbits
  | _ => ((2 ^ F.ebits - 1 : Nat) : Int) - F.bias - F.fbits
/-- The canonical NaN (R18); E2M1 has none. -/
def Fmt.nan (F : Fmt) : Nat :=
  match F.kind with
  | .ieee => (2 ^ F.ebits - 1) * 2 ^ F.fbits + 2 ^ (F.fbits - 1)
  | .e4m3 => 0x7F
  | .e2m1 => 0
/-- The sign bit in place. -/
def Fmt.sign (F : Fmt) (neg : Bool) : Nat := if neg then 2 ^ (F.ebits + F.fbits) else 0
/-- Infinity, where the format has it. -/
def Fmt.inf (F : Fmt) (neg : Bool) : Nat := F.sign neg + (2 ^ F.ebits - 1) * 2 ^ F.fbits

/-- A value: NaN (signalling or not), an infinity, or ± m × 2^e. -/
inductive FVal where
  | nan (signalling : Bool)
  | inf (neg : Bool)
  | fin (neg : Bool) (m : Nat) (e : Int)
deriving DecidableEq, Repr

/-- The value of a bit pattern (R17). -/
def unpack (F : Fmt) (b : Nat) : FVal :=
  let neg := b.testBit (F.ebits + F.fbits)
  let f := b % 2 ^ F.fbits
  let e := b / 2 ^ F.fbits % 2 ^ F.ebits
  if F.kind = .ieee ∧ e = 2 ^ F.ebits - 1 then
    if f = 0 then .inf neg else .nan (!f.testBit (F.fbits - 1))
  else if F.kind = .e4m3 ∧ e = 15 ∧ f = 7 then .nan false
  else if e = 0 then .fin neg f F.emin
  else .fin neg (f + 2 ^ F.fbits) (F.emin + ((e - 1 : Nat) : Int))

/-- An operand under subnormal policy `sub` (R27): policy 1 reads subnormals as zeros of their sign. -/
def operand (F : Fmt) (sub : Nat) (b : Nat) : FVal :=
  match unpack F b with
  | .fin neg m e => if sub = 1 ∧ F.flushable ∧ m < 2 ^ F.fbits then .fin neg 0 e else .fin neg m e
  | v => v

def FVal.isNan : FVal → Bool
  | .nan _ => true
  | _ => false
def FVal.isSnan : FVal → Bool
  | .nan q => q
  | _ => false
def FVal.isInf : FVal → Bool
  | .inf _ => true
  | _ => false
def FVal.isZero : FVal → Bool
  | .fin _ m _ => m == 0
  | _ => false
def FVal.neg : FVal → Bool
  | .fin n _ _ => n
  | .inf n => n
  | .nan _ => false
def FVal.negate : FVal → FVal
  | .fin n m e => .fin (!n) m e
  | .inf n => .inf (!n)
  | v => v

/-- An exact real: ± (m + t) × 2^e, where t is 0, or with `sticky` lies strictly between 0 and 1. -/
structure Ex where
  neg : Bool
  m : Nat
  e : Int
  sticky : Bool
deriving DecidableEq, Repr

/-- 2^k as a shift left, for k a difference of exponents known to be at least 0. -/
def shl (m : Nat) (k : Int) : Nat := m * 2 ^ k.toNat

/-- |x| in units of 2^u, rounded in a mode (R27 step 2): 0 nearest even, 1 toward zero, 2 down, 3 up, 4 nearest away.
The second part says whether that is inexact. -/
def roundAt (x : Ex) (u : Int) (mode : Nat) : Nat × Bool :=
  if u ≤ x.e then
    let q := shl x.m (x.e - u)
    let up := x.sticky && ((mode == 2 && x.neg) || (mode == 3 && !x.neg))
    (if up then q + 1 else q, x.sticky)
  else
    let k := (u - x.e).toNat
    let q := x.m / 2 ^ k
    let r := x.m % 2 ^ k
    let half := 2 ^ (k - 1)
    let inexact := r != 0 || x.sticky
    let up := match mode with
      | 0 => decide (half < r) || (r == half && (x.sticky || q % 2 == 1))
      | 1 => false
      | 2 => x.neg && inexact
      | 3 => !x.neg && inexact
      | _ => decide (half ≤ r)
    (if up then q + 1 else q, inexact)

/-- m × 2^e > m' × 2^e'. -/
def gtMag (m : Nat) (e : Int) (m' : Nat) (e' : Int) : Bool :=
  if e' ≤ e then decide (m' < shl m (e - e')) else decide (shl m' (e' - e) < m)

/-- The bit pattern of ± q × 2^u, which F holds exactly. -/
def pack (F : Fmt) (neg : Bool) (q : Nat) (u : Int) : Nat :=
  if q = 0 then F.sign neg
  else
    let l := q.log2
    let top := u + l
    if top < F.emin + F.fbits then F.sign neg + shl q (u - F.emin)
    else
      let e := (top - F.fbits - F.emin + 1).toNat
      let f := if l ≤ F.fbits then q * 2 ^ (F.fbits - l) else q / 2 ^ (l - F.fbits)
      F.sign neg + e * 2 ^ F.fbits + (f - 2 ^ F.fbits)

/-- The fate of an overflow (R28). -/
def overflow (F : Fmt) (mode : Nat) (neg : Bool) : Nat :=
  let mx := pack F neg F.maxM F.maxE
  match F.kind with
  | .ieee =>
    match mode with
    | 1 => mx
    | 2 => if neg then F.inf true else mx
    | 3 => if neg then mx else F.inf false
    | _ => F.inf neg
  | _ => mx

/-- round_F of a finite exact value in a mode and under a subnormal policy (R27, R28). -/
def roundFin (F : Fmt) (mode sub : Nat) (x : Ex) : Nat × Flags :=
  if x.m = 0 ∧ !x.sticky then (F.sign x.neg, 0)
  else
    let u := x.e + x.m.log2 - F.fbits
    let (q, inx) := roundAt x u mode
    if gtMag q u F.maxM F.maxE then (overflow F mode x.neg, fOF ||| fNX)
    else if gtMag 1 (F.emin + F.fbits) q u then
      if sub = 0 ∨ !F.flushable then
        let (q', inx') := roundAt x F.emin mode
        (pack F x.neg q' F.emin, flagIf inx' (fUF ||| fNX))
      else (F.sign x.neg, fUF ||| fNX)
    else (pack F x.neg q u, flagIf inx fNX)

/-- round_F of an infinite value (R28). -/
def roundInf (F : Fmt) (neg : Bool) : Nat × Flags :=
  match F.kind with
  | .ieee => (F.inf neg, 0)
  | .e4m3 => (F.nan, fNV)
  | .e2m1 => (pack F neg F.maxM F.maxE, fOF ||| fNX)

/-- A finite value as an exact real. -/
def FVal.ex : FVal → Ex
  | .fin n m e => ⟨n, m, e, false⟩
  | _ => ⟨false, 0, 0, false⟩

/-- round_F of a value (R27): a NaN gives the canonical NaN, and NV for a signalling one (R18). -/
def roundVal (F : Fmt) (mode sub : Nat) (v : FVal) : Nat × Flags :=
  match v with
  | .nan q => (F.nan, flagIf q fNV)
  | .inf n => roundInf F n
  | .fin .. => roundFin F mode sub v.ex

/-- The subnormal policy applied to the result of sround (R31 step 8). -/
def flushResult (F : Fmt) (sub : Nat) (b : Nat) (x : Ex) (fl : Flags) : Nat × Flags :=
  match unpack F b with
  | .fin neg m _ =>
    if sub ≠ 0 ∧ F.flushable ∧ m < 2 ^ F.fbits ∧ m ≠ 0 then
      (F.sign neg, fl ||| flagIf (x.m != 0 || x.sticky) (fUF ||| fNX))
    else (b, fl)
  | _ => (b, fl)

/-- sround_F (R31): rounds away from zero when the draw lies below floor(f × 2^32). -/
def sroundVal (F : Fmt) (sub : Nat) (v : FVal) (rnd : Nat) : Nat × Flags :=
  match v with
  | .fin neg m e =>
    if m = 0 then (F.sign neg, 0)
    else
      let x := v.ex
      let big := gtMag m e F.maxM F.maxE
      let u0 := max (e + m.log2 - F.fbits) F.emin
      let u := if big then F.maxE else u0
      let lo := if big then F.maxM else (roundAt x u 1).1
      -- (|x| - lo × 2^u) / 2^u × 2^32
      let f := if u ≤ e then (shl m (e - u) - lo) * 2 ^ 32 else (m - shl lo (u - e)) * 2 ^ 32 / 2 ^ (u - e).toNat
      let exact := if u ≤ e then shl m (e - u) == lo else m == shl lo (u - e)
      let up := decide (rnd < f)
      let q := if up then lo + 1 else lo
      let tiny := gtMag 1 (F.emin + F.fbits) m e
      if gtMag q u F.maxM F.maxE then (pack F neg F.maxM F.maxE, fOF ||| fNX)
      else flushResult F sub (pack F neg q u) x (flagIf (!exact) fNX ||| flagIf (!exact && tiny) fUF)
  | _ => roundVal F 0 sub v

/-! ## Exact operations -/

/-- The exact sum of two finite values, with the sign of an exact zero sum (R170): the common sign of two zeros, or of
the mode. -/
def addEx (mode : Nat) (a b : Ex) : Ex :=
  let u := min a.e b.e
  let x := shl a.m (a.e - u)
  let y := shl b.m (b.e - u)
  if a.m = 0 ∧ b.m = 0 then ⟨if a.neg = b.neg then a.neg else mode == 2, 0, u, false⟩
  else if a.neg = b.neg then ⟨a.neg, x + y, u, false⟩
  else if y < x then ⟨a.neg, x - y, u, false⟩
  else if x < y then ⟨b.neg, y - x, u, false⟩
  else ⟨mode == 2, 0, u, false⟩

/-- The exact product of two finite values. -/
def mulEx (a b : Ex) : Ex := ⟨a.neg != b.neg, a.m * b.m, a.e + b.e, false⟩

/-- The quotient of a finite value by a non-zero one, to 192 bits and a sticky rest. -/
def divEx (a b : Ex) : Ex :=
  let n := a.m * 2 ^ 192
  ⟨a.neg != b.neg, n / b.m, a.e - b.e - 192, n % b.m != 0⟩

/-- Integer square root by bits: the greatest r below 2^k with r² ≤ n. -/
def isqrtBits (n : Nat) : Nat → Nat → Nat
  | 0, r => r
  | k + 1, r =>
    let r' := r + 2 ^ k
    isqrtBits n k (if r' * r' ≤ n then r' else r)
/-- floor(sqrt(n)). -/
def isqrt (n : Nat) : Nat := isqrtBits n (n.log2 / 2 + 1) 0

/-- The square root of a finite value that is not negative, to more than 128 bits and a sticky rest. -/
def sqrtEx (a : Ex) : Ex :=
  let odd := a.e % 2 ≠ 0
  let m := (if odd then a.m * 2 else a.m) * 2 ^ 256
  let e := if odd then a.e - 1 else a.e
  let r := isqrt m
  ⟨false, r, e / 2 - 128, r * r != m⟩

/-! ## Operations of a format F in a mode and under a policy -/

/-- Any signalling operand sets NV (R18). -/
def snanFlag (vs : List FVal) : Flags := flagIf (vs.any FVal.isSnan) fNV

/-- x + y of values, rounded once (R170). -/
def addVal (F : Fmt) (mode sub : Nat) (x y : FVal) : Nat × Flags :=
  if x.isNan || y.isNan then (F.nan, snanFlag [x, y])
  else match x, y with
    | .inf n, .inf n' => if n = n' then roundInf F n else (F.nan, fNV)
    | .inf n, _ => roundInf F n
    | _, .inf n => roundInf F n
    | _, _ => roundFin F mode sub (addEx mode x.ex y.ex)

/-- x × y of values, rounded once (R170). -/
def mulVal (F : Fmt) (mode sub : Nat) (x y : FVal) : Nat × Flags :=
  if x.isNan || y.isNan then (F.nan, snanFlag [x, y])
  else if (x.isInf && y.isZero) || (x.isZero && y.isInf) then (F.nan, fNV)
  else if x.isInf || y.isInf then roundInf F (x.neg != y.neg)
  else roundFin F mode sub (mulEx x.ex y.ex)

/-- x / y of values, rounded once (R170). -/
def divVal (F : Fmt) (mode sub : Nat) (x y : FVal) : Nat × Flags :=
  if x.isNan || y.isNan then (F.nan, snanFlag [x, y])
  else if (x.isInf && y.isInf) || (x.isZero && y.isZero) then (F.nan, fNV)
  else if x.isInf then roundInf F (x.neg != y.neg)
  else if y.isInf then (F.sign (x.neg != y.neg), 0)
  else if y.isZero then
    let (b, fl) := roundInf F (x.neg != y.neg)
    (b, fl ||| fDZ)
  else roundFin F mode sub (divEx x.ex y.ex)

/-- sqrt(x) of a value (R170). -/
def sqrtVal (F : Fmt) (mode sub : Nat) (x : FVal) : Nat × Flags :=
  match x with
  | .nan q => (F.nan, flagIf q fNV)
  | .inf n => if n then (F.nan, fNV) else roundInf F false
  | .fin n m _ =>
    if m = 0 then (F.sign n, 0) else if n then (F.nan, fNV) else roundFin F mode sub (sqrtEx x.ex)

/-- x × y + z of values, rounded once (R170): 0 × Inf sets NV even where z is a quiet NaN. -/
def fmaVal (F : Fmt) (mode sub : Nat) (x y z : FVal) : Nat × Flags :=
  let bad := (x.isInf && y.isZero) || (x.isZero && y.isInf)
  if x.isNan || y.isNan || z.isNan || bad then (F.nan, snanFlag [x, y, z] ||| flagIf bad fNV)
  else if x.isInf || y.isInf then
    match z with
    | .inf n => if n = (x.neg != y.neg) then roundInf F n else (F.nan, fNV)
    | _ => roundInf F (x.neg != y.neg)
  else match z with
    | .inf n => roundInf F n
    | _ => roundFin F mode sub (addEx mode (mulEx x.ex y.ex) z.ex)

/-- Order of finite or infinite values, −0 equal to +0: x < y. -/
def ltVal (x y : FVal) : Bool :=
  match x, y with
  | .nan _, _ => false
  | _, .nan _ => false
  | .inf n, .inf n' => n && !n'
  | .inf n, _ => n
  | _, .inf n => !n
  | .fin n m e, .fin n' m' e' =>
    if m = 0 ∧ m' = 0 then false
    else if m = 0 then !n'
    else if m' = 0 then n
    else if n != n' then n
    else if n then gtMag m e m' e' else gtMag m' e' m e
/-- x = y, −0 equal to +0. -/
def eqVal (x y : FVal) : Bool := !x.isNan && !y.isNan && !ltVal x y && !ltVal y x
/-- −0 below +0, and otherwise the order (R38). -/
def totalLt (x y : FVal) : Bool := ltVal x y || (x.isZero && y.isZero && x.neg && !y.neg)

/-- IEEE 754-2019 minimum or maximum of bit patterns (R38, R170): one operand, as read, or the canonical NaN. -/
def minMaxBits (F : Fmt) (sub : Nat) (isMax : Bool) (a b : Nat) : Nat × Flags :=
  let x := operand F sub a
  let y := operand F sub b
  let out (v : FVal) (o : Nat) : Nat := if v.isZero then F.sign v.neg else o
  if x.isNan || y.isNan then (F.nan, snanFlag [x, y])
  else if (if isMax then totalLt x y else totalLt y x) then (out y b, 0) else (out x a, 0)

/-- Negates a bit pattern. -/
def negBits (F : Fmt) (b : Nat) : Nat := b ^^^ F.sign true

/-- The class of a bit pattern, as the single set bit of R171. -/
def classBits (F : Fmt) (b : Nat) : Nat :=
  match unpack F b with
  | .inf n => if n then 1 else 128
  | .nan q => if q then 256 else 512
  | .fin n m _ =>
    if m = 0 then (if n then 8 else 16)
    else if m < 2 ^ F.fbits then (if n then 4 else 32)
    else (if n then 2 else 64)

/-! ## Integers (R16, R29) -/

/-- Width and signedness of an integer format code (R23). -/
def intOf : Nat → Option (Nat × Bool)
  | 0 => some (8, true)
  | 1 => some (8, false)
  | 2 => some (16, true)
  | 3 => some (16, false)
  | 4 => some (32, true)
  | 5 => some (32, false)
  | 6 => some (64, true)
  | 7 => some (64, false)
  | _ => none

/-- Least and greatest value of an integer format. -/
def intMin (w : Nat) (signed : Bool) : Int := if signed then -(2 ^ (w - 1) : Nat) else 0
def intMax (w : Nat) (signed : Bool) : Int := if signed then (2 ^ (w - 1) - 1 : Nat) else (2 ^ w - 1 : Nat)
/-- The integer that w bits stand for. -/
def intVal (w : Nat) (signed : Bool) (b : Nat) : Int := if signed then toSigned w b else (b % 2 ^ w : Nat)
/-- Saturates an integer to a format; the second part says whether it was clamped (R16). -/
def saturate (w : Nat) (signed : Bool) (v : Int) : Nat × Bool :=
  if v < intMin w signed then (ofSigned w (intMin w signed), true)
  else if intMax w signed < v then (ofSigned w (intMax w signed), true)
  else (ofSigned w v, false)

/-- Floating point to integer (R29). -/
def toInt (w : Nat) (signed : Bool) (mode : Nat) (v : FVal) : Nat × Flags :=
  match v with
  | .nan _ => (0, fNV)
  | .inf n => (ofSigned w (if n then intMin w signed else intMax w signed), fNV)
  | .fin n _ _ =>
    let (q, inx) := roundAt v.ex 0 mode
    let i : Int := if n then -q else q
    let (b, sat) := saturate w signed i
    (b, if sat then fNV else flagIf inx fNX)

/-- An integer as a value. -/
def ofInt (v : Int) : FVal := .fin (decide (v < 0)) v.natAbs 0

/-! ## Draws (R30) -/

/-- mix(seed, a). -/
def mix (seed a : Word) : Word :=
  let x := seed ^^^ (a * 0x9E3779B97F4A7C15#64)
  let x := x ^^^ (x >>> 30)
  let x := x * 0xBF58476D1CE4E5B9#64
  let x := x ^^^ (x >>> 27)
  let x := x * 0x94D049BB133111EB#64
  x ^^^ (x >>> 31)

end Sys2Proof.Machine
end

