-- ==== Sys2Proof/Machine/Memory.lean ====
section
/-! DEFINITION. Memory: physical bytes, translation, page classes, pinned and owned lines, reader counts (spec/05, spec/06
R117 to R123, spec/18 R308, R311, spec/20). -/

namespace Sys2Proof.Machine

/-- Why an access does not perform now. -/
inductive Stop where
  /-- A trap with its xtval (R343). -/
  | trap (c : Cause) (tval : Word)
  /-- Held (R104, R117, R120), or refused at a pinned line (R122). -/
  | wait (line : Option Nat)
  /-- Poison was read (R356): the xtval of cause 15. -/
  | poison (tval : Word)
deriving DecidableEq, Repr

/-- Who accesses, under which address space and level: a hartid, or an engine (10,000 and more). -/
structure Ctx where
  who : Nat
  asid : Nat
  user : Bool
deriving DecidableEq, Repr

/-- The context of a hart's own accesses (R304, R307). -/
def State.ctx (s : State) (h : Nat) : Ctx := ⟨h, s.asidOf h, !s.privileged h⟩
/-- The number that stands for the engines of a cluster. -/
def engineOf (c : Nat) : Nat := 10000 + c
/-- The number that stands for the base dies and every agent outside the clusters. -/
def outsider : Nat := 11000

/-! ## Physical memory (R329) -/

/-- First address past local memory: 2 TiB. -/
def localEnd : Nat := 2 ^ 41
/-- Base of the memory of the devices of the domain. -/
def domainBase : Nat := 2 ^ 48
/-- Base of the device window. -/
def windowBase : Nat := 2 ^ 49
/-- First address past the device window. -/
def paEnd : Nat := 2 ^ 50

/-- What lies at a physical address. -/
inductive Region where
  | ours
  | peer
  | window
  | hole
deriving DecidableEq, Repr

/-- This device's number in the domain (R366). -/
def State.devnum (s : State) : Nat := bitsOf s.host.devnum 5 0

/-- A name of this device's own memory in the domain range is the local address (R329). -/
def State.canon (s : State) (pa : Nat) : Nat :=
  let base := domainBase + s.devnum * localEnd
  if base ≤ pa ∧ pa < base + localEnd then pa - base else pa

/-- The region of a canonical physical address (R329). -/
def region (pa : Nat) : Region :=
  if pa < localEnd then .ours
  else if domainBase ≤ pa ∧ pa < domainBase + 64 * localEnd then .peer
  else if windowBase ≤ pa ∧ pa < paEnd then .window
  else .hole

/-- One byte of memory. An unlisted byte reads 0 (R371 step 3). -/
def State.rd8 (s : State) (pa : Nat) : Byte := assocGet 0 s.mem pa
/-- Bytes from an address on as cells; a byte of 0 is not listed. -/
def byteCells : Nat → List Byte → List Host.Cell
  | _, [] => []
  | a, b :: r => if b = 0 then byteCells (a + 1) r else (a, b) :: byteCells (a + 1) r
/-- Writes bytes into a memory from an address on; the memory keeps its canonical form. -/
def putBytes (m : List Host.Cell) (a : Nat) (bs : List Byte) : List Host.Cell :=
  m.filter (fun e => decide (e.1 < a)) ++ byteCells a bs ++ m.filter (fun e => decide (a + bs.length ≤ e.1))
/-- Writes one byte. -/
def State.wr8 (s : State) (pa : Nat) (b : Byte) : State := { s with mem := putBytes s.mem pa [b] }
/-- n bytes from pa. -/
def State.rdBytes (s : State) (pa n : Nat) : List Byte := (List.range n).map fun i => s.rd8 (pa + i)
/-- Writes bytes from pa on. -/
def State.wrBytes (s : State) (pa : Nat) (bs : List Byte) : State := { s with mem := putBytes s.mem pa bs }
/-- The canonical form of a memory. -/
abbrev Memory.wf (m : List Host.Cell) : Bool := assocWf 0 m
/-- The 8-byte word at pa, little-endian (R2). -/
def State.rd64 (s : State) (pa : Nat) : Word := BitVec.ofNat 64 (natOfBytes (s.rdBytes pa 8))
/-- Writes an 8-byte word. -/
def State.wr64 (s : State) (pa : Nat) (w : Word) : State := s.wrBytes pa (bytesOfNat 8 w.toNat)

/-- The 128-byte line of an address. -/
def lineOf (pa : Nat) : Nat := pa / 128
/-- The lines that n bytes from pa touch. -/
def linesOf (pa n : Nat) : List Nat :=
  if n = 0 then [] else (List.range (lineOf (pa + n - 1) - lineOf pa + 1)).map (· + lineOf pa)
/-- The line is poisoned (R356). -/
def State.poisoned (s : State) (line : Nat) : Bool := assocGet false s.poison line
/-- A store of all 128 bytes ends the poison of a line (R356); `n` bytes from pa are stored. -/
def State.unpoison (s : State) (pa n : Nat) : State :=
  { s with poison := s.poison.filter fun e => !(pa ≤ 128 * e.1 && 128 * e.1 + 128 ≤ pa + n) }
/-- Stores of whole lines end their poison (R356). -/
def State.unpoisonLines (s : State) (lines : List Nat) : State :=
  { s with poison := s.poison.filter fun e => !lines.contains e.1 }
/-- Runs of bytes written by one save end the poison of the lines that they cover together (R349, R356). -/
def State.unpoisonSpans (s : State) (spans : List (Nat × Nat)) : State :=
  { s with poison := s.poison.filter fun e =>
      !(List.range 128).all fun i => spans.any fun x => decide (x.1 ≤ 128 * e.1 + i) && decide (128 * e.1 + i < x.1 + x.2) }
/-- As `unpoison`, for the bytes that one vector store wrote. -/
def State.unpoisonCells (s : State) (cells : List Nat) : State :=
  { s with poison := s.poison.filter fun e => !(List.range 128).all fun i => cells.contains (128 * e.1 + i) }

/-! ## Partitions and groups of memory (R308, R329) -/

/-- partcfg p (R308). -/
def State.partcfgOf (s : State) (p : Nat) : Word := assocGet 0 s.partcfg p
/-- GBASE and GCOUNT of partition p. -/
def State.gbase (s : State) (p : Nat) : Nat := bitsOf (s.partcfgOf p) 36 19
def State.gcount (s : State) (p : Nat) : Nat := bitsOf (s.partcfgOf p) 55 37
/-- EN of partition p. -/
def State.partEnabled (s : State) (p : Nat) : Bool := (s.partcfgOf p).getLsbD 63
/-- Partition p is in scheduled mode (R105). -/
def State.scheduledMode (s : State) (p : Nat) : Bool := (s.partcfgOf p).getLsbD 60
/-- Clusters of partition p: whole quadrants (R308). -/
def State.ownsCluster (s : State) (p c : Nat) : Bool := (s.partcfgOf p).getLsbD (56 + quadrantOf c)
/-- The 2 MiB granule of a local address (R329). -/
def granuleOf (pa : Nat) : Nat := pa / 2 ^ 21
/-- The enabled partition that owns a congruence group. -/
def State.partOfGroup (s : State) (g : Nat) : Option Nat :=
  (List.range 4).find? fun p => s.partEnabled p && s.gbase p ≤ g && g < s.gbase p + s.gcount p
/-- The partition that owns the cluster of a scratchpad block. -/
def State.partOfCluster (s : State) (c : Nat) : Option Nat :=
  (List.range 4).find? fun p => s.partEnabled p && s.ownsCluster p c

/-! ## Tiers (R339, R340, R342) -/

/-- Granules with a count above 0 in a 2 MiB name (R339). -/
def State.cntOfName (s : State) (granule : Nat) : Nat :=
  (s.cnt.filter fun e => e.1 / 2 ^ 14 == granule && decide (0 < e.2)).length

/-- The remap entry of a group. -/
def State.remapOf (s : State) (g : Nat) : Remap := assocGet Remap.reset s.remap g
/-- Replaces a remap entry. -/
def State.setRemap (s : State) (g : Nat) (r : Remap) : State := { s with remap := assocPut Remap.reset s.remap g r }
/-- Location of name j (R339). -/
def Remap.locOf (r : Remap) (j : Nat) : Nat := r.loc / 4 ^ j % 4
/-- The name in the fast slot. -/
def Remap.fast (r : Remap) : Nat := ((List.range 4).find? fun j => r.locOf j == 0).getD 0
/-- A swap of two names is skipped: a count above 0, or a PIN bit (R340). -/
def State.swapBarred (s : State) (g j k : Nat) : Bool :=
  s.cntOfName (4 * g + j) != 0 || s.cntOfName (4 * g + k) != 0 || nbit (s.remapOf g).pin j || nbit (s.remapOf g).pin k
/-- The swap that PFTIER, or EVTIER, of granule n makes now: its group and the two names; none where nothing moves (R342). -/
def State.tierSwap (s : State) (evict : Bool) (n : Nat) : Option (Nat × Nat × Nat) :=
  let r := s.remapOf (n / 4)
  let k := n % 4
  if localEnd / 2 ^ 21 ≤ n then none
  else if evict then (if r.locOf k != 0 || k == 0 then none else some (n / 4, k, 0))
  else if r.locOf k == 0 then none else some (n / 4, k, r.fast)
/-- The line lies in one of the two names of a swap (R340). -/
def swapHolds (line : Nat) (x : Nat × Nat × Nat) : Bool := line / 2 ^ 14 == 4 * x.1 + x.2.1 || line / 2 ^ 14 == 4 * x.1 + x.2.2

/-! ## Owned lines and granules in motion (R104, R117, R340) -/

/-- Cuts n bytes from va at the 64 KiB boundaries. -/
def cutPages : Nat → Nat → Nat → List (Nat × Nat)
  | 0, _, _ => []
  | fuel + 1, va, n =>
    if n = 0 then []
    else
      let k := min n (65536 - va % 65536)
      (va, k) :: cutPages fuel (va + k) (n - k)

/-- A command of the logical hart of h. -/
def Cmd.ofHart (c : Cmd) (h : Hart) : Bool := c.part == h.part && c.launch == h.launch && c.logical == h.logical
/-- The physical address of a byte of a command, by the translations it holds (R257). -/
def Cmd.pa (c : Cmd) (va : Nat) : Nat := assocGet 0 c.xl (va / 65536) + va % 65536
/-- An address of a step (R271), modulo 2^64. -/
def stepAddr (p : Word) (d : Int) : Nat := ofSigned 64 (p.toNat + d)
/-- The lines a command writes and has not released (R117): the destination of a copy-out, the segments a scan has still to
write, and both names of a swap that a tier command has still to make. -/
def State.ownedBy (s : State) (c : Cmd) (line : Nat) : Bool :=
  !c.retiring &&
  match c.kind with
  | .copyOut _ p steps run => steps.any fun (_, dm) =>
      (cutPages (run / 65536 + 2) (stepAddr p dm) run).any fun (va, k) => (linesOf (c.pa va) k).contains line
  | .scan _ _ _ _ obuf seg todo => todo.any fun ch =>
      (cutPages (seg / 65536 + 2) (obuf.toNat + ch * seg) seg).any fun (va, k) => (linesOf (c.pa va) k).contains line
  | .tier evict gs sched _ => sched && gs.any fun n => match s.tierSwap evict n with
      | some x => swapHolds line x && !s.swapBarred x.1 x.2.1 x.2.2
      | none => false
  | _ => false

/-- The swaps that run: those of the hot-page trackers, and those of tier commands (R340, R342). -/
def State.swapsOn (s : State) : List (Nat × Nat × Nat) :=
  s.parts.filterMap (fun p => p.2.swap)
    ++ s.cmds.filterMap fun c => match c.kind with | .tier _ _ _ (.moving g j k) => some (g, j, k) | _ => none
/-- The line lies in a granule that a swap is moving (R340). -/
def State.inMotion (s : State) (line : Nat) : Bool := s.swapsOn.any (swapHolds line)

/-! ## Pinned lines (R122, R123) -/

/-- The name under which the vector unit of a hart stands in a queue of refusals, apart from its scalar unit. -/
def vectorUnit (hid : Nat) : Nat := 20000 + hid
/-- The name under which a hart's format-X instructions access memory at their issue (R257): its vector unit, which issues them
from the queue, or the sequencer. -/
def unitName (hid : Nat) : Nat := if kindOf hid = .vector then vectorUnit hid else hid
/-- The name of a command, each with a place of its own in a queue of refusals (R123): of a copy engine, or of the base dies. -/
def cmdName (copy : Bool) (id cluster : Nat) : Nat := 2 ^ 32 + 2 * (256 * id + if copy then cluster else 255)
/-- The name of the held entries of a logical hart that has no slot (R123, R127). -/
def heldName (p launch l : Nat) : Nat := 2 ^ 32 + 2 * (4 * (2 ^ 16 * launch + l) + p) + 1
/-- The agent of a name in a queue of refusals. -/
def agentOf (who : Nat) : Nat :=
  if 2 ^ 32 ≤ who then
    (if (who - 2 ^ 32) % 2 = 0 ∧ (who - 2 ^ 32) / 2 % 256 < 160 then engineOf ((who - 2 ^ 32) / 2 % 256) else outsider)
  else if 20000 ≤ who then who - 20000 else who
/-- The agent lies within the scope of a pin. -/
def Pin.within (p : Pin) (name : Nat) : Bool :=
  let who := agentOf name
  if p.wide then
    if who < appBase then clusterOf who == p.unit else decide (10000 ≤ who) && decide (who < outsider) && who - 10000 == p.unit
  else kindOf who == .vector && coreOf who == p.unit

/-- The agent is refused at the line: it lies outside an active pin, or others were refused before it (R122, R123). -/
def State.refusedAt (s : State) (who line : Nat) : Bool :=
  s.pins.any fun p => p.line == line &&
    (if p.ended then p.refused.contains who && p.refused.head? != some who else !p.within who)

/-- Everything that holds back an access to a line (R104, R117, R122). -/
def State.gateLine (s : State) (who line : Nat) : Except Stop Unit :=
  if s.refusedAt who line then .error (.wait (some line))
  else if s.cmds.any (fun c => s.ownedBy c line) || s.inMotion line then .error (.wait none)
  else .ok ()

/-- The poison of the page that holds a physical address: cause 15 reports the 64 KiB page (R343, log 20). -/
def poisonAt (pa : Nat) : Stop := .poison (word (pa / 65536 * 65536))
/-- The lines of a run of bytes are open to the agent. -/
def State.gate (s : State) (who pa n : Nat) : Except Stop Unit := (linesOf pa n).forM (s.gateLine who)

/-- No pin, engine command or swap can hold back an access. -/
def State.still (s : State) : Bool := s.pins.isEmpty && s.cmds.isEmpty && s.swapsOn.isEmpty
/-- Runs of bytes that the device itself reads or writes are open to it (R104, R117, R122, R340). -/
def State.deviceGate (s : State) (spans : List (Nat × Nat)) : Except Stop Unit :=
  if s.still then .ok () else spans.forM fun x => s.gate outsider x.1 x.2
/-- No byte of the run is poisoned, for an access that reads (R356). -/
def State.clean (s : State) (pa n : Nat) : Except Stop Unit :=
  (linesOf pa n).forM fun l => if s.poisoned l then .error (poisonAt (128 * l)) else .ok ()

/-- A performed access of a refused agent leaves the queue of refusals (R123). -/
def State.served (s : State) (who line : Nat) : State :=
  let ps := s.pins.map fun p => if p.line = line ∧ p.ended then { p with refused := p.refused.erase who } else p
  { s with pins := ps.filter fun p => !(p.ended && p.refused.isEmpty) }
/-- What the device has refused and then performed leaves the queues of refusals (R123). -/
def State.deviceServed (s : State) (spans : List (Nat × Nat)) : State :=
  if s.pins.isEmpty then s
  else spans.foldl (fun (s : State) x => (linesOf x.1 x.2).foldl (fun (s : State) l => s.served outsider l) s) s
/-- Records a refusal (R122). The first refusal of an access gives it its place in the queue of every line that refuses it
(R123): an access that touches several lines is refused as one, so that two of them never wait for each other (log 8). -/
def State.refuse (s : State) (who line : Nat) : State :=
  let old := s.lineup.filter fun n => s.pins.any (·.refused.contains n)
  let now := if old.contains who then old else old ++ [who]
  { s with
    lineup := now
    pins := s.pins.map fun p =>
      if p.line = line then { p with refused := now.filter fun n => n == who || p.refused.contains n } else p }
/-- A scope as an issuer has it (R108). -/
def effScope (who scope : Nat) : Nat :=
  match kindOf who with
  | .sequencer => if scope = 1 then 2 else scope
  | .app => if 1 ≤ scope ∧ scope ≤ 3 then 4 else scope
  | _ => scope
/-- A release by a holder at a scope wider than a pin ends the pin (R123). -/
def State.releasePins (s : State) (who scope : Nat) : State :=
  s.endPins fun p => p.holders.contains who && decide ((if p.wide then 2 else 1) < effScope who scope)
/-- Others than `who` were refused at an ended pin of the line, and have not been served (R123). -/
def State.othersRefused (s : State) (who line : Nat) : Bool :=
  s.pins.any fun p => p.line == line && p.ended && p.refused.any (· != who)
/-- A synchronising access at core or cluster scope pins its line (R122), but not before the accesses that an ended pin
refused have been served (R123). Where the line is pinned already, its pin stays as it is, core scope included, and the agent
becomes a holder (log 8: R122 does not say whether an access of wider scope widens the pin). -/
def State.pinLine (s : State) (who line scope : Nat) : State :=
  let e := effScope who scope
  if (e = 1 ∨ e = 2) ∧ !s.othersRefused who line then
    if s.pins.any fun p => p.line = line ∧ !p.ended then
      { s with pins := s.pins.map fun p =>
          if p.line = line ∧ !p.ended ∧ !p.holders.contains who then { p with holders := p.holders ++ [who] } else p }
    else { s with pins := s.pins ++ [⟨line, e == 2, if e = 2 then clusterOf who else coreOf who, [who], false, []⟩] }
  else s
/-- A synchronising access that would pin a line waits where others were refused at an ended pin and it was not (R123). -/
def State.pinBlocked (s : State) (who line scope : Nat) : Bool :=
  let e := effScope who scope
  (e == 1 || e == 2) && s.pins.any fun p => p.line == line && p.ended && !p.refused.contains who
/-- An agent that no longer waits for an access leaves every queue of refusals (R123). -/
def State.unrefuse (s : State) (who : Nat) : State :=
  let ps := s.pins.map fun p => { p with refused := p.refused.erase who }
  { s with pins := ps.filter fun p => !(p.ended && p.refused.isEmpty) }

/-! ## Words of structures in memory (R311, R331, R346) -/

/-- The translation fault at va with a reason (R333). -/
def transFault (reason va : Nat) : Stop := .trap (.translation reason) (word va)
/-- The device reads a word of a table for an agent that translates va. A table that lies in no memory is malformed, as R333
says of the table of a pointer entry (log 18). -/
def State.devWord (s : State) (who va pa : Nat) : Except Stop Word :=
  let a := s.canon pa
  match region a with
  | .ours | .peer => do
    s.gateLine who (lineOf a)
    if s.poisoned (lineOf a) then .error (poisonAt a) else .ok (s.rd64 a)
  | _ => .error (transFault 2 va)

/-! ## Translation (R331 to R335) -/

/-- What an access needs of a page (R334); `any` asks only where the page lies, for an instruction that names code and does not
access it (R181). -/
inductive Need where
  | any
  | r
  | w
  | rw
  | x
deriving DecidableEq, Repr

/-- A translated address: physical address, class, and store-convert format, rounding and seed (R332). -/
structure Leaf where
  pa : Nat
  cls : Nat
  sf : Nat
  srm : Nat
  seed : Word
deriving DecidableEq, Repr

/-- Page classes (R332). -/
def clsOrdinary : Nat := 0
def clsConvert : Nat := 1
def clsGrid : Nat := 2
def clsCounted : Nat := 3
def clsDevice : Nat := 4

/-- Offset width of a leaf at a level (R331). -/
def levelShift : Nat → Nat
  | 1 => 40
  | 2 => 28
  | _ => 16

/-- The caches of translations that an agent's accesses look in (R337): those of its core and its cluster, of the cluster for
a sequencer or an engine, of an application core, or of the base dies. -/
def tlbPath (who : Nat) : List Nat :=
  match kindOf who with
  | .vector => [coreOf who, 640 + clusterOf who]
  | .sequencer => [640 + clusterOf who]
  | .app => [800 + (who - appBase)]
  | .none => if 10000 ≤ who ∧ who < outsider then [640 + (who - 10000)] else [824]
/-- A cached entry serves a key in one of some caches. -/
def TlbEntry.serves (e : TlbEntry) (path : List Nat) (asid level index : Nat) : Bool :=
  e.use && path.contains e.cache && e.asid == asid && e.level == level && e.index == index
/-- The pair of words of an entry: cached (R335), or read from memory. Level 0 is the ASID table. -/
def State.entry (s : State) (c : Ctx) (va level index pa : Nat) : Except Stop (Word × Word) :=
  match s.tlb.find? fun e => e.serves (tlbPath c.who) c.asid level index with
  | some e => .ok (e.w0, e.w1)
  | none => do
    let w0 ← s.devWord c.who va pa
    let w1 ← s.devWord c.who va (pa + 8)
    .ok (w0, w1)

/-- Bits 49:16 of an entry, as an address. -/
def entryPA (w0 : Word) : Nat := bitsOf w0 49 16 * 65536

/-- A pointer entry is well formed (R333 item 3). -/
def State.pointerOk (s : State) (level : Nat) (w0 w1 : Word) : Bool :=
  level < 3 && bitsOf w0 63 50 == 0 && bitsOf w0 15 2 == 0 && w1 == 0 && decide (s.canon (entryPA w0) < localEnd)

/-- A leaf is well formed (R333 item 3). -/
def State.leafOk (s : State) (asid p level : Nat) (w0 w1 : Word) : Bool :=
  let base := entryPA w0
  let a := s.canon base
  let size := 2 ^ levelShift level
  let cls := bitsOf w0 4 2
  bitsOf w0 63 50 == 0 && bitsOf w0 15 14 == 0 && bitsOf w0 9 9 == 0
    && base % size == 0 && decide (cls ≤ 4)
    && (if cls == clsConvert then bitsOf w0 13 12 != 3 else bitsOf w0 13 10 == 0 && w1 == 0)
    && (match region a with
        | .window => cls == clsDevice
        | .hole => false
        | .peer => cls != clsDevice
        | .ours => cls != clsDevice
            && (asid == 0 || (decide (s.gbase p * 2 ^ 23 ≤ a) && decide (a + size ≤ (s.gbase p + s.gcount p) * 2 ^ 23))))

/-- The permissions an access needs are set (R334). -/
def permitted (w0 : Word) (need : Need) (user : Bool) : Bool :=
  (!user || w0.getLsbD 8) &&
  match need with
  | .any => true
  | .r => w0.getLsbD 5
  | .w => w0.getLsbD 6
  | .rw => w0.getLsbD 5 && w0.getLsbD 6
  | .x => w0.getLsbD 7 && bitsOf w0 4 2 != clsDevice

/-- The walk from a table at a level; `fuel` levels are left (R331, R333). -/
def State.walk (s : State) (c : Ctx) (p : Nat) (need : Need) (va : Nat) : Nat → Nat → Nat → Except Stop Leaf
  | 0, _, _ => .error (transFault 2 va)
  | fuel + 1, level, table => do
    let sh := levelShift level
    let (w0, w1) ← s.entry c va level (va / 2 ^ sh) (table + 16 * (va / 2 ^ sh % 4096))
    if !w0.getLsbD 0 then .error (transFault 1 va)
    else if !w0.getLsbD 1 then
      if s.pointerOk level w0 w1 then s.walk c p need va fuel (level + 1) (entryPA w0)
      else .error (transFault 2 va)
    else if !s.leafOk c.asid p level w0 w1 then .error (transFault 2 va)
    else if !permitted w0 need c.user then .error (transFault 3 va)
    else .ok { pa := s.canon (entryPA w0 + va % 2 ^ sh), cls := bitsOf w0 4 2, sf := bitsOf w0 11 10,
               srm := bitsOf w0 13 12, seed := w1 }

/-- Translates one virtual address (R331 to R334). -/
def State.translate (s : State) (c : Ctx) (need : Need) (va : Nat) : Except Stop Leaf := do
  if 2 ^ 52 ≤ va then .error (transFault 0 va)
  let (w0, _) ← s.entry c va 0 0 (s.asidtab.toNat + 16 * c.asid)
  if !w0.getLsbD 63 then .error (transFault 1 va)
  if bitsOf w0 15 0 ≠ 0 then .error (transFault 2 va)
  s.walk c (bitsOf w0 62 61) need va 3 1 (bitsOf w0 49 0)

/-- A run of bytes on one 64 KiB page, translated. -/
structure Seg where
  va : Nat
  len : Nat
  leaf : Leaf
deriving DecidableEq, Repr

/-- Translates the pages of n bytes from va in ascending order. -/
def State.segs (s : State) (c : Ctx) (need : Need) (va n : Nat) : Except Stop (List Seg) :=
  (cutPages (n / 65536 + 2) va n).mapM fun (a, k) => do
    let l ← s.translate c need a
    .ok ⟨a, k, l⟩
/-- Translates n bytes from va, and then checks their classes, each in ascending order (R198, R333). -/
def State.locate (s : State) (c : Ctx) (need : Need) (okCls : Nat → Bool) (va n : Nat) : Except Stop (List Seg) := do
  let gs ← s.segs c need va n
  match gs.find? fun g => !okCls g.leaf.cls with
  | some g => .error (.trap .pageClass (word g.va))
  | none => .ok gs

/-- The entries that a walk of va reads, for an agent that holds them (R257, R344). -/
def State.walkTrail (s : State) (c : Ctx) (va : Nat) : Nat → Nat → Nat → List TlbEntry
  | 0, _, _ => []
  | fuel + 1, level, table =>
    let sh := levelShift level
    match s.entry c va level (va / 2 ^ sh) (table + 16 * (va / 2 ^ sh % 4096)) with
    | .ok (w0, w1) => ⟨(tlbPath c.who).headD 824, c.asid, level, va / 2 ^ sh, w0, w1, true⟩
        :: (if w0.getLsbD 0 && !w0.getLsbD 1 then s.walkTrail c va fuel (level + 1) (entryPA w0) else [])
    | .error _ => []
/-- The entries that a translation of va reads: the ASID-table entry and those of its walk. -/
def State.trail (s : State) (c : Ctx) (va : Nat) : List TlbEntry :=
  match s.entry c va 0 0 (s.asidtab.toNat + 16 * c.asid) with
  | .ok (w0, w1) => ⟨(tlbPath c.who).headD 824, c.asid, 0, 0, w0, w1, true⟩ :: s.walkTrail c va 3 1 (bitsOf w0 49 0)
  | .error _ => []

/-- Any class but device (R84). -/
def notDevice (cls : Nat) : Bool := cls != clsDevice

/-! ## Reader counts (R96 to R101) -/

/-- The count of a granule. -/
def State.count (s : State) (line : Nat) : Nat := assocGet 0 s.cnt line
/-- Counts an event in the partition that owns the line, if it is local (R376). -/
def State.lineEvent (s : State) (line : Nat) (f : Part → Part) : State :=
  if line < localEnd / 128 then
    match s.partOfGroup (line / 2 ^ 16) with
    | some p => s.updPart p f
    | none => s
  else s
/-- One under-read event. -/
def Part.addUread (p : Part) : Part := { p with uread := p.uread + 1 }
/-- One overrun. -/
def Part.addOvrun (p : Part) : Part := { p with ovrun := p.ovrun + 1 }
/-- One tier-skip event. -/
def Part.addTskip (p : Part) : Part := { p with tskip := p.tskip + 1 }
/-- The home slice has a line again (R97). -/
def State.fetched (s : State) (line : Nat) : State := { s with away := s.away.filter (· != line) }
/-- Sets a count; the bytes beneath a granule that becomes counted are those it holds now (R99, R101), and a granule
that becomes uncounted keeps its data. -/
def State.setCount (s : State) (line n : Nat) : State :=
  let s1 := { s.fetched line with cnt := assocPut 0 s.cnt line n }
  if n = 0 then { s1 with under := assocDel s.under line }
  else if s.count line = 0 then { s1 with under := assocSet s.under line (s.rdBytes (128 * line) 128) }
  else s1
/-- The line leaves the home slice without a write-back: the bytes beneath show (R99, R101). -/
def State.dropLine (s : State) (line : Nat) : State :=
  let s1 := { s.fetched line with cnt := assocDel s.cnt line, under := assocDel s.under line }
  match assocGet [] s.under line with
  | [] => s1
  | bs => s1.wrBytes (128 * line) bs
/-- A counted store sets the count of a granule before its bytes are written (R98). -/
def State.rcSet (s : State) (line n : Nat) : State :=
  let s1 := if s.count line > 0 then s.lineEvent line Part.addUread else s
  s1.setCount line n
/-- A counted load takes one from a count above 0 (R99). -/
def State.rdDec (s : State) (line : Nat) : State :=
  if s.count line = 1 then s.dropLine line else { s.fetched line with cnt := assocPut 0 s.cnt line (s.count line - 1) }
/-- RCCLOSE of one granule (R101). -/
def State.rcClose (s : State) (line : Nat) : State :=
  if s.count line = 0 then s else (s.lineEvent line Part.addUread).dropLine line
/-! ## Scratchpad (R11, R93, R96) -/

/-- Bytes of one scratchpad. -/
def spadSize : Nat := 2 ^ 24
/-- One scratchpad byte. -/
def State.sp8 (s : State) (c off : Nat) : Byte := assocGet 0 s.spad (c * spadSize + off)
/-- n scratchpad bytes. -/
def State.spBytes (s : State) (c off n : Nat) : List Byte := (List.range n).map fun i => s.sp8 c (off + i)
/-- Writes scratchpad bytes. -/
def State.spWrite (s : State) (c off : Nat) (bs : List Byte) : State :=
  { s with spad := putBytes s.spad (c * spadSize + off) bs }
/-- The number of a scratchpad block in the map of counts. -/
def blockKey (c blk : Nat) : Nat := c * (spadSize / 128) + blk
/-- No block of a run of scratchpad bytes is poisoned, for an access that reads (R355, R356); the xtval is free, for no
physical page holds the block (R343). -/
def State.spClean (s : State) (c off n : Nat) : Except Stop Unit :=
  if (linesOf off n).any fun b => assocGet false s.spoison (blockKey c b) then .error (.poison (Config.freeTval s.tick))
  else .ok ()
/-- A store of all bytes of a block ends its poison (R356); `n` bytes from the offset are stored. -/
def State.spUnpoison (s : State) (c off n : Nat) : State :=
  { s with spoison := s.spoison.filter fun e =>
      !(c * spadSize + off ≤ 128 * e.1 && 128 * e.1 + 128 ≤ c * spadSize + off + n) }
/-- As `spUnpoison`, for the bytes that one vector store wrote. -/
def State.spUnpoisonCells (s : State) (c : Nat) (cells : List Nat) : State :=
  let abs := cells.map (c * spadSize + ·)
  { s with spoison := s.spoison.filter fun e => !(List.range 128).all fun i => abs.contains (128 * e.1 + i) }
/-- The count of a scratchpad block. -/
def State.spCount (s : State) (c blk : Nat) : Nat := assocGet 0 s.spcnt (blockKey c blk)
/-- Sets the count of a scratchpad block. -/
def State.setSpCount (s : State) (c blk n : Nat) : State := { s with spcnt := assocPut 0 s.spcnt (blockKey c blk) n }
/-- Counts an event in the partition that owns the cluster (R376). -/
def State.clusterEvent (s : State) (c : Nat) (f : Part → Part) : State :=
  match s.partOfCluster c with
  | some p => s.updPart p f
  | none => s
/-- A counted store to a scratchpad block (R98). -/
def State.spRcSet (s : State) (c blk n : Nat) : State :=
  let s1 := if s.spCount c blk > 0 then s.clusterEvent c Part.addUread else s
  s1.setSpCount c blk n
/-- A counted load of a scratchpad block (R99). -/
def State.spRdDec (s : State) (c blk : Nat) : State := s.setSpCount c blk (s.spCount c blk - 1)

/-! ## Token FIFOs (R121) -/

/-- Tokens in FIFO k of a cluster. -/
def State.tokens (s : State) (c k : Nat) : Nat := assocGet 0 s.tok (16 * c + k)
/-- Sets a token count. -/
def State.setTokens (s : State) (c k n : Nat) : State := { s with tok := assocPut 0 s.tok (16 * c + k) n }

end Sys2Proof.Machine
end

