-- ==== Sys2Proof/Machine/Flags.lean ====
section
/-! DEFINITION. The status registers: fcsr (R25, R26), vtype (R23, R24), vstat (R52), and what an instruction leaves in
them. -/

namespace Sys2Proof.Machine

/-! ## fcsr (R25) -/

/-- Flags accrue into bits 4:0 (R25, R26). -/
def accrueWord (w : Word) (f : Flags) : Word := w ||| f.setWidth 64
/-- Flags accrue into the hart's fcsr (R166). -/
def Hart.accrue (h : Hart) (f : Flags) : Hart := { h with fcsr := accrueWord h.fcsr f }
/-- Scalar rounding mode FRM. -/
def Hart.frm (h : Hart) : Nat := bitsOf h.fcsr 7 5
/-- Scalar subnormal policy FSUB. -/
def Hart.fsub (h : Hart) : Nat := bitsOf h.fcsr 9 8
/-- A write of fcsr: FSUB 3 reads as 0, FRM 5 to 7 read as 0, bits 63:10 are Zero (R25, R3). -/
def legalFcsr (v : Word) : Word :=
  word ((if bitsOf v 9 8 = 3 then 0 else bitsOf v 9 8) * 256 + (if bitsOf v 7 5 > 4 then 0 else bitsOf v 7 5) * 32
    + bitsOf v 4 0)

/-! ## vtype (R23) -/

/-- Element format EF. -/
def vtEF (v : Word) : Nat := bitsOf v 4 0
/-- Code order K. -/
def vtK (v : Word) : Nat := bitsOf v 7 5
/-- Subnormal policy SUB. -/
def vtSUB (v : Word) : Nat := bitsOf v 9 8
/-- Rounding mode RM. -/
def vtRM (v : Word) : Nat := bitsOf v 12 10
/-- Slice count SL. -/
def vtSL (v : Word) : Nat := bitsOf v 16 13
/-- Scale block length field BLK. -/
def vtBLK (v : Word) : Nat := bitsOf v 18 17
/-- The block length B of BLK (R21). -/
def blockLen (blk : Nat) : Nat := match blk with | 0 => 32 | 1 => 16 | _ => 64
/-- No field of vtype is reserved (R24). -/
def vtypeOk (v : Word) : Bool :=
  decide (vtEF v ≤ 16) && vtSUB v != 3 && decide (vtRM v ≤ 4) && vtBLK v != 3
    && (vtSL v == 0 || vtSL v == 1 || vtSL v == 3 || vtSL v == 7) && bitsOf v 63 19 == 0
/-- Element width in bits of a fixed-width format (R17, R23); mxfp4 elements have 4 bits. -/
def efWidth (ef : Nat) : Nat :=
  match ef with
  | 0 | 1 | 8 | 9 | 15 => 8
  | 2 | 3 | 10 | 11 => 16
  | 4 | 5 | 12 => 32
  | 6 | 7 | 13 => 64
  | 14 => 4
  | _ => 1

/-! ## vstat (R52) -/

/-- SAT accrues. -/
def Hart.setSat (h : Hart) (b : Bool) : Hart := if b then { h with vstat := setBits h.vstat 0 0 1 } else h
/-- STOP is written by every coded instruction; STOP = 3 sets MAL (R51, R52). -/
def Hart.setStop (h : Hart) (stop : Nat) : Hart :=
  let v := setBits h.vstat 2 1 stop
  { h with vstat := if stop = 3 then setBits v 3 3 1 else v }
/-- SHR is written by every VSETB (R52, R203). -/
def Hart.setShr (h : Hart) (b : Bool) : Hart := { h with vstat := setBits h.vstat 4 4 (if b then 1 else 0) }
/-- A write of vstat keeps bits 4:0 (R52, R3). -/
def legalVstat (v : Word) : Word := v &&& 0x1F

end Sys2Proof.Machine
end

