-- ==== Sys2Proof/Machine/Records.lean ====
section
/-! DEFINITION. Records, items, groups, barrier objects, error events, trap records, and the end of a record (spec/04,
spec/06 R124 to R128, spec/21 R347, R352, spec/22 R357 to R360). -/

namespace Sys2Proof.Machine

/-! ## Errors (R357 to R360) -/

/-- An interrupt becomes pending on an application core (R348, R370). -/
def State.pend (s : State) (core code : Nat) : State :=
  if core < 24 then s.updHart (appBase + core) fun h => h.updApp fun a => { a with pending := setNBit a.pending code true }
  else s

/-- The classer's answer for an event of a key at a time (R360), the time since FIRST modulo 2^64 (R4): the entries, and
LASTING. -/
def classify (es : List ClassEnt) (key now win tol : Nat) : List ClassEnt × Bool :=
  match es.find? fun e => e.key == key with
  | some e =>
    let rest := es.filter fun x => x.key != key
    if (now + 2 ^ 64 - e.first) % 2 ^ 64 ≤ win * 1024 then (rest ++ [⟨key, e.first, e.cnt + 1⟩], decide (tol < e.cnt + 1))
    else (rest ++ [⟨key, now, 1⟩], decide (tol < 1))
  | none => ((if es.length < 64 then es else es.drop 1) ++ [⟨key, now, 1⟩], decide (tol < 1))

/-- The classer's key of an event (R360): the 64 KiB page for memory and cache events, else kind class and unit or place. -/
def classKey (kind unit place : Nat) : Nat :=
  if kind ≤ 3 then 4 * (place / 65536)
  else if kind = 6 ∨ kind = 7 then 4 * place + 1
  else if kind = 11 ∨ kind = 12 then 4 * unit + 2
  else 4 * unit + 3

/-- One error event at the present fabric cycle (R359). -/
def State.errLog (s : State) (kind unit asid place : Nat) : State :=
  let e := s.err
  let now := s.fabric.toNat
  let (cl, lasting) := classify e.classer (classKey kind unit place) now (bitsOf e.elwin 31 0) (bitsOf e.elcnt 7 0)
  let e1 := { e with eseq := e.eseq + 1, cnt := assocPut 0 e.cnt kind (assocGet 0 e.cnt kind + 1), classer := cl }
  let w1 := kind + (if lasting then 16 else 0) + unit * 2 ^ 16 + asid * 2 ^ 32
  let e2 :=
    if (e.lhead - e.ltail).toNat < 16 then
      { e1 with log := assocSet e.log (e.lhead.toNat % 16) ⟨e.eseq, word w1, word place, s.fabric⟩, lhead := e.lhead + 1 }
    else { e1 with ovf := e.ovf + 1 }
  let s1 := { s with err := e2 }
  if e.ectl.getLsbD 8 then s1.pend (bitsOf e.ectl 4 0) 2 else s1

/-- An error event: kind, unit, ASID struck, and place (R358, R359). -/
structure ErrEv where
  kind : Nat
  unit : Nat
  asid : Nat
  place : Nat
deriving DecidableEq, Repr
/-- Insertion into a list in ascending kind, then unit. -/
def insertErr (x : ErrEv) : List ErrEv → List ErrEv
  | [] => [x]
  | y :: r => if x.kind < y.kind ∨ (x.kind = y.kind ∧ x.unit < y.unit) then x :: y :: r else y :: insertErr x r
/-- The error events of one fabric cycle, in ascending kind, then unit (R359); a later event falls in a later cycle. -/
def State.errEvents (s : State) (es : List ErrEv) : State :=
  let t := (es.foldr insertErr []).foldl (fun (s : State) e => s.errLog e.kind e.unit e.asid e.place) s
  if es.isEmpty then t else { t with fabric := t.fabric + 1 }
/-- One error event, alone in its fabric cycle. -/
def State.errEvent (s : State) (kind unit asid place : Nat) : State := s.errEvents [⟨kind, unit, asid, place⟩]

/-- The home channel of a local line (R330). -/
def homeChannel (line : Nat) : Nat :=
  (line ^^^ (line >>> 8) ^^^ (line >>> 16) ^^^ (line >>> 24) ^^^ (line >>> 32)) % 256

/-! ## Barrier objects (R124, R125) -/

/-- What acts on a barrier object. -/
inductive BAct where
  | arrive
  | report (n : Nat)
  | expect (n : Word)
deriving DecidableEq, Repr

/-- ERR of an object. -/
def bobjErr (s : State) (pa : Nat) : Nat := bitsOf (s.rd64 (pa + 0x28)) 10 8
/-- Sets ERR. -/
def bobjSetErr (s : State) (pa k : Nat) : State := s.wr64 (pa + 0x28) (setBits (s.rd64 (pa + 0x28)) 10 8 k)
/-- A Zero field of the object is not 0. -/
def bobjBad (s : State) (pa : Nat) : Bool :=
  bitsOf (s.rd64 pa) 63 32 != 0 || bitsOf (s.rd64 (pa + 8)) 63 32 != 0 || bitsOf (s.rd64 (pa + 16)) 63 32 != 0
    || bitsOf (s.rd64 (pa + 0x28)) 63 11 != 0 || bitsOf (s.rd64 (pa + 0x28)) 7 1 != 0
    || s.rd64 (pa + 0x30) != 0 || s.rd64 (pa + 0x38) != 0

/-- The part of R125 that depends on the kind of action, before the phase is looked at. -/
def bobjStart (s : State) (pa : Nat) (act : BAct) : State :=
  let exp := s.rd64 (pa + 8)
  let arr := s.rd64 (pa + 16)
  let barr := s.rd64 (pa + 32)
  let bc := (s.rd64 (pa + 0x28)).getLsbD 0
  let posted := (s.rd64 (pa + 24)).getLsbD 63
  match act with
  | .arrive => if arr = exp then bobjSetErr s pa 3 else s.wr64 (pa + 16) ((arr + 1) &&& 0xFFFFFFFF#64)
  | .report n => s.wr64 (pa + 32) (barr + word n)
  | .expect n =>
    if 2 ^ 63 ≤ n.toNat then bobjSetErr s pa 1
    else if !bc then bobjSetErr s pa 1
    else if posted || decide (n < barr) then bobjSetErr s pa 2
    else s.wr64 (pa + 24) (n ||| (1 <<< 63))

/-- Excess bytes, and the completion of the phase (R125). -/
def bobjFinish (s : State) (pa : Nat) : State :=
  let exp := s.rd64 (pa + 8)
  let arr := s.rd64 (pa + 16)
  let bexp := s.rd64 (pa + 24)
  let barr := s.rd64 (pa + 32)
  let bc := (s.rd64 (pa + 0x28)).getLsbD 0
  let posted := bexp.getLsbD 63
  let want := word (bitsOf bexp 62 0)
  if bobjErr s pa ≠ 0 then s
  else if posted && decide (want < barr) then bobjSetErr s pa 2
  else if arr = exp && (!bc || (posted && barr == want)) then
    (((s.wr64 pa (word ((bitsOf (s.rd64 pa) 31 0 + 1) % 2 ^ 32))).wr64 (pa + 16) 0).wr64 (pa + 32) 0).wr64 (pa + 24) 0
  else s

/-- An arrival, a report or an EXPECT on the object at pa (R125). -/
def bobjAct (s : State) (pa : Nat) (act : BAct) : State :=
  if bobjErr s pa ≠ 0 then s
  else if bobjBad s pa || ((s.rd64 (pa + 8)) == 0 && !(s.rd64 (pa + 0x28)).getLsbD 0) then bobjSetErr s pa 1
  else bobjFinish (bobjStart s pa act) pa

/-- Translates a barrier object (R185, R275): alignment, then R and W at the level of the context, then the class. -/
def State.bobjLocate (s : State) (c : Ctx) (va : Word) : Except Stop Nat := do
  if va.toNat % 64 ≠ 0 then .error (.trap .misaligned va)
  match ← s.locate c .rw (· == clsOrdinary) va.toNat 64 with
  | g :: _ => .ok g.leaf.pa
  | [] => .error (.wait none)

/-! ## Records and logical harts -/

/-- A logical hart before it is placed. -/
def LHart.start : LHart :=
  { place := .unplaced, item := none, taken := 0, claims := [], nclaims := 0, adm := .none, gwait := none, drains := 0,
    drainWait := false, held := [], xl := [], fl := 0, layout := none, saved := none }

/-- The record of a partition with a launch number. -/
def State.recOf (s : State) (p launch : Nat) : Option Rec := s.recs.find? fun r => r.part == p && r.sr.launch == launch
/-- Replaces a record. -/
def State.setRec (s : State) (r : Rec) : State :=
  { s with recs := s.recs.map fun x => if x.part = r.part ∧ x.sr.launch = r.sr.launch then r else x }
/-- Removes a record. -/
def State.delRec (s : State) (p launch : Nat) : State :=
  { s with recs := s.recs.filter fun r => !(r.part == p && r.sr.launch == launch) }
/-- A logical hart. -/
def Rec.lhart (r : Rec) (l : Nat) : LHart := assocGet LHart.start r.lh l
/-- Replaces a logical hart. -/
def Rec.setLhart (r : Rec) (l : Nat) (x : LHart) : Rec := { r with lh := assocPut LHart.start r.lh l x }

/-- CTL fields (R60). -/
def StartRec.asid (r : StartRec) : Nat := bitsOf r.ctl 10 0
def StartRec.prio (r : StartRec) : Nat := bitsOf r.ctl 14 12
def StartRec.share (r : StartRec) : Nat := 2 ^ bitsOf r.ctl 16 15
def StartRec.det (r : StartRec) : Bool := r.ctl.getLsbD 17
def StartRec.nest (r : StartRec) : Bool := r.ctl.getLsbD 18
def StartRec.rsv (r : StartRec) : Bool := r.ctl.getLsbD 19
def StartRec.order (r : StartRec) : Nat := bitsOf r.ctl 21 20
def StartRec.dims (r : StartRec) : Nat := bitsOf r.ctl 24 22
def StartRec.seq (r : StartRec) : Bool := r.ctl.getLsbD 25
def StartRec.ceil (r : StartRec) : Nat := bitsOf r.ctl 44 26
/-- The masked clusters, ascending (R59). -/
def StartRec.clusters (r : StartRec) : List Nat := (List.range 160).filter fun c => nbit r.cmask c
/-- Logical harts per cluster (R63). -/
def StartRec.perCluster (r : StartRec) : Nat := if r.seq then 1 else 4 * r.share
/-- H, the number of logical harts (R63). -/
def StartRec.harts (r : StartRec) : Nat := r.clusters.length * r.perCluster
/-- Q, the number of items (R66). -/
def StartRec.items (r : StartRec) : Nat := if r.nest then (r.bounds.take r.dims).foldl (· * ·) 1 else 0

/-- The record of a placed hart; an application core runs for none. -/
def State.myRec (s : State) (hid : Nat) : Option Rec :=
  if appBase ≤ hid then none else s.recOf (s.hart hid).part (s.hart hid).launch
/-- The logical hart of a placed hart. -/
def State.myLhart (s : State) (hid : Nat) : LHart :=
  match s.myRec hid with
  | some r => r.lhart (s.hart hid).logical
  | none => LHart.start
/-- Changes the logical hart of a placed hart. -/
def State.updLhart (s : State) (hid : Nat) (f : LHart → LHart) : State :=
  match s.myRec hid with
  | some r => s.setRec (r.setLhart (s.hart hid).logical (f (r.lhart (s.hart hid).logical)))
  | none => s

/-! ## Items (R66, R67) -/

/-- Row-major indices of item q. -/
def rowMajor (bounds : List Nat) (q : Nat) : List Nat :=
  (bounds.foldr (fun n (acc : List Nat × Nat) => (acc.2 % n :: acc.1, acc.2 / n)) ([], q)).1
/-- Serpentine: a dimension runs backward where the indices before it sum to an odd number. -/
def serpentine (sum : Nat) : List (Nat × Nat) → List Nat
  | [] => []
  | (n, i) :: r =>
    let j := if sum % 2 = 1 then n - 1 - i else i
    j :: serpentine (sum + j) r
/-- In-bounds tuples that extend the known high bits `p`, with `f` low bits of each index still free. -/
def mortonCount : List (Nat × Nat × Nat) → Nat
  | [] => 1
  | (n, p, f) :: r => (min n ((p + 1) * 2 ^ f) - min n (p * 2 ^ f)) * mortonCount r
/-- Appends a bit to the known high bits of dimension d. -/
def mortonPush (d bit : Nat) (ds : List (Nat × Nat × Nat)) : List (Nat × Nat × Nat) :=
  ds.mapIdx fun i (n, p, f) => if i = d then (n, 2 * p + bit, f - 1) else (n, p, f)
/-- Descends the code bits named in a list, from the highest: the tuple of rank q. -/
def mortonDescend : List Nat → List (Nat × Nat × Nat) → Nat → List Nat
  | [], ds, _ => ds.map fun x => x.2.1
  | d :: r, ds, q =>
    let z := mortonPush d 0 ds
    let k := mortonCount z
    if q < k then mortonDescend r z q else mortonDescend r (mortonPush d 1 ds) (q - k)
/-- Indices of item q of a nest with given bounds in an order (R66). -/
def itemIndices (order : Nat) (bounds : List Nat) (q : Nat) : List Nat :=
  match order with
  | 0 => rowMajor bounds q
  | 1 => (rowMajor bounds.reverse q).reverse
  | 2 =>
    let d := bounds.length
    let bits := (List.range 33).flatMap fun _ => (List.range d).reverse
    mortonDescend bits (bounds.map fun n => (n, 0, 33)) q
  | _ => serpentine 0 (bounds.zip (rowMajor bounds q))

/-- The next item of a logical hart (R67): its number, and the record with the item handed out. -/
def Rec.handOut (r : Rec) (l : Nat) : Option (Nat × Rec) :=
  let x := r.lhart l
  let q := if r.sr.det then l + r.sr.harts * x.taken else r.nextItem
  if q < r.sr.items then
    some (q, ({ r with nextItem := if r.sr.det then r.nextItem else q + 1 }).setLhart l
      { x with item := some q, taken := x.taken + 1, claims := [], nclaims := 0, adm := .none })
  else none

/-- g1 to g6 and g7 for item q (R64, R68). -/
def Hart.loadItem (h : Hart) (r : StartRec) (q : Nat) : Hart :=
  let ix := itemIndices r.order (r.bounds.take r.dims) q
  let h1 := (List.range 6).foldl (fun (h : Hart) d => h.setG (BitVec.ofNat 6 (d + 1)) (word (ix.getD d 0))) h
  h1.setG 7 r.arg

/-! ## Groups (R69, R70) -/

/-- A group of a partition. -/
def State.grp (s : State) (p id : Nat) : Option Grp := s.groups.find? fun g => g.part == p && g.id == id
/-- The group a logical hart belongs to. -/
def State.grpOf (s : State) (p launch l : Nat) : Option Grp :=
  s.groups.find? fun g => g.part == p && g.members.contains (launch, l)
/-- Live groups of a partition. -/
def State.grpCount (s : State) (p : Nat) : Nat := (s.groups.filter fun g => g.part == p).length
/-- Every round that a member contributed to has drained (R128). -/
def State.drainedAll (s : State) (p : Nat) (m : Nat × Nat) : Bool :=
  match s.recOf p m.1 with
  | some r => r.sr.rsv || !r.sr.det || r.ending.isSome || decide ((r.lhart m.2).drains ≤ r.drained)
  | none => true
/-- Records that share rounds with r: those of its group that have not been ended (R352), or r alone (R128). -/
def State.roundRecs (s : State) (r : Rec) : List Rec :=
  if r.sr.group = 0 then [r]
  else s.recs.filter fun x => x.part == r.part && x.sr.group == r.sr.group && x.sr.det && !x.sr.rsv && x.ending.isNone
/-- The last round that has drained, or that a hart that has ended contributes to (R128). -/
def State.roundBase (s : State) (r : Rec) : Nat :=
  (s.roundRecs r).foldl (fun n x => x.lh.foldl (fun n e => if e.2.place = .ended then max n e.2.drains else n) n) r.drained
/-- A held entry in another round. -/
def Held.inRound (n : Nat) : Held → Held
  | .byte _ cls pa mask val whole => .byte n cls pa mask val whole
  | .add _ pa ef val grid => .add n pa ef val grid
/-- The round a held entry belongs to. -/
def heldRound : Held → Nat
  | .byte n .. => n
  | .add n .. => n
/-- A logical hart counts its drain points anew from a round on; what it holds for its next drain point goes with it. -/
def LHart.rebase (x : LHart) (n : Nat) : LHart :=
  { x with drains := n, held := x.held.map fun e => if x.drains < heldRound e then e.inRound (n + 1) else e }
/-- The members of a group pass a GBAR phase: the next drain point of each contributes to the round after those that have drained
or that ended harts contribute to, so that the counts of members that pass together agree again (R128, log 25). A reserving
record forms no rounds, and its harts keep their counts (R293). -/
def State.passGbar (s : State) (p : Nat) (g : Grp) : State :=
  { s with recs := s.recs.map fun r =>
      if r.part = p ∧ !r.sr.rsv then
        { r with lh := r.lh.map fun (l, x) => if g.members.contains (r.sr.launch, l) then (l, x.rebase (s.roundBase r)) else (l, x) }
      else r }
/-- The phase of a group completes where every member has arrived (R70); a group without members is dissolved (R69). -/
def State.groupCheck (s : State) (p id : Nat) : State :=
  match s.grp p id with
  | none => s
  | some g =>
    if g.members.isEmpty then { s with groups := s.groups.filter fun x => !(x.part == p && x.id == id) }
    else if g.members.all (fun m => g.arrived.contains m) && g.members.all (s.drainedAll p) then
      (({ s with groups := s.groups.map fun x =>
          if x.part = p ∧ x.id = id then { x with phase := x.phase + 1, arrived := [] } else x } : State)).passGbar p g
    else s
/-- Adds members to a group, creating it (R69). -/
def State.groupJoin (s : State) (p id : Nat) (ms : List (Nat × Nat)) : State :=
  match s.grp p id with
  | none => { s with groups := s.groups ++ [⟨p, id, 0, ms, []⟩] }
  | some _ => { s with groups := s.groups.map fun x =>
      if x.part = p ∧ x.id = id then { x with members := x.members ++ ms } else x }
/-- Every group of a partition whose phase can complete does. -/
def State.groupsCheck (s : State) (p : Nat) : State :=
  ((s.groups.filter fun g => g.part == p).map (·.id)).foldl (fun (s : State) id => s.groupCheck p id) s
/-- Removes members from their groups (R69, R70). -/
def State.groupLeave (s : State) (p : Nat) (out : Nat × Nat → Bool) : State :=
  let s1 : State := { s with groups := s.groups.map fun g =>
      if g.part = p then { g with members := g.members.filter (fun m => !out m), arrived := g.arrived.filter (fun m => !out m) }
      else g }
  s1.groupsCheck p

/-! ## The trap queue (R346 to R348) -/

/-- Length of the trap queue (R346). -/
def TrapBlk.len (t : TrapBlk) : Nat := 2 ^ bitsOf t.tqctl 4 0
/-- The trap queue is full (R347). -/
def TrapBlk.full (t : TrapBlk) : Bool := (t.tqhead - t.tqtail).toNat == t.len
/-- The trap block of partition p (R346). -/
def State.trapBlockPA (s : State) (p : Nat) : Nat := s.canon (s.asidtab.toNat + 0x8100 + 128 * p)
/-- Writes a trap record, advances TQHEAD and sends interrupt 1 (R347, R348). The queue is not full. -/
def State.writeTrap (s : State) (p : Nat) (r : TrapRec) : State :=
  let t := (s.part p).trap
  let a := s.canon (t.tqbase.toNat + 64 * (t.tqhead.toNat % t.len))
  let ws : List Word := [t.tqhead, word (r.hart + r.asid * 2 ^ 16), word (r.cause.code + r.cause.reason * 2 ^ 16), r.xpc,
    r.tval, word r.vstart, word r.launch, word r.area]
  let s1 := ws.zipIdx.foldl (fun (s : State) (w, i) => s.wr64 (a + 8 * i) w) s
  let s2 := s1.updPart p fun x => { x with trap := { t with tqhead := t.tqhead + 1 } }
  (s2.wr64 (s2.trapBlockPA p + 0x10) (t.tqhead + 1)).pend (bitsOf t.tqctl 12 8) 1
/-- The memory that n trap records of p and the advance of TQHEAD write (R347). -/
def State.trapSpans (s : State) (p n : Nat) : List (Nat × Nat) :=
  let t := (s.part p).trap
  (s.trapBlockPA p + 0x10, 8) :: (List.range n).map fun i => (s.canon (t.tqbase.toNat + 64 * ((t.tqhead.toNat + i) % t.len)), 64)

/-! ## The end of a record (R65, R78, R352) -/

/-- The slots of a record: the harts placed for it. -/
def State.hartsOf (s : State) (p launch : Nat) : List Nat :=
  (s.harts.filter fun e => e.2.status != .free && e.1 < appBase && e.2.part == p && e.2.launch == launch).map (·.1)
/-- The DONE object of a record as the device finds it now, open to it and readable (R65). -/
def State.doneReady (s : State) (r : StartRec) : Except Stop Nat := do
  let pa ← s.bobjLocate ⟨outsider, r.asid, true⟩ r.done
  s.gate outsider pa 64
  s.clean pa 64
  .ok pa
/-- Frees a slot: nothing runs there, and the registers of the hart that ended stay until a hart is placed (R287, R292). -/
def State.freeSlot (s : State) (hid : Nat) : State :=
  s.setHart hid { s.hart hid with
    status := .free, stop := none, preempt := false, vec := { (s.hart hid).vec with queue := [] }
    mx := { (s.hart hid).mx with queue := [] } }

/-- The trap record for a DONE object that no longer translates (R65), or that lies in a poisoned line (R356). -/
def doneFault (r : Rec) (e : Stop) : TrapRec :=
  { hart := 0x1FFF, asid := r.sr.asid, cause := match e with | .trap c _ => c | _ => .memory, xpc := 0,
    tval := match e with | .poison v => v | _ => r.sr.done, vstart := 0, launch := r.sr.launch, area := 0 }
/-- The trap queue has room for n records (R347). -/
def TrapBlk.room (t : TrapBlk) (n : Nat) : Bool := decide ((t.tqhead - t.tqtail).toNat + n ≤ t.len)

/-- n trap records of p can be written: the queue has room, and its memory is open (R104, R347). -/
def State.trapReady (s : State) (p n : Nat) : Except Stop Unit :=
  if n = 0 then .ok ()
  else if (s.part p).trap.room n then s.deviceGate (s.trapSpans p n) else .error (.wait none)
/-- What the completion of a record does to its DONE object (R65, R352): nothing without one; `act` on the object; the
trap record where it cannot be reached, beside `more` records; or why it waits. -/
def State.doneAct (s : State) (r : Rec) (more : Nat) (act : State → Nat → State) : Except Stop State :=
  if r.sr.done = 0 then .ok s
  else match s.doneReady r.sr with
    | .ok pa => .ok ((act s pa).served outsider (lineOf pa))
    | .error (.wait l) => .error (.wait l)
    | .error e => do
      s.trapReady r.part (more + 1)
      .ok (s.writeTrap r.part (doneFault r e))
/-- The completion arrival of a record that ends by itself (R65). -/
def State.completeRec (s : State) (r : Rec) : Except Stop State := do
  let t ← s.doneAct r 0 fun s pa => bobjAct s pa .arrive
  .ok (t.delRec r.part r.sr.launch)

/-- A slot of a record that a context-fatal event ends (R352): the hart stops as at preemption, and its slot is free once its
issued work is complete; a suspended hart's mark clears at once. -/
def State.endSlot (s : State) (hid : Nat) : State :=
  let h := s.hart hid
  let t := s.dropPins hid
  if h.status = .held ∨ (h.vec.queue.isEmpty && h.mx.queue.isEmpty) then t.freeSlot hid
  else t.setHart hid { h with status := .ending, stop := none }
/-- A context-fatal event ends a record (R352): its harts stop, group memberships, claims and held entries go at once, and
the record completes when the issued work of its harts has (`finishEnd`). `struck` is the trap record of cause 15 or 16. -/
def State.endRecord (s : State) (r : Rec) (struck : Option TrapRec) : State :=
  let p := r.part
  let l := r.sr.launch
  let r1 : Rec := { r with ending := some struck, lh := r.lh.map fun e =>
    (e.1, { e.2 with held := [], xl := [], claims := [], nclaims := 0, item := none, adm := .none, gwait := none, drainWait := false }) }
  let s1 := (s.hartsOf p l).foldl State.endSlot (s.setRec r1)
  let s2 := s1.groupLeave p fun m => m.1 == l
  s2.updPart p fun x => if x.placing = some l then { x with placing := none } else x
/-- A record that a context-fatal event ended completes (R352) once nothing of its harts is unfinished: its object takes ERR
4, and the trap record of the hart struck is written, where the trap queue has room (R347). -/
def State.finishEnd (s : State) (r : Rec) (struck : Option TrapRec) : Except Stop State := do
  let p := r.part
  let l := r.sr.launch
  if !(s.hartsOf p l).isEmpty || s.tails.any fun e => e.2.any fun h => h.part == p && h.launch == l then .error (.wait none)
  let n := match struck with | some _ => 1 | none => 0
  s.trapReady p n
  let t ← s.doneAct r n fun s pa => if bobjErr s pa = 0 then bobjSetErr s pa 4 else s
  let u := t.delRec p l
  .ok (match struck with
    | some k => u.writeTrap p k
    | none => u)
/-- The ended record of a partition with a launch number completes where it can; a refusal at a pinned line is kept
(R122). -/
def State.tryFinish (s : State) (r : Rec) : State :=
  match r.ending with
  | none => s
  | some k => match s.finishEnd r k with
    | .ok t => t
    | .error (.wait (some line)) => s.refuse outsider line
    | .error _ => s
/-- Every record that a context-fatal event ended completes where it can. -/
def State.settleEnds (s : State) : State := s.recs.foldl State.tryFinish s

/-- The trap record of a hart whose record ends by cause 15 or 16 (R352). -/
def fatalTrap (hid asid launch : Nat) (c : Cause) (tval : Word) (vstart : Nat) : TrapRec :=
  ⟨hid, asid, c, 0, tval, vstart, launch, 0⟩

/-- A context-fatal error strikes an agent (R343, R352, R356): an application core traps, a hart's record ends. -/
def State.strike (s : State) (hid : Nat) (tval : Word) : State :=
  if kindOf hid = .app then
    (s.dropPins hid).updHart hid fun h => h.enter false Cause.memory.code tval h.pc
  else match s.myRec hid with
    | some r =>
      if r.ending.isSome then s.endSlot hid
      else s.endRecord r (some (fatalTrap hid (s.hart hid).asid r.sr.launch .memory tval (s.hart hid).vec.vstart))
    | none => s.freeSlot hid

/-! ## Answers of accesses -/

/-- What a scalar statement answers when its access does not perform: the trap, a wait, the end of the record, or a fault. -/
def answerStop (s : State) : Stop → Out
  | .trap c t => raise c t s
  | .wait none => .next s.waitMe
  | .wait (some line) => .next (s.refuse s.cur line).waitMe
  | .poison v => .next (s.strike s.cur v)

/-- Runs a statement on the answer of its accesses. -/
def onOk {α : Type} (s : State) (r : Except Stop α) (k : α → Out) : Out :=
  match r with
  | .ok a => k a
  | .error e => answerStop s e

end Sys2Proof.Machine
end

