-- ==== Sys2Proof/Machine/Device.lean ====
section
/-! DEFINITION. The device window: remap entries, error block, fingerprint words, host register block, code-range block,
event block, and the windows to the host and the root ports (spec/20 R339, spec/22 R357, R363, spec/23 R366 to R376). -/

namespace Sys2Proof.Machine

/-- Bases of the register blocks (R357, R366, R374, R376). -/
def errBase : Nat := windowBase + 0x400000
def hostBase : Nat := windowBase + 0x401000
def codeBase : Nat := windowBase + 0x402000
def eventBase : Nat := windowBase + 0x403000
/-- Base of the root-port windows and of the host window (R367). -/
def rootBase : Nat := windowBase + 2 ^ 44
def hostWindow : Nat := windowBase + 2 ^ 48

/-! ## Remap entries (R339) -/

/-- Word 0 of an entry. -/
def Remap.word0 (r : Remap) : Word :=
  word (r.pin * 2 ^ 60 + (if r.mov then 2 ^ 59 else 0)
    + (r.heat.zipIdx.foldl (fun n (h, j) => n + h * 2 ^ (8 * j + 8)) 0) + r.loc)
/-- Word 1 of an entry: the counted granules of each name. -/
def State.remapWord1 (s : State) (g : Nat) : Word :=
  word ((List.range 4).foldl (fun n j => n + s.cntOfName (4 * g + j) * 2 ^ (16 * j)) 0)
/-- A write of PIN (R339): ignored where it sets the Zero field; RO fields keep their values. -/
def State.remapPinWrite (s : State) (g : Nat) (v : Word) : State :=
  if bitsOf v 58 40 ≠ 0 then s else s.setRemap g { s.remapOf g with pin := bitsOf v 63 60 }

/-! ## Error block and fingerprint words (R357, R363) -/

/-- A read of ESEQ latches LHEAD, OVF and the counters (R357). -/
def State.eseqRead (s : State) : State :=
  { s with err := { s.err with latLhead := s.err.lhead, latOvf := s.err.ovf, latCnt := s.err.cnt } }
/-- A write of LTAIL (R357). -/
def State.ltailWrite (s : State) (v : Word) : State :=
  if v < s.err.ltail ∨ s.err.lhead < v then s else { s with err := { s.err with ltail := v } }
/-- Pages of the fingerprint region (R363). -/
def FpBlk.pages (f : FpBlk) : Nat := 2 ^ bitsOf f.log 4 0
/-- GO starts a pass if none runs (R363). -/
def State.fpGo (s : State) : State := { s with fp := { s.fp with busy := true } }
/-- The region and a tree at t overlap (R363). -/
def FpBlk.overlap (f : FpBlk) (t : Nat) : Bool :=
  decide (t < f.base.toNat + f.pages * 65536) && decide (f.base.toNat < t + 16 * f.pages)

/-- A word of the error block (R357): reads of ESEQ latch. -/
def State.errRead (s : State) (off : Nat) : Word × State :=
  let e := s.err
  if off = 0x000 then (e.eseq, s.eseqRead)
  else if off = 0x008 then (e.latLhead, s)
  else if off = 0x010 then (e.ltail, s)
  else if off = 0x018 then (e.latOvf, s)
  else if off = 0x020 then (e.ectl, s)
  else if off = 0x028 then (e.elwin, s)
  else if off = 0x030 then (e.elcnt, s)
  else if 0x100 ≤ off ∧ off < 0x180 then (assocGet 0 e.latCnt ((off - 0x100) / 8), s)
  else if 0x200 ≤ off ∧ off < 0x400 then
    let r := assocGet (⟨0, 0, 0, 0⟩ : LogRec) e.log ((off - 0x200) / 32)
    (match off / 8 % 4 with | 0 => r.w0 | 1 => r.w1 | 2 => r.w2 | _ => r.w3, s)
  else if off = 0x800 then (s.fp.base, s)
  else if off = 0x808 then (s.fp.log, s)
  else if off = 0x810 then (s.fp.tree, s)
  else if off = 0x818 then (s.fp.int, s)
  else if off = 0x828 then (word ((if s.fp.busy then 2 ^ 63 else 0) + s.fp.passes.toNat), s)
  else (0, s)

/-- A write of a word of the error block (R357, R363): a write that R357 does not allow is ignored whole. -/
def State.errWrite (s : State) (off : Nat) (v : Word) : State :=
  let e := s.err
  if off = 0x010 then s.ltailWrite v
  else if off = 0x020 then
    if bitsOf v 63 9 = 0 ∧ bitsOf v 7 5 = 0 then { s with err := { e with ectl := v } } else s
  else if off = 0x028 then if bitsOf v 63 32 = 0 then { s with err := { e with elwin := v } } else s
  else if off = 0x030 then if bitsOf v 63 8 = 0 ∧ v ≠ 0 then { s with err := { e with elcnt := v } } else s
  else if off = 0x820 then if bitsOf v 63 1 = 0 ∧ v = 1 then s.fpGo else s
  else if s.fp.busy then s
  else if off = 0x800 then
    if v.toNat % 65536 = 0 ∧ v.toNat < localEnd then { s with fp := { s.fp with base := v } } else s
  else if off = 0x808 then if v.toNat ≤ 25 then { s with fp := { s.fp with log := v } } else s
  else if off = 0x810 then
    if v.toNat % 128 = 0 ∧ v.toNat < localEnd ∧ !s.fp.overlap v.toNat then { s with fp := { s.fp with tree := v } } else s
  else if off = 0x818 then { s with fp := { s.fp with int := v } }
  else s

/-! ## Host register block (R366, R368) -/

/-- HIRQ: v from 0 to 15 sends MSI-X vector v (R366). -/
def State.hirq (s : State) (v : Word) : State := if v.toNat < 16 then { s with msix := s.msix ++ [v.toNat] } else s
/-- DEVNUM: writable once after reset (R366). -/
def State.devnumWrite (s : State) (v : Word) : State :=
  if bitsOf v 63 6 = 0 ∧ !s.host.devnumSet then { s with host := { s.host with devnum := v, devnumSet := true } } else s
/-- A word of an inbound window (R368): k from 0 to 11, three words each. -/
def inwinOk (k : Nat) (v : Word) : Bool :=
  if k % 3 = 2 then bitsOf v 62 9 == 0 else bitsOf v 63 50 == 0 && bitsOf v 11 0 == 0
/-- A read of the host register block from the device side. -/
def State.hostRead (s : State) (off : Nat) : Word :=
  if off = 0x00 then s.host.hstat
  else if off = 0x08 then s.host.mbbase
  else if off = 0x18 then s.host.pwrlim
  else if off = 0x20 then s.host.devnum
  else if 0x28 ≤ off ∧ off < 0x88 then assocGet 0 s.host.inwin ((off - 0x28) / 8)
  else 0
/-- A write of the host register block from the device side. -/
def State.hostWrite (s : State) (off : Nat) (v : Word) : State :=
  if off = 0x08 then { s with host := { s.host with mbbase := v } }
  else if off = 0x10 then s.hirq v
  else if off = 0x18 then if 300 ≤ v.toNat ∧ v.toNat ≤ 2800 then { s with host := { s.host with pwrlim := v } } else s
  else if off = 0x20 then s.devnumWrite v
  else if 0x28 ≤ off ∧ off < 0x88 then
    if inwinOk ((off - 0x28) / 8) v then
      { s with host := { s.host with inwin := assocPut 0 s.host.inwin ((off - 0x28) / 8) v } }
    else s
  else s

/-! ## Instruction caches (R95, R181, R374) -/

/-- The L1 instruction cache of an agent: of its core, or an application core's own. A sequencer has none. -/
def icL1 (h : Nat) : Option Nat :=
  match kindOf h with
  | .vector => some (coreOf h)
  | .app => some (800 + (h - appBase))
  | _ => none
/-- The L2 instruction cache of an agent's cluster. -/
def icL2 (h : Nat) : Option Nat :=
  match kindOf h with
  | .vector | .sequencer => some (640 + clusterOf h)
  | _ => none
/-- The caches an agent fetches through, nearest first. -/
def icPath (h : Nat) : List Nat := (icL1 h).toList ++ (icL2 h).toList
/-- Lines that a cache holds at most (R95): 64 KiB, or 2 MiB in a cluster. The spec gives no size for the caches of an
application core, and the model sets none (log 38). -/
def icLimit (cache : Nat) : Option Nat := if cache < 640 then some 512 else if cache < 800 then some 16384 else none
/-- A cached instruction line. -/
def State.icFind (s : State) (caches : List Nat) (line : Nat) : Option ICLine :=
  caches.findSome? fun c => s.icache.find? fun e => e.cache == c && e.line == line
/-- Room for one more line in a cache: where it is full its oldest line leaves; the spec does not say which does, and a turn
may evict another before (log 38). -/
def State.icRoom (s : State) (cache : Nat) : List ICLine :=
  match icLimit cache with
  | some n =>
    if (s.icache.filter fun e => e.cache == cache).length < n then s.icache
    else match s.icache.find? fun e => e.cache == cache with
      | some e => s.icache.erase e
      | none => s.icache
  | none => s.icache
/-- Fills a cache with a line for an agent, from the levels beneath it in `path`, or from memory, where the line is open and not
poisoned (R95, R104, R180, R356). -/
def State.icFillLine (s : State) (who cache : Nat) (path : List Nat) (asid vline line : Nat) : State :=
  if (s.icFind [cache] line).isSome then s
  else match s.icFind path line with
    | some e => { s with icache := s.icRoom cache ++ [⟨cache, asid, vline, line, e.bytes⟩] }
    | none => match s.gateLine who line, s.poisoned line with
      | .ok _, false => { s with icache := s.icRoom cache ++ [⟨cache, asid, vline, line, s.rdBytes (128 * line) 128⟩] }
      | _, _ => s
/-- The physical bases of the 64 KiB pages that hold bytes lo to hi, each with its number, in an address space, whatever may be
done there; none where a page cannot be translated now, though it may be mapped. -/
def State.codePages (s : State) (c : Ctx) (lo hi : Nat) : Option (List (Nat × Nat)) :=
  ((List.range (hi / 65536 - lo / 65536 + 1)).mapM fun i =>
    let pg := lo / 65536 + i
    match s.translate { c with user := false } .any (65536 * pg) with
    | .ok l => some [(pg, l.pa)]
    | .error (.trap ..) => some []
    | .error _ => none).map List.flatten
/-- Drops a virtual range of at most 2 MiB of an address space from the caches that f names (R181, R374): the lines filled for
it, and the lines that it translates to, under whatever name they were filled; every line where a page of it cannot be translated
now (log 11). -/
def State.icDrop (s : State) (f : Nat → Bool) (c : Ctx) (lo hi : Nat) : State :=
  let inRange (vl : Nat) : Bool := decide (lo / 128 ≤ vl) && decide (vl ≤ hi / 128)
  let lies (line : Nat) : Bool := match s.codePages c lo hi with
    | some pages => pages.any fun (pg, pa) => line / 512 == pa / 65536 && inRange (512 * pg + line % 512)
    | none => true
  { s with icache := s.icache.filter fun e => !(f e.cache && ((e.asid == c.asid && inRange e.vline) || lies e.line)) }
/-- Invalidates a virtual range in the caches that f names (R181): a length above 2 MiB drops them whole. -/
def State.icInval (s : State) (f : Nat → Bool) (c : Ctx) (start len : Word) : State :=
  if len = 0 then s
  else if 2 ^ 21 < len.toNat then { s with icache := s.icache.filter fun e => !f e.cache }
  else s.icDrop f c start.toNat (min (start.toNat + len.toNat - 1) (2 ^ 64 - 1))
/-- ISYNC (R181): the range leaves the caches of the issuer. -/
def State.isync (s : State) (who : Nat) (start len : Word) : State :=
  s.icInval (icPath who).contains (s.ctx who) start len

/-! ## Code-range block (R374) -/

/-- A virtual address lies in the range. -/
def CodeBlk.holds (c : CodeBlk) (va : Word) : Bool :=
  decide (c.base.toNat ≤ va.toNat) && decide (va.toNat < c.base.toNat + c.len.toNat)
/-- The body statements of a LOOPB at pc that it has fetched and that have not retired (R272): those still to issue in its iteration,
and all of them where another iteration follows. -/
def Hart.bodyLeft (h : Hart) (pc : Word) (pos : Option LoopPos) : List Word :=
  match pos with
  | some p => ((List.range (p.body.length - 1)).filter fun i => decide (p.k ≤ i)
      || h.nest.any fun n => decide (p.q + 1 < n.bounds.foldl (· * ·) 1)).map fun i => pc + word (8 * (i + 1))
  | none => []
/-- The fetched statements of a hart that have not retired: that at its pc, the entries of its queues, the bodies of its LOOPBs,
and its commands, which retire when they complete (R257). -/
def State.unretired (s : State) (hid : Nat) (h : Hart) : List Word :=
  h.pc :: h.bodyLeft h.pc h.loopPos ++ (h.vec.queue.flatMap fun q => q.pc :: h.bodyLeft q.pc q.loop) ++ h.mx.queue.map (·.pc)
    ++ (s.cmds.filter fun c => c.owner == hid && c.ofHart h).map (·.pc)
/-- PROBE's count (R374): placed and held harts by their pc and their fetched statements, and queued records. -/
def State.probeCount (s : State) : Nat :=
  let c := s.code
  let asid := bitsOf c.asid 10 0
  let hs := s.harts.filter fun e => decide (e.1 < appBase) && e.2.status != .free && e.2.asid == asid
    && (s.unretired e.1 e.2).any c.holds
  let rs := s.parts.flatMap fun p => p.2.queues.flatMap fun q => q.2.recs.filter fun r => r.asid == asid && c.holds r.entry
  hs.length + rs.length
/-- The hart with what its LOOPBs had fetched discarded: they read their bodies anew (R181, R374). -/
def Hart.refetch (h : Hart) : Hart :=
  let anew (o : Option LoopPos) : Option LoopPos := o.map fun p => { p with body := [] }
  { h with loopPos := anew h.loopPos, vec := { h.vec with queue := h.vec.queue.map fun q => { q with loop := anew q.loop } } }
/-- Completes the running command of the block (R374): after INVAL every hart has done what ISYNC over the range does. -/
def State.codeComplete (s : State) : State :=
  match s.code.cmd with
  | some 1 => { s with code := { s.code with cmd := none, result := BitVec.ofNat 32 s.probeCount } }
  | some _ =>
    let s1 := s.icInval (fun _ => true) ⟨outsider, bitsOf s.code.asid 10 0, false⟩ s.code.base s.code.len
    let s2 := ((s.harts.filter fun e => e.2.status != .free).map (·.1)).foldl
      (fun (s : State) h => s.isync h s.code.base s.code.len) s1
    { s2 with code := { s.code with cmd := none }, harts := s.harts.map fun e => (e.1, e.2.refetch) }
  | none => s
/-- A write of CRCMD (R374): 1 PROBE, 2 INVAL; ignored while a command runs. -/
def State.codeCommand (s : State) (k : Nat) : State :=
  if s.code.cmd.isSome then s
  else if k = 1 ∨ k = 2 then
    let s1 := { s with code := { s.code with cmd := some k } }
    if s.eager then s1.codeComplete else s1
  else s
/-- A read of the code-range block. -/
def State.codeRead (s : State) (off : Nat) : Word :=
  if off = 0x00 then s.code.base
  else if off = 0x08 then s.code.len
  else if off = 0x10 then s.code.asid
  else if off = 0x20 then word ((if s.code.cmd.isSome then 2 ^ 63 else 0) + s.code.result.toNat)
  else 0
/-- A write of the code-range block. -/
def State.codeWrite (s : State) (off : Nat) (v : Word) : State :=
  if off = 0x00 then { s with code := { s.code with base := v } }
  else if off = 0x08 then { s with code := { s.code with len := v } }
  else if off = 0x10 then if bitsOf v 63 11 = 0 then { s with code := { s.code with asid := v } } else s
  else if off = 0x18 then s.codeCommand v.toNat
  else s

/-- A read of the event block (R376). -/
def State.eventRead (s : State) (off : Nat) : Word :=
  let p := s.part (off / 0x20)
  match off / 8 % 4 with
  | 0 => p.uread
  | 1 => p.tskip
  | 2 => p.ovrun
  | _ => p.swaps

/-! ## Accesses of the window -/

/-- Which register block a window address lies in: its number and the offset; none for an address of no block. -/
def blockOf (pa : Nat) : Option (Nat × Nat) :=
  if pa < errBase then some (0, pa - windowBase)
  else if pa < hostBase then some (1, pa - errBase)
  else if pa < hostBase + 0x1000 then some (2, pa - hostBase)
  else if pa < codeBase + 0x1000 then some (3, pa - codeBase)
  else if pa < eventBase + 0x80 then some (4, pa - eventBase)
  else none

/-- A free value of n bytes (log 7). -/
def State.freeBytes (s : State) (n : Nat) : List Byte × State :=
  ((List.range n).map (Config.freeByte s.free), { s with free := s.free + 1 })

/-- An aligned 8-byte read of a register. -/
def State.regRead (s : State) (k off : Nat) : Word × State :=
  match k with
  | 0 => (if off / 8 % 2 = 0 then (s.remapOf (off / 16)).word0 else s.remapWord1 (off / 16), s)
  | 1 => s.errRead off
  | 2 => (s.hostRead off, s)
  | 3 => (s.codeRead off, s)
  | _ => (s.eventRead off, s)

/-- An aligned 8-byte write of a register. -/
def State.regWrite (s : State) (k off : Nat) (v : Word) : State :=
  match k with
  | 0 => if off / 8 % 2 = 0 then s.remapPinWrite (off / 16) v else s
  | 1 => s.errWrite off v
  | 2 => s.hostWrite off v
  | 3 => s.codeWrite off v
  | _ => s

/-- A scalar load of n aligned bytes from the device window (R86). The event block answers any of the four sizes (R376), the
other register blocks 8-byte reads alone (R339, R357, R366, R374); the host, a root port or an address of no block answers
with free values (log 7), and the request leaves the device. -/
def State.devLoad (s : State) (pa n : Nat) : List Byte × State :=
  match blockOf pa with
  | some (k, off) =>
    if n = 8 then
      let (w, s1) := s.regRead k off
      (bytesOfNat 8 w.toNat, s1)
    else if k = 4 then (((bytesOfNat 8 (s.eventRead off).toNat).drop (off % 8)).take n, s)
    else s.freeBytes n
  | none => ({ s with out := s.out ++ [⟨pa, [], .access⟩] } : State).freeBytes n

/-- A scalar store of aligned bytes to the device window (R86). -/
def State.devStore (s : State) (pa : Nat) (bs : List Byte) : State :=
  match blockOf pa with
  | some (k, off) => if bs.length = 8 then s.regWrite k off (BitVec.ofNat 64 (natOfBytes bs)) else s
  | none => { s with out := s.out ++ [⟨pa, bs, .access⟩] }

end Sys2Proof.Machine
end

