-- ==== Sys2Proof/Machine/Operands.lean ====
section
/-! DEFINITION. Operand forms: register operands, immediates, branch targets and effective addresses (spec/08 R146 to
R151), and the elements of vector registers and masks (spec/03 R45, R46; spec/10 R192, R193). -/

namespace Sys2Proof.Machine

/-! ## Scalar operands -/

/-- Access width in bytes of the size field (R148). -/
def sizeBytes (size : BitVec 3) : Nat := 2 ^ size.toNat
/-- The displacement, sign-extended (R148). -/
def dispOf (disp : BitVec 16) : Word := disp.signExtend 64
/-- Effective address of a scalar M-format access (R148, R176). -/
def eaOf (x : MArgs) (h : Hart) : Word :=
  h.getG x.a + h.getG x.b * (if x.sc then word (sizeBytes x.size) else 1) + dispOf x.disp
/-- Effective address of a counted store, whose b field carries n (R179). -/
def eaNoIndex (x : MArgs) (h : Hart) : Word := h.getG x.a + dispOf x.disp
/-- n of a counted store: bits 5:0 in b, bit 6 in SC, bit 7 in AR (R179). -/
def rcN (b : Reg) (sc ar : Bool) : Nat := b.toNat + (if sc then 64 else 0) + (if ar then 128 else 0)
/-- Branch target (R147, R151): a pair counts from its qualified word. -/
def target (pc off : Word) (pfx : Bool) : Word := pc + (if pfx then 8 else 0) + 8 * off

/-! ## Vector registers -/

/-- Bits lo .. lo + n - 1 of a number. -/
def slice (v lo n : Nat) : Nat := v / 2 ^ lo % 2 ^ n
/-- v with bits lo .. lo + n - 1 replaced. -/
def splice (v lo n x : Nat) : Nat := v - slice v lo n * 2 ^ lo + x % 2 ^ n * 2 ^ lo
/-- A vector register of a hart. -/
def Hart.vreg (h : Hart) (r : Nat) : VReg := assocGet VReg.zero h.vec.v r
/-- Replaces a vector register: bits at and above the fill are 0 (R46). -/
def Hart.setVReg (h : Hart) (r fill bits : Nat) : Hart :=
  h.updVec fun v => { v with v := assocPut VReg.zero v.v r ⟨fill, bits % 2 ^ fill⟩ }
/-- Element e of w bits (R45). -/
def elem (v w e : Nat) : Nat := slice v (e * w) w
/-- A register with element e of w bits replaced. -/
def setElem (v w e x : Nat) : Nat := splice v (e * w) w x
/-- A mask register. -/
def Hart.mreg (h : Hart) (r : Nat) : Nat := assocGet 0 h.vec.m r
/-- Replaces a mask register. -/
def Hart.setMReg (h : Hart) (r v : Nat) : Hart := h.updVec fun x => { x with m := assocPut 0 x.m r v }

end Sys2Proof.Machine
end

