-- ==== Sys2Proof/Machine/Scalar.lean ====
section
/-! DEFINITION. Scalar integer and immediate instructions (spec/09 R165 to R169). -/

namespace Sys2Proof.Machine

/-! ## Helpers of the register forms -/

/-- Number of leading zero bits; 64 for 0 (R167). -/
def clz (a : Word) : Word := if a = 0 then 64 else word (63 - a.toNat.log2)
/-- Position of the lowest one bit among the first n; n where there is none. -/
def ctzTo : Nat → Nat → Nat
  | 0, _ => 0
  | n + 1, v => if v % 2 = 1 then 0 else 1 + ctzTo n (v / 2)
/-- Number of trailing zero bits; 64 for 0 (R167). -/
def ctz (a : Word) : Word := word (ctzTo 64 a.toNat)
/-- Number of one bits (R167). -/
def popc (a : Word) : Word := word (popcountTo 64 a.toNat)
/-- The bytes in reverse order (R167). -/
def bswap (a : Word) : Word := BitVec.ofNat 64 (natOfBytes (bytesOfNat 8 a.toNat).reverse)
/-- The shift amount: b mod 64 (R167). -/
def shamt (b : Word) : Nat := b.toNat % 64
/-- Bits 127:64 of the signed product (R167). -/
def mulh (a b : Word) : Word := (a.signExtend 128 * b.signExtend 128).extractLsb' 64 64
/-- Bits 127:64 of the unsigned product (R167). -/
def mulhu (a b : Word) : Word := (a.setWidth 128 * b.setWidth 128).extractLsb' 64 64
/-- Signed quotient, truncated; the special cases of R168. -/
def divS (a b : Word) : Word := if b = 0 then BitVec.allOnes 64 else a.sdiv b
/-- Unsigned quotient; division by zero as R168. -/
def divU (a b : Word) : Word := if b = 0 then BitVec.allOnes 64 else a / b
/-- Signed remainder, of the sign of a; the special cases of R168. -/
def remS (a b : Word) : Word := if b = 0 then a else a.srem b
/-- Unsigned remainder; division by zero as R168. -/
def remU (a b : Word) : Word := if b = 0 then a else a % b

/-- A register form: g[d] := v of g[a] and g[b], on every agent (R158, R165). -/
def regForm (x : AArgs) (s : State) (v : Word → Word → Word) : Out :=
  onAgents true true true s (.next (s.retire 8 fun h => h.setG x.d (v (h.getG x.a) (h.getG x.b))))
/-- An immediate form: g[d] := v of g[a] and the immediate (R169). -/
def immForm (x : IArgs) (s : State) (v : Word → Word → Word) : Out :=
  onAgents true true true s (.next (s.retire (stmtLen x.pfx) fun h => h.setG x.d (v (h.getG x.a) x.imm)))

/-! ## Register forms (R167, R168) -/

/-- ADD (R167). -/
def execAdd (x : AArgs) (s : State) : Out := regForm x s fun a b => a + b
/-- SUB (R167). -/
def execSub (x : AArgs) (s : State) : Out := regForm x s fun a b => a - b
/-- AND (R167). -/
def execAnd (x : AArgs) (s : State) : Out := regForm x s fun a b => a &&& b
/-- OR (R167). -/
def execOr (x : AArgs) (s : State) : Out := regForm x s fun a b => a ||| b
/-- XOR (R167). -/
def execXor (x : AArgs) (s : State) : Out := regForm x s fun a b => a ^^^ b
/-- ANDN (R167). -/
def execAndn (x : AArgs) (s : State) : Out := regForm x s fun a b => a &&& ~~~b
/-- SLL (R167). -/
def execSll (x : AArgs) (s : State) : Out := regForm x s fun a b => a <<< shamt b
/-- SRL (R167). -/
def execSrl (x : AArgs) (s : State) : Out := regForm x s fun a b => a >>> shamt b
/-- SRA (R167). -/
def execSra (x : AArgs) (s : State) : Out := regForm x s fun a b => a.sshiftRight (shamt b)
/-- ROL (R167). -/
def execRol (x : AArgs) (s : State) : Out := regForm x s fun a b => a.rotateLeft (shamt b)
/-- ROR (R167). -/
def execRor (x : AArgs) (s : State) : Out := regForm x s fun a b => a.rotateRight (shamt b)
/-- SLT (R167). -/
def execSlt (x : AArgs) (s : State) : Out := regForm x s fun a b => word1 (a.slt b)
/-- SLTU (R167). -/
def execSltu (x : AArgs) (s : State) : Out := regForm x s fun a b => word1 (a.ult b)
/-- MIN (R167). -/
def execMin (x : AArgs) (s : State) : Out := regForm x s fun a b => if a.slt b then a else b
/-- MAX (R167). -/
def execMax (x : AArgs) (s : State) : Out := regForm x s fun a b => if a.slt b then b else a
/-- MINU (R167). -/
def execMinu (x : AArgs) (s : State) : Out := regForm x s fun a b => if a.ult b then a else b
/-- MAXU (R167). -/
def execMaxu (x : AArgs) (s : State) : Out := regForm x s fun a b => if a.ult b then b else a
/-- MUL (R167). -/
def execMul (x : AArgs) (s : State) : Out := regForm x s fun a b => a * b
/-- MULH (R167). -/
def execMulh (x : AArgs) (s : State) : Out := regForm x s fun a b => mulh a b
/-- MULHU (R167). -/
def execMulhu (x : AArgs) (s : State) : Out := regForm x s fun a b => mulhu a b
/-- DIV (R167). -/
def execDiv (x : AArgs) (s : State) : Out := regForm x s fun a b => divS a b
/-- DIVU (R167). -/
def execDivu (x : AArgs) (s : State) : Out := regForm x s fun a b => divU a b
/-- REM (R167). -/
def execRem (x : AArgs) (s : State) : Out := regForm x s fun a b => remS a b
/-- REMU (R167). -/
def execRemu (x : AArgs) (s : State) : Out := regForm x s fun a b => remU a b
/-- CLZ (R167). -/
def execClz (x : AArgs) (s : State) : Out := regForm x s fun a _ => clz a
/-- CTZ (R167). -/
def execCtz (x : AArgs) (s : State) : Out := regForm x s fun a _ => ctz a
/-- POPC (R167). -/
def execPopc (x : AArgs) (s : State) : Out := regForm x s fun a _ => popc a
/-- BSWAP (R167). -/
def execBswap (x : AArgs) (s : State) : Out := regForm x s fun a _ => bswap a
/-- SEL (R167): g[a] if g[c] is not 0, else g[b]. -/
def execSel (x : AArgs) (s : State) : Out :=
  onAgents true true true s (.next (s.retire 8 fun h => h.setG x.d (if h.getG x.c ≠ 0 then h.getG x.a else h.getG x.b)))

/-! ## Immediate forms (R169) -/

/-- ADDI (R169). -/
def execAddi (x : IArgs) (s : State) : Out := immForm x s fun a i => a + i
/-- ANDI (R169). -/
def execAndi (x : IArgs) (s : State) : Out := immForm x s fun a i => a &&& i
/-- ORI (R169). -/
def execOri (x : IArgs) (s : State) : Out := immForm x s fun a i => a ||| i
/-- XORI (R169). -/
def execXori (x : IArgs) (s : State) : Out := immForm x s fun a i => a ^^^ i
/-- SLLI (R169). -/
def execSlli (x : IArgs) (s : State) : Out := immForm x s fun a i => a <<< i.toNat
/-- SRLI (R169). -/
def execSrli (x : IArgs) (s : State) : Out := immForm x s fun a i => a >>> i.toNat
/-- SRAI (R169). -/
def execSrai (x : IArgs) (s : State) : Out := immForm x s fun a i => a.sshiftRight i.toNat
/-- SLTI (R169). -/
def execSlti (x : IArgs) (s : State) : Out := immForm x s fun a i => word1 (a.slt i)
/-- SLTIU (R169). -/
def execSltiu (x : IArgs) (s : State) : Out := immForm x s fun a i => word1 (a.ult i)
/-- ADDPC (R169): the address of the statement plus the immediate. -/
def execAddpc (x : IArgs) (s : State) : Out := immForm x s fun _ i => s.me.pc + i

end Sys2Proof.Machine
end

