-- ==== Sys2Proof/Machine/ScalarFp.lean ====
section
/-! DEFINITION. Scalar floating point (spec/09 R166, R170 to R172). -/

namespace Sys2Proof.Machine

/-- The format with code f of a well-formed instruction (R161). -/
def scalarFmt (x : FArgs) : Fmt := (fmtOf x.f.toNat).getD fp32
/-- The bits of a format in a g register; what lies above is ignored (R166). -/
def fpBits (F : Fmt) (w : Word) : Nat := w.toNat % 2 ^ F.width
/-- A scalar operand, read under fcsr.FSUB (R27, R166). -/
def Hart.fpArg (h : Hart) (F : Fmt) (r : Reg) : FVal := operand F h.fsub (fpBits F (h.getG r))

/-- Writes a result, zero-extended, and accrues its flags (R166). -/
def Hart.putFp (h : Hart) (d : Reg) (r : Nat × Flags) : Hart := (h.setG d (word r.1)).accrue r.2

/-- A scalar floating-point statement: the result and flags from the hart (R166, R170). -/
def fpForm (x : FArgs) (s : State) (v : Hart → Nat × Flags) : Out :=
  onAgents true true true s (.next (s.retire 8 fun h => h.putFp x.d (v h)))

/-- FADD (R170). -/
def execFadd (x : FArgs) (s : State) : Out :=
  fpForm x s fun h => addVal (scalarFmt x) h.frm h.fsub (h.fpArg (scalarFmt x) x.a) (h.fpArg (scalarFmt x) x.b)
/-- FSUB (R170). -/
def execFsub (x : FArgs) (s : State) : Out :=
  fpForm x s fun h => addVal (scalarFmt x) h.frm h.fsub (h.fpArg (scalarFmt x) x.a) (h.fpArg (scalarFmt x) x.b).negate
/-- FMUL (R170). -/
def execFmul (x : FArgs) (s : State) : Out :=
  fpForm x s fun h => mulVal (scalarFmt x) h.frm h.fsub (h.fpArg (scalarFmt x) x.a) (h.fpArg (scalarFmt x) x.b)
/-- FDIV (R170). -/
def execFdiv (x : FArgs) (s : State) : Out :=
  fpForm x s fun h => divVal (scalarFmt x) h.frm h.fsub (h.fpArg (scalarFmt x) x.a) (h.fpArg (scalarFmt x) x.b)
/-- FSQRT (R170). -/
def execFsqrt (x : FArgs) (s : State) : Out :=
  fpForm x s fun h => sqrtVal (scalarFmt x) h.frm h.fsub (h.fpArg (scalarFmt x) x.a)
/-- FMIN (R170). -/
def execFmin (x : FArgs) (s : State) : Out :=
  fpForm x s fun h => minMaxBits (scalarFmt x) h.fsub false (fpBits (scalarFmt x) (h.getG x.a)) (fpBits (scalarFmt x) (h.getG x.b))
/-- FMAX (R170). -/
def execFmax (x : FArgs) (s : State) : Out :=
  fpForm x s fun h => minMaxBits (scalarFmt x) h.fsub true (fpBits (scalarFmt x) (h.getG x.a)) (fpBits (scalarFmt x) (h.getG x.b))
/-- FMADD (R170): x × y + z, rounded once. -/
def execFmadd (x : FArgs) (s : State) : Out :=
  fpForm x s fun h => fmaVal (scalarFmt x) h.frm h.fsub (h.fpArg (scalarFmt x) x.a) (h.fpArg (scalarFmt x) x.b) (h.fpArg (scalarFmt x) x.c)
/-- FMSUB (R170): x × y − z, rounded once. -/
def execFmsub (x : FArgs) (s : State) : Out :=
  fpForm x s fun h => fmaVal (scalarFmt x) h.frm h.fsub (h.fpArg (scalarFmt x) x.a) (h.fpArg (scalarFmt x) x.b) (h.fpArg (scalarFmt x) x.c).negate

/-- A comparison as the integer 0 or 1 with its flags (R171): NV for a signalling NaN, and with `quiet` for any NaN. -/
def fpCompare (quiet : Bool) (r : FVal → FVal → Bool) (x y : FVal) : Nat × Flags :=
  ((r x y).toNat, snanFlag [x, y] ||| flagIf (quiet && (x.isNan || y.isNan)) fNV)

/-- FEQ (R171). -/
def execFeq (x : FArgs) (s : State) : Out :=
  fpForm x s fun h => fpCompare false eqVal (h.fpArg (scalarFmt x) x.a) (h.fpArg (scalarFmt x) x.b)
/-- FLT (R171). -/
def execFlt (x : FArgs) (s : State) : Out :=
  fpForm x s fun h => fpCompare true ltVal (h.fpArg (scalarFmt x) x.a) (h.fpArg (scalarFmt x) x.b)
/-- x is at most y: neither is a NaN. -/
def leVal (x y : FVal) : Bool := ltVal x y || eqVal x y
/-- FLE (R171). -/
def execFle (x : FArgs) (s : State) : Out :=
  fpForm x s fun h => fpCompare true leVal (h.fpArg (scalarFmt x) x.a) (h.fpArg (scalarFmt x) x.b)
/-- FCLASS (R171): ignores FSUB, sets no flag. -/
def execFclass (x : FArgs) (s : State) : Out :=
  fpForm x s fun h => (classBits (scalarFmt x) (fpBits (scalarFmt x) (h.getG x.a)), 0)

/-- An integer result of FCVT as the register holds it: int32 sign-extended, the others as they stand (R172). -/
def cvtExtend (code b : Nat) : Nat := if code = 4 then (sext64 (word b) 32).toNat else b

/-- FCVT (R172): from the format with code c to the format with code f. -/
def fcvtVal (h : Hart) (f c : Nat) (a : Word) : Nat × Flags :=
  match fmtOf f, fmtOf c with
  | some F, some S => roundVal F h.frm h.fsub (operand S h.fsub (fpBits S a))
  | some F, none =>
    match intOf c with
    | some (w, sg) => roundVal F h.frm h.fsub (ofInt (intVal w sg a.toNat))
    | none => (0, 0)
  | none, some S =>
    match intOf f with
    | some (w, sg) =>
      let r := toInt w sg h.frm (operand S h.fsub (fpBits S a))
      (cvtExtend f r.1, r.2)
    | none => (0, 0)
  | none, none => (0, 0)

/-- FCVT (R172). -/
def execFcvt (x : FArgs) (s : State) : Out := fpForm x s fun h => fcvtVal h x.f.toNat x.c.toNat (h.getG x.a)

end Sys2Proof.Machine
end

