-- ==== Sys2Proof/Machine/Control.lean ====
section
/-! DEFINITION. Control transfer (spec/09 R173 to R175). -/

namespace Sys2Proof.Machine

/-- A conditional branch: taken to the target of R147 or R151, else the next statement (R173). -/
def branch (x : BArgs) (s : State) (taken : Word → Word → Bool) : Out :=
  onAgents true true true s (.next
    (if taken (s.me.getG x.a) (s.me.getG x.b) then s.retireTo (target s.me.pc x.off x.pfx) id
     else s.retire (stmtLen x.pfx) id))

/-- BEQ (R173). -/
def execBeq (x : BArgs) (s : State) : Out := branch x s fun a b => a == b
/-- BNE (R173). -/
def execBne (x : BArgs) (s : State) : Out := branch x s fun a b => a != b
/-- BLT (R173). -/
def execBlt (x : BArgs) (s : State) : Out := branch x s fun a b => a.slt b
/-- BGE (R173). -/
def execBge (x : BArgs) (s : State) : Out := branch x s fun a b => !a.slt b
/-- BLTU (R173). -/
def execBltu (x : BArgs) (s : State) : Out := branch x s fun a b => a.ult b
/-- BGEU (R173). -/
def execBgeu (x : BArgs) (s : State) : Out := branch x s fun a b => !a.ult b
/-- J (R173): always taken. -/
def execJ (x : BArgs) (s : State) : Out :=
  onAgents true true true s (.next (s.retireTo (target s.me.pc x.off x.pfx) id))
/-- CALL (R174): g63 receives the address of the next statement. -/
def execCall (x : BArgs) (s : State) : Out :=
  onAgents true true true s (.next
    (s.retireTo (target s.me.pc x.off x.pfx) fun h => h.setG 63 (h.pc + word (stmtLen x.pfx))))
/-- A jump to g[a] (R175): misaligned where its low three bits are not 0. -/
def jump (x : AArgs) (s : State) (f : Hart → Hart) : Out :=
  let t := s.me.getG x.a
  onAgents true true true s (if bitsOf t 2 0 ≠ 0 then raise .misaligned t s else .next (s.retireTo t f))
/-- JR (R175). -/
def execJr (x : AArgs) (s : State) : Out := jump x s id
/-- CALLR (R175): with a = 63 it jumps to the old g63. -/
def execCallr (x : AArgs) (s : State) : Out := jump x s fun h => h.setG 63 (h.pc + 8)

end Sys2Proof.Machine
end

