-- ==== Sys2Proof/Machine/LoadStore.lean ====
section
/-! DEFINITION. Scalar loads and stores, counted forms, IPREF and ISYNC (spec/09 R176 to R181). -/

namespace Sys2Proof.Machine

/-- The bytes of located runs. -/
def State.segBytes (s : State) (gs : List Seg) : List Byte := gs.flatMap fun g => s.rdBytes g.leaf.pa g.len
/-- Writes bytes over located runs. -/
def State.segWrite (s : State) : List Seg → List Byte → State
  | [], _ => s
  | g :: r, bs => (s.wrBytes g.leaf.pa (bs.take g.len)).segWrite r (bs.drop g.len)
/-- Every run is open to the agent. -/
def State.gateSegs (s : State) (who : Nat) (gs : List Seg) : Except Stop Unit := gs.forM fun g => s.gate who g.leaf.pa g.len
/-- No run is poisoned. -/
def State.cleanSegs (s : State) (gs : List Seg) : Except Stop Unit := gs.forM fun g => s.clean g.leaf.pa g.len
/-- The lines of located runs. -/
def segLines (gs : List Seg) : List Nat := gs.flatMap fun g => linesOf g.leaf.pa g.len
/-- A performed access leaves the queues of refusals (R123). -/
def State.servedSegs (s : State) (who : Nat) (gs : List Seg) : State :=
  if s.pins.isEmpty then s else (segLines gs).foldl (fun s l => s.served who l) s
/-- The runs lie on a device page. -/
def onDevice (gs : List Seg) : Bool := gs.any fun g => g.leaf.cls == clsDevice
/-- A synchronising access must wait for the refusals of an ended pin (R123). -/
def State.pinReady (s : State) (who : Nat) (gs : List Seg) (sync : Option Nat) : Except Stop Unit :=
  match sync with
  | some sc => if (segLines gs).any fun l => s.pinBlocked who l sc then .error (.wait none) else .ok ()
  | none => .ok ()
/-- What a synchronising access at a scope does to the pins (R122). -/
def State.pinSegs (s : State) (who : Nat) (gs : List Seg) (sync : Option Nat) : State :=
  match sync with
  | some sc => (segLines gs).foldl (fun s l => s.pinLine who l sc) s
  | none => s

/-- Locates a scalar access of n bytes (R177, R86): natural alignment where it is marked, counted, or on a device page. -/
def State.scalarLocate (s : State) (need : Need) (okCls : Nat → Bool) (va : Word) (n : Nat) (aligned : Bool) :
    Except Stop (List Seg) := do
  let mis := va.toNat % n ≠ 0
  if aligned && mis then .error (.trap .misaligned va)
  let gs ← s.locate (s.ctx s.cur) need okCls va.toNat n
  if onDevice gs && mis then .error (.trap .misaligned va) else .ok gs

/-- A scalar load (R176, R177): the bytes read and the state after it; `sync` is the scope of an acquire. On a device page it
pins no line: whether it would is not said (log 8). -/
def State.scalarLoad (s : State) (va : Word) (n : Nat) (sync : Option Nat) : Except Stop (List Byte × State) := do
  let gs ← s.scalarLocate .r (fun _ => true) va n sync.isSome
  if onDevice gs then
    match gs with
    | [g] => .ok (s.devLoad g.leaf.pa n)
    | _ => .error (.trap .misaligned va)
  else
    s.gateSegs s.cur gs
    s.pinReady s.cur gs sync
    s.cleanSegs gs
    .ok (s.segBytes gs, (s.servedSegs s.cur gs).pinSegs s.cur gs sync)

/-- A scalar store (R176, R177): the state after it; `sync` is the scope of a release, which ends narrower pins (R123).
On a device page it pins no line (log 8). -/
def State.scalarStore (s : State) (va : Word) (bs : List Byte) (sync : Option Nat) : Except Stop State := do
  let gs ← s.scalarLocate .w (fun _ => true) va bs.length sync.isSome
  let s1 := match sync with | some sc => s.releasePins s.cur sc | none => s
  if onDevice gs then
    match gs with
    | [g] => .ok (s1.devStore g.leaf.pa bs)
    | _ => .error (.trap .misaligned va)
  else
    s1.gateSegs s.cur gs
    s1.pinReady s.cur gs sync
    .ok ((((s1.segWrite gs bs).servedSegs s.cur gs)).pinSegs s.cur gs sync)

/-- The scope of a marked access: AR = 1 names it (R178). -/
def syncScope (x : MArgs) : Option Nat := if x.ar then some x.scope.toNat else none
/-- The low n bytes of a register. -/
def lowBytes (v : Word) (n : Nat) : List Byte := bytesOfNat n v.toNat
/-- Bytes as a word, sign- or zero-extended (R176). -/
def extend (signed : Bool) (bs : List Byte) : Word :=
  let v := BitVec.ofNat 64 (natOfBytes bs)
  if signed then sext64 v (8 * bs.length) else v

/-- LD and LDU (R176 to R178). -/
def load (signed : Bool) (x : MArgs) (s : State) : Out :=
  onAgents true true true s (onOk s (s.scalarLoad (eaOf x s.me) (sizeBytes x.size) (syncScope x)) fun r =>
    .next (r.2.retire 8 fun h => h.setG x.d (extend signed r.1)))
/-- LD (R176). -/
def execLd (x : MArgs) (s : State) : Out := load true x s
/-- LDU (R176). -/
def execLdu (x : MArgs) (s : State) : Out := load false x s
/-- ST (R176 to R178). -/
def execSt (x : MArgs) (s : State) : Out :=
  onAgents true true true s (onOk s
    (s.scalarStore (eaOf x s.me) (lowBytes (s.me.getG x.d) (sizeBytes x.size)) (syncScope x)) fun s1 =>
    .next (s1.retire 8 id))

/-! ## Counted forms (R179) -/

/-- The run of a counted scalar access, which lies in one granule, open and readable. -/
def State.countedLocate (s : State) (need : Need) (va : Word) (n : Nat) : Except Stop Seg := do
  match ← s.scalarLocate need (· == clsCounted) va n true with
  | [g] =>
    s.gate s.cur g.leaf.pa n
    .ok g
  | _ => .error (.trap .misaligned va)

/-- LD.rd and LDU.rd (R179): a count of 0 raises the overrun trap and counts one overrun, once every earlier vector instruction has
completed and the trap is taken (R344, R376); else the data are read and the count goes down in one action (R99, R100). -/
def loadRd (signed : Bool) (x : MArgs) (s : State) : Out :=
  let va := eaOf x s.me
  let n := sizeBytes x.size
  onAgents true true true s (onOk s
    (do
      if x.ar && va.toNat % n ≠ 0 then .error (.trap .misaligned va)
      let g ← s.countedLocate .rw va n
      s.pinReady s.cur [g] (syncScope x)
      s.clean g.leaf.pa n
      .ok g) fun g =>
    let line := lineOf g.leaf.pa
    if s.count line = 0 then
      if !s.me.vec.queue.isEmpty then .next s.waitMe
      else raise .overrun (word (va.toNat / 128 * 128)) (s.lineEvent line Part.addOvrun)
    else
      let v := extend signed (s.rdBytes g.leaf.pa n)
      .next ((((s.rdDec line).servedSegs s.cur [g]).pinSegs s.cur [g] (syncScope x)).retire 8 fun h => h.setG x.d v))
/-- LD.rd (R179). -/
def execLdRd (x : MArgs) (s : State) : Out := loadRd true x s
/-- LDU.rd (R179). -/
def execLduRd (x : MArgs) (s : State) : Out := loadRd false x s
/-- ST.rc n (R179, R98). -/
def execStRc (x : MArgs) (s : State) : Out :=
  let va := eaNoIndex x s.me
  let n := sizeBytes x.size
  onAgents true true true s (onOk s (s.countedLocate .w va n) fun g =>
    let s1 := s.rcSet (lineOf g.leaf.pa) (rcN x.b x.sc x.ar)
    .next (((s1.wrBytes g.leaf.pa (lowBytes (s.me.getG x.d) n)).servedSegs s.cur [g]).retire 8 id))

/-! ## Prefetch and ISYNC (R95, R180, R181) -/

/-- IPREF's fill (R180): dropped where the target does not translate for fetch, or where its line is not open or is poisoned.
An application core has no cluster L2, and R95 names no cache of its own for level 2: the model fills the core's own
instruction cache at either level (log 38). -/
def State.prefetch (s : State) (who level : Nat) (va : Word) : State :=
  match s.translate (s.ctx who) .x va.toNat with
  | .error _ => s
  | .ok l =>
    let line := lineOf l.pa
    let asid := s.asidOf who
    let vl := lineOf va.toNat
    let s1 := match icL2 who with | some c => s.icFillLine who c [] asid vl line | none => s
    if level = 1 ∨ (icL2 who).isNone then
      match icL1 who with
      | some c => s1.icFillLine who c (icL2 who).toList asid vl line
      | none => s1
    else s1
/-- IPREF (R180): changes no architectural state, never faults and never waits. -/
def execIpref (x : PArgs) (s : State) : Out :=
  onAgents true true true s (.next
    ((s.prefetch s.cur x.cond.toNat (target s.me.pc x.off x.pfx)).retire (stmtLen x.pfx) id))
/-- ISYNC (R181). -/
def execIsync (x : MArgs) (s : State) : Out :=
  onAgents true true true s (.next ((s.isync s.cur (s.me.getG x.a) (s.me.getG x.b)).retire 8 id))

end Sys2Proof.Machine
end

