-- ==== Sys2Proof/Machine/Atomics.lean ====
section
/-! DEFINITION. Atomics, fences and barrier-object instructions (spec/09 R182 to R185). -/

namespace Sys2Proof.Machine

/-- The release half of an AMO: order bit 1 (R183). -/
def amoRel (x : AmoArgs) : Bool := x.order.getLsbD 1

/-- The functions of the atomics (R182): the new value, or none to write nothing, and the flags, from the width in bits, the old
value, the operand, and the comparand of AMOCAS. AMOFADD rounds to nearest even and keeps subnormals, whatever fcsr holds. -/
def amoFn (f : AmoFn) (w o y c : Nat) : Option Nat × Flags :=
  match f with
  | .swap => (some y, 0)
  | .add => (some ((o + y) % 2 ^ w), 0)
  | .and => (some (o &&& y), 0)
  | .or => (some (o ||| y), 0)
  | .xor => (some (o ^^^ y), 0)
  | .min => (some (if toSigned w o < toSigned w y then o else y), 0)
  | .max => (some (if toSigned w o < toSigned w y then y else o), 0)
  | .minu => (some (min o y), 0)
  | .maxu => (some (max o y), 0)
  | .cas => (if o = c then some y else none, 0)
  | .fadd =>
    let F := if w = 32 then fp32 else fp64
    let r := addVal F 0 0 (unpack F o) (unpack F y)
    (some r.1, r.2)

/-- An AMO (R182, R183). -/
def amo (f : AmoFn) (x : AmoArgs) (s : State) : Out :=
  let n := sizeBytes x.size
  let va := s.me.getG x.a
  let sc := x.scope.toNat
  onAgents true true true s (onOk s
    (do
      if va.toNat % n ≠ 0 then .error (.trap .misaligned va)
      let gs ← s.locate (s.ctx s.cur) .rw notDevice va.toNat n
      s.gateSegs s.cur gs
      s.pinReady s.cur gs (some sc)
      s.cleanSegs gs
      .ok gs) fun gs =>
    let old := natOfBytes (s.segBytes gs)
    let r := amoFn f (8 * n) old ((s.me.getG x.b).toNat % 2 ^ (8 * n)) ((s.me.getG x.d).toNat % 2 ^ (8 * n))
    let s1 := if amoRel x then s.releasePins s.cur sc else s
    let s2 := match r.1 with | some v => s1.segWrite gs (bytesOfNat n v) | none => s1
    let s3 := (s2.servedSegs s.cur gs).pinSegs s.cur gs (some sc)
    .next (s3.retire 8 fun h => (h.setG x.d (sext64 (word old) (8 * n))).accrue r.2))

/-- AMOSWAP (R182). -/
def execAmoswap (x : AmoArgs) (s : State) : Out := amo .swap x s
/-- AMOADD (R182). -/
def execAmoadd (x : AmoArgs) (s : State) : Out := amo .add x s
/-- AMOAND (R182). -/
def execAmoand (x : AmoArgs) (s : State) : Out := amo .and x s
/-- AMOOR (R182). -/
def execAmoor (x : AmoArgs) (s : State) : Out := amo .or x s
/-- AMOXOR (R182). -/
def execAmoxor (x : AmoArgs) (s : State) : Out := amo .xor x s
/-- AMOMIN (R182). -/
def execAmomin (x : AmoArgs) (s : State) : Out := amo .min x s
/-- AMOMAX (R182). -/
def execAmomax (x : AmoArgs) (s : State) : Out := amo .max x s
/-- AMOMINU (R182). -/
def execAmominu (x : AmoArgs) (s : State) : Out := amo .minu x s
/-- AMOMAXU (R182). -/
def execAmomaxu (x : AmoArgs) (s : State) : Out := amo .maxu x s
/-- AMOCAS (R182): writes only where the old value is g[d]. -/
def execAmocas (x : AmoArgs) (s : State) : Out := amo .cas x s
/-- AMOFADD (R182). -/
def execAmofadd (x : AmoArgs) (s : State) : Out := amo .fadd x s

/-! ## Fences and barrier objects (R184, R185) -/

/-- FENCE (R112): every earlier access has performed in this model, so it only completes (log 8). -/
def execFence (_ : MArgs) (s : State) : Out := onAgents true true true s (.next (s.retire 8 id))

/-- The barrier object at g[a], open to the agent and readable; the line is the run that holds it. -/
def State.bobjReady (s : State) (va : Word) (sync : Option Nat) : Except Stop Nat := do
  let pa ← s.bobjLocate (s.ctx s.cur) va
  s.gate s.cur pa 64
  if sync.any fun sc => s.pinBlocked s.cur (lineOf pa) sc then .error (.wait none)
  s.clean pa 64
  .ok pa

/-- ARRIVE and ARRIVE.REL (R125, R185): an arrival; with .rel a release at the scope; at core or cluster scope the line is
pinned. -/
def arrive (rel : Bool) (x : MArgs) (s : State) : Out :=
  let sc := x.scope.toNat
  onAgents true true true s (onOk s (s.bobjReady (s.me.getG x.a) (some sc)) fun pa =>
    let s1 := if rel then s.releasePins s.cur sc else s
    .next ((((bobjAct s1 pa .arrive).served s.cur (lineOf pa)).pinLine s.cur (lineOf pa) sc).retire 8 id))
/-- ARRIVE (R184). -/
def execArrive (x : MArgs) (s : State) : Out := arrive false x s
/-- ARRIVE.REL (R184). -/
def execArriveRel (x : MArgs) (s : State) : Out := arrive true x s
/-- EXPECT (R184, R185). -/
def execExpect (x : MArgs) (s : State) : Out :=
  onAgents true true true s (onOk s (s.bobjReady (s.me.getG x.a) none) fun pa =>
    .next (((bobjAct s pa (.expect (s.me.getG x.b))).served s.cur (lineOf pa)).retire 8 id))

/-- A waiter for phase p is released: PHASE is 1 to 2^31 − 1 ahead (R126). -/
def phasePassed (phase p : Nat) : Bool :=
  let d := (phase + 2 ^ 32 - p) % 2 ^ 32
  decide (1 ≤ d) && decide (d < 2 ^ 31)

/-- WAITB (R126, R185): returns ERR, or 0 as an acquire that pins the line; otherwise it waits. -/
def execWaitb (x : MArgs) (s : State) : Out :=
  let sc := x.scope.toNat
  onAgents true true true s (onOk s (s.bobjReady (s.me.getG x.a) none) fun pa =>
    let err := bobjErr s pa
    if err ≠ 0 then .next ((s.served s.cur (lineOf pa)).retire 8 fun h => h.setG x.d (word err))
    else if phasePassed (bitsOf (s.rd64 pa) 31 0) (bitsOf (s.me.getG x.b) 31 0) then
      if s.pinBlocked s.cur (lineOf pa) sc then .next s.waitMe
      else .next (((s.served s.cur (lineOf pa)).pinLine s.cur (lineOf pa) sc).retire 8 fun h => h.setG x.d 0)
    else .next (s.served s.cur (lineOf pa)).waitMe)

end Sys2Proof.Machine
end

