-- ==== Sys2Proof/Machine/Launch.lean ====
section
/-! DEFINITION. Groups, launches, items, claims, waves and deterministic drains (spec/04 R58 to R78, spec/06 R127, R128,
spec/16 R293, spec/09 R186, R187). -/

namespace Sys2Proof.Machine

/-! ## Additions in memory (R226, R249) -/

/-- Adds a value into memory contents of format ef (R226: to nearest even, subnormals kept); an addition of GSCAT adds an
fp32 contribution (R249) and keeps only NV of opposite infinities (R250). -/
def addInto (ef old val : Nat) (grid : Bool) : Nat × Flags :=
  match fmtOf ef with
  | some F =>
    let a := unpack F old
    let b := unpack (if grid then fp32 else F) val
    let r := addVal F 0 0 a b
    (r.1, if grid then (if a.isNan || b.isNan then 0 else r.2 &&& fNV) else r.2)
  | none => ((old + val) % 2 ^ efWidth ef, 0)

/-- Performs one addition at a physical address. -/
def State.addAt (s : State) (pa ef val : Nat) (grid : Bool) : State × Flags :=
  let n := efWidth ef / 8
  let r := addInto ef (natOfBytes (s.rdBytes pa n)) val grid
  (s.wrBytes pa (bytesOfNat n r.1), r.2)

/-! ## Held entries and rounds (R127, R128, R293) -/

/-- The bytes a held entry touches: address and length. -/
def heldSpan : Held → Nat × Nat
  | .byte _ _ pa _ _ _ => (pa, 1)
  | .add _ pa ef _ _ => (pa, efWidth ef / 8)
/-- A byte with some bits replaced (R44). -/
def mergeByte (old mask val : Byte) : Byte := (old &&& ~~~mask) ||| (val &&& mask)
/-- The hart that holds a logical hart's place. -/
def Place.hart : Place → Option Nat
  | .placed h => some h
  | _ => none
/-- The name of the held entries of a logical hart in a queue of refusals (R123): its vector unit, or one of their own. -/
def LHart.who (x : LHart) (p launch l : Nat) : Nat :=
  match x.place.hart with | some h => vectorUnit h | none => heldName p launch l
/-- The hart of a logical hart that has ended. -/
def Hart.isEnded (h : Hart) (p launch l : Nat) : Bool := h.part == p && h.launch == launch && h.logical == l
/-- Flags accrue into the registers of a hart that has ended, where its slot or its slot's tail still keeps them (R80, R127). -/
def State.accrueEnded (s : State) (p launch l : Nat) (fl : Flags) : State :=
  let f (h : Hart) : Hart := if h.isEnded p launch l then h.accrue fl else h
  { s with
    harts := s.harts.map fun e => (e.1, if e.2.status = .free ∧ e.1 < seqBase then f e.2 else e.2)
    tails := s.tails.map fun e => (e.1, e.2.map f) }
/-- Performs a held entry of a logical hart; the flags of an addition accrue into the issuing hart's fcsr, or wait for it
while no slot has its registers (R127). -/
def State.performHeld (s : State) (p launch l : Nat) (x : LHart) (e : Held) : State :=
  let t := match e with
    | .byte _ _ pa mask val _ => s.wr8 pa (mergeByte (s.rd8 pa) mask val)
    | .add _ pa ef val grid =>
      let r := s.addAt pa ef val grid
      match x.place with
      | .placed h => r.1.updHart h fun y => y.accrue r.2
      | .ended => r.1.accrueEnded p launch l r.2
      | _ => match r.1.recOf p launch with
        | some y => r.1.setRec (y.setLhart l { y.lhart l with fl := (y.lhart l).fl ||| r.2 })
        | none => r.1
  if s.pins.isEmpty then t
  else (linesOf (heldSpan e).1 (heldSpan e).2).foldl (fun (s : State) k => s.served (x.who p launch l) k) t
/-- The held entries that a logical hart contributes to the rounds up to n: those of the drain points that it has reached, and
what the queue of an ended hart has added since (R80, R128). -/
def LHart.due (x : LHart) (n : Nat) : List Held :=
  x.held.filter fun e => decide (heldRound e ≤ n) && (x.place == .ended || decide (heldRound e ≤ x.drains))
/-- The held entries that stay. -/
def LHart.later (x : LHart) (n : Nat) : List Held :=
  x.held.filter fun e => !(decide (heldRound e ≤ n) && (x.place == .ended || decide (heldRound e ≤ x.drains)))
/-- The lines that stores among some held entries write whole, added to a list (R356). -/
def heldOver (es : List Held) (laid : List Nat) : List Nat :=
  es.foldl (fun o e => match e with
    | .byte _ _ pa _ _ true => if o.contains (lineOf pa) then o else lineOf pa :: o
    | _ => o) laid
/-- What holds back held entries in the order in which they drain (R104, R117, R122). An addition reads, and meets the poison of
its line (R356), but not where a store that drains before it has written the whole line: those lines are in `laid`. -/
def State.heldGate (s : State) (who : Nat) : List Held → List Nat → Except Stop Unit
  | [], _ => .ok ()
  | e :: r, laid => do
    s.gate who (heldSpan e).1 (heldSpan e).2
    match e with
    | .add .. => (linesOf (heldSpan e).1 (heldSpan e).2).forM fun l => if laid.contains l then .ok () else s.clean (128 * l) 1
    | .byte .. => .ok ()
    s.heldGate who r (heldOver [e] laid)
/-- A refusal that the held entries of a logical hart meet at a pinned line is recorded (R122); an addition that meets a
poisoned line ends the record (R356). -/
def State.heldRefused (s : State) (p launch l : Nat) (x : LHart) (es : List Held) (laid : List Nat) : State :=
  match s.heldGate (x.who p launch l) es laid with
  | .error (.wait (some line)) => s.refuse (x.who p launch l) line
  | .error (.poison v) => match s.recOf p launch with
    | some r =>
      if r.ending.isSome then s
      else s.endRecord r (some (fatalTrap (x.place.hart.getD 0x1FFF) r.sr.asid launch .memory v
        ((x.place.hart.map fun h => (s.hart h).vec.vstart).getD 0)))
    | none => s
  | _ => s
/-- Performs the held entries of a logical hart up to a round, in program order, and forgets them. -/
def State.drainLhart (s : State) (p launch l n : Nat) : State :=
  match s.recOf p launch with
  | none => s
  | some r =>
    let x := r.lhart l
    let es := x.due n
    let s0 := es.foldl (fun (s : State) e => s.performHeld p launch l x e) s
    let s1 := s0.unpoisonLines (es.filterMap fun e => match e with | .byte _ _ pa _ _ true => some (lineOf pa) | _ => none)
    let rest := x.later n
    match s1.recOf p launch with
    | some r1 => s1.setRec (r1.setLhart l { r1.lhart l with held := rest, xl := if rest.isEmpty then [] else x.xl })
    | none => s1
/-- A placed member has reached round n: its n-th drain point, GBAR, or its end (R128). A suspended hart keeps its place in the
round, which waits for it (log 25). -/
def LHart.reached (x : LHart) (n : Nat) : Bool :=
  match x.place with
  | .unplaced => true
  | .ended => true
  | _ => decide (n ≤ x.drains) || x.gwait.isSome
/-- The member has something for round n: it has reached its n-th drain point, or it has ended and its queue has added entries
since (R80). -/
def LHart.gives (x : LHart) (n : Nat) : Bool := decide (n ≤ x.drains) || (x.place == .ended && !(x.due n).isEmpty)
/-- Insertion into a list sorted by logical index, then launch. -/
def insertMember (x : Nat × Nat) : List (Nat × Nat) → List (Nat × Nat)
  | [] => [x]
  | y :: r => if x.1 < y.1 ∨ (x.1 = y.1 ∧ x.2 < y.2) then x :: y :: r else y :: insertMember x r
/-- The harts of the records that share rounds with r, logical index and launch number, in the order in which a round drains. A
hart that has left its group by LEAVE is one of them (R128, log 25). -/
def State.roundOrder (s : State) (r : Rec) : List (Nat × Nat) :=
  ((s.roundRecs r).flatMap fun x => x.lh.map fun e => (e.1, x.sr.launch)).foldr insertMember []
/-- A logical hart of a partition by its index and launch number. -/
def State.memberOf (s : State) (p : Nat) (m : Nat × Nat) : LHart := match s.recOf p m.2 with | some r => r.lhart m.1 | none => LHart.start
/-- The entries of round n of some harts of a partition are open, in the order in which they drain. -/
def State.roundOpen (s : State) (p n : Nat) : List (Nat × Nat) → List Nat → Bool
  | [], _ => true
  | m :: ms, laid =>
    let x := s.memberOf p m
    (match s.heldGate (x.who p m.2 m.1) (x.due n) laid with | .ok _ => true | .error _ => false)
      && s.roundOpen p n ms (heldOver (x.due n) laid)
/-- Every placed member has reached round n of r. -/
def State.roundReached (s : State) (r : Rec) (n : Nat) : Bool := (s.roundRecs r).all fun x => x.lh.all fun e => e.2.reached n
/-- Round n of r is ready: every placed member reached it, some member contributes to it, and its entries are open. -/
def State.roundReady (s : State) (r : Rec) (n : Nat) : Bool :=
  s.roundReached r n && (s.roundRecs r).any (fun x => x.lh.any fun e => e.2.gives n) && s.roundOpen r.part n (s.roundOrder r) []
/-- Drains the next round of a record where it is ready (R128): ascending logical index, then program order. -/
def State.drainRound (s : State) (p launch : Nat) : Option State :=
  match s.recOf p launch with
  | none => none
  | some r =>
    let n := r.drained + 1
    if r.sr.det && !r.sr.rsv && r.ending.isNone && s.roundReady r n then
      let s1 := (s.roundOrder r).foldl (fun (s : State) m => s.drainLhart p m.2 m.1 n) s
      let ids := (s.roundRecs r).map (·.sr.launch)
      some { s1 with recs := s1.recs.map fun x => if x.part = p ∧ ids.contains x.sr.launch then { x with drained := n } else x }
    else none
/-- Drains rounds while they are ready. -/
def State.drainRounds (s : State) (p launch : Nat) : Nat → State
  | 0 => s
  | fuel + 1 => match s.drainRound p launch with
    | some s1 => s1.drainRounds p launch fuel
    | none => s
/-- The logical hart of a placed hart reaches a drain point (R128, R293): in a reserving record its entries drain at once;
else it contributes to its next round. Or why it waits. -/
def State.drainPoint (s : State) (hid : Nat) : Except Stop State :=
  match s.myRec hid with
  | none => .ok s
  | some r =>
    if !r.sr.det then .ok s
    else if r.sr.rsv then do
      let x := s.myLhart hid
      let y := { x with drains := x.drains + 1 }
      s.heldGate (y.who r.part r.sr.launch (s.hart hid).logical) (y.due y.drains) []
      .ok ((s.updLhart hid fun x => { x with drains := x.drains + 1 }).drainLhart r.part r.sr.launch (s.hart hid).logical y.drains)
    else .ok (s.updLhart hid fun x => { x with drains := x.drains + 1 })
/-- The refusals that some harts of a partition meet for round n, in the order in which they drain, are recorded. -/
def State.roundTry (s : State) (p n : Nat) : List (Nat × Nat) → List Nat → State
  | [], _ => s
  | m :: ms, laid =>
    let x := s.memberOf p m
    (s.heldRefused p m.2 m.1 x (x.due n) laid).roundTry p n ms (heldOver (x.due n) laid)
/-- The refusals that keep the next round of a record from draining are recorded (R122). -/
def State.roundRefused (s : State) (p launch : Nat) : State :=
  match s.recOf p launch with
  | none => s
  | some r =>
    let n := r.drained + 1
    if r.sr.det && !r.sr.rsv && r.ending.isNone && s.roundReached r n then s.roundTry p n (s.roundOrder r) [] else s
/-- Drains every ready round of a record, and lets the phases that waited for them complete (R128). -/
def State.settle (s : State) (p launch : Nat) : State := ((s.drainRounds p launch 64).roundRefused p launch).groupsCheck p
/-- Every ready round drains, one that the end of another record of its group has made ready included (R128, R352). -/
def State.settleAllRounds (s : State) : State :=
  (s.recs.filter fun r => r.sr.det && !r.sr.rsv && r.ending.isNone).foldl (fun (s : State) r => s.settle r.part r.sr.launch) s
/-- Rounds drain by themselves where issued work completes at once (log 2). -/
def State.settleRounds (s : State) (hid : Nat) : State :=
  if s.eager then s.settle (s.hart hid).part (s.hart hid).launch else s

/-! ## Completion of a record (R65) -/

/-- What an agent answers where a drain point of its hart does not perform: held entries stand in the queues of refusals under
the name of its vector unit (R122, R123). -/
def onDrain {α : Type} (s : State) (r : Except Stop α) (k : α → Out) : Out :=
  match r with
  | .ok a => k a
  | .error (.wait (some line)) => .next (s.refuse (vectorUnit s.cur) line).waitMe
  | .error e => answerStop s e
/-- Every hart of the record has ended and every access has performed. -/
def State.recDone (s : State) (r : Rec) : Bool :=
  (List.range r.sr.harts).all (fun l => (r.lhart l).place == .ended && (r.lhart l).held.isEmpty)
    && s.tails.all (fun e => e.2.all fun h => !(h.part == r.part && h.launch == r.sr.launch && !(h.vec.queue.isEmpty && h.mx.queue.isEmpty)))
    && s.cmds.all (fun c => !(c.part == r.part && c.launch == r.sr.launch))
/-- The record completes where it is done, or where an error has ended it; a refusal of its arrival is recorded (R122). -/
def State.tryComplete (s : State) (p launch : Nat) : State :=
  match s.recOf p launch with
  | some r =>
    if r.ending.isSome then s.tryFinish r
    else if s.recDone r then match s.completeRec r with
      | .ok t => t
      | .error (.wait (some line)) => s.refuse outsider line
      | .error _ => s
    else s
  | none => s

/-- Records complete that have nothing left to do, one whose last held entries another's drain point has drained included (R65,
R128). -/
def State.settleDone (s : State) : State := s.recs.foldl (fun (s : State) r => s.tryComplete r.part r.sr.launch) s

/-! ## The Shutter at an item's end (R324) -/

/-- Harts on a core that satisfy f. -/
def State.coreHarts (s : State) (core : Nat) (f : Hart → Bool) : List Nat :=
  (s.harts.filter fun e => decide (e.1 < seqBase) && coreOf e.1 == core && e.2.status != .free && f e.2).map (·.1)
/-- A victim or guest loses its maximum (R324); a guest stays one until it ends. No lanes are then left to take from a victim, so
a VSETB that follows keeps the fills, though none came while the Shutter was set (R203, log 27). A guest whose vector
instructions wait goes on waiting until the lanes have passed (R323 step 4). -/
def Hart.ownLanes (h : Hart) : Hart :=
  h.updVec fun v => { v with lanes := none, victim := false, passed := false, taken := false, expired := false }
/-- A victim of a core still has lanes to pass (R323 step 4): its VSETB has not come, or, where it has parked or ended
without one, its queued vector instructions are not complete (R80). -/
def State.lanesHeld (s : State) (core : Nat) : Bool :=
  !(s.coreHarts core fun h => h.vec.victim && !h.vec.passed && (h.status != .parked || !h.vec.queue.isEmpty)).isEmpty
    || s.tails.any fun e => decide (e.1 < seqBase) && coreOf e.1 == core
        && e.2.any fun h => h.vec.victim && !h.vec.passed && !h.vec.queue.isEmpty
/-- Every victim of a core has passed its lanes: its guests' vector instructions issue (R323 step 4). -/
def State.lanesPass (s : State) (core : Nat) : State :=
  if s.lanesHeld core then s
  else (s.coreHarts core fun h => h.vec.vwait).foldl (fun (s : State) g => s.updHart g fun h => h.updVec fun v => { v with vwait := false }) s
/-- Logical hart l has retired an item and requested no other: a Shutter victim that has parked, wherever it is now (R324). -/
def Rec.idle (r : Rec) (l : Nat) : Bool := r.sr.nest && (r.lhart l).item.isNone
/-- A logical hart is suspended that was taken from a core, and of which f holds, whoever has the slot now (R58, R328). -/
def State.awaits (s : State) (core : Nat) (f : Rec → Nat → Saved → Bool) : Bool :=
  s.recs.any fun r => r.ending.isNone && r.lh.any fun e => e.2.place == .suspended && match e.2.saved with
    | some v => decide (v.hid < seqBase) && coreOf v.hid == core && f r e.1 v
    | none => false
/-- A hart stands in a slot of a core, and f holds of it; one that has been saved does not. -/
def State.stands (s : State) (core : Nat) (f : Hart → Bool) : Bool :=
  s.harts.any fun e => decide (e.1 < seqBase) && coreOf e.1 == core && e.2.status != .free && e.2.status != .held && f e.2
/-- A guest of a core has not ended: it is there, or suspended (R324, R328). -/
def State.guestsLeft (s : State) (core : Nat) : Bool := s.stands core (·.vec.guest) || s.awaits core fun _ _ v => v.guest
/-- A victim of a core has neither parked nor ended (R324). -/
def State.victimsLeft (s : State) (core : Nat) : Bool :=
  s.stands core (fun h => h.vec.victim && h.status != .parked && (h.status == .ending || match s.recOf h.part h.launch with
      | some r => !r.idle h.logical
      | none => true))
    || s.awaits core fun r l v => v.victim && !r.idle l
/-- The g register a queued entry still writes (R194). -/
def QEntry.gDest (q : QEntry) : Option Reg :=
  match q.ins with
  | .vmpopc x => some x.d
  | .vmfirst x => some x.d
  | _ => none
/-- A queued instruction has still to write one of g1 to g7, which IDONE loads for the next item: its older value must not come
last (R68, R194, log 26). -/
def Hart.itemPending (h : Hart) : Bool := h.vec.queue.any fun q => match q.gDest with
  | some r => decide (1 ≤ r.toNat) && decide (r.toNat ≤ 7)
  | none => false
/-- The tail of a slot with a hart at its head: harts that have ended while their queued work still runs (R68, R80). -/
def State.setTail (s : State) (hid : Nat) (h : Hart) (r : List Hart) : State :=
  { s with tails := assocSet s.tails hid (h :: r) }
/-- A hart that ends joins the tail of its slot where work of its queues is left: vector instructions (R80), or matrix commands,
which the engine executes before those of the hart that is placed there next (R68, R257). -/
def State.addTail (s : State) (hid : Nat) (h : Hart) : State :=
  if h.vec.queue.isEmpty && h.mx.queue.isEmpty then s
  else { s with tails := assocSet s.tails hid (assocGet [] s.tails hid ++ [h]) }
/-- A parked victim takes the next item once no guest is left on its core (R324). -/
def State.unpark (s : State) (hid : Nat) : State :=
  match s.myRec hid with
  | none => s.freeSlot hid
  | some r => match r.handOut (s.hart hid).logical with
    | some (q, r1) =>
      if (s.hart hid).itemPending then s
      else (s.setRec r1).updHart hid fun h => (h.ownLanes.loadItem r.sr q).retireTo r.sr.entry
    | none =>
      let h := { s.hart hid with instret := (s.hart hid).instret + 1 }
      let s0 := s.setRec (r.setLhart h.logical { r.lhart h.logical with place := .ended, item := none })
      let s1 := ((s0.setHart hid h).addTail hid h).freeSlot hid
      let s2 := s1.groupLeave r.part fun m => m == (r.sr.launch, h.logical)
      if s.eager then s2.tryComplete r.part r.sr.launch else s2
/-- Parked victims resume when the last guest of a core has ended (R324). -/
def State.unparkCore (s : State) (core : Nat) : State :=
  if s.guestsLeft core then s
  else (s.coreHarts core fun h => h.status == .parked).foldl (fun (s : State) h => s.unpark h) s
/-- A slot has become free: parked victims of its core resume, and lanes pass (R324, R328). -/
def State.slotFreed (s : State) (hid : Nat) : State :=
  if kindOf hid = .vector then
    let t := s.unparkCore (coreOf hid)
    if t.eager then t.lanesPass (coreOf hid) else t
  else s
/-- An ended record's hart leaves its slot once its issued work is complete (R352); `idle` says so of its queue. -/
def State.endedSlot (s : State) (hid : Nat) (idle : Bool) : State :=
  let h := s.hart hid
  if h.status = .ending ∧ idle ∧ h.mx.queue.isEmpty then
    ((s.freeSlot hid).slotFreed hid).settleEnds
  else s

/-! ## The end of a hart (R68, R80) -/

/-- An ended hart whose queues are empty leaves the tail of its slot: the slot, if still free, keeps its registers, its record may
complete (R65), and lanes may pass (R323). -/
def State.tailDone (s : State) (hid : Nat) (h : Hart) (r : List Hart) : State :=
  let o := s.hart hid
  let s1 := { s with tails := assocPut [] s.tails hid r }
  let s2 := if o.status = .free ∧ o.part = h.part ∧ o.launch = h.launch ∧ o.logical = h.logical then
      s1.setHart hid { h with status := .free } else s1
  if s2.eager then (s2.tryComplete h.part h.launch).lanesPass (coreOf hid) else s2
/-- The record of an ended hart whose queued work meets a context-fatal error ends (R80, R352). -/
def State.endOwner (t : State) (hid : Nat) (h : Hart) (tval : Word) (vstart : Nat) : State :=
  match t.recOf h.part h.launch with
  | some k => if k.ending.isSome then t else t.endRecord k (some (fatalTrap hid h.asid h.launch .memory tval vstart))
  | none => t
/-- The hart leaves its group and is Ended; its queued work goes on in the slot's tail (R80). The end is a drain point, and the
rounds that it makes ready drain before the phase of its group may complete (R128). Or why it waits. -/
def State.endHart (s : State) (hid : Nat) : Except Stop State :=
  match s.myRec hid with
  | none => .ok (s.freeSlot hid)
  | some r => do
    let s0 ← s.drainPoint hid
    let h := s0.hart hid
    let m := (r.sr.launch, h.logical)
    let s1 := s0.updLhart hid fun x => { x with place := .ended, item := none, adm := .none, claims := [], nclaims := 0 }
    let s3 := (s1.addTail hid h).freeSlot hid
    let s4 := if s.eager then s3.settle r.part r.sr.launch else s3
    let s5 := s4.groupLeave r.part fun x => x == m
    let s6 := s5.slotFreed hid
    .ok (if s.eager then s6.tryComplete r.part r.sr.launch else s6)

/-! ## Groups (R69, R70) -/

/-- The member name of the executing hart. -/
def State.member (s : State) : Nat × Nat := (s.me.launch, s.me.logical)
/-- The group of the executing hart. -/
def State.myGroup (s : State) : Option Grp := s.grpOf s.me.part s.me.launch s.me.logical
/-- JOIN (R69). -/
def execJoin (x : AArgs) (s : State) : Out :=
  let v := s.me.getG x.a
  let id := bitsOf v 15 0
  let p := s.me.part
  let status (n : Nat) (s : State) : Out := .next (s.retire 8 fun h => h.setG x.d (word n))
  onAgents true true false s (
    if id = 0 ∨ bitsOf v 63 16 ≠ 0 then status 3 s
    else if s.myGroup.isSome then status 1 s
    else if (s.grp p id).isNone ∧ 4096 ≤ s.grpCount p then status 2 s
    else status 0 (s.groupJoin p id [s.member]))
/-- LEAVE (R69, R70). -/
def execLeave (x : AArgs) (s : State) : Out :=
  onAgents true true false s (
    match s.myGroup with
    | none => .next (s.retire 8 fun h => h.setG x.d 1)
    | some _ => .next ((s.groupLeave s.me.part fun m => m == s.member).retire 8 fun h => h.setG x.d 0))
/-- The places of the members of a group. A member without a slot, unplaced or suspended, lies outside every cluster: R70 says so
of unplaced members, and the model takes suspended ones with them (log 40). -/
def State.memberHarts (s : State) (g : Grp) : List (Option Nat) :=
  g.members.map fun m => match s.recOf g.part m.1 with | some r => (r.lhart m.2).place.hart | none => none
/-- All values of a list are equal. -/
def allSame (l : List Nat) : Bool := match l with | [] => true | a :: r => r.all (· == a)
/-- The scope of a group (R70): the narrowest that holds every member. -/
def State.groupScope (s : State) (g : Grp) : Nat :=
  let hs := s.memberHarts g
  if hs.any Option.isNone then 4
  else
    let ids := hs.filterMap id
    if ids.all (fun h => kindOf h == .vector) && allSame (ids.map coreOf) then 1
    else if allSame (ids.map clusterOf) then 2
    else if allSame (ids.map fun h => quadrantOf (clusterOf h)) then 3
    else 4
/-- GBAR after the arrival stands (R70, R187): returns 0 where the phase has completed, else waits. -/
def gbarWait (x : AArgs) (s : State) : Out :=
  match (s.myLhart s.cur).gwait, s.myGroup with
  | some ph, some g =>
    if g.phase = ph then .next s.waitMe
    else .next ((s.updLhart s.cur fun l => { l with gwait := none }).retire 8 fun h => h.setG x.d 0)
  | _, _ => .next ((s.updLhart s.cur fun l => { l with gwait := none }).retire 8 fun h => h.setG x.d 0)
/-- GBAR (R69, R70, R128, R187): its arrival does not wait for vector accesses (R115). What a queued instruction holds later
belongs to the hart's next drain point (log 25). -/
def execGbar (x : AArgs) (s : State) : Out :=
  onAgents true true false s (
    match s.myGroup with
    | none => .next (s.retire 8 fun h => h.setG x.d 1)
    | some g =>
      if (s.myLhart s.cur).gwait.isSome then gbarWait x s
      else onDrain s (s.drainPoint s.cur) fun s0 =>
          let s1 := s0.releasePins s.cur (s.groupScope g)
          let s2 := s1.updLhart s.cur fun l => { l with gwait := some g.phase }
          let s3 : State := { s2 with groups := s2.groups.map fun (y : Grp) =>
            if y.part = g.part ∧ y.id = g.id then { y with arrived := y.arrived ++ [s.member] } else y }
          gbarWait x ((s3.settleRounds s.cur).groupCheck g.part g.id))

/-! ## SPAWN (R61, R62) -/

/-- The words of a start record. -/
def wordAt (bs : List Byte) (off : Nat) : Word := BitVec.ofNat 64 (natOfBytes ((bs.drop off).take 8))
/-- A start record read from 128 bytes (R59); the launch number is set on acceptance. -/
def startRecOf (bs : List Byte) : StartRec :=
  { launch := 0, entry := wordAt bs 0, arg := wordAt bs 8, ctl := wordAt bs 0x10, group := bitsOf (wordAt bs 0x18) 15 0,
    cmask := natOfBytes ((bs.drop 0x20).take 20), done := wordAt bs 0x38,
    bounds := (List.range 6).map fun d => (wordAt bs (0x40 + 8 * d)).toNat }
/-- The checks of the status-2 row that look at the record alone (R61). -/
def startRecBad (bs : List Byte) (r : StartRec) : Bool :=
  let used := r.bounds.take r.dims
  bitsOf (wordAt bs 0x18) 63 16 != 0 || natOfBytes ((bs.drop 0x34).take 4) != 0 || natOfBytes ((bs.drop 0x70).take 16) != 0
    || bitsOf r.ctl 63 45 != 0 || bitsOf r.ctl 11 11 != 0
    || bitsOf r.entry 2 0 != 0 || (r.done != 0 && bitsOf r.done 5 0 != 0)
    || (decide (1 ≤ r.ceil) && decide (r.ceil ≤ 127))
    || (!r.nest && (r.dims != 0 || r.order != 0 || r.rsv))
    || (r.nest && (r.dims == 0 || r.dims == 7))
    || used.any (fun n => decide (2 ^ 32 < n)) || (r.bounds.drop r.dims).any (fun n => n != 0)
    || decide (2 ^ 48 < used.foldl (· * ·) 1)
    || (r.seq && (r.nest || bitsOf r.ctl 16 15 != 0 || r.ceil != 0))
    || (r.rsv && r.clusters.length > 1)
/-- A queue of a partition. -/
def Part.queue (p : Part) (q : Nat) : SQueue := assocGet ⟨[], 0⟩ p.queues q
/-- Replaces a queue. -/
def Part.setQueue (p : Part) (q : Nat) (x : SQueue) : Part := { p with queues := assocPut ⟨[], 0⟩ p.queues q x }
/-- The issuer may use queue q of partition p (R312). -/
def State.mayUse (s : State) (p q asid : Nat) (exec : Bool) : Bool :=
  let c := assocGet (0 : Word) s.qctl (64 * p + q)
  c.getLsbD 63 && (exec || c.getLsbD 62 || bitsOf c 42 32 == asid)
/-- The ASID-table entry of the record's ASID is valid and belongs to the partition (R311). -/
def State.asidUsable (s : State) (who p asid : Nat) : Except Stop Bool := do
  let (w, _) ← s.entry ⟨who, asid, false⟩ 0 0 0 (s.asidtab.toNat + 16 * asid)
  .ok (w.getLsbD 63 && bitsOf w 62 61 == p)
/-- DONE lies in an ordinary page with R, W and U under the record's ASID (R61). -/
def State.doneOk (s : State) (r : StartRec) : Except Stop Bool :=
  if r.done = 0 then .ok true
  else match s.locate ⟨outsider, r.asid, true⟩ .rw (· == clsOrdinary) r.done.toNat 64 with
    | .ok _ => .ok true
    | .error (.trap ..) => .ok false
    | .error e => .error e
/-- The status of SPAWN for a record read without fault (R61). -/
def State.spawnStatus (s : State) (bs : List Byte) (r : StartRec) (p q asid : Nat) (exec : Bool) : Except Stop Nat := do
  if 63 < q then .ok 5
  else if !s.partEnabled p then .ok 3
  else if !s.mayUse p q asid exec || (!exec && r.asid != asid) || r.asid == 0 then .ok 4
  else if !(← s.asidUsable s.cur p r.asid) then .ok 4
  else if startRecBad bs r then .ok 2
  else if r.clusters.isEmpty || r.clusters.any (fun c => !s.ownsCluster p c) then .ok 3
  else if !(← s.doneOk r) then .ok 2
  else if 32 ≤ ((s.part p).queue q).recs.length then .ok 1
  else .ok 0
/-- Eight bytes at a time from a device page, in ascending address: R61 gives neither width nor order (log 7). -/
def devRead128 (s : State) (pa : Nat) : Nat → List Byte × State
  | 0 => ([], s)
  | n + 1 =>
    let r := s.devLoad pa 8
    let t := devRead128 r.2 (pa + 8) n
    (r.1 ++ t.1, t.2)
/-- The record at an address, read as scalar loads of the issuer would (R61). -/
def State.readStart (s : State) (va : Word) : Except Stop (List Byte × State) := do
  if va.toNat % 128 ≠ 0 then .error (.trap .misaligned va)
  match ← s.locate (s.ctx s.cur) .r (fun _ => true) va.toNat 128 with
  | [g] =>
    if g.leaf.cls = clsDevice then .ok (devRead128 s g.leaf.pa 16)
    else
      s.gateSegs s.cur [g]
      s.cleanSegs [g]
      .ok (s.segBytes [g], s.servedSegs s.cur [g])
  | _ => .error (.trap .misaligned va)
/-- SPAWN (R61, R62): waits until the hart's vector accesses have performed, those that deterministic mode holds included (R127);
reads the record, checks it, and queues it. -/
def execSpawn (x : AArgs) (s : State) : Out :=
  let p := s.partOf s.cur
  let qw := (s.me.getG x.b).toNat
  onAgents true true true s (
    if !s.me.vec.queue.isEmpty || !(s.myLhart s.cur).held.isEmpty then .next s.waitMe
    else onOk s (do
      let (bs, s1) ← s.readStart (s.me.getG x.a)
      let st ← s1.spawnStatus bs (startRecOf bs) p qw (s.asidOf s.cur) (s.privileged s.cur)
      .ok (bs, s1, st)) fun r =>
        let s1 := r.2.1
        if r.2.2 = 0 then
          let n := (s1.part p).launches
          let q := (s1.part p).queue qw
          let s2 := s1.updPart p fun y =>
            { y.setQueue qw { q with recs := q.recs ++ [{ startRecOf r.1 with launch := n }] } with launches := n + 1 }
          .next (s2.retire 8 fun h => h.setG x.d (word (n * 256)))
        else .next (s1.retire 8 fun h => h.setG x.d (word r.2.2)))

/-! ## Claims and waves (R72 to R77) -/

/-- The Latch slot of an address (R72). -/
def latchSlot (a : Word) : Nat :=
  let l := a >>> 7
  ((l ^^^ (l >>> 12) ^^^ (l >>> 24)) &&& 0xFFF).toNat
/-- The executing hart runs an item of a reserving record. -/
def State.inReserving (s : State) : Bool :=
  (s.myLhart s.cur).item.isSome && (match s.myRec s.cur with | some r => r.sr.rsv | none => false)
/-- CLAIM (R72): posts a slot; the claim trap in the three cases. -/
def execClaim (x : MArgs) (s : State) : Out :=
  let l := s.myLhart s.cur
  onAgents true true false s (
    if !s.inReserving || l.adm == .admitted || decide (16 ≤ l.nclaims) then raise .claim 0 s
    else
      let slot := latchSlot (eaNoIndex x s.me)
      .next ((s.updLhart s.cur fun y =>
        { y with claims := if y.claims.contains slot then y.claims else y.claims ++ [slot], nclaims := y.nclaims + 1 }).retire 8 id))
/-- Pending items of a record, ascending: item, logical hart, slots. -/
def Rec.pendings (r : Rec) : List (Nat × Nat × List Nat) :=
  let ps := r.lh.filterMap fun e => match e.2.item, e.2.adm with
    | some q, .pending => some (q, e.1, e.2.claims)
    | _, _ => none
  ps.foldr (fun x (acc : List (Nat × Nat × List Nat)) =>
    acc.takeWhile (fun y => y.1 < x.1) ++ x :: acc.dropWhile (fun y => y.1 < x.1)) []
/-- The logical harts whose items a wave admits: no slot is held by an item admitted before (R74). -/
def admits : List Nat → List (Nat × Nat × List Nat) → List Nat
  | _, [] => []
  | slots, (_, l, cs) :: r =>
    if cs.any slots.contains then admits slots r else l :: admits (slots ++ cs) r
/-- A wave may form (R74). -/
def Rec.waveReady (r : Rec) : Bool :=
  r.lh.all (fun e => e.2.adm != .admitted) && r.lh.any (fun e => e.2.adm == .pending)
    && (!r.sr.det || r.lh.all fun e => match e.2.place with
        | .placed _ | .suspended => e.2.adm != .none
        | _ => true)
/-- The wave former (R74). -/
def Rec.formWave (r : Rec) : Rec :=
  let ls := admits [] r.pendings
  { r with wave := r.wave + 1,
           lh := r.lh.map fun e => if ls.contains e.1 then (e.1, { e.2 with adm := .admitted }) else e }
/-- Forms a wave of a record where one may form. -/
def State.tryWave (s : State) (p launch : Nat) : State :=
  match s.recOf p launch with
  | some r => if r.sr.rsv && r.waveReady then s.setRec r.formWave else s
  | none => s
/-- The item of the executing hart becomes pending; waves form at once where work completes at once (log 2). -/
def State.makePending (s : State) : State :=
  let s1 := s.updLhart s.cur fun l => if l.adm = .none then { l with adm := .pending } else l
  if s.eager then s1.tryWave s.me.part s.me.launch else s1
/-- CLWAIT (R74, R75, R187). -/
def execClwait (_ : AArgs) (s : State) : Out :=
  onAgents true true false s (
    if !s.inReserving then raise .claim 0 s
    else
      let s1 := if (s.myLhart s.cur).adm = .admitted then s else s.makePending
      if (s1.myLhart s.cur).adm = .admitted then .next (s1.retire 8 id) else .next s1.waitMe)

/-! ## IDONE (R68, R324) -/

/-- The executing hart ends (R68); instret advances as the statement completes. It waits for none of its queued work (log 40). -/
def idoneEnd (s : State) : Out :=
  onDrain s ((s.setMe { s.me with instret := s.me.instret + 1 }).endHart s.cur) .next
/-- The next item after the hart's own is retired (R67, R68, R324): a Shutter victim parks at its IDONE while guests of its core
have not ended, and completes it when it goes on. -/
def idoneNext (s : State) (r : Rec) : Out :=
  let l := s.me.logical
  let core := coreOf s.cur
  let v := s.me.vec
  if v.victim && s.guestsLeft core then
    let t := s.setMe { s.me.updVec (fun v => { v with lanes := none }) with status := .parked }
    .next (if t.eager then t.lanesPass core else t)
  else match r.handOut l with
    | none => idoneEnd s
    | some (q, r1) =>
      let lifts := v.victim || (v.guest && !s.victimsLeft core)
      .next ((s.setRec r1).retireTo r.sr.entry fun h => (if lifts then h.ownLanes else h).loadItem r.sr q)
/-- The executing hart would load its next item, and a queued instruction has still to write a register of it (R68, log 26). -/
def State.itemWaits (s : State) (r : Rec) : Bool :=
  s.me.itemPending && (r.handOut s.me.logical).isSome && !(s.me.vec.victim && s.guestsLeft (coreOf s.cur))
/-- IDONE (R68): in a reserving record a release at device scope, once every earlier access has performed. -/
def execIdone (_ : AArgs) (s : State) : Out :=
  onAgents true true false s (
    match s.myRec s.cur with
    | none => .next (s.freeSlot s.cur)
    | some r =>
      if !r.sr.nest then idoneEnd s
      else if !r.sr.rsv && s.itemWaits r then .next s.waitMe
      -- a victim that was switched out while it was parked has retired its item (R324)
      else if (s.myLhart s.cur).item.isNone then idoneNext s r
      else if r.sr.rsv then
        let s1 := if (s.myLhart s.cur).adm = .admitted then s else s.makePending
        if (s1.myLhart s.cur).adm ≠ .admitted || !s.me.vec.queue.isEmpty then .next s1.waitMe
        else onDrain s1 (s1.drainPoint s.cur) fun s2 =>
          let s3 := (s2.releasePins s.cur 4).updLhart s.cur fun l => { l with claims := [], nclaims := 0, adm := .none, item := none }
          let s4 := if s.eager then s3.tryWave r.part r.sr.launch else s3
          match s4.myRec s.cur with
          | some r4 => idoneNext s4 r4
          | none => .next s4
      else
        let s1 := s.updLhart s.cur fun l => { l with item := none }
        match s1.myRec s.cur with
        | some r1 => idoneNext s1 r1
        | none => .next s1)

/-- VDRAIN (R114): every earlier vector instruction has completed; held entries count as complete (R127). -/
def execVdrain (_ : MArgs) (s : State) : Out :=
  onAgents true false false s (if s.me.vec.queue.isEmpty then .next (s.retire 8 id) else .next s.waitMe)

end Sys2Proof.Machine
end

