-- ==== Sys2Proof/Machine/Place.lean ====
section
/-! DEFINITION. Selecting records, granting clusters, preemption and the Shutter (spec/04 R58 to R64, spec/19 R318 to R324,
R328). -/

namespace Sys2Proof.Machine

/-! ## Selection (R319, R63) -/

/-- Cluster c is withheld from partition p (R318); bits outside the partition are ignored. -/
def State.withheld (s : State) (p c : Nat) : Bool := nbit (s.part p).sched.hold c && s.ownsCluster p c
/-- A candidate is eligible, but for the placing record (R319). -/
def State.eligible (s : State) (p : Nat) (r : StartRec) : Bool :=
  r.clusters.all (fun c => !s.withheld p c)
    && !(r.rsv && s.recs.any fun x => x.sr.rsv && x.sr.cmask == r.cmask)
/-- Effective priority (R319). -/
def effPrio (r : StartRec) (aged : Nat) : Nat := min 8 (r.prio + aged)
/-- The eligible heads of the queues of p: queue, record, effective priority. -/
def State.candidates (s : State) (p : Nat) : List (Nat × StartRec × Nat) :=
  (s.part p).queues.filterMap fun (q, x) => match x.recs with
    | r :: _ => if s.eligible p r then some (q, r, effPrio r x.aged) else none
    | [] => none
/-- The candidate with the greatest effective priority, the lowest launch number among equals. -/
def bestOf (l : List (Nat × StartRec × Nat)) : Option (Nat × StartRec × Nat) :=
  l.foldl (fun o c => match o with
    | none => some c
    | some b => if b.2.2 < c.2.2 ∨ (b.2.2 = c.2.2 ∧ c.2.1.launch < b.2.1.launch) then some c else o) none
/-- The logical harts of a record as members. -/
def StartRec.members (r : StartRec) : List (Nat × Nat) := (List.range r.harts).map fun l => (r.launch, l)
/-- The placing record of p. -/
def State.placingRec (s : State) (p : Nat) : Option Rec := (s.part p).placing.bind fun l => s.recOf p l
/-- GROUP_MEMBERSHIP_TAKE (R63): every logical hart of the placing record joins its group, unless the group limit holds it;
a record without items completes at once (R65). -/
def State.takeGroup (s : State) (p : Nat) : State :=
  match s.placingRec p with
  | none => s
  | some r =>
    if r.selected then s
    else if r.sr.group ≠ 0 ∧ (s.grp p r.sr.group).isNone ∧ 4096 ≤ s.grpCount p then s
    else
      let empty := r.sr.nest && r.sr.items == 0
      let s1 := if r.sr.group = 0 ∨ empty then s else s.groupJoin p r.sr.group r.sr.members
      let r1 := { r with selected := true,
                         lh := if empty then (List.range r.sr.harts).map fun l => (l, { LHart.start with place := .ended }) else r.lh }
      let s2 := s1.setRec r1
      if empty then
        let s3 := s2.updPart p fun x => { x with placing := none }
        if s3.eager then s3.tryComplete p r.sr.launch else s3
      else s2
/-- The rounds that the records of a group have drained (R128). -/
def State.groupDrained (s : State) (p : Nat) (r : StartRec) : Nat :=
  if r.group = 0 then 0
  else s.recs.foldl (fun n x =>
    if x.part = p ∧ x.sr.group = r.group ∧ x.sr.det ∧ !x.sr.rsv then max n x.drained else n) 0
/-- RECORD_SELECT (R319): the choice becomes the placing record and takes its group memberships. Its harts join the rounds that
its group has not drained (R128, log 25). -/
def State.selectRec (s : State) (p : Nat) : State :=
  if (s.part p).placing.isSome then s
  else match bestOf (s.candidates p) with
    | none => s
    | some (q, r, _) =>
      let x := (s.part p).queue q
      let rec1 : Rec := { part := p, sr := r, selected := false, granted := 0, nextItem := 0, aged := x.aged, wave := 0,
                          drained := s.groupDrained p r, ending := none, lh := [] }
      let s1 := s.updPart p fun y => { y.setQueue q ⟨x.recs.drop 1, 0⟩ with placing := some r.launch }
      ({ s1 with recs := s1.recs ++ [rec1] } : State).takeGroup p
/-- PRIORITY_AGING (R319): the head of queue q, or for q = 64 the placing record, has waited one more interval. -/
def State.age (s : State) (p q : Nat) : State :=
  if q < 64 then
    s.updPart p fun x => match (x.queue q).recs with
      | [] => x
      | _ :: _ => x.setQueue q { x.queue q with aged := (x.queue q).aged + 1 }
  else match s.placingRec p with
    | some r => s.setRec { r with aged := r.aged + 1 }
    | none => s

/-! ## Placement (R321, R64) -/

/-- The hart slots of cluster c for a record: its sequencer, or slots lo k to lo k + h − 1 of its four cores k, in the order of
logical indices. -/
def slotsOf (c : Nat) (seqr : Bool) (lo : Nat → Nat) (h : Nat) : List Nat :=
  if seqr then [seqBase + c] else (List.range 4).flatMap fun k => (List.range h).map fun i => 32 * c + 8 * k + lo k + i
/-- Every slot of cluster c of a kind. -/
def allSlots (c : Nat) (seqr : Bool) : List Nat := slotsOf c seqr (fun _ => 0) 8
/-- A hart at its start, but for what its item gives (R64). -/
def Hart.start (r : Rec) (l seed : Nat) (guest : Option Nat) : Hart :=
  let h : Hart := { Hart.free with
    status := .running, pc := r.sr.entry, part := r.part, launch := r.sr.launch, logical := l, asid := r.sr.asid,
    share := r.sr.share, mx := Mx.start seed,
    vec := { Vec.start with lanes := guest, guest := guest.isSome, vwait := guest.isSome } }
  let h1 := (h.setG 7 r.sr.arg).setG 8 (word r.sr.launch)
  if r.sr.nest then h1 else (h1.setG 1 (word l)).setG 2 (word r.sr.harts)
/-- Places logical hart l of a record in a slot; with a loop nest it takes its first item, or ends at once (R58, R67). -/
def State.placeHart (s : State) (hid p launch l : Nat) (guest : Option Nat) : State :=
  match s.recOf p launch with
  | none => s
  | some r =>
    let s1 : State := { s with free := s.free + 1 }
    let put (s : State) (r : Rec) (h : Hart) : State :=
      (s.setRec (r.setLhart l { r.lhart l with place := .placed hid, drains := r.drained })).setHart hid h
    if r.sr.nest then match r.handOut l with
      | some (q, r1) => put s1 r1 ((Hart.start r l s.free guest).loadItem r.sr q)
      | none => (s1.setRec (r.setLhart l { r.lhart l with place := .ended })).groupLeave p fun m => m == (launch, l)
    else put s1 r (Hart.start r l s.free guest)
/-- Grants cluster c to the placing record: its harts are placed in slots from `lo` on. -/
def State.grant (s : State) (p launch c : Nat) (lo : Nat → Nat) (guest : Option Nat) : State :=
  match s.recOf p launch with
  | none => s
  | some r =>
    let first := (r.sr.clusters.filter (· < c)).length * r.sr.perCluster
    let s1 := s.setRec { r with granted := setNBit r.granted c true }
    ((slotsOf c r.sr.seq lo r.sr.share).zipIdx).foldl (fun (s : State) (hid, i) => s.placeHart hid p launch (first + i) guest) s1
/-- Every slot that a record needs of a cluster is free (R321). -/
def State.clusterFree (s : State) (c : Nat) (seqr : Bool) : Bool :=
  (allSlots c seqr).all fun h => (s.hart h).status == .free
/-- The harts on the cores of a cluster, or on its sequencer. -/
def State.clusterHarts (s : State) (c : Nat) (seqr : Bool) : List Nat :=
  (allSlots c seqr).filter fun h => (s.hart h).status != .free
/-- Every hart on a cluster, its sequencer's included. -/
def State.allHarts (s : State) (c : Nat) : List Nat := s.clusterHarts c false ++ s.clusterHarts c true

/-! ## Preemption and the Shutter (R322, R323) -/

/-- Every record that holds a hart on the cluster has a PRIO below the placing record's effective priority (R322). -/
def State.preemptible (s : State) (c eff : Nat) : Bool :=
  (s.allHarts c).all fun h => match s.myRec h with
    | some r => decide (r.sr.prio < eff)
    | none => false
/-- The cluster holds guests (R322, R323). -/
def State.hasGuests (s : State) (c : Nat) : Bool := (s.clusterHarts c false).any fun h => (s.hart h).vec.guest
/-- The lane share of the victims on core k of a cluster (R323): of the harts there, and on a core without harts that of the
cluster's. -/
def State.holderShare (s : State) (c k : Nat) : Nat :=
  match (s.clusterHarts c false).find? (fun h => coreOf h == 4 * c + k), s.clusterHarts c false with
  | some h, _ => (s.hart h).share
  | none, h :: _ => (s.hart h).share
  | none, [] => 1
/-- The Shutter is the means for the cluster (R322, the last case). A hart that has stopped and whose slot is not released is
still one of the holder's. Where a resume put a hart into a slot that the guests need, the means is the switch (log 27). -/
def State.shutterCase (s : State) (c : Nat) (r : Rec) : Bool :=
  !r.sr.seq && !s.hasGuests c && ((s.clusterHarts c false).all fun h =>
    let x := s.hart h
    x.status != .parked && x.status != .ending && decide (x.share ≤ 4) && decide (x.share + r.sr.share ≤ 8)
      && (match s.myRec h with | some v => !v.sr.det | none => false))
    && (slotsOf c false (s.holderShare c) r.sr.share).all fun h => (s.hart h).status == .free
/-- A full context switch is wanted (R322): of the sequencer's hart for a SEQ record, of every hart on a cluster that holds
guests, else of the holder's harts. -/
def State.switchOut (s : State) (c : Nat) (seqr : Bool) : State :=
  (if seqr then s.clusterHarts c true else if s.hasGuests c then s.allHarts c else s.clusterHarts c false).foldl
    (fun (s : State) h => s.updHart h fun x =>
      if x.status = .held ∨ x.status = .stopping ∨ x.status = .ending then x else { x with preempt := true }) s
/-- The Shutter is set on the cluster (R323 step 1): the victims' maximum, and the guests in the slots above theirs. A victim
that has been saved has no lanes left to pass (R325). -/
def State.shutter (s : State) (p launch c : Nat) (share : Nat) : State :=
  let set (s : State) (h : Nat) : State :=
    let x := s.hart h
    let t := s.setHart h (x.updVec fun v =>
      { v with lanes := some (16 / x.share), victim := true, passed := x.status == .held, expired := false })
    if x.status = .held then t.updLhart h fun l =>
      { l with saved := l.saved.map fun v => { v with victim := true, lanes := some (16 / x.share) } }
    else t
  let s1 := (s.clusterHarts c false).foldl set s
  let s2 := s1.grant p launch c (s.holderShare c) (some (16 / share))
  if s2.eager then (List.range 4).foldl (fun (s : State) k => s.lanesPass (4 * c + k)) s2 else s2
/-- What the allocator does for one masked cluster under DET = 0: grants it, sets the Shutter, or asks for switches. -/
def State.allot (s : State) (p launch c : Nat) : State :=
  match s.recOf p launch with
  | none => s
  | some r =>
    if nbit r.granted c || s.withheld p c then s
    else if s.clusterFree c r.sr.seq then s.grant p launch c (fun _ => 0) none
    else if !s.preemptible c (effPrio r.sr r.aged) then s
    else if s.shutterCase c r then s.shutter p launch c r.sr.share
    else s.switchOut c r.sr.seq
/-- The placing record stops placing once its last cluster is granted (R321). -/
def State.placedAll (s : State) (p launch : Nat) : State :=
  match s.recOf p launch with
  | some r => if r.sr.clusters.all fun c => nbit r.granted c then s.updPart p fun x => { x with placing := none } else s
  | none => s
/-- CLUSTER_GRANT (R321, R322): clusters ascending; under DET = 1 nothing until all can be granted in one step. -/
def State.clusterGrant (s : State) (p : Nat) : State :=
  match s.placingRec p with
  | none => s
  | some r =>
    if !r.selected then s
    else
      let launch := r.sr.launch
      let eff := effPrio r.sr r.aged
      let ready (c : Nat) : Bool := !s.withheld p c &&
        (s.clusterFree c r.sr.seq || (s.preemptible c eff && s.shutterCase c r))
      let s1 :=
        if r.sr.det && !r.sr.clusters.all ready then
          r.sr.clusters.foldl (fun (s : State) c =>
            if s.withheld p c || s.clusterFree c r.sr.seq || !s.preemptible c eff || s.shutterCase c r then s
            else s.switchOut c r.sr.seq) s
        else r.sr.clusters.foldl (fun (s : State) c => s.allot p launch c) s
      let s2 := s1.placedAll p launch
      if s2.eager then s2.tryComplete p launch else s2

/-- Where a core's last guest is gone, killed with its record perhaps, its parked victims go on; and lanes pass where no victim
holds them (R323, R324, R352). -/
def State.settleCores (s : State) : State :=
  (((s.harts.filter fun e => decide (e.1 < seqBase) && (e.2.status == .parked || e.2.vec.vwait)).map fun e => coreOf e.1).eraseDups).foldl
    (fun (s : State) k => let t := s.unparkCore k; if t.eager then t.lanesPass k else t) s
/-- The scheduler of a partition acts, `k` records at most (R319, R321): it selects a record where none is placing, grants
clusters where `now`, and goes on to the next once one has nothing left to place. -/
def State.schedule (s : State) (p : Nat) (now : Bool) : Nat → State
  | 0 => s
  | k + 1 =>
    let t := s.selectRec p
    let u := if now then (t.takeGroup p).clusterGrant p else t
    if (u.part p).placing.isNone && !(u.candidates p).isEmpty then u.schedule p now k
    else u
/-- Records that wait in the queues of a partition. -/
def State.waitingRecs (s : State) (p : Nat) : Nat := (s.part p).queues.foldl (fun n q => n + q.2.recs.length) 0
/-- The scheduler acts (R319, R321): the victims of guests that are gone go on, ended records complete where they can, and rounds
that their end made ready drain; then a partition without a placing record selects one at once, among candidates that an ended
record no longer holds back. Rounds drain, records complete and clusters are granted at once where issued work completes at once
(log 2). -/
def State.settleSched (s : State) : State :=
  let t := s.settleCores.settleEnds
  let u := if t.eager then t.settleAllRounds.settleDone else t
  (List.range 4).foldl (fun (s : State) p => s.schedule p s.eager (s.waitingRecs p + 1)) u

end Sys2Proof.Machine
end

