-- ==== Sys2Proof/Machine/Context.lean ====
section
/-! DEFINITION. Stopping, saving, restoring and releasing harts; the trap and scheduling blocks; the resume list (spec/21
R344 to R354, spec/19 R318, R325). -/

namespace Sys2Proof.Machine

/-! ## Nest descriptors as bytes (R270) -/

/-- A nest descriptor of 128 bytes; none where a field is outside its limits. -/
def parseNest (bs : List Byte) : Option Nest :=
  let ctl := wordAt bs 0x18
  let d := bitsOf ctl 2 0
  let bound (i : Nat) : Nat := natOfBytes ((bs.drop (4 * i)).take 4)
  let ms (i : Nat) : Int := toSigned 64 (natOfBytes ((bs.drop (0x20 + 8 * i)).take 8))
  let ss (i : Nat) : Int := toSigned 32 (natOfBytes ((bs.drop (0x50 + 4 * i)).take 4))
  let run := bitsOf ctl 63 32
  let used := (List.range d).map bound
  let rest := (List.range 6).drop d
  if d = 0 ∨ 6 < d ∨ bitsOf ctl 31 3 ≠ 0 ∨ run = 0 ∨ 65536 < run ∨ used.any (· == 0) ∨ 2 ^ 32 < used.foldl (· * ·) 1
      ∨ rest.any (fun i => bound i != 0 || ms i != 0 || ss i != 0) ∨ natOfBytes ((bs.drop 0x68).take 24) ≠ 0 then none
  else some ⟨used, run, (List.range d).map ms, (List.range d).map ss⟩

/-- A descriptor with its Zero fields read as 0 (R3), those of dimensions that DIMS leaves out included. -/
def nestZeros (bs : List Byte) : List Byte :=
  let d := bitsOf (wordAt bs 0x18) 2 0
  bs.zipIdx.map fun (b, i) =>
    let used : Bool :=
      if i < 0x18 then decide (i / 4 < d) else if i < 0x20 then i == 0x18 || decide (0x1C ≤ i)
      else if i < 0x50 then decide ((i - 0x20) / 8 < d) else decide (i < 0x68) && decide ((i - 0x50) / 4 < d)
    if i = 0x18 then b &&& 7 else if used then b else 0
/-- The bytes of a descriptor. -/
def nestBytes (n : Nest) : List Byte :=
  (List.range 6).flatMap (fun i => bytesOfNat 4 (n.bounds.getD i 0))
    ++ bytesOfNat 8 (n.bounds.length + n.run * 2 ^ 32)
    ++ (List.range 6).flatMap (fun i => bytesOfNat 8 (ofSigned 64 (n.mstr.getD i 0)))
    ++ (List.range 6).flatMap (fun i => bytesOfNat 4 (ofSigned 32 (n.sstr.getD i 0)))
    ++ List.replicate 24 0

/-! ## Matrix formats (R259) -/

/-- AF and BF of a format word. -/
def fmtA (w : Word) : Nat := bitsOf w 4 0
def fmtB (w : Word) : Nat := bitsOf w 12 8
/-- A legal pair of formats (R259). -/
def fmtPair (a b : Nat) : Bool :=
  (decide (a ≤ 1) && decide (b ≤ 1)) || ((a == 8 || a == 9) && (b == 8 || b == 9)) || (a == b && decide (10 ≤ a) && decide (a ≤ 14))
/-- The format and pitch words of MCFG are legal (R259). -/
def mcfgOk (f p : Word) : Bool :=
  bitsOf f 63 13 == 0 && bitsOf f 7 5 == 0 && fmtPair (fmtA f) (fmtB f) && bitsOf p 63 60 == 0

/-! ## The save area (R349) -/

/-- Lanes of a core share h (R8). -/
def lanesOf (h : Nat) : Nat := 32 / h
/-- The lanes of a slot, the first and how many (R8). R8 speaks of slots below h: in a slot at or above it, where the Shutter places
guests and a RESUME may name one, a hart has those of slot mod h (log 34). -/
def slotLanes (hid share : Nat) : Nat × Nat := (hid % 8 % share * lanesOf share, lanesOf share)
/-- VBMAX for a lane share and N (R8). -/
def vbmax (share n : Nat) : Nat := lanesOf share * (65536 / n)
/-- The maximum that the Shutter set, in bits; 0 for none (R323). -/
def Hart.smax (h : Hart) : Nat := match h.vec.lanes with | some l => l * (65536 / h.vec.n) | none => 0
/-- SMAX as the save area holds it (R349): of a victim; a guest's own maximum stays with its slot. -/
def Hart.savedSmax (h : Hart) : Nat := if h.vec.victim then h.smax else 0
/-- Start of the last images. -/
def imageBase : Nat := 0x22000
/-- LEN of a context (R349). -/
def saveLen (seqr : Bool) (share : Nat) : Nat :=
  (if seqr then imageBase + 8 * 65536 else imageBase + lanesOf share * 8192) - 0x10

/-- Bytes of a latch row in the image: 256 in layout 0, 128 elements in layout 1 (log 14). -/
def latchStride (es : Nat) (kr : Bool) : Nat := if kr then 128 * es else 256
/-- Element size in bytes of a matrix format; mxfp4 rows count bytes. -/
def latchElem (ef : Nat) : Nat := efWidth ef / 8 + (if ef = 14 then 1 else 0)
/-- The record of a latch as a word (log 14): bit 0 loaded, TM, TN, TK, KR, BLK, and the format word. -/
def latchWord (l : Option Latch) : Nat :=
  match l with
  | none => 0
  | some x => 1 + x.tm * 2 ^ 1 + x.tn * 2 ^ 9 + x.tk * 2 ^ 17 + x.kr.toNat * 2 ^ 27 + x.blk * 2 ^ 28 + x.fmt.toNat * 2 ^ 32
/-- The rows and scales of a latch as a number of 0x9000 bytes. A row of layout 0 longer than 256 bytes, which a grant left over from
another format word can ask for, is cut to them (log 14). -/
def latchBytes (l : Option Latch) (ef : Nat) : Nat :=
  match l with
  | none => 0
  | some x =>
    let st := latchStride (latchElem ef) x.kr
    (x.rows.zipIdx.foldl (fun n (r, i) => n + r % 2 ^ (8 * st) * 2 ^ (8 * st * i)) 0)
      + (x.scales.zipIdx.foldl (fun n (ss, i) =>
          n + (ss.zipIdx.foldl (fun k (b, j) => k + b * 2 ^ (8 * j)) 0) * 2 ^ (8 * (0x8000 + 32 * i))) 0)
/-- Where the record of a latch stands in its image (log 14). -/
def recordAt : Nat := 0x8FF8
/-- The image of a latch with its record, 0x9000 bytes (R349). -/
def latchImage (l : Option Latch) (ef : Nat) : Nat := latchBytes l ef % 2 ^ (8 * recordAt) + latchWord l * 2 ^ (8 * recordAt)
/-- The last scale bytes of row 127 of a full mxfp4 latch with blocks of 16, whose place the record takes (log 14). -/
def latchSpill (l : Option Latch) (ef : Nat) : Nat := latchBytes l ef / 2 ^ (8 * recordAt)
/-- A position of an accumulator; free until it is written (R64). -/
def Mx.accPos (m : Mx) (a i : Nat) : BitVec 32 :=
  let r := assocGet (⟨false, [], []⟩ : AccReg) m.acc a
  match r.cells.find? fun e => e.1 == i with
  | some e => e.2
  | none => if r.zeroed then 0 else Config.freeAcc m.accSeed (a * 16384 + i)
/-- An accumulator as a number of 65,536 bytes, row-major. -/
def Mx.accImage (m : Mx) (a : Nat) : Nat :=
  (List.range 16384).foldl (fun n i => n + (m.accPos a i).toNat * 2 ^ (32 * i)) 0
/-- A LOOPB position as the context holds it: the next iteration. -/
def Hart.loopQ (h : Hart) : Nat := match h.loopPos with | some p => p.q | none => 0
/-- The pending nest as a number of 128 bytes. -/
def Hart.nestImage (h : Hart) : Nat := match h.nest with | some n => natOfBytes (nestBytes n) | none => 0

/-- What both kinds of context share: offset, length in bytes, value. -/
def Hart.commonImages (h : Hart) (st : StopInfo) (kind : Nat) (smax len : Nat) : List (Nat × Nat × Nat) :=
  [(0x008, 8, len), (0x010, 8, kind), (0x018, 8, h.logical), (0x020, 8, h.asid), (0x028, 8, h.pc.toNat),
   (0x030, 8, st.cause.code), (0x038, 8, st.tval.toNat), (0x040, 8, smax), (0x0B0, 8, h.launch),
   (0x100, 128, h.nestImage)]
  ++ (List.range 63).map fun i => (0x200 + 8 * i, 8, (assocGet (0 : Word) h.g (i + 1)).toNat)
/-- The context of a vector hart (R349). -/
def Hart.vectorImages (h : Hart) (st : StopInfo) : List (Nat × Nat × Nat) :=
  let v := h.vec
  let kind := v.n.log2 * 2 ^ 4 + h.share.log2 * 2 ^ 8 + v.taken.toNat * 2 ^ 12 + v.popped.toNat * 2 ^ 13
  let ws : List Nat := [h.vtype.toNat, v.vb, v.vstart, h.vstat.toNat, h.fcsr.toNat, v.vfbthr.toNat, v.vgn.toNat, v.vga.toNat,
    v.vgb.toNat, v.vgo.toNat, h.instret.toNat, h.fstall.toNat, h.ostall.toNat]
  let vb := vbmax h.share v.n
  h.commonImages st kind h.savedSmax (saveLen false h.share)
  ++ (ws.zipIdx.map fun (w, i) => (0x048 + 8 * i, 8, w))
  ++ [(0x400, 8, h.loopQ), (0x408, 8, h.nest.isSome.toNat)]
  ++ (List.range 16).map (fun i => let g := assocGet GSlot.zero v.gd i
      (0x800 + 128 * i, 128, g.desc + g.cls * 2 ^ 512 + g.valid.toNat * 2 ^ 576))
  ++ (List.range v.n).map (fun i => (0x1000 + 8 * i, 8, (h.vreg i).fill))
  ++ (List.range 16).map (fun i => (0x2000 + 8192 * i, vb / 32, h.mreg i))
  ++ (List.range v.n).map (fun i => (imageBase + i * (vb / 8), vb / 8, (h.vreg i).bits % 2 ^ (h.vreg i).fill))
/-- The context of a sequencer (R349). Each latch image ends with the record; the 8 scale bytes whose place it takes in a full mxfp4
latch stand at 0x0B8 and 0x0C0 (log 14). -/
def Hart.seqImages (h : Hart) (st : StopInfo) : List (Nat × Nat × Nat) :=
  let m := h.mx
  let fa := (m.la.map fun l => bitsOf l.fmt 4 0).getD 0
  let fb := (m.lb.map fun l => bitsOf l.fmt 12 8).getD 0
  let ws : List Nat := [h.vtype.toNat, h.vstat.toNat, h.fcsr.toNat, m.fmt.toNat, m.pitch.toNat, m.tm, m.tn, m.tk,
    h.instret.toNat, h.fstall.toNat, h.ostall.toNat, h.loopQ, h.nest.isSome.toNat]
  h.commonImages st 1 0 (saveLen true 1)
  ++ (ws.zipIdx.map fun (w, i) => (0x048 + 8 * i, 8, w))
  ++ [(0x0B8, 8, latchSpill m.la fa), (0x0C0, 8, latchSpill m.lb fb),
      (0x2000, 0x9000, latchImage m.la fa), (0xB000, 0x9000, latchImage m.lb fb)]
  ++ (List.range 8).map fun a => (imageBase + 65536 * a, 65536, m.accImage a)

/-- Writes images into an area. -/
def State.writeImages (s : State) (area : Nat) (ims : List (Nat × Nat × Nat)) : State :=
  ims.foldl (fun (s : State) im => s.wrBytes (area + im.1) (bytesOfNat im.2.1 im.2.2)) s
/-- CHECK over the LEN bytes from 0x010 (R350). -/
def State.checkOf (s : State) (area len : Nat) : Word :=
  (List.range (len / 8)).foldl (fun c i => mix c (s.rd64 (area + 0x10 + 8 * i))) (word len)
/-- The save area of a hart (R349). -/
def State.areaOf (s : State) (p hid : Nat) : Nat := (s.part p).trap.sabase.toNat + hid * 2 ^ 20

/-- Poison in the matrix state of a sequencer, which its save would read (R355, R356). -/
def Mx.poisoned (m : Mx) : Bool := m.la.any (·.bad) || m.lb.any (·.bad) || m.acc.any fun e => !e.2.bad.isEmpty
/-- A block of the device's own lies in memory; at an address that R329 reserves there is none, and in the device window none
is described. -/
def blockFault (pa : Nat) : Option Fault :=
  match region pa with
  | .ours | .peer => none
  | .hole => some (.noSuchAddress pa)
  | .window => some (.deviceBlock pa)
/-- A Shutter victim that stops before its VSETB gives up its lanes, and its fills are 0 (R325, R349). -/
def Hart.giveLanes (h : Hart) : Hart :=
  if h.vec.victim && !h.vec.passed then h.updVec fun v => { v with taken := true, passed := true, v := [] } else h

/-- HART_STOP (R347, R349): saves a stopping hart, sets CHECK, marks the slot held, then writes the trap record. While the
trap queue is full, or memory that it writes is held back (R104), it waits in place. -/
def State.saveHart (s : State) (hid : Nat) : Out :=
  let h := (s.hart hid).giveLanes
  match h.status, h.stop with
  | .stopping, some st =>
    let p := h.part
    -- issued commands of a sequencer complete first (R345)
    if (s.part p).trap.full || !h.mx.queue.isEmpty then .next s
    else if h.mx.poisoned then .next (s.strike hid (Config.freeTval s.tick))
    else
      let area := s.canon (s.areaOf p hid)
      match blockFault area, blockFault (s.canon (s.part p).trap.tqbase.toNat), blockFault (s.trapBlockPA p) with
      | none, none, none =>
        let seqr := kindOf hid == .sequencer
        let ims := if seqr then h.seqImages st else h.vectorImages st
        let spans := (area, saveLen seqr h.share + 0x10) :: s.trapSpans p 1
        match s.deviceGate spans with
        | .error (.wait (some line)) => .next (s.refuse outsider line)
        | .error _ => .next s
        | .ok _ =>
        let s1 := (s.deviceServed spans).writeImages area ims
        let s2 := (s1.wr64 area (s1.checkOf area (saveLen seqr h.share))).unpoisonSpans
          ((area, 8) :: ims.map fun im => (area + im.1, im.2.1))
        let s3 := (s2.dropPins hid).setHart hid { h with status := .held, stop := none, preempt := false }
        let s4 := s3.updLhart hid fun l => { l with
          place := .suspended, layout := some (s1.rd64 (area + 0x10))
          saved := some ⟨hid, h.vec.victim, h.vec.guest, h.vec.vwait, h.vec.lanes⟩ }
        .next ((s4.unrefuse hid).writeTrap p ⟨hid, h.asid, st.cause, st.xpc, st.tval, st.vstart, h.launch, area⟩)
      | some f, _, _ | _, some f, _ | _, _, some f => .fault f
  | _, _ => .next s

/-! ## Restoring (R351) -/

/-- A number of n bytes at a physical address. -/
def State.rdNat (s : State) (pa n : Nat) : Nat := natOfBytes (s.rdBytes pa n)
/-- A word of a save area as vtype: its Zero field reads as 0 (R3), and a value with a reserved code, which no stop writes,
as 0 (log 28). -/
def restoredVtype (v : Word) : Word := if vtypeOk (v &&& 0x7FFFF) then v &&& 0x7FFFF else 0
/-- The Zero fields of a grid descriptor read as 0 (R3, R242): the descriptor's fields alone, word by word. -/
def restoredDesc (d : Nat) : Nat :=
  let w (i : Nat) : Word := BitVec.ofNat 64 (d / 2 ^ (64 * i))
  (w 0 &&& 0xFFFFFFFFFFFFF#64).toNat + (w 1 &&& 0xFFFF0001FFF7#64).toNat * 2 ^ 64 + (w 2 &&& 0xFFFFFFFF#64).toNat * 2 ^ 128
/-- The record that a save area names (R351): by launch number and ASID, one that has not been ended. -/
def State.areaRec (s : State) (a p : Nat) : Option Rec :=
  s.recs.find? fun r => r.part == p && r.ending.isNone && r.sr.launch == bitsOf (s.rd64 (a + 0xB0)) 55 0
    && r.sr.asid == bitsOf (s.rd64 (a + 0x20)) 10 0
/-- What the device keeps of the context of a save area for a slot: nothing, unless it was taken from that slot (R325, R351). -/
def State.keptAt (s : State) (a p hid : Nat) : Option Saved :=
  ((s.areaRec a p).bind fun r => (r.lhart (s.rd64 (a + 0x18)).toNat).saved).filter fun v => v.hid == hid
/-- The state that a save area holds for a vector hart (R349), for a slot: in its own slot a guest stays one, and a victim keeps
the lanes that the Shutter left it, though it was saved before (R325). Fields that no stop writes are cut to their registers
(R3, R143): a fill to VBMAX, and the image bits at and above it are dropped (R46, log 28); a nest outside R270's limits is none. -/
def State.loadVector (s : State) (a : Nat) (hid p : Nat) : Hart :=
  let k := s.rd64 (a + 0x10)
  let n := 2 ^ bitsOf k 7 4
  let share := 2 ^ bitsOf k 11 8
  let vb := vbmax share n
  let w (i : Nat) : Word := s.rd64 (a + 0x48 + 8 * i)
  let launch := bitsOf (s.rd64 (a + 0xB0)) 55 0
  let logical := (s.rd64 (a + 0x18)).toNat
  let smax := (s.rd64 (a + 0x40)).toNat
  let kept := s.keptAt a p hid
  let lanes := kept.bind (·.lanes)
  let guest := kept.any (·.guest)
  -- set as a victim after it was saved; or saved while it was parked
  let late := kept.any (·.victim) && smax == 0 && lanes.isSome
  let idle := kept.any (·.victim) && smax == 0 && lanes.isNone
  let victim := !guest && (smax != 0 || late || idle)
  { Hart.free with
    status := .running, pc := s.rd64 (a + 0x28) &&& ~~~7#64, part := p, launch := launch,
    logical := logical, asid := bitsOf (s.rd64 (a + 0x20)) 10 0, share := share,
    g := (List.range 63).foldl (fun m i => assocPut 0 m (i + 1) (s.rd64 (a + 0x200 + 8 * i))) [],
    vtype := restoredVtype (w 0), vstat := legalVstat (w 3), fcsr := legalFcsr (w 4), instret := w 10, fstall := w 11,
    ostall := w 12,
    nest := if (s.rd64 (a + 0x408)).getLsbD 0 then parseNest (nestZeros (s.rdBytes (a + 0x100) 128)) else none,
    loopPos := if s.rd64 (a + 0x400) = 0 then none else some ⟨(s.rd64 (a + 0x400)).toNat, 0, []⟩,
    vec := { Vec.start with
      n := n, vb := min (w 1).toNat vb, vstart := (w 2).toNat, vfbthr := w 5 &&& 0x1FFFFFFFF#64,
      vgn := w 6 &&& 0x7FFFF, vga := w 7 &&& 0x7FFFF, vgb := w 8 &&& 0x7FFFF, vgo := w 9 &&& 0x7FFFF,
      v := (List.range n).foldl (fun m i =>
        let f := min (s.rd64 (a + 0x1000 + 8 * i)).toNat vb
        assocPut VReg.zero m i ⟨f, s.rdNat (a + imageBase + i * (vb / 8)) (vb / 8) % 2 ^ f⟩) [],
      m := (List.range 16).foldl (fun m i => assocPut 0 m i (s.rdNat (a + 0x2000 + 8192 * i) (vb / 32))) [],
      gd := (List.range 16).foldl (fun m i => assocPut GSlot.zero m i
        ⟨restoredDesc (s.rdNat (a + 0x800 + 128 * i) 64), s.rdNat (a + 0x840 + 128 * i) 8 % 16,
          (s.rd64 (a + 0x848 + 128 * i)).getLsbD 0⟩) [],
      popped := k.getLsbD 13,
      lanes := if guest || late then lanes else if smax = 0 then none else some (smax / (65536 / n)),
      victim := victim, passed := victim, guest := guest, vwait := guest && kept.any (·.vwait),
      taken := k.getLsbD 12 || late } }
/-- A latch of a save area from its image, and from the bytes that did not fit there (log 14). -/
def State.loadLatch (s : State) (a img spill : Nat) (isB : Bool) : Option Latch :=
  let r := s.rd64 (a + img + recordAt)
  if !r.getLsbD 0 then none
  else
    let tm := bitsOf r 8 1
    let tn := bitsOf r 16 9
    let tk := bitsOf r 26 17
    let kr := r.getLsbD 27
    let fmt := word (bitsOf r 63 32)
    let ef := if isB then bitsOf fmt 12 8 else bitsOf fmt 4 0
    let blk := bitsOf r 29 28
    let st := latchStride (latchElem ef) kr
    let n := if kr then tk else if isB then tn else tm
    some { rows := (List.range n).map fun i => s.rdNat (a + img + st * i) st,
           scales := if ef = 14 then (List.range n).map fun i => (List.range ((tk + blockLen blk - 1) / blockLen blk)).map fun j =>
             s.rdNat (if i = 127 ∧ 24 ≤ j then a + spill + (j - 24) else a + img + 0x8000 + 32 * i + j) 1 else [],
           tm := tm, tn := tn, tk := tk, fmt := fmt, kr := kr, blk := blk, bad := false }
/-- A format word with its Zero fields read as 0 (R3, R259); a pair that no MCFG leaves reads as 0 (log 28). -/
def restoredFmt (w : Word) : Word := if fmtPair (fmtA w) (fmtB w) then w &&& 0x1F1F else 0
/-- The state that a save area holds for a sequencer (R349), cut to its registers as `loadVector` does: the format word of a pair
that no MCFG leaves reads as 0, and the pitch word stays (log 28). -/
def State.loadSeq (s : State) (a : Nat) (p : Nat) : Hart :=
  let w (i : Nat) : Word := s.rd64 (a + 0x48 + 8 * i)
  { Hart.free with
    status := .running, pc := s.rd64 (a + 0x28) &&& ~~~7#64, part := p, launch := bitsOf (s.rd64 (a + 0xB0)) 55 0,
    logical := (s.rd64 (a + 0x18)).toNat, asid := bitsOf (s.rd64 (a + 0x20)) 10 0,
    g := (List.range 63).foldl (fun m i => assocPut 0 m (i + 1) (s.rd64 (a + 0x200 + 8 * i))) [],
    vtype := restoredVtype (w 0), vstat := legalVstat (w 1), fcsr := legalFcsr (w 2), instret := w 8, fstall := w 9,
    ostall := w 10,
    nest := if (w 12).getLsbD 0 then parseNest (nestZeros (s.rdBytes (a + 0x100) 128)) else none,
    loopPos := if w 11 = 0 then none else some ⟨(w 11).toNat, 0, []⟩,
    mx := { fmt := restoredFmt (w 3), pitch := w 4 &&& 0xFFFFFFFFFFFFFFF#64, tm := min (w 5).toNat 128,
            tn := min (w 6).toNat 128, tk := min (w 7).toNat 512,
            la := s.loadLatch a 0x2000 0xB8 false, lb := s.loadLatch a 0xB000 0xC0 true,
            acc := (List.range 8).map fun i => (i, ⟨true, (List.range 16384).filterMap (fun j =>
              let v := BitVec.ofNat 32 (s.rdNat (a + imageBase + 65536 * i + 4 * j) 4)
              if v = 0 then none else some (j, v)), []⟩),
            accSeed := 0, queue := [] } }

/-- The slot of a target is free, or held, and its core is free or at share h (R351); in the slot that the context of the area
was taken from, the guests that the Shutter placed beside a victim, and the victims beside a guest, do not count (R325). -/
def State.targetFree (s : State) (a p t : Nat) : Bool :=
  let st := (s.hart t).status
  let share := 2 ^ bitsOf (s.rd64 (a + 0x10)) 11 8
  let kept := s.keptAt a p t
  (st == .free || st == .held) &&
    (kindOf t != .vector || (s.coreHarts (coreOf t) fun _ => true).all fun x =>
      x == t || (s.hart x).share == share
        || (kept.any (·.victim) && (s.hart x).vec.guest) || (kept.any (·.guest) && (s.hart x).vec.victim))
/-- The layout words of an area are legal (R351, status 2 but for the record). -/
def State.areaOk (s : State) (a p target : Nat) : Bool :=
  let k := s.rd64 (a + 0x10)
  let seqr := k.getLsbD 0
  let asid := bitsOf (s.rd64 (a + 0x20)) 10 0
  bitsOf k 3 1 == 0
    && (if seqr then kindOf target == .sequencer else
          decide (3 ≤ bitsOf k 7 4) && decide (bitsOf k 7 4 ≤ 6) && decide (bitsOf k 11 8 ≤ 3) && kindOf target == .vector)
    && (s.rd64 (a + 8)).toNat == saveLen seqr (2 ^ bitsOf k 11 8)
    && asid != 0
    && (match s.asidUsable outsider p asid with | .ok b => b | .error _ => false)
/-- The record admits the target: its CMASK, and TAKEN only the slot that the context was taken from, whoever has used it since
(R325, R351). -/
def State.targetOk (s : State) (a : Nat) (r : Rec) (target : Nat) : Bool :=
  nbit r.sr.cmask (clusterOf target)
    && (!(s.rd64 (a + 0x10)).getLsbD 12 || (s.keptAt a r.part target).isSome)
/-- An uncorrectable error is read in the area, or CHECK differs (R351). -/
def State.areaBroken (s : State) (a : Nat) : Bool :=
  let len := (s.rd64 (a + 8)).toNat
  (match s.clean a (len + 0x10) with | .ok _ => false | .error _ => true) || s.rd64 a != s.checkOf a len
/-- RESUME (R351): the status, and the state after it. A target slot at or above the context's share is no reason to refuse (R8,
log 28). Where the layout word is not the one that the last stop of the logical
hart wrote, or the logical hart is not suspended, the area is no context that a stop wrote of it: the restore fails as R351 says
of any such area, with status 4 (R350, log 28). The trap record of cause 16 gives the statement and the vstart of the area, and
none for a sequencer, which has no vstart (R347). The flags of additions that drained meanwhile accrue (R127). -/
def State.resume (s : State) (p : Nat) (area : Word) (target : Nat) : Nat × State :=
  let a := s.canon area.toNat
  let k := s.rd64 (a + 0x10)
  if !s.targetFree a p target then (1, s)
  else if !s.areaOk a p target || (s.areaRec a p).any (fun r => !s.targetOk a r target) then (2, s)
  else match s.areaRec a p with
    | none => (3, s)
    | some r =>
      let x := r.lhart (s.rd64 (a + 0x18)).toNat
      if s.areaBroken a || x.layout != some k then
        (4, ((s.errEvent 13 1023 r.sr.asid a).endRecord r
          (some { fatalTrap target r.sr.asid r.sr.launch .restore area (if k.getLsbD 0 then 0 else (s.rd64 (a + 0x58)).toNat) with
            xpc := s.rd64 (a + 0x28) })).settleEnds)
      else
        let h := (if k.getLsbD 0 then s.loadSeq a p else s.loadVector a target p).accrue x.fl
        (0, (s.setHart target h).updLhart target fun l => { l with place := .placed target, fl := 0, layout := none })
/-- RELEASE (R351). -/
def State.release (s : State) (target : Nat) : Nat × State :=
  if (s.hart target).status = .held then (0, (s.freeSlot target).slotFreed target) else (1, s)
/-- KILL (R351, R352): ends the record that the area names. -/
def State.kill (s : State) (p : Nat) (area : Word) : Nat × State :=
  match s.areaRec (s.canon area.toNat) p with
  | some r => (0, (s.endRecord r none).settleEnds)
  | none => (0, s)
/-- The allocator's grant of a partition, which comes before a resume entry that wants the same slot (R321, R354). -/
def State.grantNow (s : State) (p : Nat) : State := s.schedule p true (s.waitingRecs p + 1)
/-- One entry of the resume list: its operation, and its status (R351). What it frees goes to the placing record first (R321). -/
def State.listEntry (s : State) (p : Nat) (area w1 : Word) : Nat × State :=
  let target := bitsOf w1 12 0
  let r := match bitsOf w1 17 16 with
    | 0 => s.release target
    | 1 => s.resume p area target
    | 2 => s.kill p area
    | _ => (2, s)
  (r.1, r.2.grantNow p)
/-- The memory that the entries of the resume list of p from n on name is open (R104, R351). -/
def State.listOpen (s : State) (p : Nat) : Nat → Word → Except Stop Unit
  | 0, _ => .ok ()
  | k + 1, n => do
    let t := (s.part p).trap
    if n = t.rltail then return ()
    let e := s.canon (t.rlbase.toNat + 16 * (n.toNat % 2 ^ bitsOf t.rlctl 4 0))
    let a := s.canon (s.rd64 e).toNat
    let entry := s.canon (s.asidtab.toNat + 16 * bitsOf (s.rd64 (a + 0x20)) 10 0)
    s.gate outsider e 16
    match bitsOf (s.rd64 (e + 8)) 17 16 with
    | 1 => s.deviceGate [(a, min (s.rd64 (a + 8)).toNat (2 ^ 20) + 0x10), (entry, 16)]
    | 2 => s.gate outsider a 0x100
    | _ => pure ()
    s.listOpen p k (n + 1)
/-- Processes the resume list of p from RLHEAD to RLTAIL (R351): writes each status, then advances RLHEAD. -/
def State.resumeList (s : State) (p : Nat) : Nat → State
  | 0 => s
  | fuel + 1 =>
    let t := (s.part p).trap
    if t.rlhead = t.rltail then s
    else
      let e := s.canon (t.rlbase.toNat + 16 * (t.rlhead.toNat % 2 ^ bitsOf t.rlctl 4 0))
      let w1 := s.rd64 (e + 8)
      let r := s.listEntry p (s.rd64 e) w1
      let s1 := r.2.wr64 (e + 8) (setBits w1 63 56 r.1)
      let s2 := s1.updPart p fun x => { x with trap := { x.trap with rlhead := t.rlhead + 1 } }
      (s2.wr64 (s2.trapBlockPA p + 0x30) (t.rlhead + 1)).resumeList p fuel

/-! ## A write of asidtab (R306, R307, R318, R346) -/

/-- The scheduling block of p, Zero fields read as 0 and 0 as the default (R318). -/
def State.readSched (s : State) (p : Nat) : Sched :=
  let a := s.canon (s.asidtab.toNat + 0x8000 + 64 * p)
  let age := bitsOf (s.rd64 a) 31 0
  let win := bitsOf (s.rd64 (a + 8)) 31 0
  ⟨if age = 0 then 65536 else age, if win = 0 then 1048576 else win, s.rdNat (a + 0x10) 20⟩
/-- The trap block of p, Zero fields read as 0; the device keeps its own TQHEAD and RLHEAD (R346). -/
def State.readTrap (s : State) (p : Nat) : TrapBlk :=
  let a := s.trapBlockPA p
  let old := (s.part p).trap
  { tqbase := s.rd64 a &&& ~~~0xFFF#64, tqctl := s.rd64 (a + 8) &&& 0x1F1F#64, tqhead := old.tqhead,
    tqtail := s.rd64 (a + 0x18), rlbase := s.rd64 (a + 0x20) &&& ~~~0xFFF#64, rlctl := s.rd64 (a + 0x28) &&& 0x1F#64,
    rlhead := old.rlhead, rltail := s.rd64 (a + 0x38), sabase := s.rd64 (a + 0x40) &&& ~~~0xFFFFF#64 }
/-- The state after a write of asidtab has read the blocks of every partition. A hart that was to be switched out on a cluster
that is now withheld stays, but for a victim that the end of its window is to switch out (R325, R328). -/
def State.readBlocks (s : State) (v : Word) : State :=
  let s1 := { s with asidtab := v &&& 0x3FFFFFFFF0000#64, host := { s.host with asidtabSet := true } }
  let s2 := (List.range 4).foldl (fun (s : State) p =>
    s.updPart p fun x => { x with sched := s.readSched p, trap := s.readTrap p }) s1
  { s2 with harts := s2.harts.map fun e =>
      let keep := (e.2.vec.victim && !e.2.vec.passed && e.2.vec.expired) || !e.2.preempt || e.1 ≥ appBase
      if keep || !s2.withheld e.2.part (clusterOf e.1) then e else (e.1, { e.2 with preempt := false }) }
/-- What a write of asidtab reads and writes is open (R104, R340). -/
def State.blocksOpen (s : State) (v : Word) : Except Stop Unit :=
  if s.still then .ok ()
  else do
    s.gate outsider (s.canon (bitsOf v 49 16 * 65536 + 0x8000)) 0x300
    (List.range 4).forM fun p =>
      let t := s.readBlocks v
      t.listOpen p 65536 (t.part p).trap.rlhead
/-- Reads the blocks of every partition; then, by partition, the allocator grants and the resume list is processed (R354).
Where a block or a list to be processed lies in no memory (R329), or in the device window, the device has no such access: the
write stops the run, and the CSR keeps its value (log 41). -/
def State.asidtabWrite (s : State) (v : Word) : Out :=
  match blockFault (s.canon (v &&& 0x3FFFFFFFF0000#64).toNat) with
  | some f => .fault f
  | none =>
    let s2 := s.readBlocks v
    let lists := (List.range 4).findSome? fun p =>
      let x := (s2.part p).trap
      if x.rlhead = x.rltail then none else blockFault (s2.canon x.rlbase.toNat)
    match lists with
    | some f => .fault f
    | none => .next ((List.range 4).foldl (fun (s : State) p => (s.grantNow p).resumeList p 65536) s2)

end Sys2Proof.Machine
end

