-- ==== Sys2Proof/Machine/Csr.lean ====
section
/-! DEFINITION. CSR access, system calls and the privileged instructions (spec/08 R156, R157; spec/09 R188 to R190; spec/18
R304 to R317). -/

namespace Sys2Proof.Machine

/-! ## Which CSRs there are (R156, R306) -/

/-- A user CSR that an agent of a kind has (R156). -/
def csrUser (k : Kind) (n : Nat) : Bool :=
  if n = 0x000 ∨ n = 0x004 then k == .vector || k == .sequencer
  else if 1 ≤ n ∧ n ≤ 5 ∨ 8 ≤ n ∧ n ≤ 11 then k == .vector
  else n == 0x010 || (decide (0x020 ≤ n) && decide (n ≤ 0x023)) || (decide (0x030 ≤ n) && decide (n ≤ 0x032))
/-- A privileged CSR (R306). -/
def csrPrivileged (n : Nat) : Bool :=
  (decide (0x100 ≤ n) && decide (n ≤ 0x105)) || (decide (0x110 ≤ n) && decide (n ≤ 0x112))
    || (decide (0x120 ≤ n) && decide (n ≤ 0x123)) || (decide (0x150 ≤ n) && decide (n ≤ 0x153))
    || (decide (0x200 ≤ n) && decide (n ≤ 0x2FF))
/-- The CSRs that a queued instruction can write (R26, R50, R52, R189): it saturates, clamps or writes SHR or STOP into vstat; it
raises flags into fcsr; it writes the grants. -/
structure CsrOut where
  vstat : Bool
  fcsr : Bool
  grants : Bool
deriving DecidableEq, Repr
/-- What an instruction can leave in CSRs when it completes. A store can convert, and its flags then accrue (R85). -/
def Instr.csrOut (i : Instr) : CsrOut :=
  match i with
  | .vcld _ | .vcst _ | .vcpos _ | .vclen _ | .vcdec _ | .vcenc _ | .vcadd _ | .vcsub _ | .vcskip _ | .vccat _ =>
    ⟨true, true, true⟩
  | .vsetb _ | .vsete _ | .vsadd _ | .vssub _ | .vsaddu _ | .vssubu _ => ⟨true, false, false⟩
  | .cvt _ | .cvtSr _ | .vqmx _ | .vdqmx _ | .vexpand4 _ | .vexpand6 _ | .mma _ | .mopa _ | .mst _ => ⟨true, true, false⟩
  | .vfadd _ | .vfsub _ | .vfmul _ | .vfdiv _ | .vfsqrt _ | .vfmin _ | .vfmax _ | .vfma _ | .vfms _ | .vfnma _ | .vfabs _ | .vfneg _ | .vfexp2 _
  | .vflog2 _ | .vrsqe _ | .vfceq _ | .vfclt _ | .vfcle _ | .vfcun _ | .vfredsum _ | .vredmin _ | .vredmax _ | .vscan _
  | .vfscan _ | .vst _ | .vsts _ | .vstx _ | .vstxa _ | .gload _ | .gscat _ => ⟨false, true, false⟩
  | _ => ⟨false, false, false⟩
/-- An instruction can write a CSR. -/
def CsrOut.writes (o : CsrOut) (n : Nat) : Bool :=
  (n == 0x004 && o.vstat) || (n == 0x010 && o.fcsr) || (decide (8 ≤ n) && decide (n ≤ 11) && o.grants)
/-- A CSR waits: an earlier vector or matrix instruction of the hart that can write it is unfinished (R189). -/
def Hart.csrPending (h : Hart) (n : Nat) : Bool :=
  h.vec.queue.any (fun q => (Instr.csrOut q.ins).writes n) || h.mx.queue.any fun q => (Instr.csrOut q.ins).writes n
/-- No earlier vector or matrix instruction of the hart is unfinished. -/
def Hart.idle (h : Hart) : Bool := h.vec.queue.isEmpty && h.mx.queue.isEmpty

/-! ## Counts by hand (R313, R314) -/

/-- The count that rcaddr names: of a granule, of a scratchpad block, or none. -/
inductive CountName where
  | granule (line : Nat)
  | block (c blk : Nat)
  | nothing
deriving DecidableEq, Repr

/-- What a value of rcaddr names (R313). -/
def State.countName (s : State) (a : Word) : CountName :=
  if a.getLsbD 63 then
    if bitsOf a 31 24 ≤ 159 then .block (bitsOf a 31 24) (bitsOf a 23 7) else .nothing
  else
    let pa := s.canon (bitsOf a 49 7 * 128)
    if pa < localEnd then .granule (pa / 128) else .nothing
/-- The bits of rcaddr that are fields (R313). -/
def legalRcaddr (v : Word) : Word :=
  if v.getLsbD 63 then v &&& 0x80000000FFFFFF80#64 else v &&& 0x0003FFFFFFFFFF80#64
/-- A read of rcval. -/
def State.rcvalRead (s : State) (a : Word) : Word :=
  match s.countName a with
  | .granule l => word (s.count l)
  | .block c b => word (s.spCount c b)
  | .nothing => 0
/-- A write of rcval: neither writes data nor drops a line (R313). -/
def State.rcvalWrite (s : State) (a v : Word) : State :=
  match s.countName a with
  | .granule l => s.setCount l (bitsOf v 7 0)
  | .block c b => s.setSpCount c b (bitsOf v 7 0)
  | .nothing => s
/-- What holds back an access to a CSR, with the value that it writes, if any: rcval names a granule that is not open (R104,
R340), or the memory that a write of asidtab reads is not. -/
def State.csrOpen (s : State) (h n : Nat) (v : Option Word) : Except Stop Unit :=
  match v with
  | some v =>
    if n = 0x110 then s.blocksOpen v
    else if n = 0x151 then rcOpen else .ok ()
  | none => if n = 0x151 then rcOpen else .ok ()
where
  /-- The granule that rcaddr names is open. -/
  rcOpen : Except Stop Unit := match s.countName (s.hart h).app.rcaddr with
    | .granule l => s.gateLine h l
    | _ => .ok ()
/-- A read of tokval (R314). -/
def State.tokvalRead (s : State) (a : Word) : Word :=
  if bitsOf a 7 0 ≤ 159 then word (s.tokens (bitsOf a 7 0) (bitsOf a 11 8)) else 0
/-- A write of tokval: a value above 32 is ignored (R314). -/
def State.tokvalWrite (s : State) (a v : Word) : State :=
  if bitsOf a 7 0 ≤ 159 ∧ bitsOf v 5 0 ≤ 32 then s.setTokens (bitsOf a 7 0) (bitsOf a 11 8) (bitsOf v 5 0) else s

/-! ## Partition configuration (R308, R309) -/

/-- Fields of a partcfg word. -/
def pcEN (v : Word) : Bool := v.getLsbD 63
def pcQMASK (v : Word) : Nat := bitsOf v 59 56
def pcGCOUNT (v : Word) : Nat := bitsOf v 55 37
def pcGBASE (v : Word) : Nat := bitsOf v 36 19
/-- Two words share a quadrant or a group. -/
def pcOverlap (v w : Word) : Bool :=
  pcQMASK v &&& pcQMASK w != 0
    || (decide (pcGBASE v < pcGBASE w + pcGCOUNT w) && decide (pcGBASE w < pcGBASE v + pcGCOUNT v))
/-- A hart of partition p is placed, or one of its queues holds a record (R309): a suspended hart is not placed. -/
def State.partBusy (s : State) (p : Nat) : Bool :=
  (s.part p).queues.any (fun q => !q.2.recs.isEmpty)
    || s.harts.any fun e => decide (e.1 < appBase) && e.2.status != .free && e.2.status != .held && e.2.part == p
/-- A write to partcfg p is refused whole (R309). -/
def State.partcfgRefused (s : State) (p : Nat) (v : Word) : Bool :=
  let old := s.partcfgOf p
  bitsOf v 62 61 != 0 || bitsOf v 18 0 != 0
    || (pcEN v && (pcQMASK v == 0 || pcGCOUNT v == 0 || decide (262144 < pcGBASE v + pcGCOUNT v)))
    || (pcEN v && (List.range 4).any fun q => q != p && s.partEnabled q && pcOverlap v (s.partcfgOf q))
    || (pcEN old && (pcQMASK v != pcQMASK old || pcGBASE v != pcGBASE old || pcGCOUNT v != pcGCOUNT old))
    || (pcEN old && !pcEN v && s.partBusy p)
/-- A write to partcfg p (R309). -/
def State.partcfgWrite (s : State) (p : Nat) (v : Word) : State :=
  if s.partcfgRefused p v then s
  else
    let s1 := { s with partcfg := assocPut 0 s.partcfg p v }
    -- a change from scheduled to swap mode: the tier commands issued before it hold back the tracker (R310)
    if s.scheduledMode p ∧ !v.getLsbD 60 then s1.updPart p fun x => { x with tierMark := s.seq } else s1

/-! ## Reads -/

/-- A privileged CSR of core h (R306). -/
def State.csrReadPriv (s : State) (h : Nat) (n : Nat) : Word :=
  let x := (s.hart h).app
  if n = 0x100 then x.xstatus
  else if n = 0x101 then x.xepc
  else if n = 0x102 then x.xcause
  else if n = 0x103 then x.xtval
  else if n = 0x104 then x.xvec
  else if n = 0x105 then x.xscratch
  else if n = 0x110 then s.asidtab
  else if n = 0x111 then x.curasid
  else if n = 0x112 then x.curpart
  else if n < 0x124 then s.partcfgOf (n - 0x120)
  else if n = 0x150 then x.rcaddr
  else if n = 0x151 then s.rcvalRead x.rcaddr
  else if n = 0x152 then x.tokaddr
  else if n = 0x153 then s.tokvalRead x.tokaddr
  else
    let q := n - 0x200
    assocGet 0 s.qctl q ||| word ((s.part (q / 64)).queue (q % 64)).recs.length
/-- A CSR as agent h reads it (R156, R189, R306). instret includes the instructions that stand in the vector queue, which the front
end has passed (log 26). -/
def State.csrRead (s : State) (h : Nat) (n : Nat) : Word :=
  let x := s.hart h
  if n = 0x000 then x.vtype
  else if n = 0x001 then word x.vec.vb
  else if n = 0x002 then word (vbmax x.share x.vec.n)
  else if n = 0x003 then word x.vec.vstart
  else if n = 0x004 then x.vstat
  else if n = 0x005 then x.vec.vfbthr
  else if n = 0x008 then x.vec.vgn
  else if n = 0x009 then x.vec.vga
  else if n = 0x00A then x.vec.vgb
  else if n = 0x00B then x.vec.vgo
  else if n = 0x010 then x.fcsr
  else if n = 0x020 then (if kindOf h = .app then s.app else s.arith)
  else if n = 0x021 then x.instret + word x.vec.queue.length
  else if n = 0x022 then x.fstall
  else if n = 0x023 then x.ostall
  else if n = 0x030 then word h
  else if n = 0x031 then (if kindOf h = .vector then word (coreOf h) else BitVec.allOnes 64)
  else if n = 0x032 then (if kindOf h = .app then BitVec.allOnes 64 else word (clusterOf h))
  else s.csrReadPriv h n

/-! ## Writes -/

/-- A write of a privileged CSR by core h (R305 to R314). -/
def State.csrWritePriv (s : State) (h : Nat) (n : Nat) (v : Word) : Out :=
  let upd (f : AppCore → AppCore) : Out := .next (s.updHart h fun x => x.updApp f)
  let app := (s.hart h).app
  if n = 0x100 then upd fun x => { x with xstatus := (v &&& 0xE) ||| (x.xstatus &&& 1) }
  else if n = 0x101 then upd fun x => { x with xepc := v &&& ~~~7#64 }
  else if n = 0x102 then upd fun x => { x with xcause := v &&& 0x800000000000FFFF#64 }
  else if n = 0x103 then upd fun x => { x with xtval := v }
  else if n = 0x104 then upd fun x => { x with xvec := v &&& ~~~0x7F#64 }
  else if n = 0x105 then upd fun x => { x with xscratch := v }
  else if n = 0x110 then s.asidtabWrite v
  else if n = 0x111 then upd fun x => { x with curasid := v &&& 0x7FF }
  else if n = 0x112 then upd fun x => { x with curpart := v &&& 3 }
  else if n < 0x124 then .next (s.partcfgWrite (n - 0x120) v)
  else if n = 0x150 then upd fun x => { x with rcaddr := legalRcaddr v }
  else if n = 0x151 then .next (s.rcvalWrite app.rcaddr v)
  else if n = 0x152 then upd fun x => { x with tokaddr := v &&& 0xFFF }
  else if n = 0x153 then .next (s.tokvalWrite app.tokaddr v)
  else .next { s with qctl := assocPut 0 s.qctl (n - 0x200) (v &&& 0xC00007FF00000000#64) }
/-- A write of a CSR by agent h (R157, R189): a read-only CSR ignores it. -/
def State.csrWrite (s : State) (h : Nat) (n : Nat) (v : Word) : Out :=
  let upd (f : Hart → Hart) : Out := .next (s.updHart h f)
  if n = 0x000 then upd fun x => { x with vtype := v }
  else if n = 0x003 then upd fun x => x.updVec fun y => { y with vstart := v.toNat }
  else if n = 0x004 then upd fun x => { x with vstat := legalVstat v }
  else if n = 0x005 then upd fun x => x.updVec fun y => { y with vfbthr := v &&& 0x1FFFFFFFF#64 }
  else if n = 0x008 then upd fun x => x.updVec fun y => { y with vgn := v &&& 0x7FFFF }
  else if n = 0x009 then upd fun x => x.updVec fun y => { y with vga := v &&& 0x7FFFF }
  else if n = 0x00A then upd fun x => x.updVec fun y => { y with vgb := v &&& 0x7FFFF }
  else if n = 0x00B then upd fun x => x.updVec fun y => { y with vgo := v &&& 0x7FFFF }
  else if n = 0x010 then upd fun x => { x with fcsr := legalFcsr v }
  else if 0x100 ≤ n then s.csrWritePriv h n v
  else .next s

/-- Continues a next state. -/
def andThen (o : Out) (k : State → Out) : Out :=
  match o with
  | .next s => k s
  | .fault f => .fault f
  | .refused r => .refused r

/-- CSR access (R157, R188, R189): `wr` gives the value written, or nothing is written. -/
def csrForm (x : CsrArgs) (s : State) (wr : Word → Option Word) : Out :=
  let n := x.csr.toNat
  let h := s.cur
  onAgents true true true s (
    if 0x100 ≤ n ∧ !s.privileged h then raise .privilege s.ir s
    else if !(if 0x100 ≤ n then csrPrivileged n else csrUser (kindOf h) n) then illegal s
    else if s.me.csrPending n then .next s.waitMe
    else
      let t := s.csrRead h n
      onOk s (s.csrOpen h n (wr t)) fun _ => match wr t with
      | none => .next (s.retire 8 fun h => h.setG x.d t)
      | some v =>
        if n = 0 ∧ !vtypeOk v then illegal s
        else andThen (s.csrWrite h n v) fun s1 => .next (s1.retire 8 fun h => h.setG x.d t))
/-- CSRR (R188). -/
def execCsrr (x : CsrArgs) (s : State) : Out := csrForm x s fun _ => none
/-- CSRW (R188): d is 0, so nothing is read. -/
def execCsrw (x : CsrArgs) (s : State) : Out := csrForm x s fun _ => some (s.me.getG x.a)
/-- CSRS (R188). -/
def execCsrs (x : CsrArgs) (s : State) : Out :=
  csrForm x s fun t => if x.a = 0 then none else some (t ||| s.me.getG x.a)
/-- CSRC (R188). -/
def execCsrc (x : CsrArgs) (s : State) : Out :=
  csrForm x s fun t => if x.a = 0 then none else some (t &&& ~~~s.me.getG x.a)

/-! ## System calls (R190) -/

/-- Every earlier instruction of the executing agent has completed: vector, matrix and engine commands included (R190). -/
def State.allDone (s : State) : Bool := s.me.idle && (kindOf s.cur == .app || !s.cmds.any fun c => c.ofHart s.me)
/-- SYSCALL (R190, R305): waits for earlier instructions; a core saves the address of the next statement, a hart stops with
its own (R347). -/
def execSyscall (x : NArgs) (s : State) : Out :=
  onAgents true true true s (
    if !s.allDone then .next s.waitMe
    else
      .next (trapAt .systemCall (x.n.setWidth 64) (if kindOf s.cur = .app then s.me.pc + 8 else s.me.pc) s))
/-- BREAK (R190). -/
def execBrk (x : NArgs) (s : State) : Out :=
  onAgents true true true s (
    if !s.allDone then .next s.waitMe else raise .breakpoint (x.n.setWidth 64) s)

/-! ## Privileged instructions (R315 to R317) -/

/-- Runs a privileged instruction at executive level, and raises the privilege trap below it (R304, R315). -/
def atExecutive (s : State) (k : Out) : Out := if s.privileged s.cur then k else raise .privilege s.ir s
/-- XRET (R316). -/
def execXret (_ : AArgs) (s : State) : Out :=
  atExecutive s (.next (s.setMe { s.me.leave with instret := s.me.instret + 1, status := .running }))
/-- XWAIT (R316): completes when an interrupt is pending. -/
def execXwait (_ : AArgs) (s : State) : Out :=
  atExecutive s (
    if s.me.app.pending ≠ 0 then .next (s.retire 8 fun h => h.updApp fun a => { a with xwait := false })
    else .next (s.setMe { s.me.updApp (fun a => { a with xwait := true }) with status := .waiting }))
/-- An access that has not performed, or a command that has not completed, holds a translation that f names (R317, R338): a
queued vector instruction that was checked, an engine command, or a store that deterministic mode holds. The entries of a
translation are those that its walk read, pointers included (R335, R336). -/
def State.transHeld (s : State) (f : TlbEntry → Bool) : Bool :=
  let used (es : List TlbEntry) : Bool := es.any f
  s.cmds.any (fun c => used c.held)
    || s.harts.any (fun e => e.2.vec.queue.any fun q => used q.xl)
    || s.tails.any (fun e => e.2.any fun h => h.vec.queue.any fun q => used q.xl)
    || s.recs.any fun r => r.lh.any fun e => used e.2.xl
/-- Invalidates the cached entries that f names, and those of walks under way, then completes once nothing holds one (R317). -/
def invalidate (s : State) (f : TlbEntry → Bool) : Out :=
  let t := { s with tlb := s.tlb.filter fun e => !f e, walks := s.walks.filter fun e => !f e }
  if s.transHeld f then .next t.waitMe else .next (t.retire 8 id)
/-- The bytes of va from lo to hi meet page number i of a size. -/
def meets (lo hi size i : Nat) : Bool := decide (i * size ≤ hi) && decide (lo < (i + 1) * size)
/-- XINVT (R317). -/
def execXinvt (x : AArgs) (s : State) : Out :=
  let asid := (s.me.getG x.a).toNat
  let lo := (s.me.getG x.b).toNat
  let len := (s.me.getG x.c).toNat
  let hi := min (lo + len - 1) (2 ^ 64 - 1)
  atExecutive s (
    if 2047 < asid then illegal s
    else if len = 0 then .next (s.retire 8 id)
    else invalidate s fun e => e.asid == asid && e.level != 0 && meets lo hi (2 ^ levelShift e.level) e.index)
/-- XINVTA (R317). -/
def execXinvta (x : AArgs) (s : State) : Out :=
  let asid := (s.me.getG x.a).toNat
  atExecutive s (
    if 2047 < asid then illegal s
    else invalidate s fun e => e.asid == asid)
/-- XINVTD (R317). -/
def execXinvtd (_ : AArgs) (s : State) : Out := atExecutive s (invalidate s fun _ => true)

/-! ## The table's events of these CSRs -/

/-- ASIDTAB_WRITE (R306, R307, R346, R351). -/
def execAsidtabWrite (v : Word) (s : State) : Out :=
  match s.csrOpen outsider 0x110 (some v) with
  | .ok _ => s.asidtabWrite v
  | .error _ => .next s
/-- CURASID_WRITE by core hid (R307). -/
def execCurasidWrite (hid : Nat) (v : Word) (s : State) : Out :=
  .next (s.updHart hid fun x => x.updApp fun a => { a with curasid := v &&& 0x7FF })
/-- PARTCFG_WRITE (R309). -/
def execPartcfgWrite (p : Nat) (v : Word) (s : State) : Out := .next (s.partcfgWrite p v)
/-- RCVAL_WRITE by core hid (R313). -/
def execRcvalWrite (hid : Nat) (v : Word) (s : State) : Out :=
  .next (match s.csrOpen hid 0x151 (some v) with
    | .ok _ => s.rcvalWrite (s.hart hid).app.rcaddr v
    | .error _ => s)
/-- TOKVAL_WRITE by core hid (R314). -/
def execTokvalWrite (hid : Nat) (v : Word) (s : State) : Out := .next (s.tokvalWrite (s.hart hid).app.tokaddr v)

end Sys2Proof.Machine
end

