-- ==== Sys2Proof/Machine/VecCore.lean ====
section
/-! DEFINITION. What vector instructions share: how a queue entry ends, elements, masks, fills and the vstart of R197
(spec/10 R191 to R199, spec/04 R79). A meaning runs on the entry and on its hart, which is in its slot or has ended (R80). -/

namespace Sys2Proof.Machine

/-- How a queue entry ends. -/
inductive VEnd where
  /-- It completes. -/
  | done (h : Hart) (s : State)
  /-- It stops with vstart = t (R198, R344). -/
  | trap (c : Cause) (tval : Word) (t : Nat) (h : Hart) (s : State)
  /-- It cannot go on now: a token, a conflict, an owned line, a round, or a refusal at a pinned line. -/
  | hold (line : Option Nat) (s : State)
  /-- It has reached its drain point (R128) and stays at the head. -/
  | mark (s : State)
  /-- It has acted, and has more to do at the head (R272). -/
  | stay (h : Hart) (s : State)
  /-- It reads poison at element t (R347, R356): the xtval of cause 15. -/
  | poison (tval : Word) (t : Nat)
deriving DecidableEq, Repr

/-- The end of an entry whose access does not perform, at element t. -/
def VEnd.ofStop (e : Stop) (t : Nat) (h : Hart) (s : State) : VEnd :=
  match e with
  | .trap c v => .trap c v t h s
  | .wait l => .hold l s
  | .poison v => .poison v t

/-! ## Fields of the entry -/

def QEntry.ef (q : QEntry) : Nat := vtEF q.vtype
def QEntry.sub (q : QEntry) : Nat := vtSUB q.vtype
def QEntry.rm (q : QEntry) : Nat := vtRM q.vtype
/-- Block length B (R21). -/
def QEntry.blk (q : QEntry) : Nat := blockLen (vtBLK q.vtype)
/-- Element width w (R191). -/
def QEntry.w (q : QEntry) : Nat := efWidth q.ef
/-- The element count of R192. -/
def QEntry.count (q : QEntry) : Nat := if q.ef = 14 then q.vb / (4 * q.blk) * q.blk else q.vb / q.w
/-- The element count beside 32-bit operands (R192). -/
def QEntry.count32 (q : QEntry) : Nat := q.vb / max q.w 32
/-- Vector register numbers lie below N (R155). -/
def QEntry.regsOk (q : QEntry) (rs : List Reg) : Bool := rs.all fun r => decide (r.toNat < q.n)

/-- The illegal-instruction trap of an entry: nothing changes (R196). -/
def illegalV (q : QEntry) (h : Hart) (s : State) : VEnd := .trap .illegal q.ir q.vstart h s
/-- Runs a meaning where the entry's checks pass (R155, R196). -/
def checked (q : QEntry) (h : Hart) (s : State) (ok : Bool) (k : VEnd) : VEnd := if ok then k else illegalV q h s
/-- A register-only meaning. -/
def pureV (q : QEntry) (h : Hart) (s : State) (ok : Bool) (f : Hart → Hart) : VEnd := checked q h s ok (.done (f h) s)
/-- The check of a whole instruction (R197). -/
def QEntry.fresh (q : QEntry) : Bool := q.vstart == 0

/-! ## Elements -/

/-- Element e is active (R193). -/
def Hart.active (h : Hart) (me : Bool) (m : BitVec 4) (e : Nat) : Bool := !me || (h.mreg m.toNat).testBit e
/-- Elements of w bits joined, the first the lowest. -/
def packElems (w : Nat) : List Nat → Nat
  | [] => 0
  | x :: r => x % 2 ^ w + packElems w r * 2 ^ w
/-- The first n elements of w bits. -/
def elemsOf (v w n : Nat) : List Nat := (List.range n).map (elem v w)
/-- Bits below a register's fill. -/
def Hart.vbits (h : Hart) (r : Reg) : Nat := (h.vreg r.toNat).bits
/-- The fill of a register. -/
def Hart.vfill (h : Hart) (r : Reg) : Nat := (h.vreg r.toNat).fill
/-- Element e of a register operand, w bits wide. -/
def Hart.el (h : Hart) (r : Reg) (w e : Nat) : Nat := elem (h.vbits r) w e

/-- What an element operation gives: the value, flags, and whether it clamped (R199). -/
structure ERes where
  val : Nat
  fl : Flags
  sat : Bool
deriving DecidableEq, Repr

/-- A value without flags. -/
def ERes.of (v : Nat) : ERes := ⟨v, 0, false⟩
/-- A value with floating-point flags. -/
def ERes.fp (r : Nat × Flags) : ERes := ⟨r.1, r.2, false⟩
/-- Flags and saturation of active elements accrue (R199). -/
def Hart.accrueAll (h : Hart) (rs : List ERes) : Hart :=
  (rs.foldl (fun (h : Hart) r => h.accrue r.fl) h).setSat (rs.any (·.sat))

/-- Writes n elements of wd bits: the active ones at and above vstart from f, the others as they were (R193, R197). -/
def Hart.writeElems (h : Hart) (q : QEntry) (me : Bool) (m : BitVec 4) (d : Reg) (wd n : Nat) (f : Nat → ERes) : Hart :=
  let old := h.vbits d
  let rs := (List.range n).map fun e =>
    if q.vstart ≤ e && h.active me m e then f e else ERes.of (elem old wd e)
  (h.setVReg d.toNat (n * wd) (packElems wd (rs.map (·.val)))).accrueAll rs
/-- Writes mask bits: the active ones at and above vstart from f; the bits at and above n are 0 (R209). -/
def Hart.writeMask (h : Hart) (q : QEntry) (me : Bool) (m : BitVec 4) (d : Reg) (n : Nat) (f : Nat → ERes) : Hart :=
  let old := h.mreg d.toNat
  let rs := (List.range n).map fun e =>
    if q.vstart ≤ e && h.active me m e then f e else ERes.of (if old.testBit e then 1 else 0)
  (h.setMReg d.toNat (packElems 1 (rs.map (·.val)))).accrueAll rs

/-- The b operand of element e: a register element, or with S the low w bits of the captured g[b] (R206). -/
def Hart.opB (h : Hart) (q : QEntry) (x : VArgs) (e : Nat) : Nat :=
  if x.s then q.gb.toNat % 2 ^ q.w else h.el x.b q.w e
/-- The vector registers that a d, a, b form names. -/
def vregsDAB (x : VArgs) : List Reg := if x.s then [x.d, x.a] else [x.d, x.a, x.b]

/-! ## Configuration (R202 to R205) -/

/-- The unit that a grant is a multiple of (R47). -/
def grantUnit (vtype : Word) : Nat :=
  if vtEF vtype = 16 then 1 else if vtEF vtype = 14 then 4 * blockLen (vtBLK vtype) else efWidth (vtEF vtype)
/-- VSETB's grant and whether the Shutter shortened it (R47, R203). -/
def grantOf (h : Hart) (ceil : Nat) (request : Nat) : Nat × Bool :=
  let t := min request (vbmax h.share h.vec.n)
  let t := if ceil ≠ 0 then min t ceil else t
  let short := h.smax ≠ 0 ∧ h.smax < t
  let t := if h.smax ≠ 0 then min t h.smax else t
  (t - t % grantUnit h.vtype, short)

/-- The position of a LOOPB that stops: its iteration, which resumes with the body read anew (R272). -/
def LoopPos.trapped (p : LoopPos) : Option LoopPos := if p.q = 0 then none else some ⟨p.q, 0, []⟩
/-- The g register that a configuration instruction has written from the front end when it entered the queue (R194); its entry
keeps in `gb` what stood there before. -/
def QEntry.gWritten (q : QEntry) : Option Reg :=
  match q.ins with
  | .vconf x => some x.d
  | .vsetb x => some x.d
  | .vsete x => if q.ef = 16 then none else some x.d
  | _ => none
/-- The register that an entry has written holds what stood in it. -/
def Hart.regain (h : Hart) (e : QEntry) : Hart := match e.gWritten with | some d => h.setG d e.gb | none => h
/-- The run-ahead of the front end behind an entry that stops is undone (R344): N and vb are those that the entry carries, and the
registers that a discarded VCONF, VSETB or VSETE had written hold what stood in them. A LOOPB keeps its iteration as its position
(R272). -/
def Hart.unwind (h : Hart) (q : QEntry) : Hart :=
  let t := (h.vec.queue.reverse.foldl Hart.regain h).updVec fun v => { v with n := q.n, vb := q.vb }
  match q.loop with
  | some p => { t with loopPos := p.trapped }
  | none => t
/-- VCONF in queue order: every register and mask is empty (R202). The front end has set N, vb, vstart and g[d]. -/
def runVconf (_ : GArgs) (_ : QEntry) (h : Hart) (s : State) : VEnd := .done (h.updVec fun v => { v with v := [], m := [] }) s
/-- VSETB's effect in queue order: fills fall to the grant (R203). The entry carries the grant in gd, and in gc whether
the Shutter took lanes (2), which pass now (R323 step 3), or shortened the grant (1). The contents that R81 leaves
unspecified lie above the fill, where every bit reads as zero (R46). -/
def runGrant (q : QEntry) (h : Hart) (s : State) : VEnd :=
  let t := q.gd.toNat
  if q.gc = 2 then .done ((h.updVec fun v => { v with v := [], passed := true, taken := false }).setShr true) s
  else
    let cut (e : Nat × VReg) : Nat × VReg := (e.1, ⟨min e.2.fill t, e.2.bits % 2 ^ min e.2.fill t⟩)
    .done ((h.updVec fun v => { v with v := (v.v.map cut).filter fun e => e.2 != VReg.zero }).setShr (q.gc == 1)) s
/-- VSETB (R203). -/
def runVsetb (_ : VArgs) (q : QEntry) (h : Hart) (s : State) : VEnd := runGrant q h s
/-- VSETE (R204): not under the coded format. -/
def runVsete (_ : VArgs) (q : QEntry) (h : Hart) (s : State) : VEnd := checked q h s (q.ef != 16) (runGrant q h s)
/-- VSETF (R205). -/
def runVsetf (x : VArgs) (q : QEntry) (h : Hart) (s : State) : VEnd :=
  pureV q h s (q.regsOk [x.d]) fun h => h.setVReg x.d.toNat (min q.ga.toNat q.vb) (h.vbits x.d)

end Sys2Proof.Machine
end

