-- ==== Sys2Proof/Machine/VecInt.lean ====
section
/-! DEFINITION. Vector integer arithmetic, moves and integer compares (spec/10 R206, R209). -/

namespace Sys2Proof.Machine

/-- EF is an integer format. -/
def QEntry.isInt (q : QEntry) : Bool := decide (q.ef ≤ 7)

/-- A two-operand integer operation on w-bit elements (R206). -/
def vint2 (x : VArgs) (q : QEntry) (h : Hart) (s : State) (f : Nat → Nat → Nat → ERes) : VEnd :=
  pureV q h s (q.isInt && q.regsOk (vregsDAB x)) fun h =>
    h.writeElems q x.me x.m x.d q.w q.count fun e => f q.w (h.el x.a q.w e) (h.opB q x e)
/-- A saturating result (R16, R206). -/
def satRes (w : Nat) (signed : Bool) (v : Int) : ERes := let r := saturate w signed v; ⟨r.1, 0, r.2⟩
/-- High half of a product (R206). -/
def hiPart (w : Nat) (v : Int) : Nat := ofSigned w (v / (2 ^ w : Nat))

/-- VADD (R206). -/
def runVadd (x : VArgs) (q : QEntry) (h : Hart) (s : State) : VEnd := vint2 x q h s fun w a b => .of ((a + b) % 2 ^ w)
/-- VSUB (R206). -/
def runVsub (x : VArgs) (q : QEntry) (h : Hart) (s : State) : VEnd :=
  vint2 x q h s fun w a b => .of ((a + (2 ^ w - b)) % 2 ^ w)
/-- VMUL (R206). -/
def runVmul (x : VArgs) (q : QEntry) (h : Hart) (s : State) : VEnd := vint2 x q h s fun w a b => .of (a * b % 2 ^ w)
/-- VMULH (R206). -/
def runVmulh (x : VArgs) (q : QEntry) (h : Hart) (s : State) : VEnd :=
  vint2 x q h s fun w a b => .of (hiPart w (toSigned w a * toSigned w b))
/-- VMULHU (R206). -/
def runVmulhu (x : VArgs) (q : QEntry) (h : Hart) (s : State) : VEnd :=
  vint2 x q h s fun w a b => .of (a * b / 2 ^ w % 2 ^ w)
/-- VMIN (R206). -/
def runVmin (x : VArgs) (q : QEntry) (h : Hart) (s : State) : VEnd :=
  vint2 x q h s fun w a b => .of (if toSigned w b < toSigned w a then b else a)
/-- VMAX (R206). -/
def runVmax (x : VArgs) (q : QEntry) (h : Hart) (s : State) : VEnd :=
  vint2 x q h s fun w a b => .of (if toSigned w a < toSigned w b then b else a)
/-- VMINU (R206). -/
def runVminu (x : VArgs) (q : QEntry) (h : Hart) (s : State) : VEnd := vint2 x q h s fun _ a b => .of (min a b)
/-- VMAXU (R206). -/
def runVmaxu (x : VArgs) (q : QEntry) (h : Hart) (s : State) : VEnd := vint2 x q h s fun _ a b => .of (max a b)
/-- VAND (R206). -/
def runVand (x : VArgs) (q : QEntry) (h : Hart) (s : State) : VEnd := vint2 x q h s fun _ a b => .of (a &&& b)
/-- VOR (R206). -/
def runVor (x : VArgs) (q : QEntry) (h : Hart) (s : State) : VEnd := vint2 x q h s fun _ a b => .of (a ||| b)
/-- VXOR (R206). -/
def runVxor (x : VArgs) (q : QEntry) (h : Hart) (s : State) : VEnd := vint2 x q h s fun _ a b => .of (a ^^^ b)
/-- VSLL (R206): the shift is y mod w. -/
def runVsll (x : VArgs) (q : QEntry) (h : Hart) (s : State) : VEnd :=
  vint2 x q h s fun w a b => .of (a * 2 ^ (b % w) % 2 ^ w)
/-- VSRL (R206). -/
def runVsrl (x : VArgs) (q : QEntry) (h : Hart) (s : State) : VEnd := vint2 x q h s fun w a b => .of (a / 2 ^ (b % w))
/-- VSRA (R206). -/
def runVsra (x : VArgs) (q : QEntry) (h : Hart) (s : State) : VEnd :=
  vint2 x q h s fun w a b => .of (ofSigned w (toSigned w a / (2 ^ (b % w) : Nat)))
/-- VSADD (R206). -/
def runVsadd (x : VArgs) (q : QEntry) (h : Hart) (s : State) : VEnd :=
  vint2 x q h s fun w a b => satRes w true (toSigned w a + toSigned w b)
/-- VSSUB (R206). -/
def runVssub (x : VArgs) (q : QEntry) (h : Hart) (s : State) : VEnd :=
  vint2 x q h s fun w a b => satRes w true (toSigned w a - toSigned w b)
/-- VSADDU (R206). -/
def runVsaddu (x : VArgs) (q : QEntry) (h : Hart) (s : State) : VEnd :=
  vint2 x q h s fun w a b => satRes w false ((a : Int) + b)
/-- VSSUBU (R206). -/
def runVssubu (x : VArgs) (q : QEntry) (h : Hart) (s : State) : VEnd :=
  vint2 x q h s fun w a b => satRes w false ((a : Int) - b)
/-- VMADD (R206). -/
def runVmadd (x : VArgs) (q : QEntry) (h : Hart) (s : State) : VEnd :=
  pureV q h s (q.isInt && q.regsOk (x.c :: vregsDAB x)) fun h =>
    h.writeElems q x.me x.m x.d q.w q.count fun e =>
      .of ((h.el x.a q.w e * h.opB q x e + h.el x.c q.w e) % 2 ^ q.w)
/-- VMV (R206). -/
def runVmv (x : VArgs) (q : QEntry) (h : Hart) (s : State) : VEnd :=
  pureV q h s (q.isInt && q.regsOk [x.d, x.a]) fun h =>
    h.writeElems q x.me x.m x.d q.w q.count fun e => .of (h.el x.a q.w e)

/-! ## Compares (R209) -/

/-- A truth value as a mask bit. -/
def bitRes (b : Bool) : ERes := .of (if b then 1 else 0)
/-- The vector registers of a compare. -/
def vregsAB (x : VArgs) : List Reg := if x.s then [x.a] else [x.a, x.b]
/-- An integer compare (R209). -/
def vcmp (x : VArgs) (q : QEntry) (h : Hart) (s : State) (f : Nat → Nat → Nat → Bool) : VEnd :=
  pureV q h s (q.isInt && q.regsOk (vregsAB x)) fun h =>
    h.writeMask q x.me x.m x.d q.count fun e => bitRes (f q.w (h.el x.a q.w e) (h.opB q x e))
/-- VCEQ (R209). -/
def runVceq (x : VArgs) (q : QEntry) (h : Hart) (s : State) : VEnd := vcmp x q h s fun _ a b => a == b
/-- VCNE (R209). -/
def runVcne (x : VArgs) (q : QEntry) (h : Hart) (s : State) : VEnd := vcmp x q h s fun _ a b => a != b
/-- VCLT (R209). -/
def runVclt (x : VArgs) (q : QEntry) (h : Hart) (s : State) : VEnd :=
  vcmp x q h s fun w a b => decide (toSigned w a < toSigned w b)
/-- VCLE (R209). -/
def runVcle (x : VArgs) (q : QEntry) (h : Hart) (s : State) : VEnd :=
  vcmp x q h s fun w a b => decide (toSigned w a ≤ toSigned w b)
/-- VCLTU (R209). -/
def runVcltu (x : VArgs) (q : QEntry) (h : Hart) (s : State) : VEnd := vcmp x q h s fun _ a b => decide (a < b)
/-- VCLEU (R209). -/
def runVcleu (x : VArgs) (q : QEntry) (h : Hart) (s : State) : VEnd := vcmp x q h s fun _ a b => decide (a ≤ b)

end Sys2Proof.Machine
end

