-- ==== Sys2Proof/Machine/VecFloat.lean ====
section
/-! DEFINITION. Vector floating-point arithmetic and compares, VFEXP2, VFLOG2 and VRSQE (spec/10 R207 to R209, spec/02
R40). -/

namespace Sys2Proof.Machine

/-- EF is one of fp16, bf16, fp32, fp64. -/
def QEntry.isFp (q : QEntry) : Bool := decide (10 ≤ q.ef) && decide (q.ef ≤ 13)
/-- The format of the entry. -/
def QEntry.fmt (q : QEntry) : Fmt := (fmtOf q.ef).getD fp32
/-- An operand read under the entry's policy (R27). -/
def QEntry.read (q : QEntry) (b : Nat) : FVal := operand q.fmt q.sub b

/-- A two-operand floating-point operation (R207). -/
def vfp2 (x : VArgs) (q : QEntry) (h : Hart) (s : State) (f : Fmt → Nat → Nat → FVal → FVal → Nat × Flags) : VEnd :=
  pureV q h s (q.isFp && q.regsOk (vregsDAB x)) fun h =>
    h.writeElems q x.me x.m x.d q.w q.count fun e =>
      .fp (f q.fmt q.rm q.sub (q.read (h.el x.a q.w e)) (q.read (h.opB q x e)))
/-- A one-operand floating-point operation on bit patterns (R207). -/
def vfp1 (x : VArgs) (q : QEntry) (h : Hart) (s : State) (f : Fmt → Nat → Nat → FVal → Nat × Flags) : VEnd :=
  pureV q h s (q.isFp && q.regsOk [x.d, x.a]) fun h =>
    h.writeElems q x.me x.m x.d q.w q.count fun e => .fp (f q.fmt q.rm q.sub (q.read (h.el x.a q.w e)))
/-- A fused operation (R207). -/
def vfp3 (x : VArgs) (q : QEntry) (h : Hart) (s : State) (nx nz : Bool) : VEnd :=
  pureV q h s (q.isFp && q.regsOk (x.c :: vregsDAB x)) fun h =>
    h.writeElems q x.me x.m x.d q.w q.count fun e =>
      let a := q.read (h.el x.a q.w e)
      let c := q.read (h.el x.c q.w e)
      .fp (fmaVal q.fmt q.rm q.sub (if nx then a.negate else a) (q.read (h.opB q x e)) (if nz then c.negate else c))
/-- A minimum or maximum (R38, R207). -/
def vfpMinMax (x : VArgs) (q : QEntry) (h : Hart) (s : State) (isMax : Bool) : VEnd :=
  pureV q h s (q.isFp && q.regsOk (vregsDAB x)) fun h =>
    h.writeElems q x.me x.m x.d q.w q.count fun e => .fp (minMaxBits q.fmt q.sub isMax (h.el x.a q.w e) (h.opB q x e))

/-- VFADD (R207). -/
def runVfadd (x : VArgs) (q : QEntry) (h : Hart) (s : State) : VEnd := vfp2 x q h s addVal
/-- VFSUB (R207). -/
def runVfsub (x : VArgs) (q : QEntry) (h : Hart) (s : State) : VEnd :=
  vfp2 x q h s fun F m p a b => addVal F m p a b.negate
/-- VFMUL (R207). -/
def runVfmul (x : VArgs) (q : QEntry) (h : Hart) (s : State) : VEnd := vfp2 x q h s mulVal
/-- VFDIV (R207). -/
def runVfdiv (x : VArgs) (q : QEntry) (h : Hart) (s : State) : VEnd := vfp2 x q h s divVal
/-- VFSQRT (R207). -/
def runVfsqrt (x : VArgs) (q : QEntry) (h : Hart) (s : State) : VEnd := vfp1 x q h s sqrtVal
/-- VFMIN (R207). -/
def runVfmin (x : VArgs) (q : QEntry) (h : Hart) (s : State) : VEnd := vfpMinMax x q h s false
/-- VFMAX (R207). -/
def runVfmax (x : VArgs) (q : QEntry) (h : Hart) (s : State) : VEnd := vfpMinMax x q h s true
/-- VFMA (R207). -/
def runVfma (x : VArgs) (q : QEntry) (h : Hart) (s : State) : VEnd := vfp3 x q h s false false
/-- VFMS (R207). -/
def runVfms (x : VArgs) (q : QEntry) (h : Hart) (s : State) : VEnd := vfp3 x q h s false true
/-- VFNMA (R207). -/
def runVfnma (x : VArgs) (q : QEntry) (h : Hart) (s : State) : VEnd := vfp3 x q h s true false

/-- The bits of ± |v| for VFABS and VFNEG, which round nothing (R207). -/
def signedBits (F : Fmt) (neg : FVal → Bool) (v : FVal) : Nat × Flags :=
  match v with
  | .nan q => (F.nan, flagIf q fNV)
  | .inf _ => (F.inf (neg v), 0)
  | .fin _ m e => (pack F (neg v) m e, 0)
/-- VFABS (R207). -/
def runVfabs (x : VArgs) (q : QEntry) (h : Hart) (s : State) : VEnd :=
  vfp1 x q h s fun F _ _ v => signedBits F (fun _ => false) v
/-- VFNEG (R207). -/
def runVfneg (x : VArgs) (q : QEntry) (h : Hart) (s : State) : VEnd :=
  vfp1 x q h s fun F _ _ v => signedBits F (fun v => !v.neg) v

/-! ## 2^x and log2 x (R208)

A value that is irrational is held to 256 bits below the binary point and marked sticky: no fp32 result lies so close to a
rounding boundary. -/

/-- Bits below the binary point. -/
def fixBits : Nat := 256
/-- atanh(n/d) in units of 2^-256 by its series, k terms; `t` holds z^(2i+1). -/
def atanhFix (n2 d2 : Nat) : Nat → Nat → Nat → Nat
  | 0, _, _ => 0
  | k + 1, i, t => t / (2 * i + 1) + atanhFix n2 d2 k (i + 1) (t * n2 / d2)
/-- ln((1 + z)/(1 − z)) for z = n/d ≤ 1/3, in units of 2^-256. -/
def lnRatio (n d : Nat) : Nat := 2 * atanhFix (n * n) (d * d) 90 0 (n * 2 ^ fixBits / d)
/-- ln 2 in units of 2^-256. -/
def ln2Fix : Nat := lnRatio 1 3
/-- e^y for y in units of 2^-256, below 1, by its series from term i on. -/
def expFix (y : Nat) : Nat → Nat → Nat → Nat
  | 0, _, _ => 0
  | k + 1, i, t => t + expFix y k (i + 1) (t * y / 2 ^ fixBits / i)

/-- 2^x of a finite value (R208). -/
def exp2Ex (neg : Bool) (m : Nat) (e : Int) : Ex :=
  if m = 0 then ⟨false, 1, 0, false⟩
  -- beyond every format: 2^±4096
  else if gtMag m e 4096 0 then ⟨false, 1, if neg then -4096 else 4096, true⟩
  else
    let v : Int := if 0 ≤ e then shl m e * 2 ^ fixBits else (m * 2 ^ fixBits / 2 ^ (-e).toNat : Nat)
    let v := if neg then -v else v
    let i := v / (2 ^ fixBits : Nat)
    let f := (v % (2 ^ fixBits : Nat)).toNat
    if f = 0 then ⟨false, 1, i, false⟩
    else ⟨false, expFix (f * ln2Fix / 2 ^ fixBits) 72 1 (2 ^ fixBits), i - fixBits, true⟩
/-- VFEXP2's element (R208). -/
def exp2Val (F : Fmt) (mode sub : Nat) (v : FVal) : Nat × Flags :=
  match v with
  | .nan q => (F.nan, flagIf q fNV)
  | .inf n => if n then (0, 0) else roundInf F false
  | .fin n m e => roundFin F mode sub (exp2Ex n m e)

/-- log2 x of a finite value above 0 (R208). -/
def log2Ex (m : Nat) (e : Int) : Ex :=
  let l := m.log2
  let k : Int := e + l
  if m = 2 ^ l then ⟨decide (k < 0), k.natAbs, 0, false⟩
  else
    -- m / 2^l lies between 1 and 2
    let fr := lnRatio (m - 2 ^ l) (m + 2 ^ l) * 2 ^ fixBits / ln2Fix
    let v : Int := k * (2 ^ fixBits : Nat) + fr
    ⟨decide (v < 0), v.natAbs, -(fixBits : Int), true⟩
/-- VFLOG2's element (R208). -/
def log2Val (F : Fmt) (mode sub : Nat) (v : FVal) : Nat × Flags :=
  match v with
  | .nan q => (F.nan, flagIf q fNV)
  | .inf n => if n then (F.nan, fNV) else roundInf F false
  | .fin n m e =>
    if m = 0 then (F.inf true, fDZ)
    else if n then (F.nan, fNV)
    else roundFin F mode sub (log2Ex m e)

/-- A function of fp32 elements alone (R207). -/
def vfp32 (x : VArgs) (q : QEntry) (h : Hart) (s : State) (f : Fmt → Nat → Nat → FVal → Nat × Flags) : VEnd :=
  checked q h s (q.ef == 12) (vfp1 x q h s f)
/-- VFEXP2 (R208). -/
def runVfexp2 (x : VArgs) (q : QEntry) (h : Hart) (s : State) : VEnd := vfp32 x q h s exp2Val
/-- VFLOG2 (R208). -/
def runVflog2 (x : VArgs) (q : QEntry) (h : Hart) (s : State) : VEnd := vfp32 x q h s log2Val

/-! ## VRSQE (R40) -/

/-- The exact sum of a value that is not negative and may be sticky, and a finite operand. -/
def addSticky (r b : Ex) : Ex :=
  let u := min r.e b.e
  let x := shl r.m (r.e - u)
  let y := shl b.m (b.e - u)
  if !b.neg then ⟨false, x + y, u, r.sticky⟩
  else if y ≤ x then ⟨false, x - y, u, r.sticky⟩
  else ⟨true, y - x - (if r.sticky then 1 else 0), u, r.sticky⟩
/-- The reciprocal of a value that is not 0, to 256 bits and a sticky rest. -/
def recipEx (a : Ex) : Ex :=
  let k := a.m.log2 + 256
  let d := if a.sticky then a.m + 1 else a.m
  ⟨a.neg, 2 ^ k / d, -(k : Int) - a.e, a.sticky || 2 ^ k % d != 0⟩
/-- 1 / (sqrt(v) + eps) with the special cases of R40. -/
def rsqeVal (F : Fmt) (mode sub : Nat) (v eps : FVal) : Nat × Flags :=
  if v.isNan || eps.isNan then (F.nan, fNV)
  else
    let top := match v with | .inf n => !n | _ => false
    match eps with
    | .inf true => if top then (F.nan, fNV) else (F.sign true, 0)
    | .inf false => (0, 0)
    | _ =>
      if top then (0, 0)
      else
        let r : Ex := if v.neg || v.isZero then ⟨false, 0, 0, false⟩ else match v with
          | .fin _ m e => sqrtEx ⟨false, m, e, false⟩
          | _ => ⟨false, 0, 0, false⟩
        let d := addSticky r eps.ex
        if d.m = 0 ∧ !d.sticky then (F.inf false, fDZ) else roundFin F mode sub (recipEx d)
/-- VRSQE (R40, R207). -/
def runVrsqe (x : VArgs) (q : QEntry) (h : Hart) (s : State) : VEnd :=
  checked q h s (q.ef == 12) (vfp2 x q h s rsqeVal)

/-! ## Compares (R209) -/

/-- A floating-point compare (R209). -/
def vfcmp (x : VArgs) (q : QEntry) (h : Hart) (s : State) (nvQuiet : Bool) (f : FVal → FVal → Bool) : VEnd :=
  pureV q h s (q.isFp && q.regsOk (vregsAB x)) fun h =>
    h.writeMask q x.me x.m x.d q.count fun e =>
      let a := q.read (h.el x.a q.w e)
      let b := q.read (h.opB q x e)
      ⟨if f a b then 1 else 0, if nvQuiet then flagIf (a.isNan || b.isNan) fNV else snanFlag [a, b], false⟩
/-- VFCEQ (R209). -/
def runVfceq (x : VArgs) (q : QEntry) (h : Hart) (s : State) : VEnd := vfcmp x q h s false eqVal
/-- VFCLT (R209). -/
def runVfclt (x : VArgs) (q : QEntry) (h : Hart) (s : State) : VEnd := vfcmp x q h s true ltVal
/-- VFCLE (R209). -/
def runVfcle (x : VArgs) (q : QEntry) (h : Hart) (s : State) : VEnd :=
  vfcmp x q h s true fun a b => ltVal a b || eqVal a b
/-- VFCUN (R209). -/
def runVfcun (x : VArgs) (q : QEntry) (h : Hart) (s : State) : VEnd :=
  vfcmp x q h s false fun a b => a.isNan || b.isNan

end Sys2Proof.Machine
end

