-- ==== Sys2Proof/Machine/VecConvert.lean ====
section
/-! DEFINITION. Vector conversions (spec/10 R210 to R216, spec/02 R19 to R22, R29 to R32). -/

namespace Sys2Proof.Machine

/-! ## CVT (R211, R212) -/

/-- Converts w-bit source bits of format `src` to format `dst` (R211). -/
def convert (src dst mode sub : Nat) (b : Nat) : ERes :=
  match intOf src, intOf dst with
  | some (ws, ss), some (wd, sd) => satRes wd sd (intVal ws ss b)
  | some (ws, ss), none => match fmtOf dst with
    | some F => .fp (roundVal F mode sub (ofInt (intVal ws ss b)))
    | none => .of 0
  | none, some (wd, sd) => match fmtOf src with
    | some F => .fp (toInt wd sd mode (operand F sub b))
    | none => .of 0
  | none, none => match fmtOf src, fmtOf dst with
    | some F, some G => .fp (roundVal G mode sub (operand F sub b))
    | _, _ => .of 0

/-- CVT (R211). -/
def runCvt (x : VArgs) (q : QEntry) (h : Hart) (s : State) : VEnd :=
  let src := x.c.toNat
  let ws := efWidth src
  pureV q h s (decide (q.ef ≤ 13) && decide (src ≤ 13) && src != q.ef && q.regsOk [x.d, x.a]) fun h =>
    h.writeElems q x.me x.m x.d q.w (q.vb / max ws q.w) fun e => convert src q.ef q.rm q.sub (h.el x.a ws e)
/-- CVT.SR (R212): the draw is uint32 element e of v[b]. -/
def runCvtSr (x : VArgs) (q : QEntry) (h : Hart) (s : State) : VEnd :=
  let src := x.c.toNat
  let ws := efWidth src
  match fmtOf src, fmtOf q.ef with
  | some F, some G =>
    pureV q h s (decide (8 ≤ q.ef) && decide (q.ef ≤ 12) && decide (10 ≤ src) && decide (src ≤ 13) && src != q.ef
        && q.regsOk [x.d, x.a, x.b]) fun h =>
      h.writeElems q x.me x.m x.d q.w (q.vb / max (max ws q.w) 32) fun e =>
        .fp (sroundVal G q.sub (operand F q.sub (h.el x.a ws e)) (h.el x.b 32 e))
  | _, _ => illegalV q h s

/-! ## mxfp4 blocks (R19 to R21, R213) -/

/-- Magnitude order of finite values. -/
def maxMag (a b : Nat × Int) : Nat × Int := if gtMag b.1 b.2 a.1 a.2 then b else a
/-- Least s with M ≤ 6 × 2^s, for M = m × 2^e above 0 (R20 step 5). -/
def mxScale (m : Nat) (e : Int) : Int :=
  let t : Int := e + m.log2 - 3
  if !gtMag m e 6 t then t else if !gtMag m e 6 (t + 1) then t + 1 else t + 2
/-- One block of source values (R20): the scale byte, the elements, and the flags. -/
def mxBlock (mode : Nat) (xs : List FVal) : Nat × List Nat × Flags :=
  if xs.any fun v => v.isNan || v.isInf then (0xFF, xs.map fun _ => 0, fNV)
  else
    let mag (v : FVal) : Nat × Int := match v with | .fin _ m e => (m, e) | _ => (0, 0)
    let M := xs.foldl (fun a v => maxMag a (mag v)) (0, 0)
    let sc : Int := if M.1 = 0 then -127 else min 127 (max (-127) (mxScale M.1 M.2))
    let rs := xs.map fun v => match v with
      | .fin n m e => roundFin fpE2M1 mode 0 ⟨n, m, e - sc, false⟩
      | _ => (0, 0)
    ((sc + 127).toNat, rs.map (·.1), rs.foldl (fun f r => f ||| r.2) 0)

/-- Bits of one part of a scale register (R21). -/
def QEntry.partBits (q : QEntry) : Nat := 8 * (q.vb / (4 * q.blk))
/-- The part that serves element register r (R21). -/
def QEntry.partOf (q : QEntry) (r : Reg) : Nat := r.toNat % (q.blk / 2)
/-- Bit offset of the scale byte of block j of element register r (R21). -/
def QEntry.scaleAt (q : QEntry) (r : Reg) (j : Nat) : Nat := q.partOf r * q.partBits + 8 * j
/-- The scale byte of block j. -/
def Hart.scaleByte (h : Hart) (q : QEntry) (sc r : Reg) (j : Nat) : Nat := slice (h.vbits sc) (q.scaleAt r j) 8

/-- VQMX (R213). -/
def runVqmx (x : VArgs) (q : QEntry) (h : Hart) (s : State) : VEnd :=
  let src := x.c.toNat
  let ws := efWidth src
  let nb := q.vb / (ws * q.blk)
  match fmtOf src with
  | some F =>
    pureV q h s (q.fresh && q.ef == 14 && decide (10 ≤ src) && decide (src ≤ 12) && q.regsOk [x.d, x.a, x.b]
        && x.b != x.a && x.b != x.d) fun h =>
      let bs := (List.range nb).map fun j =>
        mxBlock q.rm ((List.range q.blk).map fun i => operand F q.sub (h.el x.a ws (j * q.blk + i)))
      let sc := bs.zipIdx.foldl (fun v b => splice v (q.scaleAt x.d b.2) 8 b.1.1) (h.vbits x.b)
      let h1 := h.setVReg x.d.toNat (4 * (nb * q.blk)) (packElems 4 (bs.flatMap fun b => b.2.1))
      let h2 := h1.setVReg x.b.toNat (max (h.vfill x.b) (q.scaleAt x.d nb)) sc
      bs.foldl (fun (h : Hart) b => h.accrue b.2.2) h2
  | none => illegalV q h s

/-- One element of VDQMX: E2M1 × 2^(s − 127) in format F (R19, R213). -/
def mxValue (F : Fmt) (mode sub : Nat) (el sc : Nat) : Nat × Flags :=
  if sc = 0xFF then (F.nan, 0)
  else match unpack fpE2M1 el with
    | .fin n m e => roundFin F mode sub ⟨n, m, e + ((sc : Int) - 127), false⟩
    | _ => (0, 0)
/-- VDQMX (R213). -/
def runVdqmx (x : VArgs) (q : QEntry) (h : Hart) (s : State) : VEnd :=
  let dst := x.c.toNat
  let wd := efWidth dst
  let n := q.vb / (wd * q.blk) * q.blk
  match fmtOf dst with
  | some F =>
    pureV q h s (q.fresh && q.ef == 14 && decide (10 ≤ dst) && decide (dst ≤ 12) && q.regsOk [x.d, x.a, x.b]
        && x.b != x.a) fun h =>
      h.writeElems q false 0 x.d wd n fun e => .fp (mxValue F q.rm q.sub (h.el x.a 4 e) (h.scaleByte q x.b x.a (e / q.blk)))
  | none => illegalV q h s

/-! ## The rest (R214 to R216) -/

/-- VEXPAND4 (R214, R22): int4 to fp8e4m3. -/
def runVexpand4 (x : VArgs) (q : QEntry) (h : Hart) (s : State) : VEnd :=
  pureV q h s (q.ef == 8 && q.regsOk [x.d, x.a]) fun h =>
    h.writeElems q x.me x.m x.d 8 (q.vb / 8) fun e => .of (roundVal fp8e4m3 0 0 (ofInt (toSigned 4 (h.el x.a 4 e)))).1
/-- VEXPAND6 (R214, R22): fp6 e3m2 to fp8e5m2, or e2m3 to fp8e4m3. -/
def runVexpand6 (x : VArgs) (q : QEntry) (h : Hart) (s : State) : VEnd :=
  let e3 := x.c == 0
  let F := if e3 then fp6e3m2 else fp6e2m3
  let G := if e3 then fp8e5m2 else fp8e4m3
  pureV q h s (q.ef == (if e3 then 9 else 8) && q.regsOk [x.d, x.a]) fun h =>
    h.writeElems q x.me x.m x.d 8 (q.vb / 8) fun e => .of (roundVal G 0 0 (unpack F (h.el x.a 6 e))).1
/-- VRNG (R215). -/
def runVrng (x : VArgs) (q : QEntry) (h : Hart) (s : State) : VEnd :=
  pureV q h s (q.isInt && q.regsOk [x.d]) fun h =>
    h.writeElems q x.me x.m x.d q.w q.count fun e => .of ((mix q.ga (q.gb + word e)).toNat % 2 ^ q.w)
/-- VCLASS (R216). -/
def runVclass (x : VArgs) (q : QEntry) (h : Hart) (s : State) : VEnd :=
  pureV q h s (q.isFp && q.regsOk [x.d, x.a]) fun h =>
    h.writeElems q x.me x.m x.d q.w q.count fun e => .of (classBits q.fmt (h.el x.a q.w e))

end Sys2Proof.Machine
end

