-- ==== Sys2Proof/Machine/VecPermute.lean ====
section
/-! DEFINITION. Vector permutations, mask instructions, reductions, scans and VCONFL (spec/10 R217 to R222, R227; spec/02
R38, R39). -/

namespace Sys2Proof.Machine

/-- EF is a fixed-width format. -/
def QEntry.fixed (q : QEntry) : Bool := decide (q.ef ≤ 15)
/-- A permutation on w-bit elements (R217). -/
def vperm (x : VArgs) (q : QEntry) (h : Hart) (s : State) (ok : Bool) (n : Nat) (f : Hart → Nat → Nat) : VEnd :=
  pureV q h s (q.fixed && ok) fun h => h.writeElems q x.me x.m x.d q.w n fun e => .of (f h e)

/-! ## Slides, broadcast and expansion (R217, R218) -/

/-- The inserted value of a code in a format; none where the combination is illegal (R218). -/
def insertVal (ef code : Nat) : Option Nat :=
  match code, intOf ef, fmtOf ef with
  | 0, _, _ => some 0
  | 1, some _, _ => some 0
  | 1, _, some F => some (F.sign true)
  | 2, some (w, sg), _ => some (ofSigned w (intMax w sg))
  | 2, _, some F => if F.kind = .ieee then some (F.inf false) else none
  | 3, some (w, sg), _ => some (ofSigned w (intMin w sg))
  | 3, _, some F => if F.kind = .ieee then some (F.inf true) else none
  | 4, some _, _ => some 1
  | 4, _, some F => some (pack F false 1 0)
  | _, _, _ => none
/-- VSLUP (R217). -/
def runVslup (x : VArgs) (q : QEntry) (h : Hart) (s : State) : VEnd :=
  let ins := insertVal q.ef x.c.toNat
  vperm x q h s (ins.isSome && q.regsOk [x.d, x.a]) q.count fun h e =>
    if q.gb.toNat ≤ e then h.el x.a q.w (e - q.gb.toNat) else ins.getD 0
/-- VSLDN (R217). -/
def runVsldn (x : VArgs) (q : QEntry) (h : Hart) (s : State) : VEnd :=
  let ins := insertVal q.ef x.c.toNat
  vperm x q h s (ins.isSome && q.regsOk [x.d, x.a]) q.count fun h e =>
    if e + q.gb.toNat < q.count then h.el x.a q.w (e + q.gb.toNat) else ins.getD 0
/-- VBCAST (R217). -/
def runVbcast (x : VArgs) (q : QEntry) (h : Hart) (s : State) : VEnd :=
  vperm x q h s (q.regsOk [x.d]) q.count fun _ _ => q.ga.toNat % 2 ^ q.w
/-- The number of active elements below e. -/
def Hart.activeBelow (h : Hart) (me : Bool) (m : BitVec 4) (e : Nat) : Nat :=
  if me then popcountTo e (h.mreg m.toNat) else e
/-- VXPAND (R217). -/
def runVxpand (x : VArgs) (q : QEntry) (h : Hart) (s : State) : VEnd :=
  vperm x q h s (q.regsOk [x.d, x.a]) q.count fun h e => h.el x.a q.w (h.activeBelow x.me x.m e)

/-! ## Whole permutations (R217, R219, R220) -/

/-- VPERM (R217): uint32 indices. -/
def runVperm (x : VArgs) (q : QEntry) (h : Hart) (s : State) : VEnd :=
  vperm x q h s (q.fresh && q.regsOk [x.d, x.a, x.b]) q.count32 fun h e =>
    if h.el x.b 32 e < q.count32 then h.el x.a q.w (h.el x.b 32 e) else 0
/-- VCOMPRESS (R219). -/
def runVcompress (x : VArgs) (q : QEntry) (h : Hart) (s : State) : VEnd :=
  pureV q h s (q.fixed && q.fresh && q.regsOk [x.d, x.a]) fun h =>
    let es := ((List.range q.count).filter (h.active x.me x.m)).map (h.el x.a q.w)
    h.setVReg x.d.toNat (es.length * q.w) (packElems q.w es)
/-- VZIP (R217). -/
def runVzip (x : VArgs) (q : QEntry) (h : Hart) (s : State) : VEnd :=
  vperm x q h s (q.fresh && q.regsOk [x.d, x.a, x.b]) q.count fun h e =>
    let i := e / 2 + x.c.toNat * (q.count / 2)
    if q.count ≤ i then 0 else h.el (if e % 2 = 0 then x.a else x.b) q.w i
/-- VUNZIP (R217). -/
def runVunzip (x : VArgs) (q : QEntry) (h : Hart) (s : State) : VEnd :=
  vperm x q h s (q.fresh && q.regsOk [x.d, x.a, x.b]) q.count fun h e =>
    let i := 2 * e + x.c.toNat
    if i < q.count then h.el x.a q.w i else if i < 2 * q.count then h.el x.b q.w (i - q.count) else 0
/-- VXCH (R217). -/
def runVxch (x : VArgs) (q : QEntry) (h : Hart) (s : State) : VEnd :=
  vperm x q h s (q.fresh && q.regsOk [x.d, x.a]) q.count fun h e =>
    let i := e ^^^ q.gb.toNat
    if i < q.count then h.el x.a q.w i else 0

/-- Register d + r of a tile. -/
def tileReg (d : Reg) (r : Nat) : Reg := BitVec.ofNat 6 (d.toNat + r)
/-- Transposes the 8 × 8 sub-tiles of eight registers, cells of w bits (R220). -/
def Hart.transpose (h : Hart) (d : Reg) (w n vb : Nat) : Hart :=
  (List.range 8).foldl (fun (h1 : Hart) r =>
    h1.setVReg (d.toNat + r) vb (packElems w ((List.range n).map fun e => h.el (tileReg d (e % 8)) w (e / 8 * 8 + r)))) h
/-- The scale byte of a block for VTRANS: 1.0 for a block above its register's fill (R220). -/
def Hart.tileScale (h : Hart) (q : QEntry) (d sc : Reg) (c j : Nat) : Nat :=
  if h.vfill (tileReg d c) ≤ j * 4 * q.blk then 0x7F else h.scaleByte q sc (tileReg d c) j
/-- VTRANS of blocks with their scales (R220). -/
def Hart.transposeMx (h : Hart) (q : QEntry) (d sc : Reg) : Hart :=
  let n := q.vb / (4 * q.blk)
  let h1 := h.transpose d (4 * q.blk) n q.vb
  let bits := (List.range 8).foldl (fun v r => (List.range n).foldl (fun v b =>
    splice v (q.scaleAt (tileReg d r) b) 8 (h.tileScale q d sc (b % 8) (b / 8 * 8 + r))) v) (h.vbits sc)
  let fill := (List.range 8).foldl (fun f r => max f (q.scaleAt (tileReg d r) n)) (h.vfill sc)
  h1.setVReg sc.toNat fill bits
/-- VTRANS (R220). -/
def runVtrans (x : VArgs) (q : QEntry) (h : Hart) (s : State) : VEnd :=
  let common := q.fixed && q.fresh && x.d.toNat % 8 == 0 && decide (x.d.toNat + 7 < q.n)
  if q.ef = 14 then
    pureV q h s (common && q.vb % (32 * q.blk) == 0 && q.regsOk [x.a]
        && !(decide (x.d ≤ x.a) && decide (x.a.toNat < x.d.toNat + 8))) fun h => h.transposeMx q x.d x.a
  else
    pureV q h s (common && q.vb % (8 * q.w) == 0 && x.a == 0) fun h => h.transpose x.d q.w (q.vb / q.w) q.vb

/-! ## Masks (R221) -/

/-- Positions of a mask instruction (R221). -/
def QEntry.positions (q : QEntry) (h : Hart) : Nat := if q.ef = 16 then min q.vb (vbmax h.share q.n / 4) else q.count
/-- A mask instruction on whole masks (R221). -/
def vmask (x : VArgs) (q : QEntry) (h : Hart) (s : State) (f : Nat → Nat → Nat) : VEnd :=
  pureV q h s q.fresh fun h => h.setMReg x.d.toNat (f (h.mreg x.a.toNat) (h.mreg x.b.toNat) % 2 ^ q.positions h)
/-- VMAND (R221). -/
def runVmand (x : VArgs) (q : QEntry) (h : Hart) (s : State) : VEnd := vmask x q h s fun a b => a &&& b
/-- VMOR (R221). -/
def runVmor (x : VArgs) (q : QEntry) (h : Hart) (s : State) : VEnd := vmask x q h s fun a b => a ||| b
/-- VMXOR (R221). -/
def runVmxor (x : VArgs) (q : QEntry) (h : Hart) (s : State) : VEnd := vmask x q h s fun a b => a ^^^ b
/-- VMANDN (R221). -/
def runVmandn (x : VArgs) (q : QEntry) (h : Hart) (s : State) : VEnd := vmask x q h s fun a b => a ^^^ (a &&& b)
/-- VMNOT (R221). -/
def runVmnot (x : VArgs) (q : QEntry) (h : Hart) (s : State) : VEnd :=
  pureV q h s q.fresh fun h =>
    let n := q.positions h
    h.setMReg x.d.toNat (2 ^ n - 1 - h.mreg x.a.toNat % 2 ^ n)
/-- The active set bits of a mask among the first n. -/
def Hart.setBitsOf (h : Hart) (x : VArgs) (n : Nat) : List Nat :=
  (List.range n).filter fun e => (h.mreg x.a.toNat).testBit e && h.active x.me x.m e
/-- VMPOPC (R221). -/
def runVmpopc (x : VArgs) (q : QEntry) (h : Hart) (s : State) : VEnd :=
  pureV q h s q.fresh fun h => h.setG x.d (word (h.setBitsOf x (q.positions h)).length)
/-- VMFIRST (R221). -/
def runVmfirst (x : VArgs) (q : QEntry) (h : Hart) (s : State) : VEnd :=
  pureV q h s q.fresh fun h => h.setG x.d (match h.setBitsOf x (q.positions h) with
    | e :: _ => word e
    | [] => BitVec.allOnes 64)
/-- VMSET (R221). -/
def runVmset (x : VArgs) (q : QEntry) (h : Hart) (s : State) : VEnd :=
  pureV q h s q.fresh fun h => h.setMReg x.d.toNat (2 ^ min (q.positions h) q.ga.toNat - 1)

/-! ## Reductions and scans (R38, R39, R222) -/

/-- The three operations of R222. -/
inductive RedKind where
  | sum
  | min
  | max
deriving DecidableEq, Repr

/-- The identity of an operation in the entry's format (R38, R218). -/
def QEntry.identity (q : QEntry) (k : RedKind) : Nat :=
  match intOf q.ef with
  | some (w, sg) => match k with
    | .sum => 0
    | .min => ofSigned w (intMax w sg)
    | .max => ofSigned w (intMin w sg)
  | none => match k with
    | .sum => q.fmt.sign true
    | .min => q.fmt.inf false
    | .max => q.fmt.inf true
/-- An operation on bit patterns, with its flags (R38). -/
def QEntry.redOp (q : QEntry) (k : RedKind) (a b : Nat × Flags) : Nat × Flags :=
  let r : Nat × Flags := match intOf q.ef with
    | some (w, sg) => match k with
      | .sum => ((a.1 + b.1) % 2 ^ w, 0)
      | .min => (if intVal w sg b.1 < intVal w sg a.1 then b.1 else a.1, 0)
      | .max => (if intVal w sg a.1 < intVal w sg b.1 then b.1 else a.1, 0)
    | none => match k with
      | .sum => addVal q.fmt q.rm q.sub (q.read a.1) (q.read b.1)
      | .min => minMaxBits q.fmt q.sub false a.1 b.1
      | .max => minMaxBits q.fmt q.sub true a.1 b.1
  (r.1, a.2 ||| b.2 ||| r.2)

/-- One level of the tree: neighbours combine. -/
def pairUp {α : Type} (op : α → α → α) : List α → List α
  | a :: b :: r => op a b :: pairUp op r
  | l => l
/-- The tree of R38 over a group of 32. -/
def treeOf {α : Type} (op : α → α → α) (t : List α) : List α := pairUp op (pairUp op (pairUp op (pairUp op (pairUp op t))))
/-- One level of the scan of R39, reaching back k places. -/
def scanLevel {α : Type} (op : α → α → α) (k : Nat) (t : List α) : List α :=
  t.take k ++ List.zipWith op t (t.drop k)
/-- The inclusive scan of a group of 32 (R39). -/
def scanGroup {α : Type} (op : α → α → α) (t : List α) : List α :=
  scanLevel op 16 (scanLevel op 8 (scanLevel op 4 (scanLevel op 2 (scanLevel op 1 t))))
/-- The groups carried in ascending order (R39): the results, given the carry. -/
def scanGroups {α : Type} (op : α → α → α) : α → List (List α) → List α
  | _, [] => []
  | c, t :: r =>
    let y := (scanGroup op t).map (op c)
    y ++ scanGroups op (y.getLastD c) r

/-- Group j of the active elements of v[a], inactive ones and those beyond the budget as the identity (R38). -/
def Hart.redGroup (h : Hart) (q : QEntry) (x : VArgs) (k : RedKind) (j : Nat) : List (Nat × Flags) :=
  (List.range 32).map fun i =>
    let e := 32 * j + i
    (if e < q.count && h.active x.me x.m e then h.el x.a q.w e else q.identity k, 0)
/-- The groups of n elements. -/
def Hart.redGroups (h : Hart) (q : QEntry) (x : VArgs) (k : RedKind) : List (List (Nat × Flags)) :=
  (List.range ((q.count + 31) / 32)).map (h.redGroup q x k)
/-- The initial value: element 0 of v[b], or with c bit 2 the identity (R222). -/
def Hart.redInit (h : Hart) (q : QEntry) (x : VArgs) (k : RedKind) : Nat × Flags :=
  (if x.c.getLsbD 2 then q.identity k else h.el x.b q.w 0, 0)
/-- The registers a reduction or scan names. -/
def redRegs (x : VArgs) : List Reg := if x.c.getLsbD 2 then [x.d, x.a] else [x.d, x.a, x.b]
/-- A reduction (R222). -/
def vred (x : VArgs) (q : QEntry) (h : Hart) (s : State) (ok : Bool) (k : RedKind) : VEnd :=
  pureV q h s (ok && q.fresh && q.regsOk (redRegs x)) fun h =>
    let r := (h.redGroups q x k).foldl (fun acc t =>
      match treeOf (q.redOp k) t with | y :: _ => q.redOp k acc y | [] => acc) (h.redInit q x k)
    (h.setVReg x.d.toNat q.w r.1).accrue r.2
/-- A scan (R222): flags of every addition accrue. -/
def vscan (x : VArgs) (q : QEntry) (h : Hart) (s : State) (ok : Bool) (k : RedKind) : VEnd :=
  pureV q h s (ok && q.fresh && q.regsOk (redRegs x)) fun h =>
    let ys := scanGroups (q.redOp k) (h.redInit q x k) (h.redGroups q x k)
    (h.writeElems q x.me x.m x.d q.w q.count fun e => .of (ys.getD e (0, 0)).1).accrue
      (ys.foldl (fun f y => f ||| y.2) 0)
/-- The operation in bits 1:0 of c (R222). -/
def scanKind (c : Reg) : RedKind := match c.toNat % 4 with | 0 => .sum | 1 => .min | _ => .max
/-- VREDSUM (R222). -/
def runVredsum (x : VArgs) (q : QEntry) (h : Hart) (s : State) : VEnd := vred x q h s q.isInt .sum
/-- VFREDSUM (R222). -/
def runVfredsum (x : VArgs) (q : QEntry) (h : Hart) (s : State) : VEnd := vred x q h s q.isFp .sum
/-- VREDMIN (R222). -/
def runVredmin (x : VArgs) (q : QEntry) (h : Hart) (s : State) : VEnd := vred x q h s (q.isInt || q.isFp) .min
/-- VREDMAX (R222). -/
def runVredmax (x : VArgs) (q : QEntry) (h : Hart) (s : State) : VEnd := vred x q h s (q.isInt || q.isFp) .max
/-- VSCAN (R222). -/
def runVscan (x : VArgs) (q : QEntry) (h : Hart) (s : State) : VEnd := vscan x q h s q.isInt (scanKind x.c)
/-- VFSCAN (R222). -/
def runVfscan (x : VArgs) (q : QEntry) (h : Hart) (s : State) : VEnd := vscan x q h s q.isFp (scanKind x.c)

/-! ## VCONFL (R227) -/

/-- First occurrences among active indices, from element e on; `seen` holds those below. -/
def firstOf (act : Nat → Bool) : List Nat → Nat → List Nat → List Nat
  | _, _, [] => []
  | seen, e, v :: r =>
    if act e && !seen.contains v then 1 :: firstOf act (v :: seen) (e + 1) r else 0 :: firstOf act seen (e + 1) r
/-- VCONFL (R227). -/
def runVconfl (x : VArgs) (q : QEntry) (h : Hart) (s : State) : VEnd :=
  pureV q h s (q.fixed && q.fresh && q.regsOk [x.a]) fun h =>
    h.setMReg x.d.toNat (packElems 1 (firstOf (h.active x.me x.m) [] 0 (elemsOf (h.vbits x.a) 32 q.count32)))

end Sys2Proof.Machine
end

