-- ==== Sys2Proof/Machine/Ranges.lean ====
section
/-! DEFINITION. The scratchpad ranges of engine commands and the range checker (spec/06 R119, R120; spec/12 R261, R262,
R266, R267, R269). -/

namespace Sys2Proof.Machine

/-! ## Matrix words (R256, R259) -/

/-- Pitch i in bytes: 0 A, 1 B, 2 C. -/
def pitchOf (pitch : Word) (i : Nat) : Nat := bitsOf pitch (20 * i + 19) (20 * i) * 16
/-- The kinds of accumulator (R256). -/
inductive AccKind where
  | int
  | f32
  | f64
deriving DecidableEq, Repr
/-- The kind of an accumulator under a format word (R256). -/
def accKind (fmt : Word) : AccKind := if fmtA fmt ≤ 7 then .int else if fmtA fmt = 13 then .f64 else .f32
/-- Bytes of an accumulator value as MLD reads it (R266). -/
def accBytes (fmt : Word) : Nat := if accKind fmt = .f64 then 8 else 4
/-- Bytes of n elements of a latch row (R261). -/
def rowBytes (ef n : Nat) : Nat := if ef = 14 then (n + 1) / 2 else n * (efWidth ef / 8)
/-- Output size of MST (R267). -/
def mstBytes (fn : BitVec 14) (fmt : Word) : Nat :=
  if fn.getLsbD 5 then efWidth (fn.toNat % 32) / 8 else accBytes fmt

/-! ## Ranges (R119) -/

/-- Rows of a latch load: start and length, and the rows of scale bytes (R261, R262). The sums do not wrap: R261 does not say
that they do, as R271 says of a step (log 32). -/
def latchSpans (c : MCmd) (isB kr : Bool) : List (Nat × Nat) :=
  let ef := if isB then fmtB c.fmt else fmtA c.fmt
  let p := pitchOf c.pitch (if isB then 1 else 0)
  let n := if kr then (if isB then c.tn else c.tm) else c.tk
  let blk := blockLen (vtBLK c.vtype)
  (c.rows.map fun r => (c.ga.toNat + r * p, rowBytes ef n))
    ++ (if ef = 14 then c.rows.map fun r => (c.gc.toNat + r * (p * 2 / blk), (c.tk + blk - 1) / blk) else [])
/-- The runs a matrix command has still to read (R269); MLDA consumed its list when it issued. -/
def MCmd.readSpans (c : MCmd) : List (Nat × Nat) :=
  match c.ins with
  | .mlda x => latchSpans c false (x.fn.getLsbD 0)
  | .mldb x => latchSpans c true (x.fn.getLsbD 0)
  | .mld _ => (List.range c.tm).map fun m => (c.ga.toNat + m * pitchOf c.pitch 2, c.tn * accBytes c.fmt)
  | _ => []
/-- The runs that the range of a matrix command spans as a reader: what it has still to read, and the list of MLDA (R119, R261). -/
def MCmd.rangeSpans (c : MCmd) : List (Nat × Nat) :=
  c.readSpans ++ match c.ins with
    | .mlda x => if x.b = 0 then [] else [(c.gb.toNat, 4 * c.rows.length)]
    | _ => []
/-- The runs a matrix command writes (R269). -/
def MCmd.writeSpans (c : MCmd) : List (Nat × Nat) :=
  match c.ins with
  | .mst x => (List.range c.tm).map fun m => (c.ga.toNat + m * pitchOf c.pitch 2, c.tn * mstBytes x.fn c.fmt)
  | _ => []
/-- The lowest byte and the byte past the highest of some runs. -/
def hull (l : List (Nat × Nat)) : Option (Nat × Nat) :=
  (l.filter fun r => r.2 != 0).foldl (fun o r => match o with
    | none => some (r.1, r.1 + r.2)
    | some (a, b) => some (min a r.1, max b (r.1 + r.2))) none
/-- A scratchpad offset of a step (R271), modulo 2^64. -/
def stepOff (s : Nat) (d : Int) : Nat := ofSigned 64 ((s : Int) + d)
/-- The runs of scratchpad a copy command touches, and whether it writes them. -/
def Cmd.spans (c : Cmd) : List (Nat × Nat) × Bool :=
  match c.kind with
  | .copyIn s _ steps run _ => (steps.map fun d => (stepOff s d.1, run), true)
  | .copyOut s _ steps run => (steps.map fun d => (stepOff s d.1, run), false)
  | _ => ([], false)

/-- Two ranges overlap. -/
def overlaps (a : Nat × Nat) (b : Option (Nat × Nat)) : Bool :=
  match b with
  | some (lo, hi) => decide (a.1 < hi) && decide (lo < a.2)
  | none => false
/-- An access to a range conflicts with a range that reads or writes (R119, R120). -/
def clash (a : Nat × Nat) (write : Bool) (rd wr : Option (Nat × Nat)) : Bool :=
  overlaps a wr || (write && overlaps a rd)
/-- The matrix commands of a cluster that have not completed: those of ended harts, and those of its sequencer (R68, R257). -/
def State.matrixQueue (s : State) (c : Nat) : List MCmd :=
  (assocGet [] s.tails (seqBase + c)).flatMap (·.mx.queue) ++ (s.hart (seqBase + c)).mx.queue
/-- An access to scratchpad bytes lo to hi − 1 of a cluster conflicts with a command issued before `seq` and not completed; a
matrix command reads the runs that `rd` gives. -/
def State.spConflict (s : State) (rd : MCmd → List (Nat × Nat)) (c lo hi : Nat) (write : Bool) (seq : Nat) : Bool :=
  lo != hi &&
  ((s.matrixQueue c).any (fun m => decide (m.seq < seq) && !m.retiring
      && clash (lo, hi) write (hull (rd m)) (hull m.writeSpans))
    || s.cmds.any fun k => k.cluster == c && decide (k.id < seq) && !k.retiring
      && (let r := k.spans
          if r.2 then clash (lo, hi) write none (hull r.1) else clash (lo, hi) write (hull r.1) none))
/-- A vector access is held by a command: a list that MLDA has consumed holds no store (R120, R269). -/
def State.spHeld (s : State) (c lo hi : Nat) (write : Bool) (seq : Nat) : Bool :=
  s.spConflict MCmd.readSpans c lo hi write seq
/-- A command waits for an earlier one whose range conflicts with its own (R119, R261). -/
def State.cmdHeld (s : State) (c lo hi : Nat) (write : Bool) (seq : Nat) : Bool :=
  s.spConflict MCmd.rangeSpans c lo hi write seq

end Sys2Proof.Machine
end

