-- ==== Sys2Proof/Machine/VecMemory.lean ====
section
/-! DEFINITION. Vector memory and scratchpad instructions (spec/10 R223 to R230, spec/05 R84, R85, R93, R96 to R100, spec/06
R113, R119 to R121, R127). -/

namespace Sys2Proof.Machine

/-! ## The element loop (R198) -/

/-- Runs elements in order until one does not perform: what was done, and that element with its reason. -/
def elemLoop {α : Type} (f : Nat → α → Except Stop α) : List Nat → α → α × Option (Nat × Stop)
  | [], a => (a, none)
  | e :: r, a => match f e a with
    | .ok b => elemLoop f r b
    | .error x => (a, some (e, x))

/-- The active elements at and above vstart (R193, R197). -/
def Hart.todo (h : Hart) (q : QEntry) (me : Bool) (m : BitVec 4) (n : Nat) : List Nat :=
  (List.range n).filter fun e => q.vstart ≤ e && h.active me m e
/-- The active elements below vstart. -/
def Hart.past (h : Hart) (q : QEntry) (me : Bool) (m : BitVec 4) (n : Nat) : List Nat :=
  (List.range (min n q.vstart)).filter fun e => h.active me m e

/-- The context of a vector hart's accesses. -/
def vctx (hid : Nat) (h : Hart) : Ctx := ⟨hid, h.asid, true⟩
/-- The round that stores of a hart are held for, in deterministic mode (R127, R128). -/
def State.heldRound (s : State) (h : Hart) : Option Nat :=
  match s.recOf h.part h.launch with
  | some r => if r.sr.det then some ((r.lhart h.logical).drains + 1) else none
  | none => none
/-- The held entries of a hart. -/
def State.heldOf (s : State) (h : Hart) : List Held :=
  match s.recOf h.part h.launch with
  | some r => (r.lhart h.logical).held
  | none => []
/-- Adds held entries of a hart, and the translations of the addresses that they used (R127, R317). -/
def State.hold (s : State) (hid : Nat) (h : Hart) (vas : List Nat) (es : List Held) : State :=
  match s.recOf h.part h.launch with
  | some r =>
    let x := r.lhart h.logical
    let xl := (vas.flatMap (s.trail (vctx hid h))).foldl (fun l e => if l.contains e then l else l ++ [e]) x.xl
    s.setRec (r.setLhart h.logical { x with held := x.held ++ es, xl := xl })
  | none => s
/-- A byte as a vector load of a class sees it: held stores of its hart in that class show (R127). -/
def seenByte (held : List Held) (cls pa : Nat) (b : Byte) : Byte :=
  held.foldl (fun b e => match e with
    | .byte _ c a m v _ => if c = cls ∧ a = pa then mergeByte b m v else b
    | _ => b) b
/-- n bytes at pa as a vector load sees them. -/
def State.seenBytes (s : State) (held : List Held) (cls pa n : Nat) : List Byte :=
  (List.range n).map fun i => seenByte held cls (pa + i) (s.rd8 (pa + i))

/-! ## Bits of memory (R43 to R45, R223) -/

/-- Bytes that w bits from bit offset `off` touch. -/
def spanBytes (off w : Nat) : Nat := (off + w + 7) / 8
/-- Reads w bits at a byte address and bit offset: located runs and value. -/
def State.bitsAt (s : State) (hid : Nat) (h : Hart) (cls : Nat) (need : Need) (okCls : Nat → Bool) (a : Nat × Nat) (w : Nat) :
    Except Stop (List Seg × Nat) := do
  let gs ← s.locate (vctx hid h) need okCls a.1 (spanBytes a.2 w)
  s.gateSegs (vectorUnit hid) gs
  s.cleanSegs gs
  let held := s.heldOf h
  .ok (gs, natOfBytes (gs.flatMap fun g => s.seenBytes held cls g.leaf.pa g.len) / 2 ^ a.2 % 2 ^ w)
/-- The physical bytes of located runs. -/
def segCells (gs : List Seg) : List Nat := gs.flatMap fun g => (List.range g.len).map (g.leaf.pa + ·)
/-- The bytes of w bits v at bit offset `off`: physical address, mask, value. -/
def byteParts (cells : List Nat) (off w v : Nat) : List (Nat × Byte × Byte) :=
  cells.zipIdx.map fun (pa, i) =>
    (pa, BitVec.ofNat 8 ((2 ^ w - 1) * 2 ^ off / 2 ^ (8 * i)), BitVec.ofNat 8 (v % 2 ^ w * 2 ^ off / 2 ^ (8 * i)))
/-- Stores the byte parts of located runs at once, or holds them (R44, R127). -/
def State.putParts (s : State) (hid : Nat) (h : Hart) (cls : Nat) (gs : List Seg) (ps : List (Nat × Byte × Byte)) : State :=
  match s.heldRound h with
  | some n => s.hold hid h (gs.map (·.va)) (ps.map fun p => .byte n cls p.1 p.2.1 p.2.2 false)
  | none => ps.foldl (fun (s : State) p => s.wr8 p.1 (mergeByte (s.rd8 p.1) p.2.1 p.2.2)) s
/-- The bytes that some parts write whole, each with the bits that it writes: several parts may make up a byte, as two 4-bit
elements do (R224, R356). -/
def wholeCells (ps : List (Nat × Byte)) : List Nat :=
  let part := ps.filter fun p => p.2 != 0xFF
  let joined (a : Nat) : Byte := part.foldl (fun m p => if p.1 = a then m ||| p.2 else m) 0
  (ps.filter fun p => p.2 == 0xFF || joined p.1 == 0xFF).map (·.1)
/-- The bytes that parts of a store write, and which bits of them. -/
def partMasks (ps : List (Nat × Byte × Byte)) : List (Nat × Byte) := ps.map fun p => (p.1, p.2.1)
/-- The lines of which some bytes make up the whole. -/
def wholeLines (cells : List Nat) : List Nat :=
  if cells.length < 128 then []
  else ((cells.map lineOf).eraseDups).filter fun l => (List.range 128).all fun i => cells.contains (128 * l + i)
/-- A held byte of a store that writes some lines whole (R356). -/
def Held.markWhole (lines : List Nat) (e : Held) : Held :=
  match e with
  | .byte n c pa m v w => .byte n c pa m v (w || lines.contains (lineOf pa))
  | e => e
/-- The end of a store whose bytes are held, of which `k` entries stood before it (R127). -/
def State.markHeld (s : State) (h : Hart) (k : Nat) (lines : List Nat) : State :=
  match lines, s.recOf h.part h.launch with
  | _ :: _, some r =>
    let x := r.lhart h.logical
    s.setRec (r.setLhart h.logical { x with held := x.held.take k ++ (x.held.drop k).map (Held.markWhole lines) })
  | _, _ => s
/-- A store to located runs is open, unless it is held. -/
def State.storeGate (s : State) (hid : Nat) (h : Hart) (gs : List Seg) : Except Stop Unit :=
  match s.heldRound h with
  | some _ => .ok ()
  | none => s.gateSegs (vectorUnit hid) gs

/-! ## Loads -/

/-- Progress of a load: the state, the destination bits, the lines touched, and the counted granules met. -/
structure LdSt where
  s : State
  bits : Nat
  lines : List Nat
  seen : List Nat
deriving DecidableEq, Repr

/-- The end of a load into v[d] of n elements of w bits (R198). -/
def finishLoad (hid : Nat) (h : Hart) (s : State) (d : Reg) (w n : Nat) (r : LdSt × Option (Nat × Stop)) : VEnd :=
  match r.2 with
  | none => .done (h.setVReg d.toNat (n * w) r.1.bits)
      (if s.pins.isEmpty then r.1.s else r.1.lines.foldl (fun s l => s.served (vectorUnit hid) l) r.1.s)
  | some (t, .trap c v) => .trap c v t (h.setVReg d.toNat (max (h.vfill d) (t * w)) r.1.bits) r.1.s
  | some (t, e) => .ofStop e t h s

/-- A plain load (R84, R223): `addr` places element e. -/
def vload (hid : Nat) (x : MArgs) (q : QEntry) (h : Hart) (s : State) (ok : Bool) (n : Nat) (addr : Nat → Nat × Nat) : VEnd :=
  checked q h s (ok && q.regsOk [x.d]) (finishLoad hid h s x.d q.w n
    (elemLoop (fun e (a : LdSt) => do
      let r ← s.bitsAt hid h x.oc.toNat .r notDevice (addr e) q.w
      .ok { a with bits := splice a.bits (e * q.w) q.w r.2, lines := segLines r.1 ++ a.lines })
      (h.todo q x.me x.m n) ⟨s, h.vbits x.d, [], []⟩))

/-- Granules that n bytes of an address or offset touch. -/
def granulesAt (va n : Nat) : List Nat := linesOf va n
/-- The physical granules that the active elements below vstart touched, whatever page named them (R98, R100, R229); none at an
address that translates no more; or why a translation has to wait. An element of an indexed load is placed by its index as it
stands now, though the load may have overwritten it (log 37). -/
def State.pastGranules (s : State) (hid : Nat) (h : Hart) (need : Need) (es : List Nat) (w : Nat) (addr : Nat → Nat × Nat) :
    Except Stop (List Nat) :=
  let granules (c : Nat × Nat) : Except Stop (List Nat) := match s.translate (vctx hid h) need c.1 with
    | .ok l => .ok (linesOf l.pa c.2)
    | .error (.trap ..) => .ok []
    | .error e => .error e
  ((es.flatMap fun e => cutPages 2 (addr e).1 (spanBytes (addr e).2 w)).mapM granules).map List.flatten
/-- A .rd load (R99, R100, R229): data from before any decrement of the instruction; each granule goes down once, at its
lowest active element. -/
def vloadRd (hid : Nat) (x : MArgs) (q : QEntry) (h : Hart) (s : State) (ok : Bool) (n : Nat) (addr : Nat → Nat × Nat) : VEnd :=
  checked q h s (ok && q.regsOk [x.d]) (match s.pastGranules hid h .rw (h.past q x.me x.m n) q.w addr with
  | .error e => .ofStop e q.vstart h s
  | .ok old => finishLoad hid h s x.d q.w n
    (elemLoop (fun e (a : LdSt) => do
      let gs ← s.locate (vctx hid h) .rw (· == clsCounted) (addr e).1 (spanBytes (addr e).2 q.w)
      s.gateSegs (vectorUnit hid) gs
      let new := (gs.flatMap fun g => (linesOf g.va g.len).zip (linesOf g.leaf.pa g.len)).filter fun l =>
        !old.contains l.2 && !a.seen.contains l.2
      match new.find? fun l => a.s.count l.2 == 0 with
      | some l => .error (.trap .overrun (word (128 * l.1)))
      | none =>
        let r ← s.bitsAt hid h x.oc.toNat .rw (· == clsCounted) (addr e) q.w
        let lines := (new.map (·.2)).eraseDups
        .ok { s := lines.foldl (fun s l => s.rdDec l) a.s, bits := splice a.bits (e * q.w) q.w r.2,
              lines := segLines gs ++ a.lines, seen := lines ++ a.seen })
      (h.todo q x.me x.m n) ⟨s, h.vbits x.d, [], []⟩))
/-- The overrun that a .rd load meets counts in OVRUN of the granule's or block's partition (R376). -/
def countOverrun (v : VEnd) (f : State → Word → State) : VEnd :=
  match v with
  | .trap .overrun t k h s => .trap .overrun t k h (f s t)
  | _ => v
/-- Counts an overrun at a virtual address. -/
def overrunAt (hid : Nat) (h : Hart) (s : State) (va : Word) : State :=
  match s.translate (vctx hid h) .rw va.toNat with
  | .ok l => s.lineEvent (lineOf l.pa) Part.addOvrun
  | .error _ => s

/-! ## Addresses (R223) -/

/-- ea of R223. -/
def vea (x : MArgs) (q : QEntry) : Word := q.ga + dispOf x.disp
/-- Unit stride from a byte address. -/
def unitAddr (ea : Word) (w e : Nat) : Nat × Nat := ((ea.toNat + e * w / 8) % 2 ^ 64, e * w % 8)
/-- Strided. -/
def strideAddr (ea stride : Word) (e : Nat) : Nat × Nat := ((ea + word e * stride).toNat, 0)
/-- Indexed by uint32 element e of v[b]. -/
def indexAddr (x : MArgs) (q : QEntry) (h : Hart) (e : Nat) : Nat × Nat :=
  ((vea x q + word (h.el x.b 32 e * (if x.sc then q.w / 8 else 1))).toNat, 0)
/-- EF of the strided and indexed forms. -/
def QEntry.byteEF (q : QEntry) : Bool := q.fixed && q.ef != 14

/-- VLD (R223). -/
def runVld (hid : Nat) (x : MArgs) (q : QEntry) (h : Hart) (s : State) : VEnd :=
  vload hid x q h s q.fixed q.count (unitAddr (vea x q) q.w)
/-- VLDS (R223). -/
def runVlds (hid : Nat) (x : MArgs) (q : QEntry) (h : Hart) (s : State) : VEnd :=
  vload hid x q h s q.byteEF q.count (strideAddr (vea x q) q.gb)
/-- VLDX (R223). -/
def runVldx (hid : Nat) (x : MArgs) (q : QEntry) (h : Hart) (s : State) : VEnd :=
  vload hid x q h s (q.byteEF && q.regsOk [x.b]) q.count32 (indexAddr x q h)
/-- VLD.rd (R229). -/
def runVldRd (hid : Nat) (x : MArgs) (q : QEntry) (h : Hart) (s : State) : VEnd :=
  countOverrun (vloadRd hid x q h s q.fixed q.count (unitAddr (vea x q) q.w)) (overrunAt hid h)
/-- VLDX.rd (R229). -/
def runVldxRd (hid : Nat) (x : MArgs) (q : QEntry) (h : Hart) (s : State) : VEnd :=
  countOverrun (vloadRd hid x q h s (q.byteEF && q.regsOk [x.b]) q.count32 (indexAddr x q h)) (overrunAt hid h)

/-! ## Stores -/

/-- Progress of a store: the state, the bytes written and which bits of them, the lines touched, flags. -/
structure StSt where
  s : State
  cells : List (Nat × Byte)
  lines : List Nat
  fl : Flags
  seen : List Nat
deriving DecidableEq, Repr

/-- The end of a store (R198): flags of committed elements accrue, and `clean` ends the poison of what was written whole. -/
def finishStores (clean : State → List (Nat × Byte) → State) (hid : Nat) (h : Hart) (s : State) (r : StSt × Option (Nat × Stop)) :
    VEnd :=
  let clean (t : State) : State := clean t r.1.cells
  match r.2 with
  | none =>
    let t := clean r.1.s
    .done (h.accrue r.1.fl) (if s.pins.isEmpty then t else r.1.lines.foldl (fun s l => s.served (vectorUnit hid) l) t)
  | some (t, .trap c v) => .trap c v t (h.accrue r.1.fl) (clean r.1.s)
  | some (t, e) => .ofStop e t h s
/-- The end of a store to memory: it ends the poison of the lines that it writes whole, now or where it drains (R127, R356). -/
def finishStore (hid : Nat) (h : Hart) (s : State) (r : StSt × Option (Nat × Stop)) : VEnd :=
  finishStores (fun t cells =>
    if (s.heldRound h).isSome then t.markHeld h (s.heldOf h).length (wholeLines (wholeCells cells))
    else if t.poison.isEmpty then t else t.unpoisonCells (wholeCells cells)) hid h s r
/-- A plain store of w-bit elements to pages of some classes (R84, R224, R225). -/
def vstore (hid : Nat) (x : MArgs) (q : QEntry) (h : Hart) (s : State) (okCls : Nat → Bool) (ok : Bool) (n : Nat)
    (addr : Nat → Nat × Nat) : VEnd :=
  checked q h s (ok && q.regsOk [x.d]) (finishStore hid h s
    (elemLoop (fun e (a : StSt) => do
      let gs ← s.locate (vctx hid h) .w okCls (addr e).1 (spanBytes (addr e).2 q.w)
      s.storeGate hid h gs
      let ps := byteParts (segCells gs) (addr e).2 q.w (h.el x.d q.w e)
      .ok { a with s := a.s.putParts hid h x.oc.toNat gs ps, cells := partMasks ps ++ a.cells,
                   lines := segLines gs ++ a.lines })
      (h.todo q x.me x.m n) ⟨s, [], [], 0, []⟩))

/-- The storage format of a store-convert page (R332). -/
def storeEF (sf : Nat) : Nat := match sf with | 0 => 11 | 1 => 10 | 2 => 8 | _ => 9
/-- The value stored on a store-convert page (R32, R85). -/
def storeConvert (l : Leaf) (sub va e b : Nat) : Nat × Flags :=
  match fmtOf (storeEF l.sf) with
  | some F =>
    let v := operand fp32 sub b
    if l.srm = 2 then sroundVal F sub v ((mix l.seed (word va ^^^ word (e * 2 ^ 52))).toNat % 2 ^ 32)
    else roundVal F l.srm sub v
  | none => (0, 0)
/-- The store-convert page at which the lowest active element of a VST with EF 12 would lie, converted to the storage width of
that page (R85); none where there is no such page; or why the translation that would tell has to wait. Where both a page of a
16-bit format and one of an 8-bit format would do, the first is taken (log 42). -/
def State.convertPage (s : State) (hid : Nat) (h : Hart) (ea e : Nat) : Except Stop (Option Leaf) :=
  let page (sb : Nat) : Except Stop (Option Leaf) := match s.translate (vctx hid h) .w ((ea + e * sb) % 2 ^ 64) with
    | .ok l => .ok (if l.cls = clsConvert ∧ efWidth (storeEF l.sf) / 8 = sb then some l else none)
    | .error (.trap ..) => .ok none
    | .error x => .error x
  match page 2 with
  | .ok none => page 1
  | r => r
/-- VST to a store-convert page with EF 12 (R85). A converted element that straddles two pages takes the seed of the page of its
first byte (log 42). -/
def vstConvert (hid : Nat) (x : MArgs) (q : QEntry) (h : Hart) (s : State) (first : Leaf) : VEnd :=
  let sb := efWidth (storeEF first.sf) / 8
  let ea := (vea x q).toNat
  finishStore hid h s
    (elemLoop (fun e (a : StSt) => do
      let va := (ea + e * sb) % 2 ^ 64
      let gs ← s.segs (vctx hid h) .w va sb
      match gs.find? fun g => !(g.leaf.cls == clsConvert && g.leaf.sf == first.sf && g.leaf.srm == first.srm) with
      | some g => .error (.trap .pageClass (word g.va))
      | none =>
        s.storeGate hid h gs
        let l := match gs with | g :: _ => g.leaf | [] => first
        let r := storeConvert l q.sub va e (h.el x.d 32 e)
        let ps := byteParts (segCells gs) 0 (8 * sb) r.1
        .ok { a with s := a.s.putParts hid h x.oc.toNat gs ps, cells := partMasks ps ++ a.cells,
                     lines := segLines gs ++ a.lines, fl := a.fl ||| r.2 })
      (h.todo q x.me x.m q.count) ⟨s, [], [], 0, []⟩)
/-- VST (R223, R84, R85). With EF 12 its lowest active element, those below vstart included, says whether it converts; where it
does not, an element on a store-convert page is not written raw: it falls outside the pages that R85 asks of the whole
instruction, and the page-class fault is raised at it (log 42). -/
def runVst (hid : Nat) (x : MArgs) (q : QEntry) (h : Hart) (s : State) : VEnd :=
  let addr := unitAddr (vea x q) q.w
  if q.ef = 12 then
    match (List.range q.count).find? (h.active x.me x.m) with
    | none => vstore hid x q h s notDevice q.fixed q.count addr
    | some e => match s.convertPage hid h (vea x q).toNat e with
      | .error x => .ofStop x q.vstart h s
      | .ok (some l) => checked q h s (q.regsOk [x.d]) (vstConvert hid x q h s l)
      | .ok none => vstore hid x q h s (fun c => notDevice c && c != clsConvert) q.fixed q.count addr
  else vstore hid x q h s notDevice q.fixed q.count addr
/-- VSTS (R223). -/
def runVsts (hid : Nat) (x : MArgs) (q : QEntry) (h : Hart) (s : State) : VEnd :=
  vstore hid x q h s notDevice q.byteEF q.count (strideAddr (vea x q) q.gb)
/-- VSTX (R223). -/
def runVstx (hid : Nat) (x : MArgs) (q : QEntry) (h : Hart) (s : State) : VEnd :=
  vstore hid x q h s notDevice (q.byteEF && q.regsOk [x.b]) q.count32 (indexAddr x q h)

/-- VST.rc n (R98, R229): a counted store is not held (R127). -/
def runVstRc (hid : Nat) (x : MArgs) (q : QEntry) (h : Hart) (s : State) : VEnd :=
  let addr := unitAddr (vea x q) q.w
  checked q h s (q.fixed && q.regsOk [x.d]) (match s.pastGranules hid h .w (h.past q x.me x.m q.count) q.w addr with
  | .error e => .ofStop e q.vstart h s
  | .ok old => finishStores (fun t cells => if t.poison.isEmpty then t else t.unpoisonCells (wholeCells cells)) hid h s
    (elemLoop (fun e (a : StSt) => do
      let gs ← s.locate (vctx hid h) .w (· == clsCounted) (addr e).1 (spanBytes (addr e).2 q.w)
      s.gateSegs (vectorUnit hid) gs
      let new := (gs.flatMap fun g => (linesOf g.va g.len).zip (linesOf g.leaf.pa g.len)).filter fun l =>
        !old.contains l.2 && !a.seen.contains l.2
      let lines := (new.map (·.2)).eraseDups
      let s1 := lines.foldl (fun s l => s.rcSet l (rcN x.b x.sc x.ar)) a.s
      let ps := byteParts (segCells gs) (addr e).2 q.w (h.el x.d q.w e)
      .ok { a with s := ps.foldl (fun (s : State) p => s.wr8 p.1 (mergeByte (s.rd8 p.1) p.2.1 p.2.2)) s1,
                   cells := partMasks ps ++ a.cells, lines := segLines gs ++ a.lines, seen := lines ++ a.seen })
      (h.todo q x.me x.m q.count) ⟨s, [], [], 0, []⟩))

/-! ## Scatter-add (R226) -/

/-- The classes VSTXA and GSCAT reach. -/
def addClass (grid : Bool) (cls : Nat) : Bool := (cls == clsOrdinary && !grid) || cls == clsGrid
/-- Performs or holds one addition (R127, R226). -/
def State.postAdd (s : State) (hid : Nat) (h : Hart) (va pa ef v : Nat) (grid : Bool) : State × Flags :=
  match s.heldRound h with
  | some n => (s.hold hid h [va] [.add n pa ef v grid], 0)
  | none => s.addAt pa ef v grid
/-- VSTXA (R226). -/
def runVstxa (hid : Nat) (x : MArgs) (q : QEntry) (h : Hart) (s : State) : VEnd :=
  checked q h s (((decide (4 ≤ q.ef) && decide (q.ef ≤ 7)) || q.ef == 12 || q.ef == 13) && q.regsOk [x.d, x.b])
    (finishStore hid h s
      (elemLoop (fun e (a : StSt) => do
        let va := (indexAddr x q h e).1
        let n := q.w / 8
        if va % n ≠ 0 then .error (.trap .misaligned (word va))
        match ← s.locate (vctx hid h) .rw (addClass false) va n with
        | g :: _ =>
          s.storeGate hid h [g]
          if (s.heldRound h).isNone then s.cleanSegs [g]
          let r := a.s.postAdd hid h va g.leaf.pa q.ef (h.el x.d q.w e) false
          .ok { a with s := r.1, lines := segLines [g] ++ a.lines, fl := a.fl ||| r.2 }
        | [] => .ok a)
        (h.todo q x.me x.m q.count32) ⟨s, [], [], 0, []⟩))

/-! ## Scratchpad (R93, R121, R228, R229) -/

/-- Offset of a scratchpad instruction (R228). -/
def spOff (x : SArgs) (q : QEntry) : Word := q.ga + dispOf x.disp
/-- The bytes of a scratchpad element pass the checks of R93 and meet no conflicting command (R120). -/
def State.spCheck (s : State) (hid : Nat) (w : Nat) (a : Nat × Nat) (write : Bool) : Except Stop Unit :=
  let n := spanBytes a.2 w
  if w ≠ 4 ∧ a.1 % (w / 8) ≠ 0 then .error (.trap .misaligned (word a.1))
  else if spadSize < a.1 + n then .error (.trap .access (word (max a.1 spadSize)))
  else if s.spHeld (clusterOf hid) a.1 (a.1 + n) write s.seq then .error (.wait none)
  else .ok ()
/-- Blocks that an element touches and no earlier element did. -/
def newBlocks (old seen : List Nat) (a : Nat × Nat) (w : Nat) : List Nat :=
  (linesOf a.1 (spanBytes a.2 w)).filter fun b => !old.contains b && !seen.contains b
/-- The token of a scratchpad instruction (R121, R228): the state after its pop, or none where it must wait. A push
waits for room. -/
def State.spToken (s : State) (hid : Nat) (x : SArgs) (h : Hart) : Option State :=
  let c := clusterOf hid
  let k := x.kf.toNat
  if x.tc && !h.vec.popped then
    if s.tokens c k = 0 then none else some (s.setTokens c k (s.tokens c k - 1))
  else if x.tp && decide (32 ≤ s.tokens c k) then none
  else some s
/-- What the token does to the end of the instruction: a push at completion, the popped mark at a stop (R228, R349). -/
def spEnd (hid : Nat) (x : SArgs) (s : State) (v : VEnd) : VEnd :=
  let c := clusterOf hid
  match v with
  | .done h t => .done (h.updVec fun v => { v with popped := false })
      (if x.tp then t.setTokens c x.kf.toNat (t.tokens c x.kf.toNat + 1) else t)
  | .trap cs tv k h t => .trap cs tv k (h.updVec fun v => { v with popped := v.popped || x.tc }) t
  | .hold l _ => .hold l s
  | v => v
/-- Runs a scratchpad instruction with its token. -/
def withToken (hid : Nat) (x : SArgs) (q : QEntry) (h : Hart) (s : State) (k : State → VEnd) : VEnd :=
  checked q h s (q.fixed && q.regsOk [x.d]) (match s.spToken hid x h with
    | none => .hold none s
    | some s1 => spEnd hid x s (k s1))
/-- A scratchpad load; `rd` for the counted form (R99, R229). -/
def spLoad (hid : Nat) (x : SArgs) (q : QEntry) (h : Hart) (s : State) (rd : Bool) : VEnd :=
  let addr := unitAddr (spOff x q) q.w
  let c := clusterOf hid
  let old := (h.past q x.me x.m q.count).flatMap fun e => granulesAt (addr e).1 (spanBytes (addr e).2 q.w)
  withToken hid x q h s fun s1 => finishLoad hid h s1 x.d q.w q.count
    (elemLoop (fun e (a : LdSt) => do
      s1.spCheck hid q.w (addr e) false
      s1.spClean c (addr e).1 (spanBytes (addr e).2 q.w)
      let v := natOfBytes (s1.spBytes c (addr e).1 (spanBytes (addr e).2 q.w)) / 2 ^ (addr e).2 % 2 ^ q.w
      let a1 := { a with bits := splice a.bits (e * q.w) q.w v }
      if rd then
        let bs := newBlocks old a.seen (addr e) q.w
        match bs.find? fun b => a.s.spCount c b == 0 with
        | some b => .error (.trap .overrun (word (128 * b)))
        | none => .ok { a1 with s := bs.foldl (fun s b => s.spRdDec c b) a.s, seen := bs ++ a.seen }
      else .ok a1)
      (h.todo q x.me x.m q.count) ⟨s1, h.vbits x.d, [], []⟩)
/-- A scratchpad store; `rc` gives the count of the counted form (R98, R229). -/
def spStore (hid : Nat) (x : SArgs) (q : QEntry) (h : Hart) (s : State) (rc : Option Nat) : VEnd :=
  let addr := unitAddr (spOff x q) q.w
  let c := clusterOf hid
  let old := (h.past q x.me x.m q.count).flatMap fun e => granulesAt (addr e).1 (spanBytes (addr e).2 q.w)
  withToken hid x q h s fun s1 => finishStores
    (fun t cells => if t.spoison.isEmpty then t else t.spUnpoisonCells c (wholeCells cells)) hid h s1
    (elemLoop (fun e (a : StSt) => do
      s1.spCheck hid q.w (addr e) true
      let n := spanBytes (addr e).2 q.w
      let ps := byteParts ((List.range n).map ((addr e).1 + ·)) (addr e).2 q.w (h.el x.d q.w e)
      let bs := newBlocks old a.seen (addr e) q.w
      let s2 := match rc with | some k => bs.foldl (fun s b => s.spRcSet c b k) a.s | none => a.s
      .ok { a with s := ps.foldl (fun (s : State) p => s.spWrite c p.1 [mergeByte (s.sp8 c p.1) p.2.1 p.2.2]) s2,
                   cells := partMasks ps ++ a.cells, seen := bs ++ a.seen })
      (h.todo q x.me x.m q.count) ⟨s1, [], [], 0, []⟩)
/-- VLDSP (R228). -/
def runVldsp (hid : Nat) (x : SArgs) (q : QEntry) (h : Hart) (s : State) : VEnd := spLoad hid x q h s false
/-- VSTSP (R228). -/
def runVstsp (hid : Nat) (x : SArgs) (q : QEntry) (h : Hart) (s : State) : VEnd := spStore hid x q h s none
/-- VLDSP.rd (R229). -/
def runVldspRd (hid : Nat) (x : SArgs) (q : QEntry) (h : Hart) (s : State) : VEnd :=
  countOverrun (spLoad hid x q h s true) fun s _ => s.clusterEvent (clusterOf hid) Part.addOvrun
/-- VSTSP.rc n (R229). -/
def runVstspRc (hid : Nat) (x : SArgs) (q : QEntry) (h : Hart) (s : State) : VEnd :=
  spStore hid x q h s (some (rcN x.b x.sc x.ar))

/-! ## VFENCE (R113, R128, R230) -/

/-- VFENCE: in deterministic mode a drain point, complete once its round has drained; otherwise every earlier access has
performed (log 8). In a record that has been ended nothing is held any more (R352). -/
def runVfence (hid : Nat) (_ : MArgs) (_ : QEntry) (h : Hart) (s : State) : VEnd :=
  match s.recOf h.part h.launch with
  | none => .done h s
  | some r =>
    if !r.sr.det || r.ending.isSome then .done h s
    else if r.sr.rsv then
      match s.drainPoint hid with
      | .ok s1 => .done (s1.hart hid) s1
      | .error e => .ofStop e 0 h s
    else
      let l := r.lhart h.logical
      if !l.drainWait then
        let t := s.setRec (r.setLhart h.logical { l with drains := l.drains + 1, drainWait := true })
        .mark (if t.eager then t.settle h.part h.launch else t)
      else if l.drains ≤ r.drained then .done h (s.setRec (r.setLhart h.logical { l with drainWait := false }))
      else .hold none s

end Sys2Proof.Machine
end

