-- ==== Sys2Proof/Machine/Coded.lean ====
section
/-! DEFINITION. Alkel codes and the coded instructions (spec/03 R41 to R57, spec/11 R231 to R241). -/

namespace Sys2Proof.Machine

/-! ## The code of order k (R41, R42) -/

/-- zigzag of an int32 value. -/
def zigzag (v : Int) : Nat := if 0 ≤ v then (2 * v).toNat else (-2 * v - 1).toNat
/-- Inverse of zigzag. -/
def unzigzag (z : Nat) : Int := if z % 2 = 0 then ((z / 2 : Nat) : Int) else -(((z + 1) / 2 : Nat) : Int)
/-- The n low bits of u in reverse order. -/
def revBits : Nat → Nat → Nat
  | 0, _ => 0
  | n + 1, u => u % 2 * 2 ^ n + revBits n (u / 2)
/-- The code of v at order k: its bits, the first the lowest, and its length (R41). -/
def akenc (v : Int) (k : Nat) : Nat × Nat :=
  let u := zigzag v + 2 ^ k
  let L := u.log2
  (revBits (L + 1) u * 2 ^ (L - k), 2 * L - k + 1)

/-- The complete codes of a register: start and value of each, the bit after the last, and why the list ends (R49). -/
structure Codes where
  starts : List Nat
  vals : List Int
  stop : Nat
  why : Nat
deriving DecidableEq, Repr

/-- Boundary finding from bit p on (R42, R49). -/
def boundsFrom (x f k : Nat) : Nat → Nat → Codes
  | 0, p => ⟨[], [], p, 0⟩
  | fuel + 1, p =>
    if f ≤ p then ⟨[], [], p, 0⟩
    else
      let z := min (ctzTo 70 (x / 2 ^ p)) (f - p)
      if 32 - k < z then ⟨[], [], p, 3⟩
      else if f < p + 2 * z + k + 1 then ⟨[], [], p, 1⟩
      else
        let u := revBits (z + k + 1) (x / 2 ^ (p + z))
        if 0xFFFFFFFF < u - 2 ^ k then ⟨[], [], p, 3⟩
        else
          let r := boundsFrom x f k fuel (p + 2 * z + k + 1)
          ⟨p :: r.starts, unzigzag (u - 2 ^ k) :: r.vals, r.stop, r.why⟩
/-- The codes of a coded register operand (R49). -/
def Hart.codes (h : Hart) (r : Reg) (k : Nat) : Codes := boundsFrom (h.vbits r) (h.vfill r) k (h.vfill r + 1) 0
/-- The elements of a fixed-width source (R49): no values are decoded. -/
def Hart.fixedCodes (h : Hart) (r : Reg) (w : Nat) : Codes :=
  let n := h.vfill r / w
  ⟨(List.range n).map (· * w), [], n * w, if h.vfill r % w = 0 then 0 else 1⟩
/-- Complete codes. -/
def Codes.n (c : Codes) : Nat := c.starts.length
/-- start[e], for e up to n (R49). -/
def Codes.start (c : Codes) (e : Nat) : Nat := c.starts.getD e c.stop
/-- Length of code e. -/
def Codes.len (c : Codes) (e : Nat) : Nat := c.start (e + 1) - c.start e

/-! ## Grants (R50 to R52) -/

/-- The limit and the phase of a limit register (R232). -/
def limOf (r : Reg) (v : Word) : Nat × Nat := if r = 0 then (2 ^ 64 - 1, 0) else (bitsOf v 57 0, bitsOf v 63 58)
/-- Writes the four grant CSRs and vstat.STOP (R50, R52). -/
def Hart.grants (h : Hart) (n a b o stop : Nat) : Hart :=
  (h.updVec fun v => { v with vgn := word n, vga := word a, vgb := word b, vgo := word o }).setStop stop

/-- One produced result: bits, length, flags, clamped. -/
structure CodeRes where
  bits : Nat
  len : Nat
  fl : Flags
  sat : Bool
deriving DecidableEq, Repr

/-- A code as a result. -/
def codeRes (v : Int) (k : Nat) : CodeRes :=
  let c := saturate 32 true v
  let e := akenc (toSigned 32 c.1) k
  ⟨e.1, e.2, 0, c.2⟩

/-- What production leaves: elements, bits, the results joined, the bit offset of element vstart, whether the budget (or the
scale part) ended it, the flags of the elements at and above vstart, and whether any element clamped: vstat is that of an
uninterrupted run (R57). -/
structure Prod where
  e : Nat
  o : Nat
  bits : Nat
  base : Nat
  full : Bool
  fl : Flags
  sat : Bool
deriving DecidableEq, Repr

/-- Production of R51: `f` gives result i, or none where it ends (R239). A result whose code does not fit has been computed and
clamped before: its clamp sets vstat.SAT (R54), and its flags accrue too (log 43). -/
def produce (vb vstart : Nat) (f : Nat → Option CodeRes) : Nat → Nat → Prod → Prod
  | 0, _, p => p
  | fuel + 1, i, p =>
    match f i with
    | none => { p with full := true }
    | some r =>
      let on := vstart ≤ i
      let fl := if on then p.fl ||| r.fl else p.fl
      let sat := p.sat || r.sat
      if vb < p.o + r.len then { p with full := true, fl := fl, sat := sat }
      else
        produce vb vstart f fuel (i + 1)
          { e := p.e + 1, o := p.o + r.len, bits := p.bits + r.bits % 2 ^ r.len * 2 ^ p.o,
            base := if on then p.base else p.o + r.len, full := false, fl := fl, sat := sat }
/-- Nothing produced yet. -/
def Prod.start : Prod := ⟨0, 0, 0, 0, false, 0, false⟩
/-- Writes a coded destination: units below vstart are not rewritten (R57). -/
def Hart.writeCoded (h : Hart) (d : Reg) (p : Prod) : Hart :=
  h.setVReg d.toNat p.o (h.vbits d % 2 ^ p.base + p.bits / 2 ^ p.base * 2 ^ p.base)

/-- An element-wise coded instruction (R51): `a` and `b` are its sources, `d` its destination if it has one. -/
def codedElem (q : QEntry) (h : Hart) (s : State) (ok : Bool) (a : Codes) (b : Option Codes) (lim : Nat) (d : Option Reg)
    (f : Nat → Option CodeRes) : VEnd :=
  checked q h s ok (
    let n0 := min (min a.n lim) (match b with | some y => y.n | none => a.n)
    let stop0 := if n0 = lim then 0 else if n0 = a.n then a.why else match b with | some y => y.why | none => 0
    let p := produce (if d.isSome then q.vb else 2 ^ 64) q.vstart f n0 0 Prod.start
    let stop := if p.full then 2 else stop0
    let h1 := match d with | some r => h.writeCoded r p | none => h
    .done (((h1.accrue p.fl).setSat p.sat).grants p.e (a.start p.e) (match b with | some y => y.start p.e | none => 0)
      p.o stop) s)

/-- Code order K of an entry. -/
def QEntry.k (q : QEntry) : Nat := vtK q.vtype

/-- VCPOS (R237). -/
def runVcpos (x : VArgs) (q : QEntry) (h : Hart) (s : State) : VEnd :=
  let a := h.codes x.a q.k
  codedElem q h s (q.regsOk [x.d, x.a]) a none (limOf x.b q.gb).1 (some x.d) fun i => some ⟨a.start i, 32, 0, false⟩
/-- VCLEN (R237). -/
def runVclen (x : VArgs) (q : QEntry) (h : Hart) (s : State) : VEnd :=
  let a := h.codes x.a q.k
  codedElem q h s (q.regsOk [x.d, x.a]) a none (limOf x.b q.gb).1 (some x.d) fun i => some ⟨a.len i, 8, 0, false⟩

/-! ## Scales (R55, R239) -/

/-- The scale byte of result i of a scaled form, none past the part; `r` is the coded register, `sc` the scale register. -/
def Hart.codeScale (h : Hart) (q : QEntry) (sc r : Reg) (ph i : Nat) : Option Nat :=
  let j := (ph % q.blk + i) / q.blk
  if q.vb / (4 * q.blk) ≤ j then none else some (h.scaleByte q sc r j)
/-- The checks of a scaled form (R239). -/
def scaleOk (x : VArgs) (q : QEntry) : Bool :=
  x.c == 0 || (decide (8 ≤ q.ef) && decide (q.ef ≤ 13) && x.c != x.a && x.c != x.d && vtBLK q.vtype != 3 && q.regsOk [x.c])

/-- VCDEC's result (R238): the value in format EF under a scale. -/
def decodeRes (q : QEntry) (v : Int) (sc : Nat) : CodeRes :=
  match intOf q.ef with
  | some (w, sg) => let r := saturate w sg v; ⟨r.1, w, 0, r.2⟩
  | none =>
    if sc = 0xFF then ⟨q.fmt.nan, q.w, 0, false⟩
    else
      let r := roundFin q.fmt q.rm q.sub ⟨decide (v < 0), v.natAbs, (sc : Int) - 127, false⟩
      ⟨r.1, q.w, r.2, false⟩
/-- VCDEC (R237 to R239). -/
def runVcdec (x : VArgs) (q : QEntry) (h : Hart) (s : State) : VEnd :=
  let a := h.codes x.a q.k
  let l := limOf x.b q.gb
  codedElem q h s (decide (q.ef ≤ 13) && scaleOk x q && q.regsOk [x.d, x.a]) a none l.1 (some x.d) fun i =>
    if x.c = 0 then some (decodeRes q (a.vals.getD i 0) 127)
    else (h.codeScale q x.c x.a l.2 i).map (decodeRes q (a.vals.getD i 0))
/-- The integer of a source element and a scale (R238). -/
def encodeRes (q : QEntry) (b sc : Nat) : CodeRes :=
  match intOf q.ef with
  | some (w, sg) => codeRes (intVal w sg b) q.k
  | none =>
    if sc = 0xFF then { codeRes 0 q.k with fl := fNV }
    else
      let v := match operand q.fmt q.sub b with
        | .fin n m e => .fin n m (e - ((sc : Int) - 127))
        | v => v
      let r := toInt 32 true q.rm v
      { codeRes (toSigned 32 r.1) q.k with fl := r.2, sat := r.2 &&& fNV != 0 && !v.isNan }
/-- VCENC (R237 to R239). -/
def runVcenc (x : VArgs) (q : QEntry) (h : Hart) (s : State) : VEnd :=
  let a := h.fixedCodes x.a q.w
  let l := limOf x.b q.gb
  let efOk := if x.c = 0 then decide (q.ef ≤ 7) || decide (10 ≤ q.ef) && decide (q.ef ≤ 13) else true
  codedElem q h s (efOk && scaleOk x q && q.regsOk [x.d, x.a]) a none l.1 (some x.d) fun i =>
    if x.c = 0 then some (encodeRes q (h.el x.a q.w i) 127)
    else (h.codeScale q x.c x.d l.2 i).map (encodeRes q (h.el x.a q.w i))

/-! ## VCADD to VCCAT -/

/-- A two-source coded instruction (R237). -/
def coded2 (x : VArgs) (q : QEntry) (h : Hart) (s : State) (f : Int → Int → Int) : VEnd :=
  let a := h.codes x.a q.k
  let b := h.codes x.b q.k
  codedElem q h s (q.regsOk [x.d, x.a, x.b]) a (some b) (limOf x.c q.gc).1 (some x.d) fun i =>
    some (codeRes (f (a.vals.getD i 0) (b.vals.getD i 0)) q.k)
/-- VCADD (R237). -/
def runVcadd (x : VArgs) (q : QEntry) (h : Hart) (s : State) : VEnd := coded2 x q h s fun a b => a + b
/-- VCSUB (R237). -/
def runVcsub (x : VArgs) (q : QEntry) (h : Hart) (s : State) : VEnd := coded2 x q h s fun a b => a - b
/-- VCSKIP (R240). -/
def runVcskip (x : VArgs) (q : QEntry) (h : Hart) (s : State) : VEnd :=
  let a := h.codes x.a q.k
  codedElem q h s (q.regsOk [x.a]) a none (limOf x.b q.gb).1 none fun _ => some ⟨0, 0, 0, false⟩

/-- Copies whole codes of a source (R241): how many, and where it ended: 0 the source ended, 1 the limit, 2 the budget. -/
def copyCodes (vb vstart lim : Nat) (bits : Nat) (c : Codes) : Nat → Nat → Prod → Prod × Nat × Nat
  | 0, i, p => (p, i, 0)
  | fuel + 1, i, p =>
    if p.e = lim then (p, i, 1)
    else if vb < p.o + c.len i then (p, i, 2)
    else
      let l := c.len i
      copyCodes vb vstart lim bits c fuel (i + 1)
        { p with e := p.e + 1, o := p.o + l, bits := p.bits + slice bits (c.start i) l * 2 ^ p.o,
                 base := if vstart ≤ p.e then p.base else p.o + l }
/-- VCCAT (R241). -/
def runVccat (x : VArgs) (q : QEntry) (h : Hart) (s : State) : VEnd :=
  let a := h.codes x.a q.k
  let b := h.codes x.b q.k
  let lim := (limOf x.c q.gc).1
  checked q h s (q.regsOk [x.d, x.a, x.b]) (
    let (p, na, ea) := copyCodes q.vb q.vstart lim (h.vbits x.a) a a.n 0 Prod.start
    let (p, nb, stop) : Prod × Nat × Nat :=
      if ea = 1 then (p, 0, 0)
      else if ea = 2 then (p, 0, 2)
      else if a.why ≠ 0 then (p, 0, a.why)
      else
        let (p, nb, eb) := copyCodes q.vb q.vstart lim (h.vbits x.b) b b.n 0 p
        (p, nb, if eb = 1 then 0 else if eb = 2 then 2 else b.why)
    .done ((h.writeCoded x.d p).grants p.e (a.start na) (b.start nb) p.o stop) s)

/-! ## VCLD and VCST (R234, R235) -/

/-- Where bit j of a stream at bit pointer P lies: byte address and bit offset (R43). -/
def streamAt (P : Word) (j : Nat) : Nat × Nat := let b := (P + word j).toNat; (b / 8, b % 8)
/-- The first bit of each byte that bits j to total − 1 touch. -/
def chunks (P : Word) (total : Nat) : Nat → Nat → List Nat
  | 0, _ => []
  | fuel + 1, j => if total ≤ j then [] else j :: chunks P total fuel (j + (8 - (streamAt P j).2))
/-- Bits of the byte from bit j on. -/
def chunkLen (P : Word) (total j : Nat) : Nat := min (8 - (streamAt P j).2) (total - j)

/-- VCLD (R234). -/
def runVcld (hid : Nat) (x : MArgs) (q : QEntry) (h : Hart) (s : State) : VEnd :=
  checked q h s (q.regsOk [x.d]) (
    let r := elemLoop (fun j (a : LdSt) => do
        let w := chunkLen q.ga q.vb j
        let v ← s.bitsAt hid h x.oc.toNat .r notDevice (streamAt q.ga j) w
        .ok { a with bits := splice a.bits j w v.2, lines := segLines v.1 ++ a.lines })
      (chunks q.ga q.vb (q.vb + 1) q.vstart) ⟨s, h.vbits x.d, [], []⟩
    match r.2 with
    | none => .done ((h.setVReg x.d.toNat q.vb r.1.bits).grants 0 0 0 q.vb 0)
        (if s.pins.isEmpty then s else r.1.lines.foldl (fun s l => s.served (vectorUnit hid) l) s)
    | some (j, .trap c v) => .trap c v j (h.setVReg x.d.toNat j r.1.bits) s
    | some (j, e) => .ofStop e j h s)
/-- VCST (R235). -/
def runVcst (hid : Nat) (x : MArgs) (q : QEntry) (h : Hart) (s : State) : VEnd :=
  let f := h.vfill x.d
  checked q h s (q.regsOk [x.d]) (
    match finishStore hid h s (elemLoop (fun j (a : StSt) => do
        let w := chunkLen q.ga f j
        let p := streamAt q.ga j
        let gs ← s.locate (vctx hid h) .w notDevice p.1 1
        s.storeGate hid h gs
        let ps := byteParts (segCells gs) p.2 w (slice (h.vbits x.d) j w)
        .ok { a with s := a.s.putParts hid h x.oc.toNat gs ps, cells := partMasks ps ++ a.cells,
                     lines := segLines gs ++ a.lines })
      (chunks q.ga f (f + 1) q.vstart) ⟨s, [], [], 0, []⟩) with
    | .done h1 s1 => .done (h1.grants 0 f 0 0 0) s1
    | v => v)

end Sys2Proof.Machine
end

