-- ==== Sys2Proof/Machine/Grid.lean ====
section
/-! DEFINITION. Hashed-grid and reader-count instructions (spec/11 R242 to R254). -/

namespace Sys2Proof.Machine

/-! ## Descriptors (R242 to R244) -/

/-- A word of a descriptor. -/
def descWord (d i : Nat) : Word := BitVec.ofNat 64 (d / 2 ^ (64 * i))
def gBase (d : Nat) : Nat := (descWord d 0).toNat
def gRes (d : Nat) : Nat := bitsOf (descWord d 1) 47 32
def gFF (d : Nat) : Nat := bitsOf (descWord d 1) 16 15
def gF (d : Nat) : Nat := 2 ^ bitsOf (descWord d 1) 14 13
def gT (d : Nat) : Nat := bitsOf (descWord d 1) 12 8
def gL (d : Nat) : Nat := bitsOf (descWord d 1) 7 4 + 1
def gD (d : Nat) : Nat := bitsOf (descWord d 1) 2 0
def gG (d : Nat) : Nat := bitsOf (descWord d 2) 31 0
/-- EF code of the feature format. -/
def gEF (d : Nat) : Nat := match gFF d with | 0 => 10 | 1 => 11 | _ => 12
/-- Bytes of a feature and of an entry. -/
def gfb (d : Nat) : Nat := efWidth (gEF d) / 8
def gE (d : Nat) : Nat := gF d * gfb d
/-- q of R243 after l levels. -/
def growth (G : Nat) : Nat → Nat → Nat
  | 0, q => q
  | l + 1, q => growth G l (q * G / 65536)
/-- Resolution of level l (R243). -/
def gridRes (d l : Nat) : Nat := growth (gG d) l (gRes d * 65536) / 65536
/-- The descriptor passes the checks of R244. -/
def descOk (d : Nat) : Bool :=
  bitsOf (descWord d 0) 63 52 == 0 && bitsOf (descWord d 1) 63 48 == 0 && bitsOf (descWord d 1) 31 17 == 0
    && bitsOf (descWord d 1) 3 3 == 0 && bitsOf (descWord d 2) 63 32 == 0 && d / 2 ^ 192 == 0
    && gD d != 0 && decide (4 ≤ gT d) && decide (gT d ≤ 24) && gFF d != 3 && decide (2 ≤ gRes d)
    && decide (65536 ≤ gG d) && gBase d % 128 == 0
    && (List.range (gL d)).all (fun l => decide (gridRes d l ≤ 2 ^ 24))
    && decide (gBase d + gL d * 2 ^ gT d * gE d ≤ 2 ^ 52)

/-- GDESC (R244). It transfers no elements and R197 does not name it, so it runs whole whatever vstart it carries, leaves vstart 0 as
every vector instruction does that completes, and keeps it on a trap (log 43). -/
def runGdesc (hid : Nat) (x : MArgs) (q : QEntry) (h : Hart) (s : State) : VEnd :=
  let ea := vea x q
  if ea.toNat % 64 ≠ 0 then .trap .misaligned ea q.vstart h s
  else match s.bitsAt hid h x.oc.toNat .r notDevice (ea.toNat, 0) 512 with
    | .error e => .ofStop e q.vstart h s
    | .ok (gs, d) =>
      if descOk d then
        .done (h.updVec fun v => { v with gd := assocPut GSlot.zero v.gd x.d.toNat ⟨d, x.oc.toNat, true⟩ })
          (s.servedSegs (vectorUnit hid) gs)
      else .trap .gridDescriptor (word x.d.toNat) q.vstart h s

/-! ## Corners, weights and indices (R246, R247) -/

/-- A rounding of R246: fp32, to nearest even, subnormals kept. -/
def mul32 (a b : Nat) : Nat × Flags := mulVal fp32 0 0 (unpack fp32 a) (unpack fp32 b)
def add32 (a b : Nat) : Nat × Flags := addVal fp32 0 0 (unpack fp32 a) (unpack fp32 b)
/-- 1.0 in fp32. -/
def one32 : Nat := 0x3F800000
/-- NV only, and only where no operand is NaN (R250). -/
def gridNV (a b : Nat) (fl : Flags) : Flags :=
  if (unpack fp32 a).isNan || (unpack fp32 b).isNan then 0 else fl &&& fNV
/-- A coordinate as read (R246). -/
def coord (b : Nat) : Nat × Flags :=
  match unpack fp32 b with
  | .nan _ => (0, fNV)
  | v => if v.neg || v.isZero then (0, 0) else if ltVal (unpack fp32 one32) v then (one32, 0) else (b, 0)
/-- c and t of a coordinate at a resolution (R246). -/
def lowerCorner (x res : Nat) : Nat × Nat :=
  let p := (mul32 x (roundVal fp32 0 0 (ofInt ((res : Int) - 1))).1).1
  let fl : Nat := match unpack fp32 p with
    | .fin _ m e => if 0 ≤ e then m * 2 ^ e.toNat else m / 2 ^ (-e).toNat
    | _ => 0
  let c := min fl (res - 2)
  (c, (addVal fp32 0 0 (unpack fp32 p) (ofInt (-(c : Int)))).1)
/-- The weight of corner k, from dimension d on (R246). -/
def cornerWeight (k : Nat) : List Nat → Nat → Nat → Nat
  | [], _, w => w
  | t :: r, d, w =>
    let f := if k.testBit d then t else (addVal fp32 0 0 (unpack fp32 one32) (unpack fp32 t).negate).1
    cornerWeight k r (d + 1) (mul32 w f).1
/-- The factors π_d (R247). -/
def gridFactors : List Nat := [0x6C8E9CF1, 0xB5AD4EC1, 0x4F1BBCDD, 0xD1B54A33, 0x7A2D58E9, 0x93C4670B, 0xE8F12A57]
/-- The entry index of corner coordinates at a level (R247). -/
def entryIndex (t res : Nat) (qs : List Nat) : Nat :=
  if res ^ qs.length ≤ 2 ^ t then qs.foldl (fun i q => i * res + q) 0
  else ((qs.zip gridFactors).foldl (fun i p => i ^^^ (p.1 * p.2 % 2 ^ 32)) 0) % 2 ^ t
/-- The entries a point reaches, in ascending level and corner: level, address, weight. -/
def gridEntries (d : Nat) (xs : List Nat) : List (Nat × Nat × Nat) :=
  (List.range (gL d)).flatMap fun l =>
    let res := gridRes d l
    let cs := xs.map fun x => lowerCorner x res
    (List.range (2 ^ gD d)).map fun k =>
      let qs := cs.zipIdx.map fun (c, i) => c.1 + (if k.testBit i then 1 else 0)
      (l, gBase d + (l * 2 ^ gT d + entryIndex (gT d) res qs) * gE d, cornerWeight k (cs.map (·.2)) 0 one32)
/-- The coordinates of point pt as read, and the NV they raise. -/
def pointCoords (h : Hart) (r : Reg) (dims pt : Nat) : List Nat × Flags :=
  let cs := (List.range dims).map fun i => coord (h.el r 32 (pt * dims + i))
  (cs.map (·.1), cs.foldl (fun f c => f ||| c.2) 0)

/-! ## GLOAD and GSCAT (R248 to R250) -/

/-- The entries of a point, located and open. -/
def State.gridLocate (s : State) (hid : Nat) (h : Hart) (need : Need) (d : Nat) (es : List (Nat × Nat × Nat)) :
    Except Stop (List (Nat × Seg × Nat)) :=
  es.mapM fun e => do
    match ← s.locate (vctx hid h) need (· == clsGrid) e.2.1 (gE d) with
    | g :: _ => .ok (e.1, g, e.2.2)
    | [] => .error (.wait none)
/-- A feature as fp32, exactly (R248). -/
def feature32 (ef b : Nat) : Nat := match fmtOf ef with | some F => (roundVal fp32 0 0 (unpack F b)).1 | none => 0
/-- One point of GLOAD: the L × F results, and NV. -/
def gatherPoint (d : Nat) (es : List (Nat × Nat × List Nat)) : List Nat × Flags :=
  let outs := (List.range (gL d)).map fun l =>
    (es.filter fun e => e.1 == l).foldl (fun (acc : List (Nat × Flags)) e =>
      acc.zipIdx.map fun (a, f) =>
        let x := e.2.2.getD f 0
        let p := mul32 e.2.1 x
        let r := add32 a.1 p.1
        (r.1, a.2 ||| gridNV e.2.1 x p.2 ||| gridNV a.1 p.1 r.2)) (List.replicate (gF d) (0, 0))
  let fl := outs.flatten
  (fl.map (·.1), fl.foldl (fun f x => f ||| x.2) 0)
/-- The checks that GLOAD and GSCAT share: EF 12 and the registers, then the slot (R245, R248). -/
def gridCheck (x : VArgs) (q : QEntry) (h : Hart) (s : State) (k : GSlot → VEnd) : VEnd :=
  checked q h s (q.ef == 12 && q.regsOk [x.d, x.a]) (
    let g := assocGet GSlot.zero h.vec.gd x.b.toNat
    if g.valid then k g else .trap .gridDescriptor (word x.b.toNat) q.vstart h s)
/-- GLOAD (R248). -/
def runGload (hid : Nat) (x : VArgs) (q : QEntry) (h : Hart) (s : State) : VEnd :=
  gridCheck x q h s fun g =>
    let d := g.desc
    let per := gL d * gF d
    let np := min (min q.gc.toNat (h.vfill x.a / (32 * gD d))) (q.vb / (32 * per))
    let held := s.heldOf h
    let r := elemLoop (fun pt (a : LdSt × Flags) => do
        let xs := pointCoords h x.a (gD d) pt
        let es ← s.gridLocate hid h .r d (gridEntries d xs.1)
        let gs := es.map (·.2.1)
        s.gateSegs (vectorUnit hid) gs
        s.cleanSegs gs
        let vals := es.map fun e =>
          let n := natOfBytes (s.seenBytes held g.cls e.2.1.leaf.pa (gE d))
          (e.1, e.2.2, (List.range (gF d)).map fun f => feature32 (gEF d) (elem n (8 * gfb d) f))
        let out := gatherPoint d vals
        .ok ({ a.1 with bits := splice a.1.bits (pt * per * 32) (per * 32) (packElems 32 out.1),
                        lines := segLines gs ++ a.1.lines }, a.2 ||| xs.2 ||| out.2))
      ((List.range np).filter (q.vstart ≤ ·)) (⟨s, h.vbits x.d, [], []⟩, 0)
    finishLoad hid (h.accrue (match r.2 with
      | none | some (_, .trap ..) => r.1.2
      | _ => 0)) s x.d (per * 32) np (r.1.1, r.2)

/-- GSCAT (R249). -/
def runGscat (hid : Nat) (x : VArgs) (q : QEntry) (h : Hart) (s : State) : VEnd :=
  gridCheck x q h s fun g =>
    let d := g.desc
    let per := gL d * gF d
    let np := min (min q.gc.toNat (h.vfill x.a / (32 * gD d))) (h.vfill x.d / (32 * per))
    finishStore hid h s (elemLoop (fun pt (a : StSt) => do
        let xs := pointCoords h x.a (gD d) pt
        let es ← s.gridLocate hid h .rw d (gridEntries d xs.1)
        let gs := es.map (·.2.1)
        s.storeGate hid h gs
        if (s.heldRound h).isNone then s.cleanSegs gs
        let posts := es.flatMap fun e => (List.range (gF d)).map fun f =>
          let gr := h.el x.d 32 ((pt * gL d + e.1) * gF d + f)
          let c := mul32 e.2.2 gr
          (f * gfb d, e.2.1, c.1, gridNV e.2.2 gr c.2)
        let r := posts.foldl (fun (b : State × Flags) p =>
          let t := b.1.postAdd hid h (p.2.1.va + p.1) (p.2.1.leaf.pa + p.1) (gEF d) p.2.2.1 true
          (t.1, b.2 ||| t.2 ||| p.2.2.2)) (a.s, 0)
        .ok { a with s := r.1, lines := segLines gs ++ a.lines, fl := a.fl ||| xs.2 ||| r.2 })
      ((List.range np).filter (q.vstart ≤ ·)) ⟨s, [], [], 0, []⟩)

/-! ## GSYNC and reader counts (R251 to R254): scalar -/

/-- A queued GLOAD or GSCAT names a slot. -/
def usesSlot (b : Reg) (e : QEntry) : Bool :=
  match e.ins with
  | .gload y | .gscat y => y.b == b
  | _ => false
/-- GSYNC (R251): the front end stops until every earlier GLOAD and GSCAT of the slot has completed. -/
def execGsync (x : VArgs) (s : State) : Out :=
  onAgents true false false s (if s.me.vec.queue.any (usesSlot x.b) then .next s.waitMe else .next (s.retire 8 id))

/-- A queued instruction can read or change a count (R254). -/
def countsEntry (q : QEntry) : Bool :=
  match q.ins with
  | .vldRd _ | .vstRc _ | .vldxRd _ | .vldspRd _ | .vstspRc _ => true
  | _ => false
/-- Runs a reader-count instruction once earlier counted accesses have performed (R254). -/
def countedOp (s : State) (k : Out) : Out :=
  onAgents true true false s (if s.me.vec.queue.any countsEntry then .next s.waitMe else k)
/-- Granule numbers of a range of virtual addresses or scratchpad offsets. -/
def rangeGranules (a n : Nat) : List Nat := linesOf a n
/-- The runs of a range of reader-counted granules, open (R252): the first failure in ascending address, translation and class
of each page in turn. -/
def State.closeLocate (s : State) (a n : Nat) : Except Stop (List Seg) := do
  let gs ← (cutPages (n / 65536 + 2) a n).mapM fun (va, k) => do
    let l ← s.translate (s.ctx s.cur) .rw va
    if l.cls = clsCounted then .ok (⟨va, k, l⟩ : Seg) else .error (.trap .pageClass (word va))
  s.gateSegs s.cur gs
  .ok gs
/-- RCCLOSE (R252): two pages of the range may map one granule, which is closed once. -/
def execRcclose (x : AArgs) (s : State) : Out :=
  let a := (s.me.getG x.a).toNat
  let n := (s.me.getG x.b).toNat
  countedOp s (
    if n = 0 then .next (s.retire 8 fun h => h.setG x.d 0)
    else if 2 ^ 32 < n ∨ 2 ^ 64 < a + n then illegal s
    else onOk s (s.closeLocate a n) fun gs =>
      let ls := (segLines gs).eraseDups
      let k := (ls.filter fun l => decide (0 < s.count l)).length
      let s1 := (ls.foldl (fun (s : State) l => s.rcClose l) s).servedSegs s.cur gs
      .next (s1.retire 8 fun h => h.setG x.d (word k)))
/-- RCCLOSESP (R252). -/
def execRcclosesp (x : AArgs) (s : State) : Out :=
  let a := (s.me.getG x.a).toNat
  let n := (s.me.getG x.b).toNat
  let c := clusterOf s.cur
  countedOp s (
    if n = 0 then .next (s.retire 8 fun h => h.setG x.d 0)
    else if 2 ^ 32 < n ∨ 2 ^ 64 < a + n then illegal s
    else if spadSize < a + n then raise .access (word (max a spadSize)) s
    else
      let bs := (rangeGranules a n).filter fun b => decide (0 < s.spCount c b)
      let s1 := bs.foldl (fun (s : State) b => (s.clusterEvent c Part.addUread).setSpCount c b 0) s
      .next (s1.retire 8 fun h => h.setG x.d (word bs.length)))
/-- RCQUERY (R253). -/
def execRcquery (x : AArgs) (s : State) : Out :=
  let a := (s.me.getG x.a).toNat
  countedOp s (onOk s (do
      let gs ← s.locate (s.ctx s.cur) .r (· == clsCounted) a 1
      s.gateSegs s.cur gs
      .ok gs) fun gs =>
    match gs with
    | g :: _ => .next ((s.servedSegs s.cur gs).retire 8 fun h => h.setG x.d (word (s.count (lineOf g.leaf.pa))))
    | [] => .next (s.retire 8 fun h => h.setG x.d 0))
/-- RCQUERYSP (R253). -/
def execRcquerysp (x : AArgs) (s : State) : Out :=
  let a := (s.me.getG x.a).toNat
  countedOp s (
    if spadSize ≤ a then raise .access (word a) s
    else .next (s.retire 8 fun h => h.setG x.d (word (s.spCount (clusterOf s.cur) (a / 128)))))

end Sys2Proof.Machine
end

