-- ==== Sys2Proof/Machine/Fetch.lean ====
section
/-! DEFINITION. Fetching instruction words (spec/05 R95, spec/08 R152, spec/20 R334). -/

namespace Sys2Proof.Machine

/-- The 8 bytes of an instruction word at a physical address, from the caches of the agent's path or from memory (R95); `who` is
the name under which the fetch waits at a pinned line. -/
def State.fetchPA (s : State) (hid who pa : Nat) : Except Stop Word :=
  match s.icFind (icPath hid) (lineOf pa) with
  | some e => .ok (wordAt e.bytes (pa % 128))
  | none => do
    s.gate who pa 8
    s.clean pa 8
    .ok (s.rd64 pa)
/-- Fetches the word at a virtual address for an agent (R164 step 1), under a name. -/
def State.fetchAs (s : State) (hid who : Nat) (va : Word) : Except Stop Word := do
  let l ← s.translate (s.ctx hid) .x va.toNat
  s.fetchPA hid who l.pa
/-- The front end of an agent fetches the word at a virtual address. -/
def State.fetchWord (s : State) (hid : Nat) (va : Word) : Except Stop Word := s.fetchAs hid hid va

end Sys2Proof.Machine
end

