-- ==== Sys2Proof/Machine/Matrix.lean ====
section
/-! DEFINITION. The matrix sequencer: words, grants, latches, accumulators, and the matrix commands (spec/12 R255 to R268,
spec/02 R33 to R37). -/

namespace Sys2Proof.Machine

/-- What issuing a format-X command answers (R257): the hart and the state after it, or why it does not issue. -/
abbrev Issue := Except Stop (Hart × State)

/-- What a command captures of its issue: g[a], g[b], g[c], g[d], the LOOPB iteration, the instruction word and its address. -/
structure XOps where
  ga : Word
  gb : Word
  gc : Word
  gd : Word
  q : Nat
  ir : Word
  pc : Word
deriving DecidableEq, Repr

/-- Takes the token of a command after its checks (R257), then issues it. -/
def popThen (hid : Nat) (x : XArgs) (s : State) (k : State → Issue) : Issue :=
  let c := clusterOf hid
  if x.tc then
    if s.tokens c x.pop.toNat = 0 then .error (.wait none) else k (s.setTokens c x.pop.toNat (s.tokens c x.pop.toNat - 1))
  else k s

/-! ## MCFG and MSETTL (R259, R260) -/

/-- MCFG (R259). -/
def issueMcfg (_ : Nat) (x : XArgs) (o : XOps) (h : Hart) (s : State) : Issue :=
  if mcfgOk o.ga o.gb then
    .ok ((h.updMx fun m => { m with fmt := o.ga, pitch := o.gb }).setG x.d h.mx.fmt, s)
  else .error (.trap .illegal o.ir)
/-- KMAX of a format (R260). -/
def kmax (af : Nat) : Nat :=
  match af with
  | 10 | 11 => 128
  | 12 => 64
  | 13 => 32
  | 14 => 512
  | _ => 256
/-- MSETTL (R260). -/
def issueMsettl (_ : Nat) (x : XArgs) (o : XOps) (h : Hart) (s : State) : Issue :=
  let af := fmtA h.mx.fmt
  let tm := min o.ga.toNat 128
  let tn := min o.gb.toNat (if af = 13 then 64 else 128)
  let tk := min o.gc.toNat (kmax af)
  .ok ((((h.updMx fun m => { m with tm := tm, tn := tn, tk := tk }).setG x.d (word tm)).setG (x.d + 1) (word tn)).setG
    (x.d + 2) (word tk), s)

/-! ## Issue of the matrix commands (R257, R261 to R267) -/

/-- SL and BLK suit AF (R259). -/
def slOk (vtype fmt : Word) : Bool :=
  (match fmtA fmt with
    | 12 => vtSL vtype == 3
    | 13 => vtSL vtype == 7
    | _ => vtSL vtype == 0 || vtSL vtype == 1)
  && (fmtA fmt != 14 || vtBLK vtype != 3)
/-- The command as captured (R257). -/
def mcmdOf (h : Hart) (s : State) (i : Instr) (o : XOps) (rows : List Nat) : MCmd :=
  { seq := s.seq, ins := i, pc := o.pc, ga := o.ga, gb := o.gb, gc := o.gc, vtype := h.vtype, fmt := h.mx.fmt,
    pitch := h.mx.pitch, tm := h.mx.tm, tn := h.mx.tn, tk := h.mx.tk, q := o.q, rows := rows, retiring := false }
/-- The lowest scratchpad offset at or above the end that some runs touch; none if they stay inside (R93). -/
def outside (l : List (Nat × Nat)) : Option Nat :=
  (l.filter fun r => r.2 != 0 && decide (spadSize < r.1 + r.2)).foldl (fun o r => match o with
    | none => some (max r.1 spadSize)
    | some a => some (min a (max r.1 spadSize))) none
/-- Queues a command whose checks have passed. -/
def enqueue (hid : Nat) (x : XArgs) (c : MCmd) (h : Hart) (s : State) : Issue :=
  match outside (c.readSpans ++ c.writeSpans) with
  | some a => .error (.trap .access (word a))
  | none =>
    if 16 ≤ h.mx.queue.length then .error (.wait none)
    else popThen hid x s fun s1 =>
      .ok (h.updMx fun m => { m with queue := m.queue ++ [{ c with seq := s1.seq }] }, { s1 with seq := s1.seq + 1 })

/-- Rows that MLDA or MLDB reads: none where a row has no element (R260, R261). -/
def latchRows (h : Hart) (isB kr : Bool) : Nat :=
  let m := h.mx
  let side := if isB then m.tn else m.tm
  if side = 0 ∨ m.tk = 0 then 0 else if kr then m.tk else side
/-- The decoding checks of MLDA and MLDB: SL, and the fields that mxfp4 governs (R259, R262). -/
def latchOk (x : XArgs) (h : Hart) (ef : Nat) : Bool :=
  slOk h.vtype h.mx.fmt && (if ef = 14 then x.c != 0 && !x.fn.getLsbD 0 else x.c == 0)
/-- The misaligned operand of a latch load, if any (R262). -/
def latchMis (h : Hart) (o : XOps) (ef p : Nat) : Option Word :=
  if o.ga.toNat % latchElem ef ≠ 0 then some o.ga
  else if ef = 14 ∧ p % (blockLen (vtBLK h.vtype) / 2) ≠ 0 then some o.gc
  else none
/-- MLDA (R261, R262): the list is aligned even where no row is read. -/
def issueMlda (hid : Nat) (x : XArgs) (o : XOps) (h : Hart) (s : State) : Issue :=
  let ef := fmtA h.mx.fmt
  let n := latchRows h false (x.fn.getLsbD 0)
  let list := x.b != 0
  if !latchOk x h ef then .error (.trap .illegal o.ir)
  else match latchMis h o ef (pitchOf h.mx.pitch 0) with
    | some a => .error (.trap .misaligned a)
    | none =>
      if list && o.gb.toNat % 4 != 0 then .error (.trap .misaligned o.gb)
      else if list && n != 0 && decide (spadSize < o.gb.toNat + 4 * n) then
        .error (.trap .access (word (max o.gb.toNat spadSize)))
      else if list && s.cmdHeld (clusterOf hid) o.gb.toNat (o.gb.toNat + 4 * n) false s.seq then .error (.wait none)
      else do
        if list then s.spClean (clusterOf hid) o.gb.toNat (4 * n)
        let rows := (List.range n).map fun i =>
          if list then natOfBytes (s.spBytes (clusterOf hid) (o.gb.toNat + 4 * i) 4) else i
        enqueue hid x (mcmdOf h s (.mlda x) o rows) h s
/-- MLDB (R261, R262). -/
def issueMldb (hid : Nat) (x : XArgs) (o : XOps) (h : Hart) (s : State) : Issue :=
  let ef := fmtB h.mx.fmt
  if !latchOk x h ef then .error (.trap .illegal o.ir)
  else match latchMis h o ef (pitchOf h.mx.pitch 1) with
    | some a => .error (.trap .misaligned a)
    | none => enqueue hid x (mcmdOf h s (.mldb x) o (List.range (latchRows h true (x.fn.getLsbD 0)))) h s

/-- The record of a latch: grants, formats, layout (R262). -/
def Latch.stamp (l : Latch) : Nat × Nat × Nat × Word × Bool := (l.tm, l.tn, l.tk, l.fmt, l.kr)
/-- The record of a latch once the queued commands have run. -/
def Hart.latchRec (h : Hart) (isB : Bool) : Option (Nat × Nat × Nat × Word × Bool) :=
  h.mx.queue.foldl (fun r c => match c.ins with
    | .mlda x => if isB then r else some (c.tm, c.tn, c.tk, c.fmt, x.fn.getLsbD 0)
    | .mldb x => if isB then some (c.tm, c.tn, c.tk, c.fmt, x.fn.getLsbD 0) else r
    | _ => r) ((if isB then h.mx.lb else h.mx.la).map Latch.stamp)
/-- MMA and MOPA: both latches fit, in the layout kr (R259, R263). Where SL does not suit the format either, the illegal-instruction
trap comes first (log 19). -/
def issueProduct (hid : Nat) (x : XArgs) (i : Instr) (kr : Bool) (o : XOps) (h : Hart) (s : State) : Issue :=
  let want := some (h.mx.tm, h.mx.tn, h.mx.tk, h.mx.fmt, kr)
  if !slOk h.vtype h.mx.fmt then .error (.trap .illegal o.ir)
  else if h.latchRec false ≠ want ∨ h.latchRec true ≠ want then .error (.trap .engine (word o.q))
  else enqueue hid x (mcmdOf h s i o []) h s
/-- MMA (R264). -/
def issueMma (hid : Nat) (x : XArgs) (o : XOps) (h : Hart) (s : State) : Issue := issueProduct hid x (.mma x) false o h s
/-- MOPA (R264). -/
def issueMopa (hid : Nat) (x : XArgs) (o : XOps) (h : Hart) (s : State) : Issue := issueProduct hid x (.mopa x) true o h s
/-- MZERO (R266). -/
def issueMzero (hid : Nat) (x : XArgs) (o : XOps) (h : Hart) (s : State) : Issue :=
  enqueue hid x (mcmdOf h s (.mzero x) o []) h s
/-- MLD (R266). -/
def issueMld (hid : Nat) (x : XArgs) (o : XOps) (h : Hart) (s : State) : Issue :=
  if o.ga.toNat % accBytes h.mx.fmt ≠ 0 then .error (.trap .misaligned o.ga)
  else enqueue hid x (mcmdOf h s (.mld x) o []) h s
/-- The output format of MST is admitted (R267). -/
def mstOk (x : XArgs) (fmt : Word) : Bool :=
  let of := x.fn.toNat % 32
  let cv := x.fn.getLsbD 5
  let sr := x.fn.getLsbD 6
  (if cv then match accKind fmt with
      | .f32 => decide (8 ≤ of) && decide (of ≤ 12)
      | .int => of == 0 || of == 2
      | .f64 => of == 12 || of == 13
    else of == 0)
  && (!sr || (cv && match accKind fmt with
      | .f32 => decide (of ≤ 11)
      | .int => false
      | .f64 => of == 12))
  && (sr || (x.b == 0 && x.c == 0))
/-- MST (R267). -/
def issueMst (hid : Nat) (x : XArgs) (o : XOps) (h : Hart) (s : State) : Issue :=
  if !mstOk x h.mx.fmt then .error (.trap .illegal o.ir)
  else if o.ga.toNat % mstBytes x.fn h.mx.fmt ≠ 0 then .error (.trap .misaligned o.ga)
  else enqueue hid x (mcmdOf h s (.mst x) o []) h s

/-! ## Products and sums (R33 to R37) -/

/-- A product of two elements (R34 item 1). -/
def prodVal (a b : FVal) : FVal × Flags :=
  if a.isNan || b.isNan then (.nan false, snanFlag [a, b])
  else if (a.isInf && b.isZero) || (a.isZero && b.isInf) then (.nan false, fNV)
  else match a, b with
    | .fin n m e, .fin n' m' e' => (.fin (n != n') (m * m') (e + e'), 0)
    | _, _ => (.inf (a.neg != b.neg), 0)
/-- The sum of finite values: an integer and its exponent. -/
def sumFin (l : List FVal) : Int × Int :=
  let fs := l.filterMap fun v => match v with
    | .fin n m e => if m = 0 then none else some (n, m, e)
    | _ => none
  match fs with
  | [] => (0, 0)
  | f :: r =>
    let u := r.foldl (fun u x => min u x.2.2) f.2.2
    (fs.foldl (fun t x => let y : Int := shl x.2.1 (x.2.2 - u); if x.1 then t - y else t + y) 0, u)
/-- acc + Σ products, rounded once (R33, R34). -/
def matrixSum (F : Fmt) (sub : Nat) (acc : FVal) (ps : List (FVal × Flags)) : Nat × Flags :=
  let fl := ps.foldl (fun f p => f ||| p.2) (snanFlag [acc])
  let vs := acc :: ps.map (·.1)
  if vs.any FVal.isNan then (F.nan, fl)
  else
    let pos := vs.any fun v => v.isInf && !v.neg
    let neg := vs.any fun v => v.isInf && v.neg
    if pos && neg then (F.nan, fl ||| fNV)
    else if pos || neg then (F.inf neg, fl)
    else
      let t := sumFin vs
      if t.1 = 0 then (if vs.all FVal.isZero then F.sign acc.neg else 0, fl)
      else
        let r := roundFin F 0 sub ⟨decide (t.1 < 0), t.1.natAbs, t.2, false⟩
        (r.1, fl ||| r.2)

/-- The exact difference of two finite values. -/
def subFin (a b : FVal) : FVal :=
  let t := sumFin [a, b.negate]
  .fin (decide (t.1 < 0)) t.1.natAbs t.2
/-- The three bf16 slices of a finite fp32 value (R36). -/
def slices3 (x : FVal) : List FVal :=
  let cut (v : FVal) : FVal := unpack bf16 (roundFin bf16 1 0 v.ex).1
  let x0 := cut x
  let r1 := subFin x x0
  let x1 := cut r1
  [x0, x1, cut (subFin r1 x1)]
/-- The products of R36. -/
def prods3 (a b : FVal) : List (FVal × Flags) :=
  match a, b with
  | .fin .., .fin .. =>
    let as := slices3 a
    let bs := slices3 b
    [(0, 0), (0, 1), (0, 2), (1, 0), (1, 1), (2, 0)].map fun (i, j) => prodVal (as.getD i a) (bs.getD j b)
  | _, _ => [prodVal a b]
/-- The shared exponent of R37. -/
def sharedExp (xs : List FVal) : Int :=
  let es := xs.filterMap fun v => match v with
    | .fin _ m e => if m = 0 then none else some (e + m.log2)
    | _ => none
  match es with
  | [] => 0
  | e :: r => r.foldl max e
/-- Seven digits, the lowest first as they are cut (R37). -/
def digitsFrom : Nat → Int → List Int
  | 0, _ => []
  | n + 1, m =>
    let d := toSigned 8 (ofSigned 8 m)
    d :: digitsFrom n ((m - d) / 256)
/-- The digits d[0] to d[6] of a finite value under a shared exponent (R37). -/
def digits7 (x : FVal) (E : Int) : List Int :=
  match x with
  | .fin n m e =>
    let k := e + 54 - E
    let v : Int := if 0 ≤ k then shl m k else (m / 2 ^ (-k).toNat : Nat)
    (digitsFrom 7 (if n then -v else v)).reverse
  | _ => []
/-- The product of R37: Σ over i + j ≤ 6. -/
def prod7 (a b : FVal) (ea eb : Int) : FVal × Flags :=
  match a, b with
  | .fin .., .fin .. =>
    let as := digits7 a ea
    let bs := digits7 b eb
    let t : Int := (List.range 7).foldl (fun t i => (List.range (7 - i)).foldl (fun t j =>
      t + as.getD i 0 * bs.getD j 0 * (2 ^ (8 * (12 - i - j)) : Nat)) t) 0
    (.fin (decide (t < 0)) t.natAbs (ea + eb - 108), 0)
  | _, _ => prodVal a b

/-! ## The engine -/

/-- Element bits k of line i of a latch: row i in layout 0, else element i of row k (R261). -/
def Latch.at (l : Latch) (w i k : Nat) : Nat := if l.kr then elem (l.rows.getD k 0) w i else elem (l.rows.getD i 0) w k
/-- The scale byte of element k of row i (R262). The block length is that of the latch load: whether MMA's own BLK, which the
record of R262 does not hold, must equal it is not said (log 32). -/
def Latch.scale (l : Latch) (i k : Nat) : Nat := (l.scales.getD i []).getD (k / blockLen l.blk) 0
/-- The value of element k of line i in a floating-point format (R19, R33). -/
def Latch.val (l : Latch) (ef sub i k : Nat) : FVal :=
  if ef = 14 then
    if l.scale i k = 0xFF then .nan false
    else match unpack fpE2M1 (l.at 4 i k) with
      | .fin n m e => .fin n m (e + ((l.scale i k : Int) - 127))
      | v => v
  else match fmtOf ef with
    | some F => operand F sub (l.at (efWidth ef) i k)
    | none => .fin false 0 0
/-- The integer of element k of line i (R35). -/
def Latch.ival (l : Latch) (ef i k : Nat) : Int := intVal 8 (ef == 0) (l.at 8 i k)

/-- Writes positions of an accumulator, which are poisoned no more (R356). -/
def Mx.setAcc (m : Mx) (a : Nat) (ps : List (Nat × BitVec 32)) : Mx :=
  let r := assocGet (⟨false, [], []⟩ : AccReg) m.acc a
  let cells := ps.foldl (fun c p => if r.zeroed then assocPut 0 c p.1 p.2 else assocSet c p.1 p.2) r.cells
  { m with acc := assocSet m.acc a { r with cells := cells, bad := r.bad.filter fun i => !ps.any (·.1 == i) } }
/-- Value (m, n) of an accumulator as bits (R256). -/
def Mx.accVal (mx : Mx) (kind : AccKind) (a m n : Nat) : Nat :=
  match kind with
  | .f64 => (mx.accPos a (128 * m + 2 * n)).toNat + (mx.accPos a (128 * m + 2 * n + 1)).toNat * 2 ^ 32
  | _ => (mx.accPos a (128 * m + n)).toNat
/-- The positions of value (m, n) with new bits. -/
def accCells (kind : AccKind) (m n v : Nat) : List (Nat × BitVec 32) :=
  match kind with
  | .f64 => [(128 * m + 2 * n, BitVec.ofNat 32 v), (128 * m + 2 * n + 1, BitVec.ofNat 32 (v / 2 ^ 32))]
  | _ => [(128 * m + n, BitVec.ofNat 32 v)]
/-- The values of a tile, in ascending m and then n. -/
def tileOf (tm tn : Nat) : List (Nat × Nat) := (List.range tm).flatMap fun m => (List.range tn).map fun n => (m, n)

/-- One output of MMA or MOPA (R33 to R37, R264). -/
def outputOf (c : MCmd) (la lb : Latch) (acc m n : Nat) : ERes :=
  let sub := vtSUB c.vtype
  let ks := List.range c.tk
  let a := fmtA c.fmt
  let b := fmtB c.fmt
  match accKind c.fmt with
  | .int =>
    let t := ks.foldl (fun (t : Int) k => t + la.ival a m k * lb.ival b n k) (toSigned 32 acc)
    let r := saturate 32 true t
    ⟨r.1, 0, r.2⟩
  | .f64 =>
    let xs := ks.map (la.val a sub m)
    let ys := ks.map (lb.val b sub n)
    let ea := sharedExp xs
    let eb := sharedExp ys
    .fp (matrixSum fp64 sub (operand fp64 sub acc) ((xs.zip ys).map fun (x, y) => prod7 x y ea eb))
  | .f32 =>
    let ps := ks.flatMap fun k =>
      let x := la.val a sub m k
      let y := lb.val b sub n k
      if a = 12 then prods3 x y else [prodVal x y]
    .fp (matrixSum fp32 sub (operand fp32 sub acc) ps)
/-- MMA and MOPA: every output of the tile; flags and clamps accrue (R264, R35). With a TK of 0 they touch no element
(R260). -/
def runProduct (c : MCmd) (d : Nat) (h : Hart) : Hart :=
  match h.mx.la, h.mx.lb with
  | some la, some lb =>
    let kind := accKind c.fmt
    let tile := if c.tk = 0 then [] else tileOf c.tm c.tn
    let rs := tile.map fun (m, n) => ((m, n), outputOf c la lb (h.mx.accVal kind d m n) m n)
    let h1 := h.updMx fun mx => mx.setAcc d (rs.flatMap fun r => accCells kind r.1.1 r.1.2 r.2.val)
    h1.accrueAll (rs.map (·.2))
  | _, _ => h
/-- What a latch load leaves (R261, R262). -/
def latchLoad (c : MCmd) (cl : Nat) (isB kr : Bool) (s : State) : Latch :=
  let ef := if isB then fmtB c.fmt else fmtA c.fmt
  let p := pitchOf c.pitch (if isB then 1 else 0)
  let n := if kr then (if isB then c.tn else c.tm) else c.tk
  let blk := blockLen (vtBLK c.vtype)
  { rows := c.rows.map fun r => natOfBytes (s.spBytes cl (c.ga.toNat + r * p) (rowBytes ef n)),
    scales := if ef = 14 then c.rows.map fun r =>
      (s.spBytes cl (c.gc.toNat + r * (p * 2 / blk)) ((c.tk + blk - 1) / blk)).map (·.toNat) else [],
    tm := c.tm, tn := c.tn, tk := c.tk, fmt := c.fmt, kr := kr, blk := vtBLK c.vtype, bad := false }

/-- The drained bits of a value (R267, R268). -/
def drainVal (x : XArgs) (c : MCmd) (m n v : Nat) : ERes :=
  let of := x.fn.toNat % 32
  let rm := vtRM c.vtype
  let sub := vtSUB c.vtype
  if !x.fn.getLsbD 5 then .of v
  else match accKind c.fmt, fmtOf of with
    | .int, _ => satRes (efWidth of) true (toSigned 32 v)
    | k, some F =>
      let y := operand (if k = .f64 then fp64 else fp32) sub v
      if x.fn.getLsbD 6 then
        .fp (sroundVal F sub y ((mix c.gb (c.gc + word (128 * m + n + 16384 * c.q))).toNat % 2 ^ 32))
      else .fp (roundVal F rm sub y)
    | _, none => .of v
/-- MST's drain (R267). -/
def runDrain (x : XArgs) (c : MCmd) (cl : Nat) (h : Hart) (s : State) : Hart × State :=
  let kind := accKind c.fmt
  let os := mstBytes x.fn c.fmt
  let rs := (tileOf c.tm c.tn).map fun (m, n) => ((m, n), drainVal x c m n (h.mx.accVal kind x.d.toNat m n))
  let off (m n : Nat) : Nat := c.ga.toNat + m * pitchOf c.pitch 2 + n * os
  let s0 := rs.foldl (fun (s : State) r => s.spWrite cl (off r.1.1 r.1.2) (bytesOfNat os r.2.val)) s
  let s1 := if s0.spoison.isEmpty then s0
    else s0.spUnpoisonCells cl (rs.flatMap fun r => (List.range os).map (off r.1.1 r.1.2 + ·))
  let h1 := if x.fn.getLsbD 7 then
      h.updMx fun mx => mx.setAcc x.d.toNat (rs.flatMap fun r => accCells kind r.1.1 r.1.2 0)
    else h
  (h1.accrueAll (rs.map (·.2)), s1)
/-- MLD (R266). -/
def runMld (x : XArgs) (c : MCmd) (cl : Nat) (h : Hart) (s : State) : Hart :=
  let kind := accKind c.fmt
  let n8 := accBytes c.fmt
  h.updMx fun mx => mx.setAcc x.d.toNat ((tileOf c.tm c.tn).flatMap fun (m, n) =>
    accCells kind m n (natOfBytes (s.spBytes cl (c.ga.toNat + m * pitchOf c.pitch 2 + n * n8) n8)))

/-- What the head of a matrix queue does. -/
def runMatrix (c : MCmd) (cl : Nat) (h : Hart) (s : State) : Hart × State :=
  match c.ins with
  | .mlda x => (h.updMx fun m => { m with la := some (latchLoad c cl false (x.fn.getLsbD 0) s) }, s)
  | .mldb x => (h.updMx fun m => { m with lb := some (latchLoad c cl true (x.fn.getLsbD 0) s) }, s)
  | .mma x => (runProduct c x.d.toNat h, s)
  | .mopa x => (runProduct c x.d.toNat h, s)
  | .mzero x => (h.updMx fun m => { m with acc := assocSet m.acc x.d.toNat ⟨true, [], []⟩ }, s)
  | .mld x => (runMld x c cl h s, s)
  | .mst x => runDrain x c cl h s
  | _ => (h, s)
/-- The push FIFO of a command. -/
def pushOf (i : Instr) : Option Nat :=
  match i with
  | .mlda x | .mldb x | .mma x | .mopa x | .mzero x | .mld x | .mst x => if x.tp then some x.push.toNat else none
  | _ => none
/-- A range of the command meets an earlier command that has not completed (R119). -/
def State.mHeld (s : State) (cl : Nat) (c : MCmd) : Bool :=
  (match hull c.rangeSpans with | some (lo, hi) => s.cmdHeld cl lo hi false c.seq | none => false)
    || (match hull c.writeSpans with | some (lo, hi) => s.cmdHeld cl lo hi true c.seq | none => false)
/-- Room for a push (R82, R121). -/
def State.pushRoom (s : State) (c : Nat) (p : Option Nat) : Bool := p.all fun k => decide (s.tokens c k < 32)
/-- Pushes a token. -/
def State.pushToken (s : State) (c : Nat) (p : Option Nat) : State :=
  match p with
  | some k => s.setTokens c k (s.tokens c k + 1)
  | none => s
/-- A command reads an operand that an uncorrectable error poisoned: a latch, or an accumulator position of its tile (R355,
R356). -/
def MCmd.meetsBad (c : MCmd) (m : Mx) : Bool :=
  let wide := if accKind c.fmt = .f64 then 2 * c.tn else c.tn
  let acc (a : Nat) : Bool := (assocGet (⟨false, [], []⟩ : AccReg) m.acc a).bad.any fun i =>
    decide (i / 128 < c.tm) && decide (i % 128 < wide)
  match c.ins with
  | .mma x | .mopa x => c.tk != 0 && c.tm != 0 && c.tn != 0 && (m.la.any (·.bad) || m.lb.any (·.bad) || acc x.d.toNat)
  | .mst x => acc x.d.toNat
  | _ => false
/-- Nothing that a command reads is poisoned (R356, R257). -/
def State.matrixClean (s : State) (cl : Nat) (c : MCmd) (m : Mx) : Except Stop Unit := do
  c.readSpans.forM fun r => s.spClean cl r.1 r.2
  if c.meetsBad m then .error (.poison (Config.freeTval s.tick)) else .ok ()
/-- The hart with the matrix engine's next command: an ended one whose queued commands still run, the first that ended, or that
of the cluster's sequencer (R68, R257). -/
def State.engineHart (s : State) (cl : Nat) : Hart := ((assocGet [] s.tails (seqBase + cl)).head?).getD (s.hart (seqBase + cl))
/-- Replaces that hart. -/
def State.setEngineHart (s : State) (cl : Nat) (h : Hart) : State :=
  match assocGet [] s.tails (seqBase + cl) with
  | _ :: r => s.setTail (seqBase + cl) h r
  | [] => s.setHart (seqBase + cl) h
/-- The hart without the head of its matrix queue. -/
def Hart.popMatrix (h : Hart) : Hart := h.updMx fun m => { m with queue := m.queue.drop 1 }
/-- A command has left the matrix queue of a cluster: an ended hart without any leaves the sequencer's tail, and a hart whose
record has ended its slot (R352). -/
def State.matrixLeft (s : State) (cl : Nat) : State :=
  match assocGet [] s.tails (seqBase + cl) with
  | h :: r => if h.mx.queue.isEmpty then s.tailDone (seqBase + cl) h r else s
  | [] => s.endedSlot (seqBase + cl) true
/-- A command of the hart h, which has lost it, meets poison: the record of h ends (R257, R356). -/
def State.matrixStrike (s : State) (cl : Nat) (h : Hart) (tval : Word) : State :=
  match assocGet [] s.tails (seqBase + cl) with
  | _ :: _ => (s.endOwner (seqBase + cl) h tval 0).matrixLeft cl
  | [] => s.strike (seqBase + cl) tval
/-- The head of the matrix queue of a cluster goes on, where nothing holds it (R119, R121): it performs, and it retires where
there is room for its token (R82, R276). A command that meets poison is gone, and its owner's record ends (R257). -/
def State.matrixStep (s : State) (cl : Nat) : Option State :=
  let h := s.engineHart cl
  match h.mx.queue with
  | [] => none
  | c :: r =>
    let room := s.pushRoom cl (pushOf c.ins)
    let leave (t : State) (h : Hart) : State := ((t.setEngineHart cl h.popMatrix).pushToken cl (pushOf c.ins)).matrixLeft cl
    if c.retiring then (if room then some (leave s h) else none)
    else if s.mHeld cl c then none
    else match s.matrixClean cl c h.mx with
      | .error (.poison v) => some ((s.setEngineHart cl h.popMatrix).matrixStrike cl h.popMatrix v)
      | .error _ => none
      | .ok _ =>
        let t := runMatrix c cl h s
        some (if room then leave t.2 t.1
          else t.2.setEngineHart cl (t.1.updMx fun m => { m with queue := { c with retiring := true } :: r }))

end Sys2Proof.Machine
end

