-- ==== Sys2Proof/Machine/Engine.lean ====
section
/-! DEFINITION. Nests, copy, scan and tier commands, tokens, EFENCE and LOOPB (spec/12 R270 to R277, spec/05 R103 to R107,
spec/06 R117 to R121, spec/20 R338 to R342). -/

namespace Sys2Proof.Machine

/-! ## Nests (R270) -/

/-- Tuples of a nest. -/
def Nest.size (n : Nest) : Nat := n.bounds.foldl (· * ·) 1
/-- The indices of tuple k, dimension 1 fastest. -/
def nestIndex : List Nat → Nat → List Nat
  | [], _ => []
  | n :: r, k => k % n :: nestIndex r (k / n)
/-- Σ i_d × stride_d. -/
def dot (is : List Nat) (ss : List Int) : Int := (is.zip ss).foldl (fun (t : Int) p => t + (p.1 : Int) * p.2) 0
/-- Δs of tuple k. -/
def Nest.ds (n : Nest) (k : Nat) : Int := dot (nestIndex n.bounds k) n.sstr
/-- Δm of tuple k. -/
def Nest.dm (n : Nest) (k : Nat) : Int := dot (nestIndex n.bounds k) n.mstr
/-- NEST (R270): the descriptor as a scalar load of class 0 reads it. -/
def issueNest (hid : Nat) (_ : XArgs) (o : XOps) (h : Hart) (s : State) : Issue := do
  if o.ga.toNat % 128 ≠ 0 then .error (.trap .misaligned o.ga)
  let gs ← s.locate (vctx hid h) .r notDevice o.ga.toNat 128
  s.gateSegs (unitName hid) gs
  s.cleanSegs gs
  match parseNest (s.segBytes gs) with
  | none => .error (.trap .engine (word o.q))
  | some n => .ok ({ h with nest := some n }, s.servedSegs (unitName hid) gs)

/-! ## Issue (R257, R271 to R275) -/

/-- How the copy engines translate for a hart: through the cache of its cluster (R338). -/
def cpyCtx (hid : Nat) (h : Hart) : Ctx := { vctx hid h with who := engineOf (clusterOf hid) }

/-- The lowest virtual address touched on each 64 KiB page, pages ascending. -/
def pageMins (runs : List (Nat × Nat)) : List (Nat × Nat) :=
  runs.foldl (fun m r =>
    (cutPages (r.2 / 65536 + 2) r.1 r.2).foldl (fun m (va, _) =>
      let a := va % 2 ^ 64
      assocSet m (a / 65536) (min a (assocGet a m (a / 65536)))) m) []
/-- Translates the pages of some runs, in ascending address, translation before class (R198): each page number with its
physical base. -/
def State.holdPages (s : State) (c : Ctx) (need : Need) (okCls : Nat → Bool) (runs : List (Nat × Nat)) :
    Except Stop (List (Nat × Nat)) :=
  (pageMins runs).mapM fun (pg, va) => do
    let l ← s.translate c need va
    if okCls l.cls then .ok (pg, l.pa - va % 65536) else .error (.trap .pageClass (word va))
/-- The barrier object of a command (R275); a value of 0 names none. -/
def State.bobjIssue (s : State) (c : Ctx) (v : Word) : Except Stop (Option BObj) := do
  if v = 0 then .ok none
  else
    let pa ← s.bobjLocate c v
    .ok (some ⟨v, pa⟩)
/-- Pages a command holds: those it translated, and that of its object. -/
def heldPages (xl : List (Nat × Nat)) (b : Option BObj) : List (Nat × Nat) :=
  match b with
  | some b => assocSet xl (b.va.toNat / 65536) (b.pa - b.va.toNat % 65536)
  | none => xl
/-- The entries of the tables that map some pages, each once: a command holds them until it completes (R317, R338). -/
def State.trails (s : State) (c : Ctx) (pages : List Nat) : List TlbEntry :=
  (pages.flatMap fun pg => s.trail c (65536 * pg)).foldl (fun l e => if l.contains e then l else l ++ [e]) []
/-- Issues a command whose checks have passed, after its token. -/
def addCmd (hid : Nat) (x : XArgs) (o : XOps) (h : Hart) (s : State) (kind : CmdKind) (xl : List (Nat × Nat)) (b : Option BObj) : Issue :=
  popThen hid x s fun s1 =>
    let pages := heldPages xl b
    let c := match kind with | .copyIn .. | .copyOut .. => cpyCtx hid h | _ => vctx hid h
    .ok (h, { s1 with
      cmds := s1.cmds ++ [{ id := s1.seq, pc := o.pc, owner := hid, launch := h.launch, logical := h.logical, part := h.part,
                            cluster := clusterOf hid, kind := kind, xl := pages,
                            held := s.trails c (pages.map (·.1)), asid := h.asid, bobj := b,
                            push := if x.tp then some x.push.toNat else none, retiring := false }]
      seq := s1.seq + 1 })

/-- Fields of a CPY function value (R258). -/
def cpyNST (x : XArgs) : Bool := x.fn.getLsbD 1
def cpyRC (x : XArgs) : Bool := x.fn.getLsbD 2
def cpyN (x : XArgs) : Nat := x.fn.toNat / 8 % 256
/-- The uses of CPY that are not illegal (R271). -/
def cpyOk (out : Bool) (x : XArgs) (o : XOps) : Bool :=
  !(cpyRC x && out) && (cpyRC x || cpyN x == 0) && !(cpyNST x && x.c != 0) && (cpyNST x || decide (o.gc.toNat ≤ 2 ^ 32))
/-- The steps and the run of a CPY, none where it needs a nest and finds none (R271). -/
def cpySteps (x : XArgs) (o : XOps) (h : Hart) : Option (List (Int × Int) × Nat) :=
  if cpyNST x then h.nest.map fun n => ((List.range n.size).map fun k => (n.ds k, n.dm k), n.run)
  else some ([(0, 0)], o.gc.toNat)
/-- CPYIN and CPYOUT (R271): the checks in their order. -/
def issueCpy (out : Bool) (hid : Nat) (x : XArgs) (o : XOps) (h : Hart) (s : State) : Issue := do
  if !cpyOk out x o then .error (.trap .illegal o.ir)
  match cpySteps x o h with
  | none => .error (.trap .engine (word o.q))
  | some (steps, run) =>
    match outside (steps.map fun d => (stepOff o.ga.toNat d.1, run)) with
    | some a => .error (.trap .access (word a))
    | none =>
      let xl ← s.holdPages (cpyCtx hid h) (if out then .w else .r) notDevice (steps.map fun d => (stepAddr o.gb d.2, run))
      let b ← s.bobjIssue (cpyCtx hid h) o.gd
      let h1 := if cpyNST x then { h with nest := none } else h
      addCmd hid x o h1 s
        (if out then .copyOut o.ga.toNat o.gb steps run
         else .copyIn o.ga.toNat o.gb steps run (if cpyRC x then some (cpyN x) else none)) xl b
/-- CPYIN (R271). -/
def issueCpyin (hid : Nat) (x : XArgs) (o : XOps) (h : Hart) (s : State) : Issue := issueCpy false hid x o h s
/-- CPYOUT (R271). -/
def issueCpyout (hid : Nat) (x : XArgs) (o : XOps) (h : Hart) (s : State) : Issue := issueCpy true hid x o h s

/-- Bytes of a scan element (R273). -/
def scanWidth (fmt : Nat) : Nat := if fmt = 4 ∨ fmt = 12 then 4 else 2
/-- Every field of a scan descriptor lies within its limits (R273). -/
def scanDescOk (bs : List Byte) : Bool :=
  let f := (wordAt bs 0x18).toNat
  let w := scanWidth f
  let count := (wordAt bs 8).toNat
  let seg := (wordAt bs 0x28).toNat
  (f == 4 || f == 10 || f == 11 || f == 12) && (wordAt bs 0).toNat % w == 0
    && decide (1 ≤ count) && decide (count ≤ 2 ^ 32) && decide ((wordAt bs 0x10).toNat < 2 ^ (8 * w))
    && (wordAt bs 0x20).toNat % 8 == 0 && seg % 8 == 0 && decide (8 ≤ seg) && decide (seg ≤ 2 ^ 32)
    && wordAt bs 0x30 == 0 && wordAt bs 0x38 == 0
/-- SCANK (R273): the checks in their order. The page of its descriptor is held with the others (R338). -/
def issueScank (hid : Nat) (x : XArgs) (o : XOps) (h : Hart) (s : State) : Issue := do
  if o.ga.toNat % 64 ≠ 0 then .error (.trap .misaligned o.ga)
  let gs ← s.locate (vctx hid h) .r notDevice o.ga.toNat 64
  s.gateSegs (unitName hid) gs
  s.cleanSegs gs
  let bs := s.segBytes gs
  if !scanDescOk bs then .error (.trap .engine (word o.q))
  let f := (wordAt bs 0x18).toNat
  let rbase := wordAt bs 0
  let count := (wordAt bs 8).toNat
  let obuf := wordAt bs 0x20
  let seg := (wordAt bs 0x28).toNat
  let xr ← s.holdPages (vctx hid h) .r notDevice [(rbase.toNat, count * scanWidth f)]
  let xo ← s.holdPages (vctx hid h) .w (· == clsOrdinary) [(obuf.toNat, 256 * seg)]
  let b ← s.bobjIssue (vctx hid h) o.gd
  addCmd hid x o h (s.servedSegs (unitName hid) gs) (.scan rbase count (wordAt bs 0x10).toNat f obuf seg (List.range 256))
    ((xo ++ gs.map fun (g : Seg) => (g.va / 65536, g.leaf.pa - g.va % 65536)).foldl (fun m e => assocSet m e.1 e.2) xr) b

/-- PFTIER and EVTIER (R274): each address is translated in turn. -/
def issueTier (evict : Bool) (hid : Nat) (x : XArgs) (o : XOps) (h : Hart) (s : State) : Issue := do
  if 2 ^ 20 < o.gb.toNat then .error (.trap .illegal o.ir)
  let gs ← (List.range o.gb.toNat).mapM fun j => do
    let va := (o.ga + word (j * 2 ^ 21)).toNat
    let l ← s.translate (vctx hid h) .r va
    if notDevice l.cls then .ok (va, l.pa) else .error (.trap .pageClass (word va))
  let b ← s.bobjIssue (vctx hid h) o.gd
  addCmd hid x o h s (.tier evict (gs.map fun g => granuleOf g.2) (s.scheduledMode h.part) .ready)
    (gs.foldl (fun m g => assocSet m (g.1 / 65536) (g.2 - g.1 % 65536)) []) b
/-- PFTIER (R274). -/
def issuePftier (hid : Nat) (x : XArgs) (o : XOps) (h : Hart) (s : State) : Issue := issueTier false hid x o h s
/-- EVTIER (R274). -/
def issueEvtier (hid : Nat) (x : XArgs) (o : XOps) (h : Hart) (s : State) : Issue := issueTier true hid x o h s

/-- TOKPOST (R276): after every earlier matrix command, and on a vector hart after every earlier command, has retired. -/
def issueTokpost (hid : Nat) (x : XArgs) (_ : XOps) (h : Hart) (s : State) : Issue :=
  if !h.mx.queue.isEmpty || (kindOf hid == .vector && s.cmds.any fun c => c.ofHart h) then .error (.wait none)
  else if !s.pushRoom (clusterOf hid) (some x.push.toNat) then .error (.wait none)
  else .ok (h, s.pushToken (clusterOf hid) (some x.push.toNat))
/-- TOKWAIT (R276). -/
def issueTokwait (hid : Nat) (x : XArgs) (_ : XOps) (h : Hart) (s : State) : Issue := popThen hid x s fun s1 => .ok (h, s1)

/-! ## Completion (R117 to R119, R269) -/

/-- A command by its number. -/
def State.cmdOf (s : State) (id : Nat) : Option Cmd := s.cmds.find? fun c => c.id == id
/-- Who a command's accesses are by, in the queues of refusals: a name of its own, of the copy engines of its cluster or of the
base dies. -/
def Cmd.who (c : Cmd) : Nat := cmdName (match c.kind with | .copyIn .. | .copyOut .. => true | _ => false) c.id c.cluster
/-- The command is gone, and no access of it waits (R123). -/
def State.dropCmd (s : State) (c : Cmd) : State :=
  { (if s.pins.any (·.refused.contains c.who) then s.unrefuse c.who else s) with cmds := s.cmds.filter fun k => k.id != c.id }
/-- Replaces what remains of a command. -/
def State.setKind (s : State) (id : Nat) (k : CmdKind) : State :=
  { s with cmds := s.cmds.map fun c => if c.id = id then { c with kind := k } else c }
/-- A command is refused at a line (R122). At an ended pin of a line that it owns no other access comes first, for all of them wait
for the command there (R117). -/
def State.cmdRefused (s : State) (c : Cmd) (l : Nat) : Bool :=
  s.refusedAt c.who l && (!s.ownedBy c l || s.pins.any fun p => p.line == l && !p.ended)
/-- A run is open to a command: it waits for lines that earlier commands own (R117), and for granules in motion (R340). -/
def State.gateCmd (s : State) (c : Cmd) (pa n : Nat) : Except Stop Unit :=
  (linesOf pa n).forM fun l =>
    if s.cmdRefused c l then .error (.wait (some l))
    else if s.cmds.any (fun k => decide (k.id < c.id) && s.ownedBy k l) || s.inMotion l then .error (.wait none)
    else .ok ()
/-- The pieces of a run on the pages a command holds: physical address and length. -/
def Cmd.pieces (c : Cmd) (va n : Nat) : List (Nat × Nat) :=
  (cutPages (n / 65536 + 2) va n).map fun (a, k) => (c.pa a, k)
/-- Pieces are open to a command. -/
def State.gatePieces (s : State) (c : Cmd) (ps : List (Nat × Nat)) : Except Stop Unit := ps.forM fun p => s.gateCmd c p.1 p.2
/-- Pieces are not poisoned. -/
def State.cleanPieces (s : State) (ps : List (Nat × Nat)) : Except Stop Unit := ps.forM fun p => s.clean p.1 p.2
/-- Reads pieces. -/
def State.readPieces (s : State) (ps : List (Nat × Nat)) : List Byte := ps.flatMap fun p => s.rdBytes p.1 p.2
/-- Writes pieces. -/
def State.writePieces (s : State) : List (Nat × Nat) → List Byte → State
  | [], _ => s
  | p :: r, bs => ((s.wrBytes p.1 (bs.take p.2)).unpoison p.1 p.2).writePieces r (bs.drop p.2)
/-- A command's performed accesses leave the queues of refusals (R123). -/
def State.servedPieces (s : State) (c : Cmd) (ps : List (Nat × Nat)) : State :=
  if s.pins.isEmpty then s
  else (ps.flatMap fun p => linesOf p.1 p.2).foldl (fun (s : State) l => s.served c.who l) s
/-- The report of a command can be made (R275). -/
def State.reportGate (s : State) (c : Cmd) : Except Stop Unit :=
  match c.bobj with
  | some b => do
    s.gateCmd c b.pa 64
    s.clean b.pa 64
  | none => .ok ()
/-- Reports n bytes (R275). -/
def State.report (s : State) (c : Cmd) (n : Nat) : State :=
  match c.bobj with
  | some b => (bobjAct s b.pa (.report n)).served c.who (lineOf b.pa)
  | none => s
/-- The command retires: its token, and the record that may complete with it (R65). -/
def State.retireCmd (s : State) (c : Cmd) : State :=
  let s1 := (s.dropCmd c).pushToken c.cluster c.push
  if s1.eager then s1.tryComplete c.part c.launch else s1
/-- A command that has performed retires where there is room for its token; a full FIFO holds it (R82, R276). -/
def State.finishCmd (s : State) (c : Cmd) : State :=
  if s.pushRoom c.cluster c.push then s.retireCmd c
  else { s with cmds := s.cmds.map fun k => if k.id = c.id then { k with retiring := true } else k }
/-- A scratchpad range of a copy command meets an earlier command (R119). -/
def State.copyHeld (s : State) (c : Cmd) : Bool :=
  match hull c.spans.1 with
  | some (lo, hi) => s.cmdHeld c.cluster lo hi c.spans.2 c.id
  | none => false

/-- CPYIN performs (R271). -/
def State.copyInNow (s : State) (c : Cmd) (sp : Nat) (p : Word) (steps : List (Int × Int)) (run : Nat) (rc : Option Nat) :
    Except Stop State := do
  if s.copyHeld c then .error (.wait none)
  let all := steps.flatMap fun d => c.pieces (stepAddr p d.2) run
  s.gatePieces c all
  s.cleanPieces all
  s.reportGate c
  let blocks := (steps.flatMap fun d => linesOf (stepOff sp d.1) run).eraseDups
  let s1 := match rc with
    | some n => blocks.foldl (fun (s : State) b => s.spRcSet c.cluster b n) s
    | none => s
  let s2 := steps.foldl (fun (s : State) d =>
    (s.spWrite c.cluster (stepOff sp d.1) (s.readPieces (c.pieces (stepAddr p d.2) run))).spUnpoison c.cluster
      (stepOff sp d.1) run) s1
  .ok (((s2.servedPieces c all).report c (run * steps.length)).finishCmd c)
/-- CPYOUT performs (R271). -/
def State.copyOutNow (s : State) (c : Cmd) (sp : Nat) (p : Word) (steps : List (Int × Int)) (run : Nat) : Except Stop State := do
  if s.copyHeld c then .error (.wait none)
  let all := steps.flatMap fun d => c.pieces (stepAddr p d.2) run
  s.gatePieces c all
  steps.forM fun d => s.spClean c.cluster (stepOff sp d.1) run
  s.reportGate c
  let s1 := steps.foldl (fun (s : State) d =>
    s.writePieces (c.pieces (stepAddr p d.2) run) (s.spBytes c.cluster (stepOff sp d.1) run)) s
  .ok (((s1.servedPieces c all).report c (run * steps.length)).finishCmd c)

/-- An element is selected by a threshold (R106). -/
def scanSelects (fmt thr v : Nat) : Bool :=
  match fmtOf fmt with
  | some F =>
    let t := unpack F thr
    let y := unpack F v
    !t.isNan && !y.isNan && ltVal t y
  | none => decide (toSigned 32 thr < toSigned 32 v)
/-- The value word of an entry (R107): fp32, or the raw bits of an int32. -/
def scanValue (fmt v : Nat) : Nat :=
  match fmtOf fmt with
  | some F => (roundVal fp32 0 0 (unpack F v)).1
  | none => v
/-- The elements of the range whose lines are homed on a channel: index and physical address (R106). R330 hashes a local line; a
line in a peer's memory is hashed with its whole number, the device's included (R12, log 29). -/
def scanHomed (c : Cmd) (rbase : Word) (count w ch : Nat) : List (Nat × Nat) :=
  ((List.range count).map fun i => (i, c.pa (rbase.toNat + i * w))).filter fun e => homeChannel (lineOf e.2) == ch
/-- Channel ch scans its elements and writes its segment (R106, R107, R273). -/
def State.scanNow (s : State) (c : Cmd) (ch : Nat) : Except Stop State :=
  match c.kind with
  | .scan rbase count thr fmt obuf seg todo => do
    let w := scanWidth fmt
    let es := scanHomed c rbase count w ch
    let rest := todo.filter (· != ch)
    let ps := es.map fun e => (e.2, w)
    s.gatePieces c ps
    s.cleanPieces ps
    s.reportGate c
    let found := (es.map fun e => (e.1, natOfBytes (s.rdBytes e.2 w))).filter fun e => scanSelects fmt thr e.2
    let out := found.take ((seg - 8) / 8)
    let bytes := bytesOfNat 8 (found.length % 2 ^ 32 + out.length * 2 ^ 32)
      ++ out.flatMap fun e => bytesOfNat 8 (e.1 + scanValue fmt e.2 * 2 ^ 32)
    let os := c.pieces (obuf.toNat + ch * seg) bytes.length
    s.gatePieces c os
    let s1 := (((s.writePieces os bytes).servedPieces c (ps ++ os)).report c seg).setKind c.id
      (.scan rbase count thr fmt obuf seg rest)
    .ok (if rest.isEmpty then s1.finishCmd c else s1)
  | _ => .error (.wait none)

/-- Exchanges the locations of names j and k (R340). -/
def Remap.exchange (r : Remap) (j k : Nat) : Remap :=
  let a := r.locOf j
  let b := r.locOf k
  { r with loc := r.loc - a * 4 ^ j - b * 4 ^ k + b * 4 ^ j + a * 4 ^ k }
/-- One completed swap. -/
def Part.addSwap (p : Part) : Part := { p with swaps := p.swaps + 1 }
/-- An earlier tier command of the partition in scheduled mode has still to deal with a granule of the group of n, or the
tracker completes a swap (R310, R342). -/
def State.tierBehind (s : State) (c : Cmd) (n : Nat) : Bool :=
  (s.part c.part).swap.isSome || s.cmds.any fun k => k.part == c.part && decide (k.id < c.id) && !k.retiring &&
    match k.kind with | .tier _ hs true _ => hs.any fun m => m / 4 == n / 4 | _ => false
/-- What a tier command has still to do (R274). -/
def State.setTier (s : State) (c : Cmd) (evict : Bool) (gs : List Nat) (sched : Bool) (stage : TierStage) : State :=
  s.setKind c.id (.tier evict gs sched stage)
/-- The first granule of a tier command reports its bytes, and the command goes on to the next (R274). -/
def State.tierReport (s : State) (c : Cmd) (evict : Bool) (rest : List Nat) (sched : Bool) : State :=
  let t := (s.report c (2 ^ 21)).setTier c evict rest sched .ready
  if rest.isEmpty then t.finishCmd c else t
/-- The next action of a tier command (R274, R340, R342). In scheduled mode a granule that is to move starts its swap, with
MOV at 1; the swap completes; and the granule reports. One that is skipped counts a tier-skip event and reports: a swap that a
count or PIN bars, and a counted granule even where nothing would move, as in R342's example of EVTIER (R103, log 29). Commands
of one partition that name one group act in issue order. -/
def State.tierNow (s : State) (c : Cmd) : Except Stop State :=
  match c.kind with
  | .tier _ [] _ .ready => .ok (s.finishCmd c)
  | .tier evict gs sched (.moving g j k) =>
    .ok (((s.setRemap g { (s.remapOf g).exchange j k with mov := false }).lineEvent (g * 2 ^ 16) Part.addSwap).setTier c evict
      gs sched .moved)
  | .tier evict (_ :: rest) sched .moved => do
    s.reportGate c
    .ok (s.tierReport c evict rest sched)
  | .tier evict (n :: rest) sched .ready => do
    if sched && s.tierBehind c n then .error (.wait none)
    let move := if sched then s.tierSwap evict n else none
    if sched && (s.cntOfName n != 0 || move.any fun x => s.swapBarred x.1 x.2.1 x.2.2) then
      s.reportGate c
      .ok ((s.lineEvent (n * 2 ^ 14) Part.addTskip).tierReport c evict rest sched)
    else match move with
      | some (g, j, k) =>
        .ok ((s.setRemap g { s.remapOf g with mov := true }).setTier c evict (n :: rest) sched (.moving g j k))
      | none =>
        s.reportGate c
        .ok (s.tierReport c evict rest sched)
  | _ => .error (.wait none)

/-- A command that meets poison is gone, and its owner's record ends (R257, R356). -/
def State.strikeCmd (s : State) (c : Cmd) (tval : Word) : State :=
  let t := s.dropCmd c
  match t.recOf c.part c.launch with
  | some r => if r.ending.isSome then t else t.endRecord r (some (fatalTrap c.owner c.asid c.launch .memory tval
      (if c.ofHart (s.hart c.owner) then (s.hart c.owner).vec.vstart else 0)))
  | none => t
/-- What becomes of a command that tried to go on; none where nothing changes. -/
def State.cmdAnswer (s : State) (c : Cmd) : Except Stop State → Option State
  | .ok t => some t
  | .error (.poison v) => some (s.strikeCmd c v)
  | .error (.wait (some line)) =>
    if (s.refuse c.who line).pins = s.pins then none else some (s.refuse c.who line)
  | .error _ => none
/-- A command that waits to retire does, once there is room for its token (R82). -/
def State.retireStep (s : State) (c : Cmd) : Option State := if s.pushRoom c.cluster c.push then some (s.retireCmd c) else none
/-- One copy command completes, or retires. -/
def State.copyStep (s : State) (id : Nat) : Option State :=
  match s.cmdOf id with
  | some c =>
    match c.kind with
    | .copyIn sp p steps run rc => if c.retiring then s.retireStep c else s.cmdAnswer c (s.copyInNow c sp p steps run rc)
    | .copyOut sp p steps run => if c.retiring then s.retireStep c else s.cmdAnswer c (s.copyOutNow c sp p steps run)
    | _ => none
  | none => none
/-- One channel of a scan writes its segment, or the scan retires. -/
def State.scanStep (s : State) (id ch : Nat) : Option State :=
  match s.cmdOf id with
  | some c => match c.kind with
    | .scan _ _ _ _ _ _ todo =>
      if c.retiring then s.retireStep c else if todo.contains ch then s.cmdAnswer c (s.scanNow c ch) else none
    | _ => none
  | none => none
/-- One action of a tier command, or it retires. -/
def State.tierStep (s : State) (id : Nat) : Option State :=
  match s.cmdOf id with
  | some c => match c.kind with
    | .tier .. => if c.retiring then s.retireStep c else s.cmdAnswer c (s.tierNow c)
    | _ => none
  | none => none
/-- A command goes on by one action. -/
def State.cmdStep (s : State) (c : Cmd) : Option State :=
  match c.kind with
  | .copyIn .. | .copyOut .. => s.copyStep c.id
  | .scan _ _ _ _ _ _ todo => if c.retiring then s.retireStep c else todo.findSome? fun ch => s.scanStep c.id ch
  | .tier .. => s.tierStep c.id
/-- Some engine goes on by one action. -/
def State.engineStep (s : State) : Option State :=
  match s.cmds.findSome? s.cmdStep with
  | some t => some t
  | none => s.harts.findSome? fun e => if kindOf e.1 = .sequencer then s.matrixStep (e.1 - seqBase) else none
/-- Engines go on while they can. -/
def State.engineRun : Nat → State → State
  | 0, s => s
  | fuel + 1, s => match s.engineStep with
    | some t => engineRun fuel t
    | none => s
/-- Actions that issued commands still have to make, and refusals they may add. -/
def State.engineWork (s : State) : Nat :=
  s.cmds.foldl (fun n c => n + s.pins.length + match c.kind with
    | .scan _ _ _ _ _ _ todo => todo.length + 1
    | .tier _ gs _ _ => 3 * gs.length + 2
    | _ => 2) 0
  + s.harts.foldl (fun n e => n + 2 * e.2.mx.queue.length) 0
  + s.tails.foldl (fun n e => e.2.foldl (fun n h => n + 2 * h.mx.queue.length) n) 0
/-- Issued commands complete at once where they can (log 2). -/
def State.settleEngines (s : State) : State := if s.eager then s.engineRun s.engineWork else s

/-! ## Format X at the front end (R257) -/

/-- What a format-X instruction reads of a hart at issue. -/
def opsOf (x : XArgs) (h : Hart) (ir : Word) : XOps := ⟨h.getG x.a, h.getG x.b, h.getG x.c, h.getG x.d, 0, ir, h.pc⟩
/-- A sequencer issues a format-X instruction and moves past it (R257). -/
def issueNow (x : XArgs) (s : State) (f : Nat → XArgs → XOps → Hart → State → Issue) : Out :=
  onOk s (f s.cur x (opsOf x s.me s.ir) s.me s) fun r => .next ((r.2.setMe (r.1.retire 8)).settleEngines)

/-- The issue of a body statement (R272); none for a statement that no body admits. -/
def bodyIssue (seqr : Bool) (i : Instr) : Option (XArgs × (Nat → XArgs → XOps → Hart → State → Issue)) :=
  match i with
  | .mlda x => if seqr then some (x, issueMlda) else none
  | .mldb x => if seqr then some (x, issueMldb) else none
  | .mma x => if seqr then some (x, issueMma) else none
  | .mopa x => if seqr then some (x, issueMopa) else none
  | .mzero x => if seqr then some (x, issueMzero) else none
  | .mld x => if seqr then some (x, issueMld) else none
  | .mst x => if seqr then some (x, issueMst) else none
  | .cpyin x => if cpyNST x then none else some (x, issueCpyin)
  | .cpyout x => if cpyNST x then none else some (x, issueCpyout)
  | .tokpost x => some (x, issueTokpost)
  | .tokwait x => some (x, issueTokwait)
  | _ => none
/-- The body of a LOOPB of n statements at pc: the words, fetched under a name (R272). -/
def State.bodyWords (s : State) (hid who : Nat) (pc : Word) (n : Nat) : Except Stop (List Word) :=
  (List.range n).mapM fun i => s.fetchAs hid who (pc + word (8 * (i + 1)))
/-- The body decoded; or its first word that fails R164 or that no body admits. -/
def bodyOf (seqr : Bool) (ws : List Word) : Except Word (List (Word × Instr)) :=
  ws.mapM fun w => match decodeOne w with
    | .ok i => if (bodyIssue seqr i).isSome then .ok (w, i) else .error w
    | .error _ => .error w
/-- The block length that a body statement's scale base is offset by, if it has one (R272). -/
def scaleBlock (i : Instr) (h : Hart) : Option Nat :=
  let b := blockLen (vtBLK h.vtype)
  match i with
  | .mlda _ => if fmtA h.mx.fmt = 14 then some b else none
  | .mldb _ => if fmtB h.mx.fmt = 14 then some b else none
  | _ => none
/-- The operands of body statement k in iteration q (R272). -/
def bodyOps (i : Instr) (x : XArgs) (h : Hart) (n : Nest) (q k : Nat) (ir : Word) : XOps :=
  let o := opsOf x h ir
  let ds := n.ds q
  let add (w : Word) (d : Int) : Word := w + BitVec.ofInt 64 d
  { o with
    q := q
    pc := h.pc + word (8 * (k + 1))
    ga := add o.ga ds
    gb := match i with | .cpyin _ | .cpyout _ => add o.gb (n.dm q) | _ => o.gb
    gc := match scaleBlock i h with | some b => add o.gc (ds * 2 / b) | none => o.gc }
/-- Issues one body statement (R272). Its SSTR check comes before the checks of the statement itself (log 19). -/
def issueBody (hid : Nat) (w : Word) (i : Instr) (n : Nest) (q k : Nat) (h : Hart) (s : State) : Issue :=
  match bodyIssue (kindOf hid == .sequencer) i with
  | none => .error (.trap .illegal w)
  | some (x, f) =>
    match scaleBlock i h with
    | some b =>
      if n.sstr.any fun d => d % (b / 2 : Nat) != 0 then .error (.trap .engine (word q))
      else f hid x (bodyOps i x h n q k w) h s
    | none => f hid x (bodyOps i x h n q k w) h s
/-- The position after the statement at p: the next of the body, or the next iteration; none at the end (R272). -/
def nextPos (p : LoopPos) (body size : Nat) : Option LoopPos :=
  if p.k + 1 < body then some { p with k := p.k + 1 } else if p.q + 1 < size then some { p with q := p.q + 1, k := 0 } else none
/-- The hart after a body statement has issued: it counts in instret; after the last one LOOPB is complete. -/
def Hart.loopOn (h : Hart) (p : Option LoopPos) (body : Nat) : Hart :=
  let h1 := { h with instret := h.instret + 1, status := .running, loopPos := p }
  match p with
  | some _ => h1
  | none => { h1 with nest := none }.retire (8 * (body + 1))
/-- The words of a LOOPB at pc and of its body: as they were read, or read now under a name (R272). -/
def State.loopWords (s : State) (hid who : Nat) (ir pc : Word) (p : LoopPos) (n : Nat) : Except Stop (List Word) :=
  if p.body.isEmpty then (s.bodyWords hid who pc n).map (ir :: ·) else .ok p.body
/-- LOOPB on a sequencer (R272): its issue reads and decodes the body; then each step issues the next body statement of the current
iteration. -/
def seqLoopb (x : XArgs) (s : State) : Out :=
  let h := s.me
  let n := x.fn.toNat + 1
  let p := h.loopPos.getD ⟨0, 0, []⟩
  let back : State := s.setMe { h with loopPos := p.trapped }
  match s.loopWords s.cur s.cur s.ir h.pc p n with
  | .error e => answerStop back e
  | .ok ws => match bodyOf true (ws.drop 1), h.nest with
    | .error w, _ => raise .illegal w back
    | .ok _, none => raise .engine (word p.q) back
    | .ok body, some nest =>
      let p1 : LoopPos := { p with body := ws }
      match body[p.k]? with
      | none => illegal back
      | some (w, i) =>
        match issueBody s.cur w i nest p.q p.k h s with
        | .ok r => .next ((r.2.setMe (r.1.loopOn (nextPos p1 n nest.size) n)).settleEngines)
        | .error (.trap c v) => raise c v back
        | .error e => answerStop (s.setMe { h with loopPos := some p1 }) e
/-- The position of a LOOPB in the vector queue. -/
def QEntry.pos (q : QEntry) : LoopPos := q.loop.getD ⟨0, 0, []⟩
/-- The hart as the body of a LOOPB in the vector queue reads it: the registers, the address and vtype of its entry (R79, R194). -/
def Hart.atLoop (h : Hart) (q : QEntry) : Hart := { h with g := q.regs, pc := q.pc, vtype := q.vtype }
/-- The hart whose LOOPB at the head of the vector queue goes on at a position. -/
def Hart.loopHead (h : Hart) (p : LoopPos) : Hart :=
  { h.updVec (fun v => { v with queue := match v.queue with | q :: r => { q with loop := some p } :: r | [] => [] }) with
    instret := h.instret + 1 }
/-- LOOPB at the head of a vector queue (R197, R257, R272): a whole instruction that decodes its body and issues the next body
statement of the current iteration. -/
def runLoopb (hid : Nat) (x : XArgs) (q : QEntry) (h : Hart) (s : State) : VEnd :=
  let n := x.fn.toNat + 1
  let p := q.pos
  checked q h s q.fresh (match s.loopWords hid (vectorUnit hid) q.ir q.pc p n with
    | .error e => .ofStop e 0 h s
    | .ok ws => match bodyOf false (ws.drop 1), h.nest with
      | .error w, _ => .trap .illegal w 0 h s
      | .ok _, none => .trap .engine (word p.q) 0 h s
      | .ok body, some nest =>
        match body[p.k]? with
        | none => .trap .illegal q.ir 0 h s
        | some (w, i) =>
          match issueBody hid w i nest p.q p.k (h.atLoop q) s with
          | .ok r => match nextPos { p with body := ws } n nest.size with
            | some p1 => .stay (h.loopHead p1) r.2
            | none => .done { h with nest := none, instret := h.instret + 1 } r.2
          | .error e => .ofStop e 0 h s)

/-- A command of the executing hart that an EFENCE mask covers has not completed (R277). -/
def State.efenceHeld (s : State) (mask : Nat) : Bool :=
  (mask.testBit 0 && !s.me.mx.queue.isEmpty)
    || s.cmds.any fun c => c.ofHart s.me && match c.kind with
        | .copyIn .. => mask.testBit 1
        | .copyOut .. => mask.testBit 2
        | _ => mask.testBit 3
/-- EFENCE's wait, after its pop (R277). -/
def efenceWait (x : XArgs) (s : State) : Out :=
  let push := if x.tp then some x.push.toNat else none
  if s.efenceHeld x.fn.toNat || !s.pushRoom (clusterOf s.cur) push then .next s.waitMe
  else .next (((s.pushToken (clusterOf s.cur) push).retire 8 fun h => h.updVec fun v => { v with popped := false }).settleEngines)
/-- EFENCE (R277): it pops first, once; then it waits; then it pushes. It acts in program order and leaves vstart as it is, for
R197 names it neither among the instructions that check vstart nor among those that clear it (log 43). -/
def execEfence (x : XArgs) (s : State) : Out :=
  onAgents true true false s (
    if !s.me.vec.queue.isEmpty then .next s.waitMe
    else if s.me.vec.popped then efenceWait x s
    else onOk s (popThen s.cur x s fun s1 => .ok (s.me, s1)) fun r =>
      efenceWait x (r.2.setMe (s.me.updVec fun v => { v with popped := x.tc })))

end Sys2Proof.Machine
end

