-- ==== Sys2Proof/Machine/VecIssue.lean ====
section
/-! DEFINITION. The vector instruction queue: entering it, running it in order, its gates, and the meanings of every
instruction that goes through it (spec/04 R79 to R81, spec/10 R191 to R205, spec/12 R257, spec/19 R323, spec/21 R344). -/

namespace Sys2Proof.Machine

/-! ## Running an entry -/

/-- A format-X instruction issues from the vector queue as a whole instruction (R197, R257). -/
def runX (hid : Nat) (x : XArgs) (f : Nat → XArgs → XOps → Hart → State → Issue) (q : QEntry) (h : Hart) (s : State) : VEnd :=
  checked q h s q.fresh (match f hid x ⟨q.ga, q.gb, q.gc, q.gd, 0, q.ir, q.pc⟩ h s with
    | .ok r => .done r.1 r.2
    | .error e => .ofStop e 0 h s)

/-- Runs the entry at the head of a queue on its hart (R79). -/
def runEntry (hid : Nat) (q : QEntry) (h : Hart) (s : State) : VEnd :=
  match q.ins with
  | .vconf x => runVconf x q h s
  | .vsetb x => runVsetb x q h s
  | .vsete x => runVsete x q h s
  | .vsetf x => runVsetf x q h s
  | .vadd x => runVadd x q h s
  | .vsub x => runVsub x q h s
  | .vmul x => runVmul x q h s
  | .vmulh x => runVmulh x q h s
  | .vmulhu x => runVmulhu x q h s
  | .vmin x => runVmin x q h s
  | .vmax x => runVmax x q h s
  | .vminu x => runVminu x q h s
  | .vmaxu x => runVmaxu x q h s
  | .vand x => runVand x q h s
  | .vor x => runVor x q h s
  | .vxor x => runVxor x q h s
  | .vsll x => runVsll x q h s
  | .vsrl x => runVsrl x q h s
  | .vsra x => runVsra x q h s
  | .vsadd x => runVsadd x q h s
  | .vssub x => runVssub x q h s
  | .vsaddu x => runVsaddu x q h s
  | .vssubu x => runVssubu x q h s
  | .vmadd x => runVmadd x q h s
  | .vmv x => runVmv x q h s
  | .vfadd x => runVfadd x q h s
  | .vfsub x => runVfsub x q h s
  | .vfmul x => runVfmul x q h s
  | .vfdiv x => runVfdiv x q h s
  | .vfsqrt x => runVfsqrt x q h s
  | .vfmin x => runVfmin x q h s
  | .vfmax x => runVfmax x q h s
  | .vfma x => runVfma x q h s
  | .vfms x => runVfms x q h s
  | .vfnma x => runVfnma x q h s
  | .vfabs x => runVfabs x q h s
  | .vfneg x => runVfneg x q h s
  | .vfexp2 x => runVfexp2 x q h s
  | .vflog2 x => runVflog2 x q h s
  | .vrsqe x => runVrsqe x q h s
  | .vceq x => runVceq x q h s
  | .vcne x => runVcne x q h s
  | .vclt x => runVclt x q h s
  | .vcle x => runVcle x q h s
  | .vcltu x => runVcltu x q h s
  | .vcleu x => runVcleu x q h s
  | .vfceq x => runVfceq x q h s
  | .vfclt x => runVfclt x q h s
  | .vfcle x => runVfcle x q h s
  | .vfcun x => runVfcun x q h s
  | .cvt x => runCvt x q h s
  | .cvtSr x => runCvtSr x q h s
  | .vqmx x => runVqmx x q h s
  | .vdqmx x => runVdqmx x q h s
  | .vexpand4 x => runVexpand4 x q h s
  | .vexpand6 x => runVexpand6 x q h s
  | .vrng x => runVrng x q h s
  | .vclass x => runVclass x q h s
  | .vslup x => runVslup x q h s
  | .vsldn x => runVsldn x q h s
  | .vbcast x => runVbcast x q h s
  | .vperm x => runVperm x q h s
  | .vcompress x => runVcompress x q h s
  | .vxpand x => runVxpand x q h s
  | .vtrans x => runVtrans x q h s
  | .vzip x => runVzip x q h s
  | .vunzip x => runVunzip x q h s
  | .vxch x => runVxch x q h s
  | .vmand x => runVmand x q h s
  | .vmor x => runVmor x q h s
  | .vmxor x => runVmxor x q h s
  | .vmandn x => runVmandn x q h s
  | .vmnot x => runVmnot x q h s
  | .vmpopc x => runVmpopc x q h s
  | .vmfirst x => runVmfirst x q h s
  | .vmset x => runVmset x q h s
  | .vredsum x => runVredsum x q h s
  | .vfredsum x => runVfredsum x q h s
  | .vredmin x => runVredmin x q h s
  | .vredmax x => runVredmax x q h s
  | .vscan x => runVscan x q h s
  | .vfscan x => runVfscan x q h s
  | .vld x => runVld hid x q h s
  | .vlds x => runVlds hid x q h s
  | .vldx x => runVldx hid x q h s
  | .vst x => runVst hid x q h s
  | .vsts x => runVsts hid x q h s
  | .vstx x => runVstx hid x q h s
  | .vstxa x => runVstxa hid x q h s
  | .vldsp x => runVldsp hid x q h s
  | .vstsp x => runVstsp hid x q h s
  | .vconfl x => runVconfl x q h s
  | .vldRd x => runVldRd hid x q h s
  | .vstRc x => runVstRc hid x q h s
  | .vldspRd x => runVldspRd hid x q h s
  | .vstspRc x => runVstspRc hid x q h s
  | .vldxRd x => runVldxRd hid x q h s
  | .vfence x => runVfence hid x q h s
  | .vcld x => runVcld hid x q h s
  | .vcst x => runVcst hid x q h s
  | .vcpos x => runVcpos x q h s
  | .vclen x => runVclen x q h s
  | .vcdec x => runVcdec x q h s
  | .vcenc x => runVcenc x q h s
  | .vcadd x => runVcadd x q h s
  | .vcsub x => runVcsub x q h s
  | .vcskip x => runVcskip x q h s
  | .vccat x => runVccat x q h s
  | .gdesc x => runGdesc hid x q h s
  | .gload x => runGload hid x q h s
  | .gscat x => runGscat hid x q h s
  | .cpyin x => runX hid x issueCpyin q h s
  | .cpyout x => runX hid x issueCpyout q h s
  | .nest x => runX hid x issueNest q h s
  | .scank x => runX hid x issueScank q h s
  | .pftier x => runX hid x issuePftier q h s
  | .evtier x => runX hid x issueEvtier q h s
  | .tokpost x => runX hid x issueTokpost q h s
  | .tokwait x => runX hid x issueTokwait q h s
  | .loopb x => runLoopb hid x q h s
  | _ => illegalV q h s

/-- Changes the state that an entry ends in. -/
def VEnd.onState (v : VEnd) (f : State → State) : VEnd :=
  match v with
  | .done h s => .done h (f s)
  | .trap c tv t h s => .trap c tv t h (f s)
  | .hold l s => .hold l (f s)
  | .mark s => .mark (f s)
  | .stay h s => .stay h (f s)
  | .poison tv t => .poison tv t
/-- Runs an entry with the translations that it holds (R344). -/
def runHeld (hid : Nat) (q : QEntry) (h : Hart) (s : State) : VEnd :=
  if q.xl.isEmpty then runEntry hid q h s
  else (runEntry hid q h { s with tlb := q.xl ++ s.tlb }).onState fun t => { t with tlb := s.tlb }

/-! ## Lanes of ended harts (R80) -/

/-- Two harts in slots of one core use a common lane: those that slot and share give (R8), or any where the Shutter has changed
the layout (R323). -/
def lanesMeet (a : Nat) (h : Hart) (b : Nat) (k : Hart) : Bool :=
  coreOf a == coreOf b && (h.vec.lanes.isSome || k.vec.lanes.isSome
    || (let x := slotLanes a h.share
        let y := slotLanes b k.share
        decide (x.1 < y.1 + y.2) && decide (y.1 < x.1 + x.2)))
/-- Ended harts that still run on lanes of the hart in a slot, by slot: its own first. -/
def State.tailsFor (s : State) (hid : Nat) : List (Nat × List Hart) :=
  s.tails.filter fun e => decide (e.1 < seqBase) && (e.1 == hid
    || (s.hart hid).status != .free && e.2.any fun k => lanesMeet hid (s.hart hid) e.1 k)

/-! ## The queue (R79, R80, R344) -/

/-- Records a refusal of a vector unit at a pinned line (R122); none where that changes nothing. -/
def State.refuseOnce (s : State) (hid line : Nat) : Option Out :=
  let t := s.refuse (vectorUnit hid) line
  if t.pins = s.pins then none else some (.next t)
/-- The vector unit of a slot has completed an instruction of h, and waits nowhere but for entries that h still holds (R123). -/
def State.unitServed (s : State) (hid : Nat) (h : Hart) : State :=
  if !s.pins.any fun p => p.refused.contains (vectorUnit hid) then s
  else
    let own := match s.recOf h.part h.launch with
      | some r => (r.lhart h.logical).held.flatMap fun e => linesOf (heldSpan e).1 (heldSpan e).2
      | none => []
    let ps := s.pins.map fun p => if own.contains p.line then p else { p with refused := p.refused.erase (vectorUnit hid) }
    { s with pins := ps.filter fun p => !(p.ended && p.refused.isEmpty) }
/-- The hart after its head entry has completed. -/
def Hart.popEntry (h : Hart) (qs : List QEntry) : Hart :=
  { h.updVec (fun v => { v with queue := qs }) with instret := h.instret + 1 }
/-- The hart with what is queued discarded. -/
def Hart.dropQueue (h : Hart) : Hart := h.updVec fun v => { v with queue := [] }
/-- The ended hart at the head of a slot's tail goes on (R80). Its instructions had passed their checks when it ended (R344), so
one that could stop now is not run. -/
def State.tailStep (s : State) (hid : Nat) (h : Hart) (r : List Hart) : Option Out :=
  match h.vec.queue with
  | [] => some (.next (s.tailDone hid h r))
  | q :: qs => match runHeld hid q h s with
    | .done h1 s1 => some (.next (((s1.unitServed hid h).setTail hid (h1.popEntry qs) r).settleEngines))
    | .trap _ _ _ h1 s1 => some (.next ((s1.unrefuse (vectorUnit hid)).setTail hid h1.dropQueue r))
    | .hold (some line) _ => s.refuseOnce hid line
    | .hold none _ => none
    | .mark s1 => some (.next s1)
    | .stay h1 s1 => some (.next ((s1.setTail hid h1 r).settleEngines))
    | .poison v vs =>
      some (.next (((s.unrefuse (vectorUnit hid)).setTail hid h.dropQueue r).endOwner hid h v vs))
/-- The entry waits to pop a token from an empty FIFO: the hart can be suspended there (R276, R345). -/
def State.tokenBlocked (s : State) (hid : Nat) (q : QEntry) : Bool :=
  let empty (k : BitVec 4) : Bool := s.tokens (clusterOf hid) k.toNat == 0
  match q.ins with
  | .vldsp x | .vstsp x | .vldspRd x | .vstspRc x => x.tc && !(s.hart hid).vec.popped && empty x.kf
  | .tokwait x | .cpyin x | .cpyout x | .nest x | .scank x | .pftier x | .evtier x => x.tc && empty x.pop
  | .loopb _ => q.pos.k == 0 && match (q.pos.body.drop 1).head?.map decodeOne with
    | some (.ok (.tokwait x)) | some (.ok (.cpyin x)) | some (.ok (.cpyout x)) => x.tc && empty x.pop
    | _ => false
  | _ => false
/-- A LOOPB has completed an iteration and not begun the next: an interrupt is taken there (R272). -/
def QEntry.betweenTurns (q : QEntry) : Bool := decide (0 < q.pos.q) && q.pos.k == 0
/-- The LOOPB at the head of a queue stops between two iterations, for a hart that is to be switched out, or whose record has ended
(R272, R345, R352). -/
def State.loopStops (s : State) (hid : Nat) : Bool :=
  let h := s.hart hid
  ((h.preempt && (s.myLhart hid).adm != .admitted) || h.status == .ending)
    && match h.vec.queue with | q :: _ => q.betweenTurns | [] => false
/-- The head of the queue waits for a token, or is a LOOPB between two iterations: a place at which a hart can stop (R276, R345). -/
def State.headWaits (s : State) (hid : Nat) : Option QEntry :=
  match (s.hart hid).vec.queue with
  | q :: _ => if s.tokenBlocked hid q || s.loopStops hid then some q else none
  | [] => none
/-- A hart whose record has ended gives up its slot once its queue is done, or waits where it could be suspended (R345, R352);
a victim passes its lanes when its VSETB has run, or, parked, when its queue is done (R323); `passed` says that it had passed them
before. -/
def State.queueDone (s : State) (hid : Nat) (passed : Bool) : State :=
  let h := s.hart hid
  if h.status = .ending then s.endedSlot hid (h.vec.queue.isEmpty || (s.headWaits hid).isSome)
  else if s.eager ∧ h.vec.victim ∧ (h.status = .parked ∨ (h.vec.passed ∧ !passed)) then s.lanesPass (coreOf hid)
  else s
/-- The head of a hart's own queue completes or stops; none where it cannot go on now. -/
def State.headStep (s : State) (hid : Nat) : Option Out :=
  let h := s.hart hid
  let out : State := s.unrefuse (vectorUnit hid)
  match h.vec.queue with
  | [] => none
  | q :: qs => if s.loopStops hid then none else match runHeld hid q h s with
    | .done h1 s1 => some (.next ((((s1.unitServed hid h).setHart hid (h1.popEntry qs)).settleEngines).queueDone hid h.vec.passed))
    | .trap c v t h1 s1 =>
      let s2 := (s1.dropPins hid).unrefuse (vectorUnit hid)
      some (.next (if h.status = .ending then (s2.setHart hid h1.dropQueue).queueDone hid h.vec.passed
        else s2.setHart hid ((h1.unwind q).stopAt c v t q.pc)))
    | .hold (some line) _ => s.refuseOnce hid line
    | .hold none _ => none
    | .mark s1 => some (.next s1)
    | .stay h1 s1 => some (.next (((s1.setHart hid h1).settleEngines).queueDone hid h.vec.passed))
    | .poison v t => some (.next ((out.setHart hid (h.dropQueue.updVec fun k => { k with vstart := t })).strike hid v))
/-- The vector instructions of a slot go on by one action: those of ended harts on its lanes first (R80). -/
def State.queueStep (s : State) (hid : Nat) : Option Out :=
  let before := s.tailsFor hid
  match before.findSome? fun e => match e.2 with | h :: r => s.tailStep e.1 h r | [] => none with
  | some o => some o
  | none => if !before.isEmpty || (s.hart hid).vec.vwait then none else s.headStep hid
/-- Entries that wait for a slot: those of ended harts, and those of its hart. -/
def State.queued (s : State) (hid : Nat) : Nat :=
  s.tails.foldl (fun n e => e.2.foldl (fun n h => n + h.vec.queue.length + 1) n) 0 + (s.hart hid).vec.queue.length
/-- The queue of a slot goes on while it can. -/
def queueRun (hid : Nat) : Nat → State → Out
  | 0, s => .next s
  | fuel + 1, s => match s.queueStep hid with
    | some (.next t) => queueRun hid fuel t
    | some o => o
    | none => .next s
/-- Queued vector instructions complete at once where they can (log 2). -/
def State.settleQueue (s : State) (hid : Nat) : Out :=
  if s.eager then queueRun hid (2 * s.queued hid + s.pins.length) s else .next s
/-- The queues of ended harts go on while they can, where issued work completes at once. -/
def State.settleTails (s : State) : Out :=
  (s.tails.map (·.1)).foldl (fun (o : Out) hid => andThen o fun t => t.settleQueue hid) (.next s)

/-! ## What a later statement may do before the queue is empty (R194, R344) -/

/-- An entry that can only wait: nothing of its own can make it stop. -/
def QEntry.onlyWaits (q : QEntry) : Bool :=
  match q.ins with
  | .vfence _ => true
  | .tokpost _ => q.fresh
  | _ => false
/-- The entry has still to pop a token, where preemption can stop it (R228, R276, R345). -/
def QEntry.pops (q : QEntry) : Bool :=
  match q.ins with
  | .vldsp x | .vstsp x | .vldspRd x | .vstspRc x => x.tc
  | .tokwait _ => true
  | .cpyin x | .cpyout x | .nest x | .scank x | .pftier x | .evtier x => x.tc
  | _ => false
/-- A check of the entry looks at data that other agents can change until it acts: a reader count, a descriptor in memory, or
what a command, a scan or the body of a LOOPB names. -/
def QEntry.lateChecks (q : QEntry) : Bool :=
  match q.ins with
  | .vldRd _ | .vldxRd _ | .vldspRd _ | .gdesc _ | .nest _ | .scank _ | .loopb _ => true
  | _ => false
/-- Registers that hold data from memory or a scratchpad, which other agents can change until the load acts: vector registers, and
masks numbered from 64; none for any register. -/
abbrev Open := Option (List Nat)
/-- One of some registers is open. -/
def Open.has (o : Open) (rs : List Nat) : Bool := match o with | some l => rs.any l.contains | none => true
/-- Further registers are open. -/
def Open.add (o : Open) (rs : List Nat) : Open := o.map (rs ++ ·)
/-- A mask among the registers, where an instruction uses it. -/
def maskReg (me : Bool) (m : BitVec 4) : List Nat := if me then [64 + m.toNat] else []
/-- The registers that the checks of an entry look at: masks, indices, coordinates, and the contents that give a fill (R344). What
GSCAT adds is no part of its checks, and a fixed-width result has a fill that no data decides (R248, R249). -/
def QEntry.checkRegs (q : QEntry) : List Nat :=
  match q.ins with
  | .vld x | .vlds x | .vst x | .vsts x | .vstRc x => maskReg x.me x.m
  | .vldsp x | .vstsp x | .vstspRc x => maskReg x.me x.m
  | .vldx x | .vstx x | .vstxa x => x.b.toNat :: maskReg x.me x.m
  | .vcst x => [x.d.toNat]
  | .gload x | .gscat x => [x.a.toNat]
  | _ => []
/-- The registers that are open after an entry (R344): what a load writes, and what is computed from an open register. An
instruction that is not named here and reads an open register may leave any register open. -/
def QEntry.opens (q : QEntry) (o : Open) : Open :=
  let from' (x : VArgs) : Open :=
    if o.has ([x.d.toNat, x.a.toNat, x.b.toNat, x.c.toNat] ++ maskReg x.me x.m) then o.add [x.d.toNat] else o
  match q.ins with
  | .vld x | .vlds x | .vldx x => o.add [x.d.toNat]
  | .vldsp x => o.add [x.d.toNat]
  | .gload x => o.add [x.d.toNat]
  | .vcld _ => none
  | .vadd x | .vsub x | .vmul x | .vmulh x | .vmulhu x | .vmin x | .vmax x | .vminu x | .vmaxu x | .vand x | .vor x | .vxor x
  | .vsll x | .vsrl x | .vsra x | .vsadd x | .vssub x | .vsaddu x | .vssubu x | .vmadd x | .vmv x | .vfadd x | .vfsub x
  | .vfmul x | .vfdiv x | .vfsqrt x | .vfmin x | .vfmax x | .vfma x | .vfms x | .vfnma x | .vfabs x | .vfneg x | .vfexp2 x
  | .vflog2 x | .vrsqe x | .cvt x | .cvtSr x => from' x
  | .vst _ | .vsts _ | .vstx _ | .vstxa _ | .vstRc _ | .vstsp _ | .vstspRc _ | .vcst _ | .gscat _ | .gdesc _ | .vfence _ | .vconf _
  | .vsetb _ | .vsete _ | .vsetf _ | .vmpopc _ | .vmfirst _ | .cpyin _ | .cpyout _ | .nest _ | .scank _ | .pftier _ | .evtier _
  | .tokpost _ | .tokwait _ | .loopb _ => o
  | _ => if o = some [] then o else none
/-- Byte addresses and lengths that an entry accesses, as its hart stands when it acts. -/
def QEntry.touches (q : QEntry) (h : Hart) : List (Nat × Nat) :=
  let items (me : Bool) (m : BitVec 4) (n : Nat) (addr : Nat → Nat × Nat) : List (Nat × Nat) :=
    (h.todo q me m n).map fun e => ((addr e).1, spanBytes (addr e).2 q.w)
  let obj : List (Nat × Nat) := if q.gd = 0 then [] else [(q.gd.toNat, 64)]
  match q.ins with
  | .vld x | .vstRc x => items x.me x.m q.count (unitAddr (vea x q) q.w)
  | .vst x => items x.me x.m q.count (unitAddr (vea x q) q.w)
      ++ (if q.ef = 12 then (h.todo q x.me x.m q.count).flatMap fun e => [1, 2].map fun b => ((vea x q).toNat + e * b, b) else [])
  | .vlds x | .vsts x => items x.me x.m q.count (strideAddr (vea x q) q.gb)
  | .vldx x | .vstx x | .vstxa x => items x.me x.m q.count32 (indexAddr x q h)
  | .vcld _ => (chunks q.ga q.vb (q.vb + 1) q.vstart).map fun j => ((streamAt q.ga j).1, 1)
  | .vcst x => (chunks q.ga (h.vfill x.d) (h.vfill x.d + 1) q.vstart).map fun j => ((streamAt q.ga j).1, 1)
  | .gload x | .gscat x =>
    let g := assocGet GSlot.zero h.vec.gd x.b.toNat
    (List.range (min q.gc.toNat (h.vfill x.a / 32))).flatMap fun pt =>
      (gridEntries g.desc (pointCoords h x.a (gD g.desc) pt).1).map fun e => (e.2.1, gE g.desc)
  | .cpyin x | .cpyout x => obj ++ match cpySteps x ⟨q.ga, q.gb, q.gc, q.gd, 0, q.ir, q.pc⟩ h with
    | some (steps, run) => steps.map fun d => (stepAddr q.gb d.2, run)
    | none => []
  | .pftier _ | .evtier _ => obj ++ (List.range (min q.gb.toNat (2 ^ 20))).map fun j =>
      ((q.ga + word (j * 2 ^ 21)).toNat, 1)
  | _ => []
/-- The entry as one that has passed its checks: it holds the translations that they used (R344). -/
def QEntry.pass (q : QEntry) (hid : Nat) (h : Hart) (s : State) : QEntry :=
  let pages := ((q.touches h).flatMap fun r => (cutPages (r.2 / 65536 + 2) r.1 r.2).map fun c => c.1 % 2 ^ 64 / 65536).eraseDups
  let c := match q.ins with | .cpyin _ | .cpyout _ => cpyCtx hid h | _ => vctx hid h
  { q with checked := true, xl := s.trails c pages }
/-- The state without what only makes an access wait: engines, pins, swaps, poison, and the FIFOs between empty and full. -/
def State.unheld (s : State) (hid : Nat) : State :=
  { s.updHart (seqBase + clusterOf hid) (fun h => h.updMx fun m => { m with queue := [] }) with
    tails := assocPut [] s.tails (seqBase + clusterOf hid) [], eager := false, cmds := [], pins := [], poison := [], spoison := [],
    parts := s.parts.map fun e => (e.1, { e.2 with swap := none }),
    tok := (List.range 16).foldl (fun m k => assocSet m (16 * clusterOf hid + k) 16) s.tok }
/-- Runs the entries of a queue ahead on a state that is thrown away: the entries as passed, where each passes every check
that can make it stop. `o` are the registers that entries before leave open. -/
def passAhead (hid : Nat) (o : Open) : List QEntry → State → Option (List QEntry)
  | [], _ => some []
  | q :: qs, s =>
    let h := s.hart hid
    if q.onlyWaits then (passAhead hid o qs s).map (({ q with checked := true } : QEntry) :: ·)
    else if !q.checked && ((q.pops && !h.vec.popped) || q.lateChecks || o.has q.checkRegs) then none
    else match runHeld hid q h s with
      | .done h1 s1 => (passAhead hid (q.opens o) qs ((s1.setHart hid (h1.popEntry qs)).unheld hid)).map
          ((if q.checked then q else q.pass hid h s) :: ·)
      | _ => if q.checked then (passAhead hid (q.opens o) qs s).map (q :: ·) else none
/-- A scalar statement may retire past the queue of its hart (R344): the state in which every queued entry is marked as having
passed its checks; none where one has not. -/
def State.passQueue (s : State) (hid : Nat) : Option State :=
  let h := s.hart hid
  if h.vec.queue.all (·.checked) then some s
  else (passAhead hid (some []) h.vec.queue (s.unheld hid)).map fun qs => s.setHart hid (h.updVec fun v => { v with queue := qs })
/-- The g registers that an instruction reads or writes at the front end (R145 to R150, R174, R194). A field that names another
kind of register, or that is Zero, gives none but g0. -/
def Instr.gNames (i : Instr) : List Reg :=
  match i with
  | .add x | .sub x | .and x | .or x | .xor x | .andn x | .sll x | .srl x | .sra x | .rol x | .ror x | .slt x | .sltu x
  | .min x | .max x | .minu x | .maxu x | .mul x | .mulh x | .mulhu x | .div x | .divu x | .rem x | .remu x | .clz x
  | .ctz x | .popc x | .bswap x | .sel x | .jr x | .join x | .leave x | .gbar x | .spawn x | .rcclose x | .rcclosesp x
  | .rcquery x | .rcquerysp x | .xinvt x | .xinvta x | .xinvtd x => [x.d, x.a, x.b, x.c]
  | .callr x => [63, x.a]
  | .addi x | .andi x | .ori x | .xori x | .slli x | .srli x | .srai x | .slti x | .sltiu x | .addpc x => [x.d, x.a]
  | .fadd x | .fsub x | .fmul x | .fdiv x | .fsqrt x | .fmin x | .fmax x | .fmadd x | .fmsub x | .feq x | .flt x | .fle x
  | .fclass x => [x.d, x.a, x.b, x.c]
  | .fcvt x => [x.d, x.a]
  | .beq x | .bne x | .blt x | .bge x | .bltu x | .bgeu x => [x.a, x.b]
  | .call _ => [63]
  | .ld x | .ldu x | .st x | .ldRd x | .lduRd x | .isync x | .arrive x | .arriveRel x | .expect x | .waitb x | .claim x =>
    [x.d, x.a, x.b]
  | .stRc x => [x.d, x.a]
  | .amoswap x | .amoadd x | .amoand x | .amoor x | .amoxor x | .amomin x | .amomax x | .amominu x | .amomaxu x | .amocas x
  | .amofadd x => [x.d, x.a, x.b]
  | .csrr x => [x.d]
  | .csrw x | .csrs x | .csrc x => [x.d, x.a]
  | .vconf x => [x.d]
  | .vsetb x | .vsete x => [x.d, x.a]
  | .vadd x | .vsub x | .vmul x | .vmulh x | .vmulhu x | .vmin x | .vmax x | .vminu x | .vmaxu x | .vand x | .vor x
  | .vxor x | .vsll x | .vsrl x | .vsra x | .vsadd x | .vssub x | .vsaddu x | .vssubu x | .vmadd x | .vfadd x | .vfsub x
  | .vfmul x | .vfdiv x | .vfmin x | .vfmax x | .vfma x | .vfms x | .vfnma x | .vceq x | .vcne x | .vclt x | .vcle x
  | .vcltu x | .vcleu x | .vfceq x | .vfclt x | .vfcle x | .vfcun x => if x.s then [x.b] else []
  | .vrng x => [x.a, x.b]
  | .vsetf x | .vbcast x | .vmset x => [x.a]
  | .vslup x | .vsldn x | .vxch x | .vcpos x | .vclen x | .vcdec x | .vcenc x | .vcskip x => [x.b]
  | .vcadd x | .vcsub x | .vccat x | .gload x | .gscat x => [x.c]
  | .vld x | .vldx x | .vst x | .vstx x | .vstxa x | .vldRd x | .vstRc x | .vldxRd x | .vcld x | .vcst x | .gdesc x => [x.a]
  | .vlds x | .vsts x => [x.a, x.b]
  | .vldsp x | .vstsp x | .vldspRd x | .vstspRc x => [x.a]
  | .cpyin x | .cpyout x | .nest x | .scank x | .pftier x | .evtier x => [x.a, x.b, x.c, x.d]
  | _ => []
/-- A queued VMPOPC or VMFIRST still writes a register that the instruction names (R194). -/
def State.gPending (s : State) (hid : Nat) (i : Instr) : Bool :=
  (s.hart hid).vec.queue.any fun q => match q.gDest with
    | some r => r != 0 && (Instr.gNames i).contains r
    | none => false

/-! ## Entering the queue (R79, R194) -/

/-- The entry of an instruction as the front end makes it. -/
def entryOf (i : Instr) (a b c d : Reg) (h : Hart) (ir : Word) : QEntry :=
  { ins := i, pc := h.pc, ir := ir, vtype := h.vtype, vb := h.vec.vb, vstart := h.vec.vstart, n := h.vec.n,
    vfbthr := h.vec.vfbthr, ga := h.getG a, gb := h.getG b, gc := h.getG c, gd := h.getG d, checked := false,
    xl := [], loop := none, regs := [] }
/-- The front end queues an entry and moves past it; the entry carries vstart, which is 0 after it. -/
def Hart.push (h : Hart) (e : QEntry) : Hart :=
  { h.updVec (fun v => { v with queue := v.queue ++ [e], vstart := 0 }) with pc := h.pc + 8, status := .running }
/-- A vector hart queues an entry, where there is room. -/
def queueUp (s : State) (e : QEntry) : Out :=
  if 16 ≤ s.me.vec.queue.length then .next s.waitMe else (s.setMe (s.me.push e)).settleQueue s.cur
/-- A vector instruction: only vector harts have it (R158). -/
def vecIssue (i : Instr) (a b c d : Reg) (s : State) : Out :=
  onAgents true false false s (queueUp s (entryOf i a b c d s.me s.ir))
/-- A format-X instruction of vector harts and sequencers (R257). -/
def xIssue (i : Instr) (x : XArgs) (f : Nat → XArgs → XOps → Hart → State → Issue) (s : State) : Out :=
  onAgents true true false s (
    if kindOf s.cur = .vector then queueUp s (entryOf i x.a x.b x.c x.d s.me s.ir) else issueNow x s f)
/-- The hart after its front end has queued a LOOPB whose words it has read, and has moved past its body (R79, R257, R272). -/
def Hart.pushLoop (h : Hart) (x : XArgs) (ir : Word) (ws : List Word) : Hart :=
  { ({ h with loopPos := none } : Hart).push { entryOf (.loopb x) 0 0 0 0 h ir with
      loop := some { h.loopPos.getD ⟨0, 0, []⟩ with body := ws }, regs := h.g } with
    pc := h.pc + word (8 * (x.fn.toNat + 2)) }
/-- LOOPB on a vector hart (R79, R257, R272): the front end reads the body and queues it with the g registers as they are; a body
statement that names a register which a queued instruction writes makes it wait (R194). -/
def queueLoopb (x : XArgs) (s : State) : Out :=
  if 16 ≤ s.me.vec.queue.length then .next s.waitMe
  else onOk s (s.loopWords s.cur s.cur s.ir s.me.pc (s.me.loopPos.getD ⟨0, 0, []⟩) (x.fn.toNat + 1)) fun ws =>
    if (ws.drop 1).any fun w => match decodeOne w with | .ok i => s.gPending s.cur i | .error _ => false then .next s.waitMe
    else (s.setMe (s.me.pushLoop x s.ir ws)).settleQueue s.cur
/-- LOOPB (R272): in the sequencer's program order, or from the vector queue. -/
def execLoopb (x : XArgs) (s : State) : Out :=
  onAgents true true false s (if kindOf s.cur = .vector then queueLoopb x s else seqLoopb x s)
/-- A format-X instruction of sequencers (R257, R258). -/
def mxIssue (x : XArgs) (f : Nat → XArgs → XOps → Hart → State → Issue) (s : State) : Out :=
  onAgents false true false s (issueNow x s f)

/-! ## Configuration (R202 to R205, R81, R323) -/

/-- VCONF (R202): the front end writes g[d] at once, and what it queues later carries the new N and vb; the entry clears the
registers in queue order. -/
def execVconf (x : GArgs) (s : State) : Out :=
  let h := s.me
  let n := x.n.toNat
  onAgents true false false s (
    if 16 ≤ h.vec.queue.length then .next s.waitMe
    else (s.setMe (((h.push { entryOf (.vconf x) 0 0 0 0 h s.ir with gb := h.getG x.d }).updVec fun v => { v with n := n, vb := 0 }).setG x.d
      (word (vbmax h.share n)))).settleQueue s.cur)

/-- The VSETB with which a Shutter victim passes its lanes has issued and stands in its queue (R323 step 3). -/
def Hart.taking (h : Hart) : Bool :=
  h.vec.queue.any fun q => match q.ins with | .vsetb _ => q.gc == 2 | .vsete _ => q.gc == 2 && q.ef != 16 | _ => false
/-- CEIL of the hart's record (R60). -/
def State.ceilOf (s : State) (hid : Nat) : Nat := match s.myRec hid with | some r => r.sr.ceil | none => 0
/-- VSETB and VSETE at the front end (R203, R204): the grant for a request, written to vb and, as `show` gives it, to g[d];
the entry lowers the fills in queue order, and there a Shutter victim passes its lanes (R81, R323); a context that was taken
before its VSETB does so where it is restored (R325). -/
def grantIssue (i : Instr) (x : VArgs) (request : Nat) (shown : Nat → Nat) (s : State) : Out :=
  let h := s.me
  let take := h.vec.victim && (!h.vec.passed || h.vec.taken) && !h.taking
  if 16 ≤ h.vec.queue.length then .next s.waitMe
  else
    let g := grantOf h (s.ceilOf s.cur) request
    let e := { entryOf i x.a 0 0 0 h s.ir with gb := h.getG x.d, gd := word g.1, gc := if take then 2 else if g.2 then 1 else 0 }
    (s.setMe (((h.push e).updVec fun v => { v with vb := g.1 }).setG x.d (word (shown g.1)))).settleQueue s.cur
/-- VSETB (R203). -/
def execVsetb (x : VArgs) (s : State) : Out :=
  onAgents true false false s (grantIssue (.vsetb x) x (s.me.getG x.a).toNat id s)
/-- VSETE (R204): under the coded format it is queued and raises the illegal-instruction trap there. -/
def execVsete (x : VArgs) (s : State) : Out :=
  let ef := vtEF s.me.vtype
  let blk := blockLen (vtBLK s.me.vtype)
  onAgents true false false s (
    if ef = 16 then queueUp s (entryOf (.vsete x) x.a 0 0 0 s.me s.ir)
    else grantIssue (.vsete x) x (min (s.me.getG x.a).toNat (2 ^ 52) * efWidth ef)
      (fun t => if ef = 14 then t / (4 * blk) * blk else t / efWidth ef) s)

/-! ## The instructions -/

/-- VSETF. -/
def execVsetf (x : VArgs) (s : State) : Out := vecIssue (.vsetf x) x.a x.b x.c x.d s
/-- VADD. -/
def execVadd (x : VArgs) (s : State) : Out := vecIssue (.vadd x) x.a x.b x.c x.d s
/-- VSUB. -/
def execVsub (x : VArgs) (s : State) : Out := vecIssue (.vsub x) x.a x.b x.c x.d s
/-- VMUL. -/
def execVmul (x : VArgs) (s : State) : Out := vecIssue (.vmul x) x.a x.b x.c x.d s
/-- VMULH. -/
def execVmulh (x : VArgs) (s : State) : Out := vecIssue (.vmulh x) x.a x.b x.c x.d s
/-- VMULHU. -/
def execVmulhu (x : VArgs) (s : State) : Out := vecIssue (.vmulhu x) x.a x.b x.c x.d s
/-- VMIN. -/
def execVmin (x : VArgs) (s : State) : Out := vecIssue (.vmin x) x.a x.b x.c x.d s
/-- VMAX. -/
def execVmax (x : VArgs) (s : State) : Out := vecIssue (.vmax x) x.a x.b x.c x.d s
/-- VMINU. -/
def execVminu (x : VArgs) (s : State) : Out := vecIssue (.vminu x) x.a x.b x.c x.d s
/-- VMAXU. -/
def execVmaxu (x : VArgs) (s : State) : Out := vecIssue (.vmaxu x) x.a x.b x.c x.d s
/-- VAND. -/
def execVand (x : VArgs) (s : State) : Out := vecIssue (.vand x) x.a x.b x.c x.d s
/-- VOR. -/
def execVor (x : VArgs) (s : State) : Out := vecIssue (.vor x) x.a x.b x.c x.d s
/-- VXOR. -/
def execVxor (x : VArgs) (s : State) : Out := vecIssue (.vxor x) x.a x.b x.c x.d s
/-- VSLL. -/
def execVsll (x : VArgs) (s : State) : Out := vecIssue (.vsll x) x.a x.b x.c x.d s
/-- VSRL. -/
def execVsrl (x : VArgs) (s : State) : Out := vecIssue (.vsrl x) x.a x.b x.c x.d s
/-- VSRA. -/
def execVsra (x : VArgs) (s : State) : Out := vecIssue (.vsra x) x.a x.b x.c x.d s
/-- VSADD. -/
def execVsadd (x : VArgs) (s : State) : Out := vecIssue (.vsadd x) x.a x.b x.c x.d s
/-- VSSUB. -/
def execVssub (x : VArgs) (s : State) : Out := vecIssue (.vssub x) x.a x.b x.c x.d s
/-- VSADDU. -/
def execVsaddu (x : VArgs) (s : State) : Out := vecIssue (.vsaddu x) x.a x.b x.c x.d s
/-- VSSUBU. -/
def execVssubu (x : VArgs) (s : State) : Out := vecIssue (.vssubu x) x.a x.b x.c x.d s
/-- VMADD. -/
def execVmadd (x : VArgs) (s : State) : Out := vecIssue (.vmadd x) x.a x.b x.c x.d s
/-- VMV. -/
def execVmv (x : VArgs) (s : State) : Out := vecIssue (.vmv x) x.a x.b x.c x.d s
/-- VFADD. -/
def execVfadd (x : VArgs) (s : State) : Out := vecIssue (.vfadd x) x.a x.b x.c x.d s
/-- VFSUB. -/
def execVfsub (x : VArgs) (s : State) : Out := vecIssue (.vfsub x) x.a x.b x.c x.d s
/-- VFMUL. -/
def execVfmul (x : VArgs) (s : State) : Out := vecIssue (.vfmul x) x.a x.b x.c x.d s
/-- VFDIV. -/
def execVfdiv (x : VArgs) (s : State) : Out := vecIssue (.vfdiv x) x.a x.b x.c x.d s
/-- VFSQRT. -/
def execVfsqrt (x : VArgs) (s : State) : Out := vecIssue (.vfsqrt x) x.a x.b x.c x.d s
/-- VFMIN. -/
def execVfmin (x : VArgs) (s : State) : Out := vecIssue (.vfmin x) x.a x.b x.c x.d s
/-- VFMAX. -/
def execVfmax (x : VArgs) (s : State) : Out := vecIssue (.vfmax x) x.a x.b x.c x.d s
/-- VFMA. -/
def execVfma (x : VArgs) (s : State) : Out := vecIssue (.vfma x) x.a x.b x.c x.d s
/-- VFMS. -/
def execVfms (x : VArgs) (s : State) : Out := vecIssue (.vfms x) x.a x.b x.c x.d s
/-- VFNMA. -/
def execVfnma (x : VArgs) (s : State) : Out := vecIssue (.vfnma x) x.a x.b x.c x.d s
/-- VFABS. -/
def execVfabs (x : VArgs) (s : State) : Out := vecIssue (.vfabs x) x.a x.b x.c x.d s
/-- VFNEG. -/
def execVfneg (x : VArgs) (s : State) : Out := vecIssue (.vfneg x) x.a x.b x.c x.d s
/-- VFEXP2. -/
def execVfexp2 (x : VArgs) (s : State) : Out := vecIssue (.vfexp2 x) x.a x.b x.c x.d s
/-- VFLOG2. -/
def execVflog2 (x : VArgs) (s : State) : Out := vecIssue (.vflog2 x) x.a x.b x.c x.d s
/-- VRSQE. -/
def execVrsqe (x : VArgs) (s : State) : Out := vecIssue (.vrsqe x) x.a x.b x.c x.d s
/-- VCEQ. -/
def execVceq (x : VArgs) (s : State) : Out := vecIssue (.vceq x) x.a x.b x.c x.d s
/-- VCNE. -/
def execVcne (x : VArgs) (s : State) : Out := vecIssue (.vcne x) x.a x.b x.c x.d s
/-- VCLT. -/
def execVclt (x : VArgs) (s : State) : Out := vecIssue (.vclt x) x.a x.b x.c x.d s
/-- VCLE. -/
def execVcle (x : VArgs) (s : State) : Out := vecIssue (.vcle x) x.a x.b x.c x.d s
/-- VCLTU. -/
def execVcltu (x : VArgs) (s : State) : Out := vecIssue (.vcltu x) x.a x.b x.c x.d s
/-- VCLEU. -/
def execVcleu (x : VArgs) (s : State) : Out := vecIssue (.vcleu x) x.a x.b x.c x.d s
/-- VFCEQ. -/
def execVfceq (x : VArgs) (s : State) : Out := vecIssue (.vfceq x) x.a x.b x.c x.d s
/-- VFCLT. -/
def execVfclt (x : VArgs) (s : State) : Out := vecIssue (.vfclt x) x.a x.b x.c x.d s
/-- VFCLE. -/
def execVfcle (x : VArgs) (s : State) : Out := vecIssue (.vfcle x) x.a x.b x.c x.d s
/-- VFCUN. -/
def execVfcun (x : VArgs) (s : State) : Out := vecIssue (.vfcun x) x.a x.b x.c x.d s
/-- CVT. -/
def execCvt (x : VArgs) (s : State) : Out := vecIssue (.cvt x) x.a x.b x.c x.d s
/-- CVT_SR. -/
def execCvtSr (x : VArgs) (s : State) : Out := vecIssue (.cvtSr x) x.a x.b x.c x.d s
/-- VQMX. -/
def execVqmx (x : VArgs) (s : State) : Out := vecIssue (.vqmx x) x.a x.b x.c x.d s
/-- VDQMX. -/
def execVdqmx (x : VArgs) (s : State) : Out := vecIssue (.vdqmx x) x.a x.b x.c x.d s
/-- VEXPAND4. -/
def execVexpand4 (x : VArgs) (s : State) : Out := vecIssue (.vexpand4 x) x.a x.b x.c x.d s
/-- VEXPAND6. -/
def execVexpand6 (x : VArgs) (s : State) : Out := vecIssue (.vexpand6 x) x.a x.b x.c x.d s
/-- VRNG. -/
def execVrng (x : VArgs) (s : State) : Out := vecIssue (.vrng x) x.a x.b x.c x.d s
/-- VCLASS. -/
def execVclass (x : VArgs) (s : State) : Out := vecIssue (.vclass x) x.a x.b x.c x.d s
/-- VSLUP. -/
def execVslup (x : VArgs) (s : State) : Out := vecIssue (.vslup x) x.a x.b x.c x.d s
/-- VSLDN. -/
def execVsldn (x : VArgs) (s : State) : Out := vecIssue (.vsldn x) x.a x.b x.c x.d s
/-- VBCAST. -/
def execVbcast (x : VArgs) (s : State) : Out := vecIssue (.vbcast x) x.a x.b x.c x.d s
/-- VPERM. -/
def execVperm (x : VArgs) (s : State) : Out := vecIssue (.vperm x) x.a x.b x.c x.d s
/-- VCOMPRESS. -/
def execVcompress (x : VArgs) (s : State) : Out := vecIssue (.vcompress x) x.a x.b x.c x.d s
/-- VXPAND. -/
def execVxpand (x : VArgs) (s : State) : Out := vecIssue (.vxpand x) x.a x.b x.c x.d s
/-- VTRANS. -/
def execVtrans (x : VArgs) (s : State) : Out := vecIssue (.vtrans x) x.a x.b x.c x.d s
/-- VZIP. -/
def execVzip (x : VArgs) (s : State) : Out := vecIssue (.vzip x) x.a x.b x.c x.d s
/-- VUNZIP. -/
def execVunzip (x : VArgs) (s : State) : Out := vecIssue (.vunzip x) x.a x.b x.c x.d s
/-- VXCH. -/
def execVxch (x : VArgs) (s : State) : Out := vecIssue (.vxch x) x.a x.b x.c x.d s
/-- VMAND. -/
def execVmand (x : VArgs) (s : State) : Out := vecIssue (.vmand x) x.a x.b x.c x.d s
/-- VMOR. -/
def execVmor (x : VArgs) (s : State) : Out := vecIssue (.vmor x) x.a x.b x.c x.d s
/-- VMXOR. -/
def execVmxor (x : VArgs) (s : State) : Out := vecIssue (.vmxor x) x.a x.b x.c x.d s
/-- VMANDN. -/
def execVmandn (x : VArgs) (s : State) : Out := vecIssue (.vmandn x) x.a x.b x.c x.d s
/-- VMNOT. -/
def execVmnot (x : VArgs) (s : State) : Out := vecIssue (.vmnot x) x.a x.b x.c x.d s
/-- VMPOPC. -/
def execVmpopc (x : VArgs) (s : State) : Out := vecIssue (.vmpopc x) x.a x.b x.c x.d s
/-- VMFIRST. -/
def execVmfirst (x : VArgs) (s : State) : Out := vecIssue (.vmfirst x) x.a x.b x.c x.d s
/-- VMSET. -/
def execVmset (x : VArgs) (s : State) : Out := vecIssue (.vmset x) x.a x.b x.c x.d s
/-- VREDSUM. -/
def execVredsum (x : VArgs) (s : State) : Out := vecIssue (.vredsum x) x.a x.b x.c x.d s
/-- VFREDSUM. -/
def execVfredsum (x : VArgs) (s : State) : Out := vecIssue (.vfredsum x) x.a x.b x.c x.d s
/-- VREDMIN. -/
def execVredmin (x : VArgs) (s : State) : Out := vecIssue (.vredmin x) x.a x.b x.c x.d s
/-- VREDMAX. -/
def execVredmax (x : VArgs) (s : State) : Out := vecIssue (.vredmax x) x.a x.b x.c x.d s
/-- VSCAN. -/
def execVscan (x : VArgs) (s : State) : Out := vecIssue (.vscan x) x.a x.b x.c x.d s
/-- VFSCAN. -/
def execVfscan (x : VArgs) (s : State) : Out := vecIssue (.vfscan x) x.a x.b x.c x.d s
/-- VLD. -/
def execVld (x : MArgs) (s : State) : Out := vecIssue (.vld x) x.a x.b 0 x.d s
/-- VLDS. -/
def execVlds (x : MArgs) (s : State) : Out := vecIssue (.vlds x) x.a x.b 0 x.d s
/-- VLDX. -/
def execVldx (x : MArgs) (s : State) : Out := vecIssue (.vldx x) x.a x.b 0 x.d s
/-- VST. -/
def execVst (x : MArgs) (s : State) : Out := vecIssue (.vst x) x.a x.b 0 x.d s
/-- VSTS. -/
def execVsts (x : MArgs) (s : State) : Out := vecIssue (.vsts x) x.a x.b 0 x.d s
/-- VSTX. -/
def execVstx (x : MArgs) (s : State) : Out := vecIssue (.vstx x) x.a x.b 0 x.d s
/-- VSTXA. -/
def execVstxa (x : MArgs) (s : State) : Out := vecIssue (.vstxa x) x.a x.b 0 x.d s
/-- VLDSP. -/
def execVldsp (x : SArgs) (s : State) : Out := vecIssue (.vldsp x) x.a x.b 0 x.d s
/-- VSTSP. -/
def execVstsp (x : SArgs) (s : State) : Out := vecIssue (.vstsp x) x.a x.b 0 x.d s
/-- VCONFL. -/
def execVconfl (x : VArgs) (s : State) : Out := vecIssue (.vconfl x) x.a x.b x.c x.d s
/-- VLD_RD. -/
def execVldRd (x : MArgs) (s : State) : Out := vecIssue (.vldRd x) x.a x.b 0 x.d s
/-- VST_RC. -/
def execVstRc (x : MArgs) (s : State) : Out := vecIssue (.vstRc x) x.a x.b 0 x.d s
/-- VLDSP_RD. -/
def execVldspRd (x : SArgs) (s : State) : Out := vecIssue (.vldspRd x) x.a x.b 0 x.d s
/-- VSTSP_RC. -/
def execVstspRc (x : SArgs) (s : State) : Out := vecIssue (.vstspRc x) x.a x.b 0 x.d s
/-- VLDX_RD. -/
def execVldxRd (x : MArgs) (s : State) : Out := vecIssue (.vldxRd x) x.a x.b 0 x.d s
/-- VFENCE. -/
def execVfence (x : MArgs) (s : State) : Out := vecIssue (.vfence x) x.a x.b 0 x.d s
/-- VCLD. -/
def execVcld (x : MArgs) (s : State) : Out := vecIssue (.vcld x) x.a x.b 0 x.d s
/-- VCST. -/
def execVcst (x : MArgs) (s : State) : Out := vecIssue (.vcst x) x.a x.b 0 x.d s
/-- VCPOS. -/
def execVcpos (x : VArgs) (s : State) : Out := vecIssue (.vcpos x) x.a x.b x.c x.d s
/-- VCLEN. -/
def execVclen (x : VArgs) (s : State) : Out := vecIssue (.vclen x) x.a x.b x.c x.d s
/-- VCDEC. -/
def execVcdec (x : VArgs) (s : State) : Out := vecIssue (.vcdec x) x.a x.b x.c x.d s
/-- VCENC. -/
def execVcenc (x : VArgs) (s : State) : Out := vecIssue (.vcenc x) x.a x.b x.c x.d s
/-- VCADD. -/
def execVcadd (x : VArgs) (s : State) : Out := vecIssue (.vcadd x) x.a x.b x.c x.d s
/-- VCSUB. -/
def execVcsub (x : VArgs) (s : State) : Out := vecIssue (.vcsub x) x.a x.b x.c x.d s
/-- VCSKIP. -/
def execVcskip (x : VArgs) (s : State) : Out := vecIssue (.vcskip x) x.a x.b x.c x.d s
/-- VCCAT. -/
def execVccat (x : VArgs) (s : State) : Out := vecIssue (.vccat x) x.a x.b x.c x.d s
/-- GDESC. -/
def execGdesc (x : MArgs) (s : State) : Out := vecIssue (.gdesc x) x.a x.b 0 x.d s
/-- GLOAD. -/
def execGload (x : VArgs) (s : State) : Out := vecIssue (.gload x) x.a x.b x.c x.d s
/-- GSCAT. -/
def execGscat (x : VArgs) (s : State) : Out := vecIssue (.gscat x) x.a x.b x.c x.d s
/-- MCFG. -/
def execMcfg (x : XArgs) (s : State) : Out := mxIssue x issueMcfg s
/-- MSETTL. -/
def execMsettl (x : XArgs) (s : State) : Out := mxIssue x issueMsettl s
/-- MLDA. -/
def execMlda (x : XArgs) (s : State) : Out := mxIssue x issueMlda s
/-- MLDB. -/
def execMldb (x : XArgs) (s : State) : Out := mxIssue x issueMldb s
/-- MMA. -/
def execMma (x : XArgs) (s : State) : Out := mxIssue x issueMma s
/-- MOPA. -/
def execMopa (x : XArgs) (s : State) : Out := mxIssue x issueMopa s
/-- MZERO. -/
def execMzero (x : XArgs) (s : State) : Out := mxIssue x issueMzero s
/-- MLD. -/
def execMld (x : XArgs) (s : State) : Out := mxIssue x issueMld s
/-- MST. -/
def execMst (x : XArgs) (s : State) : Out := mxIssue x issueMst s
/-- CPYIN. -/
def execCpyin (x : XArgs) (s : State) : Out := xIssue (.cpyin x) x issueCpyin s
/-- CPYOUT. -/
def execCpyout (x : XArgs) (s : State) : Out := xIssue (.cpyout x) x issueCpyout s
/-- NEST. -/
def execNest (x : XArgs) (s : State) : Out := xIssue (.nest x) x issueNest s
/-- SCANK. -/
def execScank (x : XArgs) (s : State) : Out := xIssue (.scank x) x issueScank s
/-- PFTIER. -/
def execPftier (x : XArgs) (s : State) : Out := xIssue (.pftier x) x issuePftier s
/-- EVTIER. -/
def execEvtier (x : XArgs) (s : State) : Out := xIssue (.evtier x) x issueEvtier s
/-- TOKPOST. -/
def execTokpost (x : XArgs) (s : State) : Out := xIssue (.tokpost x) x issueTokpost s
/-- TOKWAIT. -/
def execTokwait (x : XArgs) (s : State) : Out := xIssue (.tokwait x) x issueTokwait s

/-- VECTOR_INSTRUCTION_COMPLETE (R79): the head of a slot's queue completes, where it can. -/
def execVectorInstructionComplete (hid : Nat) (s : State) : Out := (s.queueStep hid).getD (.next s)
/-- MATRIX_COMMAND_COMPLETE (R257): the head of a cluster's matrix queue completes, where it can. -/
def execMatrixCommandComplete (cl : Nat) (s : State) : Out := .next ((s.matrixStep cl).getD s)
/-- COPY_COMPLETE (R271): a copy command completes, where it can. -/
def execCopyComplete (id : Nat) (s : State) : Out := .next ((s.copyStep id).getD s)
/-- SCAN_SEGMENT_WRITTEN (R107, R273): a channel writes its segment, where it can. -/
def execScanSegmentWritten (id ch : Nat) (s : State) : Out := .next ((s.scanStep id ch).getD s)
/-- TIER_GRANULE_REPORT (R274): the next granule of a tier command reports, where it can. -/
def execTierGranuleReport (id : Nat) (s : State) : Out := .next ((s.tierStep id).getD s)

end Sys2Proof.Machine
end

