-- ==== Sys2Proof/Machine/Sched.lean ====
section
/-! DEFINITION. Stops, the Shutter's events, and the end of records as events (spec/04 R65, R80, spec/06 R123, R128, spec/19
R323, R325, spec/21 R345 to R351). -/

namespace Sys2Proof.Machine

/-! ## Stops (R345, R347, R349) -/

/-- An iteration of a LOOPB has begun, in the front end of a sequencer or at the head of a vector queue (R272). -/
def Hart.midTurn (h : Hart) : Bool :=
  h.loopPos.any (fun p => p.k != 0) || (match h.vec.queue with | q :: _ => q.pos.k != 0 | [] => false)
/-- The hart may be taken now: no admitted item (R322), no iteration of a LOOPB begun (R272), no EFENCE that has popped. -/
def State.takeable (s : State) (hid : Nat) : Bool :=
  let h := s.hart hid
  (s.myLhart hid).adm != .admitted && !h.midTurn && !(h.vec.popped && h.vec.queue.isEmpty)
/-- A hart stops for preemption at an address, where it no longer waits for an access. -/
def State.stopFor (s : State) (hid : Nat) (h : Hart) (vstart : Nat) (pc : Word) : State :=
  ((s.unrefuse hid).unrefuse (vectorUnit hid)).setHart hid (h.stopAt .preemption 0 vstart pc)
/-- Preemption (R345): the front end has stopped; queued instructions complete, but for one that waits for a token, at
which the hart stops. -/
def State.preempted (s : State) (hid : Nat) : State :=
  let h := s.hart hid
  let live := h.status == .running || h.status == .waiting || h.status == .parked
  if !live || !h.preempt || !s.takeable hid then s
  else if h.vec.queue.isEmpty then
    -- a parked victim has no lanes to give up (R324)
    s.stopFor hid (if h.status = .parked then h.updVec fun v => { v with passed := true } else h) h.vec.vstart h.pc
  else match s.headWaits hid with
    | some q => s.stopFor hid (h.unwind q) q.vstart q.pc
    | none => s
/-- HART_STOP (R345, R347, R349): a hart that is to stop stops, and a stopped hart is saved. A victim that gave up its lanes
passes them (R325). -/
def State.hartStop (s : State) (hid : Nat) : Out :=
  andThen ((s.preempted hid).saveHart hid) fun t =>
    .next (if t.eager && kindOf hid == .vector then t.lanesPass (coreOf hid) else t)

/-! ## The events of the table -/

/-- WAVE_FORM (R74). -/
def execWaveForm (p launch : Nat) (s : State) : Out := .next (s.tryWave p launch)
/-- RECORD_SELECT (R319). -/
def execRecordSelect (p : Nat) (s : State) : Out := .next (s.selectRec p)
/-- GROUP_MEMBERSHIP_TAKE (R63). -/
def execGroupMembershipTake (p : Nat) (s : State) : Out := .next (s.takeGroup p)
/-- PRIORITY_AGING (R319). -/
def execPriorityAging (p q : Nat) (s : State) : Out := .next (s.age p q)
/-- CLUSTER_GRANT (R321 to R323). -/
def execClusterGrant (p : Nat) (s : State) : Out := .next (s.clusterGrant p)
/-- SHUTTER_LANES_PASS (R323 step 4). -/
def execShutterLanesPass (core : Nat) (s : State) : Out := .next (s.lanesPass core)
/-- SHUTTER_WINDOW_EXPIRY (R325): a victim that has not passed its lanes is to be switched out; the window does not run for
one whose item a wave has admitted (R328). -/
def execShutterWindowExpiry (hid : Nat) (s : State) : Out :=
  let v := (s.hart hid).vec
  .next (if v.victim && !v.passed && !(s.hart hid).taking && (s.myLhart hid).adm != .admitted then
      s.updHart hid fun h => { h.updVec (fun v => { v with expired := true }) with preempt := true } else s)
/-- LANES_RELEASE (R80): an ended hart whose queue is empty leaves its slot's tail, and its record may complete. -/
def execLanesRelease (hid : Nat) (s : State) : Out :=
  .next (match assocGet [] s.tails hid with
    | h :: r => if h.vec.queue.isEmpty && h.mx.queue.isEmpty then s.tailDone hid h r else s
    | [] => s)
/-- RECORD_COMPLETE (R65). -/
def execRecordComplete (p launch : Nat) (s : State) : Out := .next (s.tryComplete p launch)
/-- DRAIN_ROUND (R128): the next round drains; a refusal that keeps it from draining is recorded (R122). -/
def execDrainRound (p launch : Nat) (s : State) : Out :=
  .next (match s.drainRound p launch with
    | some t => t.groupsCheck p
    | none => s.roundRefused p launch)
/-- PIN_WIDEN (R123): the pin of a line that has refused an access ends. -/
def execPinWiden (line : Nat) (s : State) : Out := .next (s.endPins fun p => p.line == line && !p.refused.isEmpty)
/-- HART_STOP (R349). -/
def execHartStop (hid : Nat) (s : State) : Out := s.hartStop hid
/-- The cause of a code (R343); a translation fault carries the reason. -/
def causeOf (code reason : Nat) : Cause :=
  match code with
  | 2 => .mustUnderstand
  | 3 => .privilege
  | 4 => .misaligned
  | 5 => .translation reason
  | 6 => .pageClass
  | 7 => .access
  | 8 => .overrun
  | 9 => .claim
  | 10 => .gridDescriptor
  | 11 => .engine
  | 12 => .systemCall
  | 13 => .breakpoint
  | 14 => .preemption
  | 15 => .memory
  | 16 => .restore
  | _ => .illegal
/-- TRAP_ENTRY (R305): application core hid takes a trap of a cause; other agents stop instead and have no such event. -/
def execTrapEntry (hid cause : Nat) (tval : Word) (s : State) : Out :=
  .next (if kindOf hid = .app then
      (s.dropPins hid).updHart hid fun h => h.enter false (causeOf cause 0).code tval (if cause = 12 then h.pc + 8 else h.pc)
    else s)
/-- The lowest pending interrupt of a core (R305). -/
def lowestPending (n : Nat) : Option Nat := (List.range 64).find? fun c => nbit n c
/-- An interrupt may be taken: IE, and one is pending (R305). -/
def Hart.interruptible (h : Hart) : Bool := h.app.xstatus.getLsbD 2 && h.app.pending != 0
/-- XWAIT completes (R316). -/
def Hart.endXwait (h : Hart) : Hart := if h.app.xwait then (h.updApp fun a => { a with xwait := false }).retire 8 else h
/-- An application core takes its lowest pending interrupt, which is pending no more (R305); one that waits in XWAIT
completes that first (R316). -/
def Hart.takeInterrupt (h : Hart) : Hart :=
  match lowestPending h.app.pending with
  | some c => (h.endXwait.updApp fun a => { a with pending := setNBit a.pending c false }).enter true c 0 h.endXwait.pc
  | none => h
/-- INTERRUPT_ENTRY (R305). -/
def execInterruptEntry (hid : Nat) (s : State) : Out :=
  .next (if kindOf hid == .app && (s.hart hid).interruptible then s.updHart hid Hart.takeInterrupt else s)
/-- RELEASE (R351). -/
def execRelease (_ : Nat) (_ : Word) (target : Nat) (s : State) : Out := .next (s.release target).2
/-- RESUME (R351), where its area is open (R104). -/
def execResume (p : Nat) (area : Word) (target : Nat) (s : State) : Out :=
  let a := s.canon area.toNat
  .next (match s.deviceGate [(a, min (s.rd64 (a + 8)).toNat (2 ^ 20) + 0x10),
      (s.canon (s.asidtab.toNat + 16 * bitsOf (s.rd64 (a + 0x20)) 10 0), 16)] with
    | .ok _ => (s.resume p area target).2
    | .error _ => s)
/-- KILL (R351, R352). -/
def execKill (p : Nat) (area : Word) (_ : Nat) (s : State) : Out :=
  .next (match s.deviceGate [(s.canon area.toNat, 0x100)] with
    | .ok _ => (s.kill p area).2
    | .error _ => s)

end Sys2Proof.Machine
end

