-- ==== Sys2Proof/Machine/Events.lean ====
section
/-! DEFINITION. Events of memory, links, the fingerprint tree, the tracker, the host and reset (spec/05 R95, R101, spec/20 R335
to R341, spec/22 R355 to R364, spec/23 R365 to R374). -/

namespace Sys2Proof.Machine

/-! ## What comes from outside and what leaves (R356, R366, R368) -/

/-- READY of HSTAT. -/
def State.ready (s : State) : Bool := s.host.hstat.getLsbD 0
/-- The name of a source in the queues of refusals: a root port, the device links (8), or the host (9). -/
def sourceOf (src : Nat) : Nat := outsider + 1 + src
/-- A response leaves the device. -/
def State.respond (s : State) (pa : Nat) (data : List Byte) (kind : OutKind) : State :=
  { s with out := s.out ++ [⟨pa, data, kind⟩] }
/-- Window i admits a request of a source: ports 0 to 7, 8 the device links (R368). -/
def State.admitsInbound (s : State) (src a n i : Nat) : Bool :=
  let w (k : Nat) : Word := assocGet 0 s.host.inwin (3 * i + k)
  (w 2).getLsbD 63 && decide (src ≤ 8) && (w 2).getLsbD src
    && decide (bitsOf (w 0) 49 12 * 4096 ≤ a) && decide (a + n ≤ bitsOf (w 1) 49 12 * 4096 + 4096)
/-- A read from outside would perform now, as an access of the host or one that a window admits (R366, R368). -/
def State.readsNow (s : State) (src a n : Nat) : Bool :=
  s.ready && decide (a + n ≤ localEnd) && (src == 9 || (List.range 4).any (s.admitsInbound src a n))
    && !s.reqs.any (·.src == src) && match s.gate (sourceOf src) a n with | .ok _ => true | .error _ => false

/-! ## Errors that the hardware finds (R355, R356, R361) -/

/-- The ASID field of an error record that strikes no context (R359). -/
def noAsid : Nat := 0x7FF
/-- The unit of an error record for the host die (R359). -/
def hostDie : Nat := 1023
/-- The unit of an error in a structure of an agent: its cluster, or the host die. -/
def unitOf (hid : Nat) : Nat := if hid < appBase then clusterOf hid else hostDie
/-- The unit of a cache by its number: that of its cluster, or the host die. -/
def cacheUnit (cache : Nat) : Nat := if cache < 640 then cache / 4 else if cache < 800 then cache - 640 else hostDie
/-- The place of an error that lies at no physical line: R359 states none, so the value is free (log 34). -/
def State.freePlace (s : State) : Nat := (Config.freeTval s.tick).toNat
/-- A line becomes poisoned by an uncorrectable error, once (R356): the state, and the event, which names the ASID struck. -/
def State.poisonLine (s : State) (line kind unit asid : Nat) : State × List ErrEv :=
  if localEnd / 128 ≤ line ∨ s.poisoned line then (s, [])
  else ({ s with poison := assocPut false s.poison line true }, [⟨kind, unit, asid, 128 * line⟩])
/-- A scratchpad block becomes poisoned, once. -/
def State.poisonBlock (s : State) (c blk kind asid : Nat) : State × List ErrEv :=
  if 160 ≤ c ∨ spadSize / 128 ≤ blk ∨ assocGet false s.spoison (blockKey c blk) then (s, [])
  else ({ s with spoison := assocPut false s.spoison (blockKey c blk) true }, [⟨kind, c, asid, s.freePlace⟩])
/-- The lanes of a hart of a core, the first and how many: those of its slot (R8), also of a victim whose lanes have not passed
(R323 step 2), and none of one that has parked (R324) or of a guest that still waits; then, those of the victims below those of
the guests, each in slot order (R323, log 34). -/
def State.lanesAt (s : State) (hid : Nat) (h : Hart) : Nat × Nat :=
  if h.status = .parked ∨ h.vec.vwait then (0, 0)
  else match h.vec.lanes with
    | none => slotLanes hid h.share
    | some n =>
      if !h.vec.guest && !h.vec.passed then slotLanes hid h.share
      else
        let i := (s.coreHarts (coreOf hid) fun k => k.vec.lanes.isSome && k.vec.guest == h.vec.guest).findIdx (· == hid)
        ((if h.vec.guest then 16 else 0) + n * i, n)
/-- A lane lies among some. -/
def laneIn (lane : Nat) (r : Nat × Nat) : Bool := decide (r.1 ≤ lane) && decide (lane < r.1 + r.2)
/-- The harts of a core that own a lane (R355): lane 32, the Mullion lane, belongs to none. -/
def State.laneOwners (s : State) (core lane : Nat) : List Nat :=
  (s.coreHarts core fun h => h.status != .held).filter fun hid => laneIn lane (s.lanesAt hid (s.hart hid))
/-- The ended harts of a core whose queued instructions still run on a lane (R80), each with its slot. -/
def State.tailOwners (s : State) (core lane : Nat) : List (Nat × Hart) :=
  (s.tails.filter fun e => coreOf e.1 == core).flatMap fun e =>
    (e.2.filter fun h => laneIn lane (s.lanesAt e.1 h)).map fun h => (e.1, h)
/-- A hart without the work of its queues. -/
def Hart.dropWork (h : Hart) : Hart := h.dropQueue.updMx fun m => { m with queue := [] }
/-- A context-fatal error strikes an ended hart whose queue still runs (R80, R343, R352). -/
def State.strikeTail (s : State) (x : Nat × Hart) (tval : Word) : State :=
  ({ s with tails := s.tails.map fun e => if e.1 = x.1 then (e.1, e.2.map fun h => if h = x.2 then h.dropWork else h) else e } : State).endOwner
    x.1 x.2 tval x.2.vec.vstart
/-- The slot in whose tail the work of a logical hart still runs, and that hart (R80). -/
def State.tailOf (s : State) (p launch l : Nat) : Option (Nat × Hart) :=
  s.tails.findSome? fun e => (e.2.find? (·.isEnded p launch l)).map fun h => (e.1, h)
/-- An error strikes a logical hart: where it is placed, or, where it has ended or is suspended, through the access of its queue or
of its held entries (R80, R127). Without such an access, or once its record has gone, nothing is struck. -/
def State.strikeLogical (s : State) (p launch l : Nat) (tval : Word) : State :=
  match s.recOf p launch, s.tailOf p launch l with
  | none, _ => s
  | some _, some x => s.strikeTail x tval
  | some r, none => match (r.lhart l).place.hart with
    | some hid => if (s.hart hid).status != .free && (s.hart hid).isEnded p launch l then s.strike hid tval else s
    | none =>
      if r.ending.isSome || (r.lhart l).held.isEmpty then s
      else s.endRecord r (some (fatalTrap 0x1FFF r.sr.asid launch .memory tval 0))
/-- An error strikes the context whose access met it (R343, R352): an agent that is placed, the owner of a command, or a logical
hart. -/
def State.strikeWho (s : State) (who : Struck) (tval : Word) : State :=
  match who with
  | .agent hid =>
    if kindOf hid = .none ∨ (s.hart hid).status = .free ∨ (s.hart hid).status = .held then s else s.strike hid tval
  | .command id => match s.cmdOf id with
    | some c => s.strikeCmd c tval
    | none => s
  | .logical p launch l => s.strikeLogical p launch l tval
/-- The ASID of a context that an error strikes. -/
def State.asidStruck (s : State) (who : Struck) : Nat :=
  match who with
  | .agent hid => s.asidOf hid
  | .command id => match s.cmdOf id with | some c => c.asid | none => noAsid
  | .logical p launch _ => match s.recOf p launch with | some r => r.sr.asid | none => noAsid
/-- The ASID that an error record names for the access that found the error; without one, none. -/
def State.asidOfFinder (s : State) (finder : Option Struck) : Nat := match finder with | some w => s.asidStruck w | none => noAsid
/-- The physical page of an address (R343). -/
def pageOf (pa : Nat) : Word := word (pa / 65536 * 65536)
/-- An uncorrectable error in an accumulator position (R355). -/
def Mx.spoilAcc (m : Mx) (a pos : Nat) : Mx :=
  let r := assocGet (⟨false, [], []⟩ : AccReg) m.acc a
  if r.bad.contains pos then m else { m with acc := assocSet m.acc a { r with bad := r.bad ++ [pos] } }
/-- An uncorrectable error in a latch (R355). -/
def Mx.spoilLatch (m : Mx) (isB : Bool) : Mx :=
  let bad (l : Option Latch) : Option Latch := l.map fun x => { x with bad := true }
  if isB then { m with lb := bad m.lb } else { m with la := bad m.la }
/-- One error that the hardware finds: the state after it, and its event if it has one (R355, R356, R358, R361). -/
def State.upset (s : State) (u : Upset) : State × List ErrEv :=
  match u with
  | .line fixed line finder =>
    if fixed then (s, if localEnd / 128 ≤ line then [] else [⟨0, homeChannel line, noAsid, 128 * line⟩])
    else s.poisonLine line 1 (homeChannel line) (s.asidOfFinder finder)
  | .slice fixed line finder =>
    if fixed then (s, if localEnd / 128 ≤ line then [] else [⟨2, homeChannel line, noAsid, 128 * line⟩])
    else s.poisonLine line 3 (homeChannel line) (s.asidOfFinder finder)
  | .scalarL1 fixed hid line finder =>
    if fixed then (s, [⟨4, unitOf hid, noAsid, 128 * line⟩]) else s.poisonLine line 5 (unitOf hid) (s.asidOfFinder finder)
  | .block fixed c blk finder =>
    if fixed then (s, [⟨4, c, noAsid, s.freePlace⟩]) else s.poisonBlock c blk 5 (s.asidOfFinder finder)
  | .acc fixed c a pos finder =>
    if fixed then (s, [⟨4, c, noAsid, s.freePlace⟩])
    else if 160 ≤ c ∨ 8 ≤ a ∨ 16384 ≤ pos then (s, [])
    else (s.setEngineHart c ((s.engineHart c).updMx fun m => m.spoilAcc a pos), [⟨5, c, s.asidOfFinder finder, s.freePlace⟩])
  | .latch fixed c isB finder =>
    if fixed then (s, [⟨4, c, noAsid, s.freePlace⟩])
    else if 160 ≤ c then (s, [])
    else (s.setEngineHart c ((s.engineHart c).updMx fun m => m.spoilLatch isB), [⟨5, c, s.asidOfFinder finder, s.freePlace⟩])
  | .tlb fixed k => match s.tlb[k]? with
    | none => (s, [])
    | some e =>
      if fixed then (s, [⟨4, cacheUnit e.cache, noAsid, s.freePlace⟩])
      else ({ s with tlb := s.tlb.eraseIdx k }, [⟨5, cacheUnit e.cache, noAsid, s.freePlace⟩])
  | .lane core lane => (s, if core < 640 ∧ lane ≤ 32 then [⟨6, core / 4, noAsid, core * 64 + lane⟩] else [])
  | .lanes core l1 l2 =>
    if 640 ≤ core ∨ 32 < l1 ∨ 32 < l2 ∨ l1 = l2 then (s, [])
    else
      let hs := (s.laneOwners core l1 ++ s.laneOwners core l2).eraseDups
      let ts := (s.tailOwners core l1 ++ s.tailOwners core l2).eraseDups
      let s1 := hs.foldl (fun (s : State) h => s.strike h (Config.freeTval s.tick)) s
      (ts.foldl (fun (s : State) x => s.strikeTail x (Config.freeTval s.tick)) s1,
        [⟨7, core / 4, (hs.map s.asidOf ++ ts.map fun x => x.2.asid).headD noAsid, core * 64 + min l1 l2⟩])
  | .parity cache line =>
    if (s.icFind [cache] line).isSome then
      ({ s with icache := s.icache.filter fun e => !(e.cache == cache && e.line == line) },
        [⟨8, cacheUnit cache, noAsid, 128 * line⟩])
    else (s, [])
  | .retried unit place => (s, [⟨9, unit, noAsid, place⟩])
  | .badStore unit line finder =>
    (if region (128 * line) = .ours ∨ region (128 * line) = .peer then { s with poison := assocPut false s.poison line true } else s,
      [⟨10, unit, s.asidOfFinder finder, 128 * line⟩])
  | .badBlock c blk finder =>
    if 160 ≤ c ∨ spadSize / 128 ≤ blk then (s, [])
    else ((s.poisonBlock c blk 10 noAsid).1, [⟨10, c, s.asidOfFinder finder, s.freePlace⟩])
  | .badLoad unit place who => (s.strikeWho who (pageOf place), [⟨10, unit, s.asidStruck who, (pageOf place).toNat⟩])
  | .badRead unit src a n =>
    if s.readsNow src a n then (s.respond a (s.rdBytes a n) .poison, [⟨10, unit, noAsid, 128 * lineOf a⟩]) else (s, [])
/-- The errors that the hardware finds in one fabric cycle: their effects, and then their events in the order of R359. -/
def State.upsets (s : State) (us : List Upset) : State :=
  let r := us.foldl (fun (a : State × List ErrEv) u => let b := a.1.upset u; (b.1, a.2 ++ b.2)) (s, [])
  r.1.errEvents r.2
/-- PATROL_SCRUB of a local line (R355, R356): corrected, or poisoned by one event; a line poisoned before is no new event. -/
def State.scrub (s : State) (line : Nat) (res : ScrubResult) : State :=
  match res with
  | .clean => s
  | .corrected => s.upsets [.line true line none]
  | .uncorrectable => s.upsets [.line false line none]
/-- PATROL_SCRUB. -/
def execPatrolScrub (line : Nat) (res : ScrubResult) (s : State) : Out := .next (s.scrub line res)
/-- An access to the host, to a root port or to a peer gets an error response (R367): cause 15 for its context. -/
def State.errorResponse (s : State) (who : Struck) (pa : Nat) : State :=
  let a := s.canon pa
  if region a = .peer ∨ (region a = .window ∧ (blockOf a).isNone) then s.strikeWho who (pageOf a) else s

/-! ## Links (R362) -/

/-- A link port. -/
def State.link (s : State) (port : Nat) : Link := assocGet Link.reset s.links port
/-- Replaces a link port. -/
def State.setLink (s : State) (port : Nat) (l : Link) : State := { s with links := assocPut Link.reset s.links port l }
/-- The held flits after an acknowledgement of all up to `ack`. -/
def Link.acked (l : Link) (ack : Nat) : List Nat := if l.held.contains ack then (l.held.dropWhile (· != ack)).drop 1 else l.held
/-- The number of the last flit that a port has received in order: before the first, the one before 0 (log 35). -/
def Link.last (l : Link) : List Byte := bytesOfNat 2 ((l.expect + 4095) % 4096)
/-- Something of a port leaves the device: a flit carries its number and that of the last one received (R362). -/
def State.linkOut (s : State) (port : Nat) (kind : OutKind) (seqs : List Nat) : State :=
  let data := if kind = .flit then (s.link port).last else []
  { s with out := s.out ++ seqs.map fun q => ⟨4096 * port + q, data, kind⟩ }
/-- A port sends its next flit, where fewer than 1,024 wait for their acknowledgement (R362). -/
def State.flitSend (s : State) (port : Nat) : State :=
  let l := s.link port
  if 12 ≤ port ∨ 1024 ≤ l.held.length then s
  else (s.setLink port { l with next := (l.next + 1) % 4096, held := l.held ++ [l.next] }).linkOut port .flit [l.next]
/-- FLIT_RECEIVE (R362): the flit expected is taken; a check failure or a gap discards it, and the port asks once for the flit
that it expects. -/
def execFlitReceive (port seq ack : Nat) (good : Bool) (s : State) : Out :=
  let l := s.link port
  .next (if 12 ≤ port then s
    else if good && seq == l.expect then
      s.setLink port { l with expect := (l.expect + 1) % 4096, held := l.acked ack, asked := false }
    else if l.asked && seq != l.expect then s
    else (s.setLink port { l with asked := true }).linkOut port .replay [l.expect])
/-- The port sends again from a flit that it holds, or from the next one, of which none is held (R362). -/
def State.resend (s : State) (port seq : Nat) : State :=
  let l := s.link port
  let fs := l.held.dropWhile (· != seq)
  (s.setLink port { l with held := fs }).linkOut port .flit fs
/-- A flit can be sent again: the port holds it, or it is the next one. -/
def Link.has (l : Link) (seq : Nat) : Bool := l.held.contains seq || seq == l.next
/-- REPLAY_REQUEST (R362): the port replays from a flit that it holds; one event of kind 11 per request. -/
def execReplayRequest (port seq : Nat) (s : State) : Out :=
  .next (if 12 ≤ port then s
    else (if (s.link port).has seq then s.resend port seq else s).errEvent 11 port noAsid seq)
/-- LINK_RETRAIN (R362, R370): each side sends the number that it expects; the other side expects `seq`. Flits no longer held are
lost, one event of kind 12, and the accesses in flight on the port end with cause 15. The port changed state, interrupt 12. -/
def execLinkRetrain (port : Nat) (gap : LinkGap) (core : Nat) (s : State) : Out :=
  .next (if 12 ≤ port then s
    else
      let s0 := s.linkOut port .replay [(s.link port).expect]
      (if (s0.link port).has gap.seq then s0.resend port gap.seq
       else
        let s1 := (s0.setLink port { s0.link port with held := [] }).errEvent 12 port noAsid gap.seq
        gap.flying.foldl (fun (s : State) x => if region (s.canon x.2) = .peer then s.strikeWho x.1 (pageOf x.2) else s) s1).pend core 12)

/-! ## Registers with events of their own -/

/-- ESEQ_READ (R357). -/
def execEseqRead (s : State) : Out := .next s.eseqRead
/-- LTAIL_WRITE (R357). -/
def execLtailWrite (v : Word) (s : State) : Out := .next (s.ltailWrite v)
/-- REGISTER_WRITE (R3, R86): an aligned 8-byte write of a register of the device window. -/
def execRegisterWrite (pa : Nat) (v : Word) (s : State) : Out :=
  .next (if region pa = .window ∧ pa % 8 = 0 then s.devStore pa (bytesOfNat 8 v.toNat) else s)
/-- REMAP_PIN_WRITE (R339). -/
def execRemapPinWrite (g : Nat) (v : Word) (s : State) : Out := .next (if g < 2 ^ 18 then s.remapPinWrite g v else s)
/-- PROBE (R374). -/
def execProbe (s : State) : Out := .next (s.codeCommand 1)
/-- INVAL (R374). -/
def execInval (s : State) : Out := .next (s.codeCommand 2)
/-- CODE_RANGE_COMMAND_COMPLETE (R374). -/
def execCodeRangeCommandComplete (s : State) : Out := .next s.codeComplete
/-- HIRQ_WRITE (R366). -/
def execHirqWrite (v : Word) (s : State) : Out := .next (s.hirq v)
/-- DEVNUM_WRITE (R366). -/
def execDevnumWrite (v : Word) (s : State) : Out := .next (s.devnumWrite v)

/-! ## The fingerprint tree (R363, R364) -/

/-- The leaf of a page: all ones where a line of it is poisoned (R364). -/
def State.fpLeaf (s : State) (j : Nat) : Word :=
  let a := s.fp.base.toNat + 65536 * j
  if (List.range 512).any fun i => s.poisoned (lineOf a + i) then BitVec.allOnes 64
  else (List.range 8192).foldl (fun c w => mix c (s.rd64 (a + 8 * w))) (word j)
/-- The parents of a level. -/
def fpPairs : List Word → List Word
  | a :: b :: r => mix a b :: fpPairs r
  | l => l
/-- The levels above a level, the root's first, and then the level itself. -/
def fpLevels : Nat → List Word → List Word
  | 0, l => l
  | n + 1, l => fpLevels n (fpPairs l) ++ l
/-- Nodes 1 to 2P − 1 (R364). -/
def State.fpNodes (s : State) : List Word := fpLevels (bitsOf s.fp.log 4 0) ((List.range s.fp.pages).map s.fpLeaf)
/-- FINGERPRINT_GO (R363). -/
def execFingerprintGo (s : State) : Out := .next s.fpGo
/-- FINGERPRINT_INTERVAL_EXPIRY (R364): a pass starts where an interval is set and none runs. -/
def execFingerprintIntervalExpiry (s : State) : Out := .next (if s.fp.int ≠ 0 ∧ !s.fp.busy then s.fpGo else s)
/-- FINGERPRINT_PASS_END (R364): the pass reads each line of its region once, as a plain read, and writes the tree, where the
lines of both are open; then FPSTAT advances. -/
def execFingerprintPassEnd (s : State) : Out :=
  let a := s.fp.tree.toNat + 8
  let bytes := s.fpNodes.flatMap fun w => bytesOfNat 8 w.toNat
  .next (if s.fp.busy then
      match (do s.gate outsider s.fp.base.toNat (65536 * s.fp.pages); s.gate outsider a bytes.length : Except Stop Unit) with
      | .ok _ =>
        let s1 := (s.wrBytes a bytes).unpoison a bytes.length
        let s2 := if s1.pins.isEmpty then s1
          else (linesOf s.fp.base.toNat (65536 * s.fp.pages) ++ linesOf a bytes.length).foldl
            (fun (s : State) l => s.served outsider l) s1
        { s2 with fp := { s2.fp with busy := false, passes := s2.fp.passes + 1 } }
      | .error (.wait (some l)) => s.refuse outsider l
      | .error _ => s
    else s)

/-! ## The hot-page tracker (R340, R341) -/

/-- The hottest name in a capacity slot, the lowest among equals (R341). -/
def Remap.hottest (r : Remap) : Nat :=
  (List.range 4).foldl (fun b j =>
    if r.locOf j = 0 then b else if r.locOf b = 0 ∨ r.heat.getD b 0 < r.heat.getD j 0 then j else b) r.fast
/-- HEAT_c − HEAT_f of a candidate group; none where it is no candidate (R341). -/
def Remap.excess (r : Remap) : Option Nat :=
  let c := r.heat.getD r.hottest 0
  let f := r.heat.getD r.fast 0
  if f + 16 ≤ c then some (c - f) else none
/-- Inserts a candidate: excess descending, then group ascending. -/
def insertCand (x : Nat × Nat × Nat) : List (Nat × Nat × Nat) → List (Nat × Nat × Nat)
  | [] => [x]
  | y :: r => if y.1 < x.1 ∨ (y.1 = x.1 ∧ x.2.1 < y.2.1) then x :: y :: r else y :: insertCand x r
/-- A group of partition p, where p is enabled (R308). -/
def State.ownsGroup (s : State) (p g : Nat) : Bool :=
  s.partEnabled p && decide (s.gbase p ≤ g) && decide (g < s.gbase p + s.gcount p)
/-- HEAT_HALVING (R341): every HEAT of the partition is halved, and the list of at most 64 candidates is rebuilt, from the halved
values: the rule says only that both happen then (log 5). A listed candidate keeps the name c that it has here. -/
def State.halve (s : State) (p : Nat) : State :=
  let m := s.remap.map fun e => if s.ownsGroup p e.1 then (e.1, { e.2 with heat := e.2.heat.map (· / 2) }) else e
  let cs := (m.filter fun e => s.ownsGroup p e.1).filterMap fun e => e.2.excess.map fun d => (d, e.1, e.2.hottest)
  ({ s with remap := m.filter fun e => e.2 != Remap.reset }).updPart p fun x =>
    { x with cand := ((cs.foldr insertCand []).take 64).map fun (c : Nat × Nat × Nat) => c.2 }
/-- Tier commands of p issued before its last change to swap mode have not completed, one that waits to push its token included
(R257, R310). -/
def State.tierPending (s : State) (p : Nat) : Bool :=
  s.cmds.any fun c => c.part == p && decide (c.id < (s.part p).tierMark)
    && match c.kind with | .tier .. => true | _ => false
/-- SWAP_START (R340, R341): the next candidate's swap starts, or the candidate is skipped, which counts where its group is owned
(R376); one that the partition owns no more, or that is fast by now, is passed over. The name c is that of the list, the fast name f
that of the moment of the move (log 5). -/
def State.swapStart (s : State) (p : Nat) : State :=
  if s.scheduledMode p || (s.part p).swap.isSome || s.tierPending p then s
  else match (s.part p).cand with
    | [] => s
    | (g, c) :: r =>
      let f := (s.remapOf g).fast
      let s1 := s.updPart p fun x => { x with cand := r }
      if c = f || !s.ownsGroup p g then s1
      else if s.swapBarred g c f then s1.lineEvent (g * 2 ^ 16) Part.addTskip
      else (s1.setRemap g { s.remapOf g with mov := true }).updPart p fun x => { x with swap := some (g, c, f) }
/-- SWAP_COMPLETE of group g (R340); it counts in the partition that owns the group (R376). -/
def State.swapComplete (s : State) (g : Nat) : State :=
  match (List.range 4).find? fun p => match (s.part p).swap with | some x => x.1 == g | none => false with
  | none => s
  | some p => match (s.part p).swap with
    | none => s
    | some (_, c, f) =>
      ((s.setRemap g { (s.remapOf g).exchange c f with mov := false }).lineEvent (g * 2 ^ 16) Part.addSwap).updPart p fun x =>
        { x with swap := none }
/-- HEAT_HALVING. -/
def execHeatHalving (p : Nat) (s : State) : Out := .next (if s.scheduledMode p then s else s.halve p)
/-- SWAP_START. -/
def execSwapStart (p : Nat) (s : State) : Out := .next (s.swapStart p)
/-- SWAP_COMPLETE. -/
def execSwapComplete (g : Nat) (s : State) : Out := .next (s.swapComplete g)

/-! ## Accesses from outside (R365 to R369) -/

/-- The bytes at which an access from outside acts: how many from its address on. -/
def outsideSize (op : OutsideOp) : Nat :=
  match op with
  | .read n | .loadRd n | .close n => n
  | .write data | .storeRc _ data => data.length
  | .atomic _ n _ _ => n
  | .add ef _ _ => efWidth ef / 8
  | .query => 1
  | .arrive | .report _ | .expect _ => 64
/-- What an access that reads answers: the data, or a response that carries the poison of its lines back (R356). -/
def State.respondRead (s : State) (a n : Nat) : State :=
  s.respond a (s.rdBytes a n) (match s.clean a n with | .ok _ => .response | .error _ => .poison)
/-- An access that reads and writes performs as f where no line of it is poisoned; else its response carries the poison. -/
def State.unlessPoison (s : State) (a n : Nat) (f : State → State) : State :=
  match s.clean a n with
  | .ok _ => f s
  | .error _ => s.respond a [] .poison
/-- An access from outside performs at the home slice (R366, R369): reads and writes as the host's; of a peer, counted accesses
with the counts of this device, atomics, additions, and actions on barrier objects, each with its response. -/
def State.outsidePerform (s : State) (a : Nat) (op : OutsideOp) : State :=
  match op with
  | .read n => s.respondRead a n
  | .write data => (s.wrBytes a data).unpoison a data.length
  | .loadRd n => match (linesOf a n).find? fun l => s.count l == 0 with
    | some l => (s.lineEvent l Part.addOvrun).respond a [] .overrun
    | none => s.unlessPoison a n fun s =>
      (linesOf a n).foldl (fun (s : State) l => s.rdDec l) (s.respond a (s.rdBytes a n) .response)
  | .storeRc k data =>
    (((linesOf a data.length).foldl (fun (s : State) l => s.rcSet l (k % 256)) s).wrBytes a data).unpoison a data.length
  | .close n =>
    let ls := linesOf a n
    let k := (ls.filter fun l => decide (0 < s.count l)).length
    (ls.foldl (fun (s : State) l => s.rcClose l) s).respond a (bytesOfNat 8 k) .response
  | .atomic f n v c => s.unlessPoison a n fun s =>
    let old := natOfBytes (s.rdBytes a n)
    let t := match (amoFn f (8 * n) old v c).1 with
      | some w => s.wrBytes a (bytesOfNat n w)
      | none => s
    t.respond a (bytesOfNat n old) .response
  | .add ef val grid => s.unlessPoison a (efWidth ef / 8) fun s => (s.addAt a ef val grid).1
  | .query => s.respond a (bytesOfNat 1 (s.count (lineOf a))) .response
  | .arrive => s.unlessPoison a 64 fun s => bobjAct s a .arrive
  | .report n => s.unlessPoison a 64 fun s => bobjAct s a (.report n)
  | .expect n => s.unlessPoison a 64 fun s => bobjAct s a (.expect n)
/-- An access that has arrived performs, where its lines are open; else it stays, and a refusal is recorded (R104, R117, R122). -/
def State.outsideTry (s : State) (r : OutsideReq) : Option State :=
  match s.gate (sourceOf r.src) r.a (outsideSize r.op) with
  | .ok _ => some ((linesOf r.a (outsideSize r.op)).foldl (fun (s : State) l => s.served (sourceOf r.src) l) (s.outsidePerform r.a r.op))
  | .error _ => none
/-- The refusal of an access that has arrived. -/
def State.outsideRefused (s : State) (r : OutsideReq) : State :=
  match s.gate (sourceOf r.src) r.a (outsideSize r.op) with
  | .error (.wait (some l)) => s.refuse (sourceOf r.src) l
  | _ => s
/-- Accesses from outside perform in the order in which each source sent them (R366): those in `rs` in turn, but none whose source
has one that still waits. -/
def outsideRun : List Nat → List OutsideReq → State → State
  | _, [], s => s
  | held, r :: rs, s =>
    if held.contains r.src then outsideRun held rs { s with reqs := s.reqs ++ [r] }
    else match s.outsideTry r with
      | some t => outsideRun held rs t
      | none => outsideRun (r.src :: held) rs { s.outsideRefused r with reqs := (s.outsideRefused r).reqs ++ [r] }
/-- The accesses that have arrived perform, where they can. -/
def State.settleReqs (s : State) : State := outsideRun [] s.reqs { s with reqs := [] }
/-- An access from outside arrives. -/
def State.arrives (s : State) (src a : Nat) (op : OutsideOp) : State :=
  ({ s with reqs := s.reqs ++ [⟨src, a, op⟩] } : State).settleReqs
/-- A write of local memory that acts as the host's (R366, R371): discarded until READY. -/
def State.asHostWrite (s : State) (src a : Nat) (data : List Byte) : State :=
  if s.ready && decide (a + data.length ≤ localEnd) then s.arrives src a (.write data) else s
/-- A read of local memory that acts as the host's (R366, R371): all ones until READY. -/
def State.asHostRead (s : State) (src a n : Nat) : State :=
  if !s.ready then s.respond a (List.replicate n 0xFF) .response
  else if a + n ≤ localEnd then s.arrives src a (.read n) else s
/-- HOST_BAR0_WRITE (R366). -/
def execHostBar0Write (a : Nat) (data : List Byte) (s : State) : Out := .next (s.asHostWrite 9 a data)
/-- HOST_BAR0_READ (R366). -/
def execHostBar0Read (a n : Nat) (s : State) : Out := .next (s.asHostRead 9 a n)
/-- The host reads n bytes of the host register block over BAR2 (R365, R366): HSTAT, MBBASE, and HIRQ, which reads 0; the table
gives the host no access to the other words, and their bytes are free (log 36). -/
def State.bar2Read (s : State) (off n : Nat) : State :=
  let known (i : Nat) : Bool := decide (i < 0x18)
  let bytes := (List.range n).map fun j =>
    let i := off + j
    if known i then (bytesOfNat 8 (s.hostRead (i / 8 * 8)).toNat).getD (i % 8) 0 else Config.freeByte s.free j
  ({ s with free := s.free + 1 } : State).respond (hostBase + off) bytes .response
/-- INBOUND_REQUEST (R367 to R369): an accepted read or write acts as the host's; a peer's other accesses act at their home
here. A request names an address and a length, which is that of its access (else there is no such request). Any other request is
refused, with Unsupported Request on PCIe and an error response on a link. -/
def execInboundRequest (src a n : Nat) (op : OutsideOp) (s : State) : Out :=
  let refused := s.respond a [] (if src < 8 then .unsupported else .error)
  .next (if 8 < src ∨ n ≠ outsideSize op then s
    else if !(List.range 4).any (s.admitsInbound src a n) then refused
    else match op with
      | .write data => s.asHostWrite src a data
      | .read _ => s.asHostRead src a n
      | _ => if src = 8 ∧ a + n ≤ localEnd then s.arrives src a op else refused)

/-! ## Interrupts from outside (R370) -/

/-- POWER_LIMIT_EXCEEDED: interrupt 13. -/
def execPowerLimitExceeded (core : Nat) (s : State) : Out := .next (s.pend core 13)
/-- AER_ERROR: interrupt 3. -/
def execAerError (core : Nat) (s : State) : Out := .next (s.pend core 3)
/-- ROOT_PORT_INTERRUPT: interrupt 4 + r. -/
def execRootPortInterrupt (r core : Nat) (s : State) : Out := .next (if r < 8 then s.pend core (4 + r) else s)

/-! ## Reset (R371) -/

/-- The boot step at which a failure code halts (R371); without one, the step that the start of core 0 has reached. -/
def failStep (fail : Nat) : Nat := match fail with | 1 => 1 | 2 => 3 | 3 => 4 | _ => 4
/-- The machine after steps 1 to 4 of boot, or halted with a failure code: local memory and counts are 0, and a peer's are as they
were. What the model keeps for itself goes on, and what has left the device stays gone. -/
def State.boot (s : State) (fail : Nat) : State :=
  let halt := 1 ≤ fail ∧ fail ≤ 3
  { State.reset with
    agenda := s.agenda, eager := s.eager, tick := s.tick, free := s.free, msix := s.msix, out := s.out,
    mem := s.mem.filter fun e => decide (domainBase ≤ e.1), cnt := s.cnt.filter fun e => decide (domainBase / 128 ≤ e.1),
    under := s.under.filter fun e => decide (domainBase / 128 ≤ e.1), away := s.away.filter fun l => decide (domainBase / 128 ≤ l),
    poison := s.poison.filter fun e => decide (domainBase / 128 ≤ e.1),
    host := { HostBlk.reset with hstat := word (failStep fail * 256 + if halt then fail * 65536 else 0) },
    halted := halt }
/-- Boot reaches its next step (R371): 5 where DEVNUM is written, 6 where asidtab is, and 7, at which READY is set. -/
def State.bootStep (s : State) : State :=
  let step := bitsOf s.host.hstat 15 8
  let reach (n : Nat) : State := { s with host := { s.host with hstat := word (n * 256 + if n = 7 then 1 else 0) } }
  if s.halted then s
  else if step ≤ 4 then (if s.host.devnumSet then reach 5 else s)
  else if step = 5 then (if s.host.asidtabSet then reach 6 else s)
  else if step = 6 then reach 7 else s
/-- DEVICE_RESET (R371). -/
def execDeviceReset (fail : Nat) (s : State) : Out := .next (s.boot fail)
/-- FUNCTION_LEVEL_RESET (R365, R371): whether the boot that follows fails, and with which code, is a free value (log 36). -/
def execFunctionLevelReset (s : State) : Out :=
  .next (({ s with free := s.free + 1 } : State).boot (Config.freeBoot s.free))

/-! ## Walks and caches (R95, R97, R101, R335, R337, R341) -/

/-- An agent that looks in a cache of translations or of instructions, and in no nearer one. -/
def agentOfCache (cache : Nat) : Nat :=
  if cache < 640 then 8 * cache else if cache < 800 then seqBase + (cache - 640)
  else if cache < 824 then appBase + (cache - 800) else outsider
/-- The accesses of an address space through a cache. -/
def cacheCtx (cache asid : Nat) : Ctx := ⟨agentOfCache cache, asid, asid != 0⟩
/-- Word 0 of an entry says that it is valid: V, or VALID of the ASID table. -/
def entryValid (level : Nat) (w0 : Word) : Bool := w0.getLsbD (if level = 0 then 63 else 0)
/-- Caches an entry of a walk: V = 1, or VALID for the ASID table (R335). The entries that the cache holds already stay beside it
until an invalidation covers them, or they leave. -/
def State.tlbAdd (s : State) (e : TlbEntry) : State :=
  if !entryValid e.level e.w0 || s.tlb.contains e then s else { s with tlb := e :: s.tlb }
/-- The address of the entry that a walk of va reads at a level (R331): level 0 is the ASID table. -/
def State.entryAt (s : State) (c : Ctx) (va : Nat) : Nat → Except Stop Nat
  | 0 => .ok (s.asidtab.toNat + 16 * c.asid)
  | level + 1 => do
    let pa ← s.entryAt c va level
    let (w0, w1) ← s.entry c va level (if level = 0 then 0 else va / 2 ^ levelShift level) pa
    let i := 16 * (va / 2 ^ levelShift (level + 1) % 4096)
    if level = 0 then
      if w0.getLsbD 63 && bitsOf w0 15 0 == 0 then .ok (bitsOf w0 49 0 + i) else .error (transFault 1 va)
    else if w0.getLsbD 0 && !w0.getLsbD 1 && s.pointerOk level w0 w1 then .ok (entryPA w0 + i)
    else .error (transFault 1 va)
/-- The index of an entry in its level. -/
def entryIndexAt (va level : Nat) : Nat := if level = 0 then 0 else va / 2 ^ levelShift level
/-- PAGE_TABLE_WALK (R335) for a cache: each entry that a walk of va reads is cached, down to a leaf or an entry that ends it. -/
def State.walkCache (s : State) (cache asid va : Nat) : State :=
  (List.range 4).foldl (fun (s : State) level =>
    let c := cacheCtx cache asid
    match s.entryAt c va level with
    | .error _ => s
    | .ok pa => match s.devWord c.who va pa, s.devWord c.who va (pa + 8) with
      | .ok w0, .ok w1 => s.tlbAdd ⟨cache, asid, level, entryIndexAt va level, w0, w1, true⟩
      | _, _ => s) s
/-- PAGE_TABLE_WALK (R335). -/
def execPageTableWalk (space : CachedSpace) (va : Nat) (s : State) : Out :=
  .next (if 2048 ≤ space.asid ∨ 2 ^ 52 ≤ va ∨ 824 < space.cache then s else s.walkCache space.cache space.asid va)
/-- A walk reads one word of an entry, word 1 where `second` is set, and will read the other at another moment (R335). Word 1 of
an entry that is invalid then is not kept, so that to make it valid needs no invalidation (R336). -/
def State.tlbHalf (s : State) (second : Bool) (cache asid level : Nat) (va : Word) : State :=
  let c := cacheCtx cache asid
  if 2048 ≤ asid ∨ 2 ^ 52 ≤ va.toNat ∨ 824 < cache ∨ 3 < level then s
  else match s.entryAt c va.toNat level with
    | .error _ => s
    | .ok pa => match s.devWord c.who va.toNat (if second then pa + 8 else pa) with
      | .ok w =>
        let valid := match s.devWord c.who va.toNat pa with | .ok w0 => entryValid level w0 | .error _ => false
        if second && !valid then s
        else { s with walks := s.walks
          ++ [⟨cache, asid, level, entryIndexAt va.toNat level, w, word (if second then pa else pa + 8), !second⟩] }
      | .error _ => s
/-- The walk numbered k reads the other word of its entry, and the entry is cached. -/
def State.tlbFill (s : State) (k : Nat) : State :=
  match s.walks[k]? with
  | none => s
  | some e => match s.devWord (agentOfCache e.cache) 0 e.w1.toNat with
    | .ok w => ({ s with walks := s.walks.eraseIdx k } : State).tlbAdd
        (if e.use then { e with w1 := w } else { e with w0 := w, w1 := e.w0, use := true })
    | .error _ => s
/-- The accesses that follow use a cached entry, or walk afresh although it is cached (R335). -/
def State.tlbUse (s : State) (k : Nat) : State := { s with tlb := s.tlb.mapIdx fun i e => if i = k then { e with use := !e.use } else e }
/-- A cache takes in an instruction line (R95). -/
def State.icTake (s : State) (cache asid vline : Nat) : State :=
  let c := cacheCtx cache asid
  if 824 ≤ cache then s
  else match s.translate c .x (128 * vline) with
    | .error _ => s
    | .ok l => s.icFillLine c.who cache (if cache < 640 then [640 + cache / 4] else []) asid vline (lineOf l.pa)
/-- Counted lines that the home channel of a line holds, on the device of that line (R12, R329): those written back early and not
fetched since have left it (R97). -/
def State.countedAt (s : State) (line : Nat) : Nat :=
  (s.cnt.filter fun e => e.1 / (localEnd / 128) == line / (localEnd / 128) && homeChannel e.1 == homeChannel line && decide (0 < e.2)
    && !s.away.contains e.1).length
/-- A counted line leaves the memory-side cache early, and what it holds is written back (R97, R101). It does only where every way
of its set holds counted lines: the spec does not say which lines share a set, so the model asks for as many at its channel
as a set has ways (log 9). -/
def State.evictEarly (s : State) (line : Nat) : State :=
  if s.count line = 0 ∨ s.away.contains line ∨ s.countedAt line < 16 then s
  else { s with under := assocSet s.under line (s.rdBytes (128 * line) 128), away := line :: s.away }
/-- The name of a line gains heat in a capacity slot, in swap mode (R341). -/
def State.addHeat (s : State) (line : Nat) : State :=
  let n := line / 2 ^ 14
  let r := s.remapOf (n / 4)
  match s.partOfGroup (n / 4) with
  | some p =>
    if s.scheduledMode p || decide (localEnd / 128 ≤ line) || r.locOf (n % 4) == 0 then s
    else s.setRemap (n / 4) { r with heat := r.heat.mapIdx fun j h => if j = n % 4 then min 255 (h + 1) else h }
  | none => s
/-- A home slice fetches a line (R97, R341). -/
def State.fetchLine (s : State) (line : Nat) : State := (s.fetched line).addHeat line

end Sys2Proof.Machine
end

