-- ==== Sys2Proof/Machine/Front.lean ====
section
/-! DEFINITION. The front end around an instruction: which agents have it, whether it is queued, fetching and rejecting a
statement, time, and who moves next (spec/05 R95, spec/08 R152, R158, R164, spec/04 R79, spec/21 R344, R345). -/

namespace Sys2Proof.Machine

/-! ## Kinds of instruction -/

/-- A vector hart places it in its vector queue and moves past it (R79, R203, R257). -/
def Instr.queues (i : Instr) : Bool :=
  match i with
  | .vconf _ | .vsetb _ | .vsete _ | .vsetf _ | .vadd _ | .vsub _ | .vmul _ | .vmulh _ | .vmulhu _ | .vmin _ | .vmax _ | .vminu _ | .vmaxu _
  | .vand _ | .vor _ | .vxor _ | .vsll _ | .vsrl _ | .vsra _ | .vsadd _ | .vssub _ | .vsaddu _ | .vssubu _
  | .vmadd _ | .vmv _ | .vfadd _ | .vfsub _ | .vfmul _ | .vfdiv _ | .vfsqrt _ | .vfmin _ | .vfmax _ | .vfma _
  | .vfms _ | .vfnma _ | .vfabs _ | .vfneg _ | .vfexp2 _ | .vflog2 _ | .vrsqe _ | .vceq _ | .vcne _ | .vclt _
  | .vcle _ | .vcltu _ | .vcleu _ | .vfceq _ | .vfclt _ | .vfcle _ | .vfcun _ | .cvt _ | .cvtSr _ | .vqmx _
  | .vdqmx _ | .vexpand4 _ | .vexpand6 _ | .vrng _ | .vclass _ | .vslup _ | .vsldn _ | .vbcast _ | .vperm _
  | .vcompress _ | .vxpand _ | .vtrans _ | .vzip _ | .vunzip _ | .vxch _ | .vmand _ | .vmor _ | .vmxor _ | .vmandn _
  | .vmnot _ | .vmpopc _ | .vmfirst _ | .vmset _ | .vredsum _ | .vfredsum _ | .vredmin _ | .vredmax _ | .vscan _
  | .vfscan _ | .vld _ | .vlds _ | .vldx _ | .vst _ | .vsts _ | .vstx _ | .vstxa _ | .vldsp _ | .vstsp _ | .vconfl _
  | .vldRd _ | .vstRc _ | .vldspRd _ | .vstspRc _ | .vldxRd _ | .vfence _ | .vcld _ | .vcst _ | .vcpos _ | .vclen _
  | .vcdec _ | .vcenc _ | .vcadd _ | .vcsub _ | .vcskip _ | .vccat _ | .gdesc _ | .gload _ | .gscat _ | .cpyin _
  | .cpyout _ | .nest _ | .scank _ | .pftier _ | .evtier _ | .tokpost _ | .tokwait _ | .loopb _ => true
  | _ => false
/-- An event that the device, or the world outside, makes by itself; the other events are parts of an instruction. -/
def Instr.byItself (i : Instr) : Bool :=
  match i with
  | .waveForm _ _ => true
  | .copyComplete _ => true
  | .scanSegmentWritten _ _ => true
  | .tierGranuleReport _ => true
  | .matrixCommandComplete _ => true
  | .recordSelect _ => true
  | .groupMembershipTake _ => true
  | .priorityAging _ _ => true
  | .clusterGrant _ => true
  | .shutterLanesPass _ => true
  | .shutterWindowExpiry _ => true
  | .lanesRelease _ => true
  | .recordComplete _ _ => true
  | .drainRound _ _ => true
  | .pinWiden _ => true
  | .hartStop _ => true
  | .interruptEntry _ => true
  | .patrolScrub _ _ => true
  | .flitReceive _ _ _ _ => true
  | .replayRequest _ _ => true
  | .linkRetrain _ _ _ => true
  | .fingerprintIntervalExpiry => true
  | .fingerprintPassEnd => true
  | .heatHalving _ => true
  | .swapStart _ => true
  | .swapComplete _ => true
  | .hostBar0Write _ _ => true
  | .hostBar0Read _ _ => true
  | .inboundRequest _ _ _ _ => true
  | .powerLimitExceeded _ => true
  | .aerError _ => true
  | .rootPortInterrupt _ _ => true
  | .deviceReset _ => true
  | .functionLevelReset => true
  | .vectorInstructionComplete _ => true
  | .pageTableWalk _ _ => true
  | .codeRangeCommandComplete => true
  | _ => false
/-- An agent that has the instruction: the one that moves, if it may; else vector hart 0 or the first sequencer (R158). -/
def agentFor (i : Instr) (hid : Nat) : Nat :=
  match i with
  | .vdrain _ | .vconf _ | .vsetb _ | .vsete _ | .vsetf _ | .vadd _ | .vsub _ | .vmul _ | .vmulh _ | .vmulhu _
  | .vmin _ | .vmax _ | .vminu _ | .vmaxu _ | .vand _ | .vor _ | .vxor _ | .vsll _ | .vsrl _ | .vsra _ | .vsadd _
  | .vssub _ | .vsaddu _ | .vssubu _ | .vmadd _ | .vmv _ | .vfadd _ | .vfsub _ | .vfmul _ | .vfdiv _ | .vfsqrt _
  | .vfmin _ | .vfmax _ | .vfma _ | .vfms _ | .vfnma _ | .vfabs _ | .vfneg _ | .vfexp2 _ | .vflog2 _ | .vrsqe _
  | .vceq _ | .vcne _ | .vclt _ | .vcle _ | .vcltu _ | .vcleu _ | .vfceq _ | .vfclt _ | .vfcle _ | .vfcun _ | .cvt _
  | .cvtSr _ | .vqmx _ | .vdqmx _ | .vexpand4 _ | .vexpand6 _ | .vrng _ | .vclass _ | .vslup _ | .vsldn _
  | .vbcast _ | .vperm _ | .vcompress _ | .vxpand _ | .vtrans _ | .vzip _ | .vunzip _ | .vxch _ | .vmand _ | .vmor _
  | .vmxor _ | .vmandn _ | .vmnot _ | .vmpopc _ | .vmfirst _ | .vmset _ | .vredsum _ | .vfredsum _ | .vredmin _
  | .vredmax _ | .vscan _ | .vfscan _ | .vld _ | .vlds _ | .vldx _ | .vst _ | .vsts _ | .vstx _ | .vstxa _
  | .vldsp _ | .vstsp _ | .vconfl _ | .vldRd _ | .vstRc _ | .vldspRd _ | .vstspRc _ | .vldxRd _ | .vfence _
  | .vcld _ | .vcst _ | .vcpos _ | .vclen _ | .vcdec _ | .vcenc _ | .vcadd _ | .vcsub _ | .vcskip _ | .vccat _
  | .gdesc _ | .gload _ | .gscat _ | .gsync _ => if kindOf hid = .vector then hid else 0
  | .mcfg _ | .msettl _ | .mlda _ | .mldb _ | .mma _ | .mopa _ | .mzero _ | .mld _ | .mst _ => if kindOf hid = .sequencer then hid else seqBase
  | .join _ | .leave _ | .gbar _ | .idone _ | .claim _ | .clwait _ | .rcclose _ | .rcclosesp _ | .rcquery _
  | .rcquerysp _ | .cpyin _ | .cpyout _ | .nest _ | .loopb _ | .scank _ | .pftier _ | .evtier _ | .tokpost _
  | .tokwait _ | .efence _ => if kindOf hid = .vector ∨ kindOf hid = .sequencer then hid else 0
  | _ => hid

/-! ## Time (R95, R156) -/

/-- The cycles of a step pass: free counts (log 1). -/
def State.tickOn (s : State) : State :=
  { s with
    tick := s.tick + 1
    arith := s.arith + word (Config.freeCycles s.tick)
    fabric := s.fabric + word (Config.freeFabric s.tick)
    app := s.app + word (Config.freeAppCycles s.tick) }
/-- The agent that moves counts the cycles it stalled (R95). -/
def State.stall (s : State) : State :=
  s.setMe { s.me with
    fstall := s.me.fstall + word (Config.freeFstall s.tick)
    ostall := s.me.ostall + word (Config.freeOstall s.tick) }

/-! ## A statement (R152, R164) -/

/-- The words of the statement at the pc: one, or the two of a pair (R152). A LOOPB that has begun was read when it issued
(R272). -/
def State.fetchStmt (s : State) (hid : Nat) (pc : Word) : Except Stop (Word × Option Word) :=
  match (s.hart hid).loopPos with
  | some ⟨_, _, w :: _⟩ => .ok (w, none)
  | _ => do
    let w0 ← s.fetchWord hid pc
    if opensPair w0 then
      let w1 ← s.fetchWord hid (pc + 8)
      .ok (w0, some w1)
    else .ok (w0, none)
/-- The lines of a fetched statement leave the queues of refusals (R123). -/
def State.fetchServed (s : State) (hid : Nat) (pc : Word) : State :=
  if s.pins.isEmpty then s
  else [pc, pc + 8].foldl (fun (s : State) a => match s.translate (s.ctx hid) .x a.toNat with
    | .ok l => s.served hid (lineOf l.pa)
    | .error _ => s) s
/-- The statement decoded (R164). -/
def decodeOf (ws : Word × Option Word) : Except Reject Instr :=
  match ws.2 with
  | some w1 => decodePair ws.1 w1
  | none => decodeOne ws.1
/-- A privileged opcode (R315). -/
def privilegedOp (w : Word) : Bool := decide (0x68 ≤ opcode w) && decide (opcode w ≤ 0x6A)
/-- The trap of a statement that does not decode (R164): for a single word a privileged opcode below executive level comes before
a bad field; a prefix before a word that it cannot qualify is illegal (R152). -/
def rejected (pair : Bool) (r : Reject) (s : State) : Out :=
  match r with
  | .mustUnderstand w => raise .mustUnderstand w s
  | .illegal w =>
    if !pair && privilegedOp w && !s.privileged s.cur then raise .privilege w s else raise .illegal w s
  | .short => raise .illegal s.ir s
/-- A statement waits for a register that a queued instruction writes (R194). One that would write it waits too, so that the
two writes keep their order (log 26). -/
def State.heldBack (s : State) (i : Instr) : Bool := !s.me.vec.queue.isEmpty && s.gPending s.cur i
/-- The state in which a statement may execute: a scalar one waits for queued instructions that can still stop (R344). -/
def State.takesIn (s : State) (i : Instr) : Option State :=
  if s.heldBack i then none
  else if s.me.vec.queue.isEmpty || Instr.queues i then some s
  else s.passQueue s.cur

/-! ## Who moves next (log 1) -/

/-- The agent can move, or may be able to: a hart whose record has ended still has issued work. -/
def Hart.live (h : Hart) (hid : Nat) : Bool :=
  if kindOf hid = .app then !h.app.xwait || h.app.pending != 0
  else h.status == .running || h.status == .waiting || h.status == .stopping || h.status == .ending
    || (h.status == .parked && (h.preempt || !h.vec.queue.isEmpty))
/-- The next live agent after the one that moved, by hartid, around. -/
def State.nextLive (s : State) : Nat :=
  let ls := (s.harts.filter fun e => e.2.live e.1).map (·.1)
  match ls.find? fun h => decide (s.cur < h) with
  | some h => h
  | none => ls.headD s.cur
/-- Another agent moves. -/
def State.yieldTurn (s : State) : State :=
  let t := s.settleSched
  { t with cur := t.nextLive }
/-- What goes on beside the agents: engines, the queues of ended harts, accesses from outside, and the scheduler. -/
def State.settleAll (s : State) : Out := andThen s.settleEngines.settleTails fun t => .next t.settleReqs.settleSched
/-- After a statement: what goes on beside the agents does, and an agent that waits, or has left its slot, lets another move. An
agent that waits for nothing has no refused access (R123). -/
def State.after (s : State) : Out :=
  andThen s.settleAll fun t =>
    let u := if t.me.status = .waiting then t else t.unrefuse t.cur
    .next (if u.me.status = .running ∧ !u.me.app.xwait then u else { u with cur := u.nextLive })

/-! ## Placing an instruction where the next step fetches it -/

/-- Base of the ASID table that `withFetchWord` lays out, away from an address. -/
def tableBase (pa : Nat) : Nat := if 0x40000000 ≤ pa ∧ pa < 0x40040000 then 0x50000000 else 0x40000000
/-- Eight bytes of a word, at an address of a memory. -/
def putWord (m : List Host.Cell) (pa : Nat) (w : Nat) : List Host.Cell := putBytes m pa (bytesOfNat 8 w)
/-- A leaf of 1 TiB at physical 0, ordinary, with R, W, X and U (R332). -/
def leafWord : Nat := 0x1E3
/-- Memory with an instruction of 16 bytes at pc, under an ASID, and the tables that map it (R311, R331). -/
def codeMemory (m : List Host.Cell) (asid pc w : Nat) : List Host.Cell :=
  let pa := pc % 2 ^ 40
  let t := tableBase pa
  let k := pc / 2 ^ 40 % 4096
  let k1 := (pc / 2 ^ 40 + 1) % 4096
  let m1 := putWord (putWord m (t + 16 * asid) (2 ^ 63 + t + 0x10000)) (t + 16 * asid + 8) 0
  let m2 := putWord (putWord m1 (t + 0x10000 + 16 * k) leafWord) (t + 0x10000 + 16 * k + 8) 0
  let m3 := putWord (putWord m2 (t + 0x10000 + 16 * k1) leafWord) (t + 0x10000 + 16 * k1 + 8) 0
  putBytes m3 pa (bytesOfNat 16 w)
/-- The start record that stands for the launch of a hart that `withFetchWord` places (log 22). -/
def placedRecord (seqr : Bool) : StartRec :=
  { launch := 0, entry := 0x10000, arg := 0, ctl := if seqr then 0x2000001 else 1, group := 0, cmask := 1, done := 0, bounds := [] }
/-- The agent is there: a hart that is not placed is placed for the record above. -/
def State.present (s : State) (hid : Nat) : State :=
  if kindOf hid = .app ∨ (s.hart hid).status ≠ .free then s
  else
    let seqr := kindOf hid == .sequencer
    let r : Rec := { part := 0, sr := placedRecord seqr, selected := true, granted := 1, nextItem := 0, aged := 0, wave := 0,
                     drained := 0, ending := none, lh := [(0, { LHart.start with place := .placed hid })] }
    ({ s with recs := s.recs ++ [r], partcfg := assocSet s.partcfg 0 0x8F40000000000000 } : State).setHart hid (Hart.start r 0 0 none)
/-- Nothing stands before the agent's next statement: no interrupt, no wait, no queued instruction, no LOOPB begun. -/
def Hart.clear (h : Hart) : Hart :=
  { h with
    status := .running, preempt := false, loopPos := none, pc := if h.pc.toNat + 16 < 2 ^ 52 then h.pc &&& ~~~7#64 else 0x10000,
    vec := { h.vec with queue := [], popped := false }, app := { h.app with pending := 0, xwait := false } }
/-- A state in which the next step fetches the 16 bytes of w. -/
def State.placeWord (s : State) (hid w : Nat) : State :=
  let s1 := (s.present hid).updHart hid Hart.clear
  let pc := (s1.hart hid).pc.toNat
  { s1 with
    agenda := [], cur := hid, halted := false, tlb := [], icache := [], poison := [], pins := [], lineup := [], cmds := [],
    tails := [], asidtab := word (tableBase (pc % 2 ^ 40)),
    parts := s1.parts.map fun e => (e.1, { e.2 with swap := none }),
    mem := codeMemory s1.mem (s1.asidOf hid) pc w }

end Sys2Proof.Machine
end

