-- ==== Sys2Proof/Machine/Dispatch.lean ====
section
/-! DEFINITION. One arm per instruction and event: a call of its meaning. -/

namespace Sys2Proof.Machine

def exec (i : Instr) (s : State) : Host.Outcome State Fault Refusal :=
  match i with
  | .add x => Sys2Proof.Machine.execAdd x s
  | .sub x => Sys2Proof.Machine.execSub x s
  | .and x => Sys2Proof.Machine.execAnd x s
  | .or x => Sys2Proof.Machine.execOr x s
  | .xor x => Sys2Proof.Machine.execXor x s
  | .andn x => Sys2Proof.Machine.execAndn x s
  | .sll x => Sys2Proof.Machine.execSll x s
  | .srl x => Sys2Proof.Machine.execSrl x s
  | .sra x => Sys2Proof.Machine.execSra x s
  | .rol x => Sys2Proof.Machine.execRol x s
  | .ror x => Sys2Proof.Machine.execRor x s
  | .slt x => Sys2Proof.Machine.execSlt x s
  | .sltu x => Sys2Proof.Machine.execSltu x s
  | .min x => Sys2Proof.Machine.execMin x s
  | .max x => Sys2Proof.Machine.execMax x s
  | .minu x => Sys2Proof.Machine.execMinu x s
  | .maxu x => Sys2Proof.Machine.execMaxu x s
  | .mul x => Sys2Proof.Machine.execMul x s
  | .mulh x => Sys2Proof.Machine.execMulh x s
  | .mulhu x => Sys2Proof.Machine.execMulhu x s
  | .div x => Sys2Proof.Machine.execDiv x s
  | .divu x => Sys2Proof.Machine.execDivu x s
  | .rem x => Sys2Proof.Machine.execRem x s
  | .remu x => Sys2Proof.Machine.execRemu x s
  | .clz x => Sys2Proof.Machine.execClz x s
  | .ctz x => Sys2Proof.Machine.execCtz x s
  | .popc x => Sys2Proof.Machine.execPopc x s
  | .bswap x => Sys2Proof.Machine.execBswap x s
  | .sel x => Sys2Proof.Machine.execSel x s
  | .addi x => Sys2Proof.Machine.execAddi x s
  | .andi x => Sys2Proof.Machine.execAndi x s
  | .ori x => Sys2Proof.Machine.execOri x s
  | .xori x => Sys2Proof.Machine.execXori x s
  | .slli x => Sys2Proof.Machine.execSlli x s
  | .srli x => Sys2Proof.Machine.execSrli x s
  | .srai x => Sys2Proof.Machine.execSrai x s
  | .slti x => Sys2Proof.Machine.execSlti x s
  | .sltiu x => Sys2Proof.Machine.execSltiu x s
  | .addpc x => Sys2Proof.Machine.execAddpc x s
  | .fadd x => Sys2Proof.Machine.execFadd x s
  | .fsub x => Sys2Proof.Machine.execFsub x s
  | .fmul x => Sys2Proof.Machine.execFmul x s
  | .fdiv x => Sys2Proof.Machine.execFdiv x s
  | .fsqrt x => Sys2Proof.Machine.execFsqrt x s
  | .fmin x => Sys2Proof.Machine.execFmin x s
  | .fmax x => Sys2Proof.Machine.execFmax x s
  | .fmadd x => Sys2Proof.Machine.execFmadd x s
  | .fmsub x => Sys2Proof.Machine.execFmsub x s
  | .feq x => Sys2Proof.Machine.execFeq x s
  | .flt x => Sys2Proof.Machine.execFlt x s
  | .fle x => Sys2Proof.Machine.execFle x s
  | .fcvt x => Sys2Proof.Machine.execFcvt x s
  | .fclass x => Sys2Proof.Machine.execFclass x s
  | .beq x => Sys2Proof.Machine.execBeq x s
  | .bne x => Sys2Proof.Machine.execBne x s
  | .blt x => Sys2Proof.Machine.execBlt x s
  | .bge x => Sys2Proof.Machine.execBge x s
  | .bltu x => Sys2Proof.Machine.execBltu x s
  | .bgeu x => Sys2Proof.Machine.execBgeu x s
  | .j x => Sys2Proof.Machine.execJ x s
  | .call x => Sys2Proof.Machine.execCall x s
  | .jr x => Sys2Proof.Machine.execJr x s
  | .callr x => Sys2Proof.Machine.execCallr x s
  | .ld x => Sys2Proof.Machine.execLd x s
  | .ldu x => Sys2Proof.Machine.execLdu x s
  | .st x => Sys2Proof.Machine.execSt x s
  | .ldRd x => Sys2Proof.Machine.execLdRd x s
  | .lduRd x => Sys2Proof.Machine.execLduRd x s
  | .stRc x => Sys2Proof.Machine.execStRc x s
  | .ipref x => Sys2Proof.Machine.execIpref x s
  | .isync x => Sys2Proof.Machine.execIsync x s
  | .amoswap x => Sys2Proof.Machine.execAmoswap x s
  | .amoadd x => Sys2Proof.Machine.execAmoadd x s
  | .amoand x => Sys2Proof.Machine.execAmoand x s
  | .amoor x => Sys2Proof.Machine.execAmoor x s
  | .amoxor x => Sys2Proof.Machine.execAmoxor x s
  | .amomin x => Sys2Proof.Machine.execAmomin x s
  | .amomax x => Sys2Proof.Machine.execAmomax x s
  | .amominu x => Sys2Proof.Machine.execAmominu x s
  | .amomaxu x => Sys2Proof.Machine.execAmomaxu x s
  | .amocas x => Sys2Proof.Machine.execAmocas x s
  | .amofadd x => Sys2Proof.Machine.execAmofadd x s
  | .fence x => Sys2Proof.Machine.execFence x s
  | .arrive x => Sys2Proof.Machine.execArrive x s
  | .arriveRel x => Sys2Proof.Machine.execArriveRel x s
  | .expect x => Sys2Proof.Machine.execExpect x s
  | .waitb x => Sys2Proof.Machine.execWaitb x s
  | .join x => Sys2Proof.Machine.execJoin x s
  | .leave x => Sys2Proof.Machine.execLeave x s
  | .gbar x => Sys2Proof.Machine.execGbar x s
  | .spawn x => Sys2Proof.Machine.execSpawn x s
  | .idone x => Sys2Proof.Machine.execIdone x s
  | .claim x => Sys2Proof.Machine.execClaim x s
  | .clwait x => Sys2Proof.Machine.execClwait x s
  | .vdrain x => Sys2Proof.Machine.execVdrain x s
  | .csrr x => Sys2Proof.Machine.execCsrr x s
  | .csrw x => Sys2Proof.Machine.execCsrw x s
  | .csrs x => Sys2Proof.Machine.execCsrs x s
  | .csrc x => Sys2Proof.Machine.execCsrc x s
  | .syscall x => Sys2Proof.Machine.execSyscall x s
  | .brk x => Sys2Proof.Machine.execBrk x s
  | .xret x => Sys2Proof.Machine.execXret x s
  | .xwait x => Sys2Proof.Machine.execXwait x s
  | .xinvt x => Sys2Proof.Machine.execXinvt x s
  | .xinvta x => Sys2Proof.Machine.execXinvta x s
  | .xinvtd x => Sys2Proof.Machine.execXinvtd x s
  | .vconf x => Sys2Proof.Machine.execVconf x s
  | .vsetb x => Sys2Proof.Machine.execVsetb x s
  | .vsete x => Sys2Proof.Machine.execVsete x s
  | .vsetf x => Sys2Proof.Machine.execVsetf x s
  | .vadd x => Sys2Proof.Machine.execVadd x s
  | .vsub x => Sys2Proof.Machine.execVsub x s
  | .vmul x => Sys2Proof.Machine.execVmul x s
  | .vmulh x => Sys2Proof.Machine.execVmulh x s
  | .vmulhu x => Sys2Proof.Machine.execVmulhu x s
  | .vmin x => Sys2Proof.Machine.execVmin x s
  | .vmax x => Sys2Proof.Machine.execVmax x s
  | .vminu x => Sys2Proof.Machine.execVminu x s
  | .vmaxu x => Sys2Proof.Machine.execVmaxu x s
  | .vand x => Sys2Proof.Machine.execVand x s
  | .vor x => Sys2Proof.Machine.execVor x s
  | .vxor x => Sys2Proof.Machine.execVxor x s
  | .vsll x => Sys2Proof.Machine.execVsll x s
  | .vsrl x => Sys2Proof.Machine.execVsrl x s
  | .vsra x => Sys2Proof.Machine.execVsra x s
  | .vsadd x => Sys2Proof.Machine.execVsadd x s
  | .vssub x => Sys2Proof.Machine.execVssub x s
  | .vsaddu x => Sys2Proof.Machine.execVsaddu x s
  | .vssubu x => Sys2Proof.Machine.execVssubu x s
  | .vmadd x => Sys2Proof.Machine.execVmadd x s
  | .vmv x => Sys2Proof.Machine.execVmv x s
  | .vfadd x => Sys2Proof.Machine.execVfadd x s
  | .vfsub x => Sys2Proof.Machine.execVfsub x s
  | .vfmul x => Sys2Proof.Machine.execVfmul x s
  | .vfdiv x => Sys2Proof.Machine.execVfdiv x s
  | .vfsqrt x => Sys2Proof.Machine.execVfsqrt x s
  | .vfmin x => Sys2Proof.Machine.execVfmin x s
  | .vfmax x => Sys2Proof.Machine.execVfmax x s
  | .vfma x => Sys2Proof.Machine.execVfma x s
  | .vfms x => Sys2Proof.Machine.execVfms x s
  | .vfnma x => Sys2Proof.Machine.execVfnma x s
  | .vfabs x => Sys2Proof.Machine.execVfabs x s
  | .vfneg x => Sys2Proof.Machine.execVfneg x s
  | .vfexp2 x => Sys2Proof.Machine.execVfexp2 x s
  | .vflog2 x => Sys2Proof.Machine.execVflog2 x s
  | .vrsqe x => Sys2Proof.Machine.execVrsqe x s
  | .vceq x => Sys2Proof.Machine.execVceq x s
  | .vcne x => Sys2Proof.Machine.execVcne x s
  | .vclt x => Sys2Proof.Machine.execVclt x s
  | .vcle x => Sys2Proof.Machine.execVcle x s
  | .vcltu x => Sys2Proof.Machine.execVcltu x s
  | .vcleu x => Sys2Proof.Machine.execVcleu x s
  | .vfceq x => Sys2Proof.Machine.execVfceq x s
  | .vfclt x => Sys2Proof.Machine.execVfclt x s
  | .vfcle x => Sys2Proof.Machine.execVfcle x s
  | .vfcun x => Sys2Proof.Machine.execVfcun x s
  | .cvt x => Sys2Proof.Machine.execCvt x s
  | .cvtSr x => Sys2Proof.Machine.execCvtSr x s
  | .vqmx x => Sys2Proof.Machine.execVqmx x s
  | .vdqmx x => Sys2Proof.Machine.execVdqmx x s
  | .vexpand4 x => Sys2Proof.Machine.execVexpand4 x s
  | .vexpand6 x => Sys2Proof.Machine.execVexpand6 x s
  | .vrng x => Sys2Proof.Machine.execVrng x s
  | .vclass x => Sys2Proof.Machine.execVclass x s
  | .vslup x => Sys2Proof.Machine.execVslup x s
  | .vsldn x => Sys2Proof.Machine.execVsldn x s
  | .vbcast x => Sys2Proof.Machine.execVbcast x s
  | .vperm x => Sys2Proof.Machine.execVperm x s
  | .vcompress x => Sys2Proof.Machine.execVcompress x s
  | .vxpand x => Sys2Proof.Machine.execVxpand x s
  | .vtrans x => Sys2Proof.Machine.execVtrans x s
  | .vzip x => Sys2Proof.Machine.execVzip x s
  | .vunzip x => Sys2Proof.Machine.execVunzip x s
  | .vxch x => Sys2Proof.Machine.execVxch x s
  | .vmand x => Sys2Proof.Machine.execVmand x s
  | .vmor x => Sys2Proof.Machine.execVmor x s
  | .vmxor x => Sys2Proof.Machine.execVmxor x s
  | .vmandn x => Sys2Proof.Machine.execVmandn x s
  | .vmnot x => Sys2Proof.Machine.execVmnot x s
  | .vmpopc x => Sys2Proof.Machine.execVmpopc x s
  | .vmfirst x => Sys2Proof.Machine.execVmfirst x s
  | .vmset x => Sys2Proof.Machine.execVmset x s
  | .vredsum x => Sys2Proof.Machine.execVredsum x s
  | .vfredsum x => Sys2Proof.Machine.execVfredsum x s
  | .vredmin x => Sys2Proof.Machine.execVredmin x s
  | .vredmax x => Sys2Proof.Machine.execVredmax x s
  | .vscan x => Sys2Proof.Machine.execVscan x s
  | .vfscan x => Sys2Proof.Machine.execVfscan x s
  | .vld x => Sys2Proof.Machine.execVld x s
  | .vlds x => Sys2Proof.Machine.execVlds x s
  | .vldx x => Sys2Proof.Machine.execVldx x s
  | .vst x => Sys2Proof.Machine.execVst x s
  | .vsts x => Sys2Proof.Machine.execVsts x s
  | .vstx x => Sys2Proof.Machine.execVstx x s
  | .vstxa x => Sys2Proof.Machine.execVstxa x s
  | .vldsp x => Sys2Proof.Machine.execVldsp x s
  | .vstsp x => Sys2Proof.Machine.execVstsp x s
  | .vconfl x => Sys2Proof.Machine.execVconfl x s
  | .vldRd x => Sys2Proof.Machine.execVldRd x s
  | .vstRc x => Sys2Proof.Machine.execVstRc x s
  | .vldspRd x => Sys2Proof.Machine.execVldspRd x s
  | .vstspRc x => Sys2Proof.Machine.execVstspRc x s
  | .vldxRd x => Sys2Proof.Machine.execVldxRd x s
  | .vfence x => Sys2Proof.Machine.execVfence x s
  | .vcld x => Sys2Proof.Machine.execVcld x s
  | .vcst x => Sys2Proof.Machine.execVcst x s
  | .vcpos x => Sys2Proof.Machine.execVcpos x s
  | .vclen x => Sys2Proof.Machine.execVclen x s
  | .vcdec x => Sys2Proof.Machine.execVcdec x s
  | .vcenc x => Sys2Proof.Machine.execVcenc x s
  | .vcadd x => Sys2Proof.Machine.execVcadd x s
  | .vcsub x => Sys2Proof.Machine.execVcsub x s
  | .vcskip x => Sys2Proof.Machine.execVcskip x s
  | .vccat x => Sys2Proof.Machine.execVccat x s
  | .gdesc x => Sys2Proof.Machine.execGdesc x s
  | .gload x => Sys2Proof.Machine.execGload x s
  | .gscat x => Sys2Proof.Machine.execGscat x s
  | .gsync x => Sys2Proof.Machine.execGsync x s
  | .rcclose x => Sys2Proof.Machine.execRcclose x s
  | .rcclosesp x => Sys2Proof.Machine.execRcclosesp x s
  | .rcquery x => Sys2Proof.Machine.execRcquery x s
  | .rcquerysp x => Sys2Proof.Machine.execRcquerysp x s
  | .mcfg x => Sys2Proof.Machine.execMcfg x s
  | .msettl x => Sys2Proof.Machine.execMsettl x s
  | .mlda x => Sys2Proof.Machine.execMlda x s
  | .mldb x => Sys2Proof.Machine.execMldb x s
  | .mma x => Sys2Proof.Machine.execMma x s
  | .mopa x => Sys2Proof.Machine.execMopa x s
  | .mzero x => Sys2Proof.Machine.execMzero x s
  | .mld x => Sys2Proof.Machine.execMld x s
  | .mst x => Sys2Proof.Machine.execMst x s
  | .cpyin x => Sys2Proof.Machine.execCpyin x s
  | .cpyout x => Sys2Proof.Machine.execCpyout x s
  | .nest x => Sys2Proof.Machine.execNest x s
  | .loopb x => Sys2Proof.Machine.execLoopb x s
  | .scank x => Sys2Proof.Machine.execScank x s
  | .pftier x => Sys2Proof.Machine.execPftier x s
  | .evtier x => Sys2Proof.Machine.execEvtier x s
  | .tokpost x => Sys2Proof.Machine.execTokpost x s
  | .tokwait x => Sys2Proof.Machine.execTokwait x s
  | .efence x => Sys2Proof.Machine.execEfence x s
  | .waveForm p launch => Sys2Proof.Machine.execWaveForm p launch s
  | .copyComplete id => Sys2Proof.Machine.execCopyComplete id s
  | .scanSegmentWritten id ch => Sys2Proof.Machine.execScanSegmentWritten id ch s
  | .tierGranuleReport id => Sys2Proof.Machine.execTierGranuleReport id s
  | .matrixCommandComplete cid => Sys2Proof.Machine.execMatrixCommandComplete cid s
  | .recordSelect p => Sys2Proof.Machine.execRecordSelect p s
  | .groupMembershipTake p => Sys2Proof.Machine.execGroupMembershipTake p s
  | .priorityAging p q => Sys2Proof.Machine.execPriorityAging p q s
  | .clusterGrant p => Sys2Proof.Machine.execClusterGrant p s
  | .shutterLanesPass core => Sys2Proof.Machine.execShutterLanesPass core s
  | .shutterWindowExpiry hid => Sys2Proof.Machine.execShutterWindowExpiry hid s
  | .lanesRelease hid => Sys2Proof.Machine.execLanesRelease hid s
  | .recordComplete p launch => Sys2Proof.Machine.execRecordComplete p launch s
  | .drainRound p launch => Sys2Proof.Machine.execDrainRound p launch s
  | .pinWiden line => Sys2Proof.Machine.execPinWiden line s
  | .hartStop hid => Sys2Proof.Machine.execHartStop hid s
  | .trapEntry hid cause tval => Sys2Proof.Machine.execTrapEntry hid cause tval s
  | .interruptEntry hid => Sys2Proof.Machine.execInterruptEntry hid s
  | .asidtabWrite v => Sys2Proof.Machine.execAsidtabWrite v s
  | .release p area target => Sys2Proof.Machine.execRelease p area target s
  | .resume p area target => Sys2Proof.Machine.execResume p area target s
  | .kill p area target => Sys2Proof.Machine.execKill p area target s
  | .curasidWrite hid v => Sys2Proof.Machine.execCurasidWrite hid v s
  | .partcfgWrite p v => Sys2Proof.Machine.execPartcfgWrite p v s
  | .rcvalWrite hid v => Sys2Proof.Machine.execRcvalWrite hid v s
  | .tokvalWrite hid v => Sys2Proof.Machine.execTokvalWrite hid v s
  | .registerWrite pa v => Sys2Proof.Machine.execRegisterWrite pa v s
  | .eseqRead => Sys2Proof.Machine.execEseqRead s
  | .ltailWrite v => Sys2Proof.Machine.execLtailWrite v s
  | .patrolScrub line res => Sys2Proof.Machine.execPatrolScrub line res s
  | .flitReceive port seq ack good => Sys2Proof.Machine.execFlitReceive port seq ack good s
  | .replayRequest port seq => Sys2Proof.Machine.execReplayRequest port seq s
  | .linkRetrain port gap core => Sys2Proof.Machine.execLinkRetrain port gap core s
  | .fingerprintGo => Sys2Proof.Machine.execFingerprintGo s
  | .fingerprintIntervalExpiry => Sys2Proof.Machine.execFingerprintIntervalExpiry s
  | .fingerprintPassEnd => Sys2Proof.Machine.execFingerprintPassEnd s
  | .heatHalving p => Sys2Proof.Machine.execHeatHalving p s
  | .swapStart p => Sys2Proof.Machine.execSwapStart p s
  | .swapComplete g => Sys2Proof.Machine.execSwapComplete g s
  | .remapPinWrite g v => Sys2Proof.Machine.execRemapPinWrite g v s
  | .probe => Sys2Proof.Machine.execProbe s
  | .inval => Sys2Proof.Machine.execInval s
  | .hirqWrite v => Sys2Proof.Machine.execHirqWrite v s
  | .devnumWrite v => Sys2Proof.Machine.execDevnumWrite v s
  | .hostBar0Write a data => Sys2Proof.Machine.execHostBar0Write a data s
  | .hostBar0Read a n => Sys2Proof.Machine.execHostBar0Read a n s
  | .inboundRequest src a n op => Sys2Proof.Machine.execInboundRequest src a n op s
  | .powerLimitExceeded core => Sys2Proof.Machine.execPowerLimitExceeded core s
  | .aerError core => Sys2Proof.Machine.execAerError core s
  | .rootPortInterrupt r core => Sys2Proof.Machine.execRootPortInterrupt r core s
  | .deviceReset fail => Sys2Proof.Machine.execDeviceReset fail s
  | .functionLevelReset => Sys2Proof.Machine.execFunctionLevelReset s
  | .vectorInstructionComplete hid => Sys2Proof.Machine.execVectorInstructionComplete hid s
  | .pageTableWalk space va => Sys2Proof.Machine.execPageTableWalk space va s
  | .codeRangeCommandComplete => Sys2Proof.Machine.execCodeRangeCommandComplete s

end Sys2Proof.Machine
end

