-- ==== Sys2Proof/Machine/Run.lean ====
section
/-! DEFINITION. One turn of an agent: interrupts, stops, and the statement at the pc (spec/04 R79, spec/08 R164, spec/18 R305,
R316, spec/21 R344, R345). -/

namespace Sys2Proof.Machine

/-- The statement at the pc of the agent that moves: fetched, decoded, and executed, or the trap that stops it (R164). -/
def runStatement (s : State) : Out :=
  match s.fetchStmt s.cur s.me.pc with
  | .error e => answerStop s e
  | .ok ws =>
    let s1 := s.fetchServed s.cur s.me.pc
    match decodeOf ws with
    | .error r => rejected ws.2.isSome r s1
    | .ok i =>
      let t := { s1 with ir := ws.1 }
      match t.takesIn i with
      | some u => exec i u
      | none => .next t.waitMe
/-- A statement, and what goes on after it. -/
def runAndSettle (s : State) : Out := andThen (runStatement s) State.after

/-- An application core's turn: XWAIT, an interrupt (R305, R316), or its statement. -/
def moveApp (s : State) : Out :=
  if s.me.app.xwait then
    (if s.me.app.pending ≠ 0 then .next (s.setMe s.me.endXwait) else .next s.yieldTurn)
  else if s.me.interruptible then .next ((s.unrefuse s.cur).setMe s.me.takeInterrupt)
  else runAndSettle s
/-- A hart's turn: its vector queue goes on, a stop is taken or saved, or its statement runs. -/
def moveHart (s : State) : Out :=
  andThen (s.settleQueue s.cur) fun t =>
    match t.me.status with
    | .stopping => andThen (t.hartStop t.cur) fun u => .next u.yieldTurn
    | .running | .waiting =>
      if t.me.preempt && t.takeable t.cur then .next (t.preempted t.cur).yieldTurn
      -- the front end has stopped, and a queued LOOPB completes its iteration (R272, R345)
      else if t.me.preempt && !t.me.vec.queue.isEmpty && (t.myLhart t.cur).adm != .admitted then .next t.yieldTurn
      else runAndSettle t
    | .parked => .next (t.preempted t.cur).yieldTurn
    | .ending => .next (t.queueDone t.cur t.me.vec.passed).yieldTurn
    | .free | .held => .next t.yieldTurn
/-- The turn of the agent that moves. -/
def moveAgent (s : State) : Out :=
  let t := s.stall
  match kindOf s.cur with
  | .app => moveApp t
  | .vector | .sequencer => moveHart t
  | .none => .next t.yieldTurn

/-- An event, or a choice that the hardware makes by itself (log 1). -/
def hardware (t : Turn) (s : State) : Out :=
  match t with
  | .event i => if Instr.byItself i then exec i s else .next s
  | .agent _ => .next s
  | .icFill cache asid vline => .next (s.icTake cache asid vline)
  | .icEvict cache line => .next { s with icache := s.icache.filter fun e => !(e.cache == cache && e.line == line) }
  | .tlbEvict k => .next { s with tlb := s.tlb.eraseIdx k }
  | .tlbUse k => .next (s.tlbUse k)
  | .tlbHalf second cache asid level va => .next (s.tlbHalf second cache asid level va)
  | .tlbFill k => .next (s.tlbFill k)
  | .earlyEvict line => .next (s.evictEarly line)
  | .heat line => .next (s.fetchLine line)
  | .upsets us => .next (s.upsets us)
  | .errorResponse who pa => .next (s.errorResponse who pa)
  | .flitSend port => .next (s.flitSend port)
  | .bootStep => .next s.bootStep
  | .bar2Read off n => .next (s.bar2Read off n)
/-- While the device is halted, a reset has an effect, and the host's accesses are answered (R371). -/
def haltedTurn (t : Turn) (s : State) : Out :=
  match t with
  | .event (.deviceReset f) => exec (.deviceReset f) s
  | .event .functionLevelReset => exec .functionLevelReset s
  | .event (.hostBar0Read a n) => exec (.hostBar0Read a n) s
  | .event (.hostBar0Write a data) => exec (.hostBar0Write a data) s
  | .bar2Read off n => .next (s.bar2Read off n)
  | _ => .next s
/-- One turn of the agenda (log 1). -/
def takeTurn (t : Turn) (s : State) : Out :=
  if s.halted then haltedTurn t s
  else match t with
    | .agent hid => moveAgent { s with cur := hid }
    | _ => andThen (hardware t s) State.settleAll

end Sys2Proof.Machine
end

