-- ==== Sys2Proof/Machine/Step.lean ====
section
/-! DEFINITION. One step of the machine, and placing an instruction where the next step fetches it. -/

namespace Sys2Proof.Machine

/-- One step: time passes; then the first turn of the agenda, or without one the turn of the agent that moves (log 1). -/
def step (s : State) : Host.Outcome State Fault Refusal :=
  match s.agenda with
  | [] => if s.halted then .next s.tickOn else moveAgent s.tickOn
  | t :: r => takeTurn t { s.tickOn with agenda := r }

/-- s with the instruction of `w mod 2^nbits` at the pc of an agent that may execute it, mapped, and that agent to move
(log 22). -/
def State.withFetchWord (s : State) (nbits w : Nat) : State :=
  let v := w % 2 ^ nbits
  s.placeWord (match decodeTableWord nbits w with | some i => agentFor i s.cur | none => s.cur) v

end Sys2Proof.Machine
end

