-- ==== Sys2Proof/Safety.lean ====
section
/-! DEFINITION. The terms in which statements speak: completing a statement, the states in which issued work completes with
its instruction, what stays the same, and the results of the instructions as the tables of spec/ give them, written over
integers and bits and apart from the meanings of Machine/. -/

namespace Sys2Proof.Machine

/-! ## Completing -/

/-- The agent that moves is a vector hart, a sequencer or an application core (R7). -/
def State.agent (s : State) : Prop := kindOf s.cur ≠ .none
/-- The state in which the statement of the executing agent has completed: the hart `h` with the pc `pc`, one more in
instret (R165), and everything that is not this hart as before. -/
def State.completes (s : State) (h : Hart) (pc : Word) : State :=
  s.setMe { h with pc := pc, instret := s.me.instret + 1, status := .running }
/-- The state after a statement of one word that writes g[d]. -/
def State.writes (s : State) (d : Reg) (v : Word) : State := s.completes (s.me.setG d v) (s.me.pc + 8)
/-- Everything but the executing hart is unchanged: memory, scratchpads, counts, tokens, device registers, other harts. -/
def State.onlyMe (s t : State) : Prop := t = s.setMe t.me
/-- Length of a statement in bytes (R143, R151). -/
def lenOf (pfx : Bool) : Word := if pfx then 16 else 8

/-- Issued work completes with its instruction, and none is outstanding: no engine command, no matrix command. -/
def State.quiet (s : State) : Prop :=
  s.eager = true ∧ s.cmds = [] ∧ (∀ e ∈ s.harts, e.2.mx.queue = []) ∧ ∀ e ∈ s.tails, ∀ h ∈ e.2, h.mx.queue = []
/-- A vector hart with nothing queued, alone on its lanes, which it need not wait for, none of whose vector accesses was refused. -/
def State.vecReady (s : State) : Prop :=
  kindOf s.cur = .vector ∧ s.quiet ∧ s.me.status ≠ .free ∧ s.tailsFor s.cur = [] ∧ s.me.vec.queue = [] ∧ s.me.vec.vwait = false ∧
  ∀ p ∈ s.pins, vectorUnit s.cur ∉ p.refused
/-- A sequencer with nothing queued. -/
def State.seqReady (s : State) : Prop := kindOf s.cur = .sequencer ∧ s.quiet ∧ s.me.vec.queue = []

/-! ## Results of the scalar tables (R167 to R169) -/

/-- Quotient of R167 and R168. -/
def specDiv (a b : Word) : Word := if b = 0 then BitVec.allOnes 64 else BitVec.ofInt 64 (a.toInt.tdiv b.toInt)
/-- The register forms of R167 with two operands or one, and g[d] as a function of g[a] and g[b]. -/
def regForms : List ((AArgs → Instr) × (Word → Word → Word)) :=
  [(.add, fun a b => a + b), (.sub, fun a b => a - b), (.and, fun a b => a &&& b), (.or, fun a b => a ||| b),
   (.xor, fun a b => a ^^^ b), (.andn, fun a b => a &&& ~~~b),
   (.sll, fun a b => a <<< (b.toNat % 64)), (.srl, fun a b => a >>> (b.toNat % 64)),
   (.sra, fun a b => BitVec.ofInt 64 (a.toInt / 2 ^ (b.toNat % 64))),
   (.rol, fun a b => a <<< (b.toNat % 64) ||| a >>> (64 - b.toNat % 64)),
   (.ror, fun a b => a >>> (b.toNat % 64) ||| a <<< (64 - b.toNat % 64)),
   (.slt, fun a b => if a.toInt < b.toInt then 1 else 0), (.sltu, fun a b => if a.toNat < b.toNat then 1 else 0),
   (.min, fun a b => if a.toInt ≤ b.toInt then a else b), (.max, fun a b => if a.toInt ≤ b.toInt then b else a),
   (.minu, fun a b => if a.toNat ≤ b.toNat then a else b), (.maxu, fun a b => if a.toNat ≤ b.toNat then b else a),
   (.mul, fun a b => BitVec.ofNat 64 (a.toNat * b.toNat)),
   (.mulh, fun a b => BitVec.ofInt 64 (a.toInt * b.toInt / 2 ^ 64)),
   (.mulhu, fun a b => BitVec.ofNat 64 (a.toNat * b.toNat / 2 ^ 64)),
   (.div, specDiv), (.divu, fun a b => if b = 0 then BitVec.allOnes 64 else BitVec.ofNat 64 (a.toNat / b.toNat)),
   (.rem, fun a b => if b = 0 then a else a - specDiv a b * b),
   (.remu, fun a b => if b = 0 then a else BitVec.ofNat 64 (a.toNat % b.toNat)),
   (.clz, fun a _ => BitVec.ofNat 64 ((List.range 64).takeWhile fun i => !a.getMsbD i).length),
   (.ctz, fun a _ => BitVec.ofNat 64 ((List.range 64).takeWhile fun i => !a.getLsbD i).length),
   (.popc, fun a _ => BitVec.ofNat 64 ((List.range 64).filter fun i => a.getLsbD i).length),
   (.bswap, fun a _ => a.extractLsb' 0 8 ++ a.extractLsb' 8 8 ++ a.extractLsb' 16 8 ++ a.extractLsb' 24 8
      ++ a.extractLsb' 32 8 ++ a.extractLsb' 40 8 ++ a.extractLsb' 48 8 ++ a.extractLsb' 56 8)]
/-- The immediate forms of R169: g[d] as a function of g[a], the immediate and the address of the statement. -/
def immForms : List ((IArgs → Instr) × (Word → Word → Word → Word)) :=
  [(.addi, fun a i _ => a + i), (.andi, fun a i _ => a &&& i), (.ori, fun a i _ => a ||| i), (.xori, fun a i _ => a ^^^ i),
   (.slli, fun a i _ => a <<< i.toNat), (.srli, fun a i _ => a >>> i.toNat),
   (.srai, fun a i _ => BitVec.ofInt 64 (a.toInt / 2 ^ i.toNat)),
   (.slti, fun a i _ => if a.toInt < i.toInt then 1 else 0), (.sltiu, fun a i _ => if a.toNat < i.toNat then 1 else 0),
   (.addpc, fun _ i q => q + i)]
/-- The conditional branches and J (R173), and when each is taken. -/
def branchForms : List ((BArgs → Instr) × (Word → Word → Bool)) :=
  [(.beq, fun a b => a = b), (.bne, fun a b => a ≠ b), (.blt, fun a b => decide (a.toInt < b.toInt)),
   (.bge, fun a b => decide (b.toInt ≤ a.toInt)), (.bltu, fun a b => decide (a.toNat < b.toNat)),
   (.bgeu, fun a b => decide (b.toNat ≤ a.toNat)), (.j, fun _ _ => true)]
/-- The target of a transfer (R147, R151): the word offset counts from the statement's word, or from the qualified word of
a pair. -/
def branchTarget (pc off : Word) (pfx : Bool) : Word := pc + (if pfx then 8 else 0) + 8 * off

/-! ## Floating point (R27, R161, R170 to R172) -/

/-- The rational value of a finite value. -/
def FVal.rat : FVal → ℚ
  | .fin n m e => (if n then -1 else 1) * m * 2 ^ e
  | _ => 0
/-- The value is finite. -/
def FVal.finite : FVal → Bool
  | .fin .. => true
  | _ => false
/-- An exact operand of a rounding stands for a rational number: its sign, and its magnitude, which with `sticky` lies
strictly between two neighbouring integers of its scale. -/
def Ex.standsFor (x : Ex) (q : ℚ) : Prop :=
  (q ≠ 0 → x.neg = decide (q < 0)) ∧
  (if x.sticky then (x.m : ℚ) * 2 ^ x.e < |q| ∧ |q| < ((x.m : ℚ) + 1) * 2 ^ x.e else |q| = (x.m : ℚ) * 2 ^ x.e)
/-- The exact operand of a rounding: ± m × 2^e. -/
def FVal.exact : FVal → Ex
  | .fin n m e => ⟨n, m, e, false⟩
  | _ => ⟨false, 0, 0, false⟩
/-- A value into a format (R18, R27, R28): a NaN is the canonical one, with NV if it signals; an infinity stays, or in fp8e4m3
is a NaN with NV; a finite value is rounded. -/
def specRound (F : Fmt) (rm sub : Nat) (v : FVal) : Nat × Flags :=
  match v with
  | .nan s => (F.nan, if s then fNV else 0)
  | .inf n => if F.kind = .e4m3 then (F.nan, fNV) else (F.inf n, 0)
  | .fin .. => roundFin F rm sub v.exact
/-- The number r is q rounded to a multiple of 2^u in a mode (R27): 0 to nearest, ties to even, 1 toward zero, 2 down, 3 up, 4 to
nearest, ties away from zero. -/
def roundsOn (mode : Nat) (q : ℚ) (u : ℤ) (r : ℚ) : Prop :=
  ∃ k : ℤ, r = k * 2 ^ u ∧ match mode with
    | 1 => |r| ≤ |q| ∧ |q| < |r| + 2 ^ u ∧ 0 ≤ r * q
    | 2 => r ≤ q ∧ q < r + 2 ^ u
    | 3 => q ≤ r ∧ r < q + 2 ^ u
    | 4 => 2 * |q - r| < 2 ^ u ∨ (2 * |q - r| = 2 ^ u ∧ |q| < |r|)
    | _ => 2 * |q - r| < 2 ^ u ∨ (2 * |q - r| = 2 ^ u ∧ k % 2 = 0)
/-- The bits of a format stand for the finite number r, with the sign `neg`. -/
def Fmt.means (F : Fmt) (b : Nat) (neg : Bool) (r : ℚ) : Prop :=
  b < 2 ^ F.width ∧ (unpack F b).finite = true ∧ (unpack F b).rat = r ∧ (unpack F b).neg = neg
/-- A rational rounded to an integer in a mode (R27). -/
def roundInt (rm : Nat) (q : ℚ) : Int :=
  match rm with
  | 0 => if 2 * (q - ⌊q⌋) < 1 then ⌊q⌋ else if 1 < 2 * (q - ⌊q⌋) then ⌊q⌋ + 1 else if ⌊q⌋ % 2 = 0 then ⌊q⌋ else ⌊q⌋ + 1
  | 1 => if 0 ≤ q then ⌊q⌋ else ⌈q⌉
  | 2 => ⌊q⌋
  | 3 => ⌈q⌉
  | _ => if 0 ≤ q then ⌊q + 1 / 2⌋ else ⌈q - 1 / 2⌉
/-- A value into an integer format of w bits (R29). -/
def specToInt (w : Nat) (signed : Bool) (rm : Nat) (v : FVal) : Nat × Flags :=
  let lo : Int := if signed then -2 ^ (w - 1) else 0
  let hi : Int := if signed then 2 ^ (w - 1) - 1 else 2 ^ w - 1
  let bits (i : Int) : Nat := (BitVec.ofInt w i).toNat
  match v with
  | .nan _ => (0, fNV)
  | .inf n => (bits (if n then lo else hi), fNV)
  | .fin .. =>
    let i := roundInt rm v.rat
    if i < lo then (bits lo, fNV) else if hi < i then (bits hi, fNV) else (bits i, if (i : ℚ) = v.rat then 0 else fNX)
/-- An integer as a value. -/
def specOfInt (i : Int) : FVal := .fin (decide (i < 0)) i.natAbs 0
/-- FCVT from the format with code `src` to the one with code `dst`, of a g register (R29, R172). -/
def specFcvt (h : Hart) (dst src : Nat) (a : Word) : Nat × Flags :=
  let v : FVal := match src with
    | 4 => specOfInt (BitVec.ofNat 32 a.toNat).toInt
    | 5 => specOfInt (a.toNat % 2 ^ 32 : Nat)
    | 6 => specOfInt a.toInt
    | 7 => specOfInt a.toNat
    | _ => match fmtOf src with | some G => operand G h.fsub (a.toNat % 2 ^ G.width) | none => .nan false
  match dst with
  | 4 => let r := specToInt 32 true h.frm v; ((BitVec.ofNat 32 r.1).signExtend 64 |>.toNat, r.2)
  | 5 => specToInt 32 false h.frm v
  | 6 => specToInt 64 true h.frm v
  | 7 => specToInt 64 false h.frm v
  | _ => match fmtOf dst with | some F => specRound F h.frm h.fsub v | none => (0, 0)
/-- x orders at or below y, with −0 below +0, of two values that are no NaN (R38). -/
def FVal.atMost (x y : FVal) : Bool :=
  match x, y with
  | .inf n, .inf n' => n || !n'
  | .inf n, _ => n
  | _, .inf n => !n
  | _, _ => decide (x.rat < y.rat) || (decide (x.rat = y.rat) && (x.neg || !y.neg))
/-- The value is the slice of a number: it, rounded to bf16 toward zero (R36). -/
def sliceOf (q : ℚ) (v : FVal) : Prop :=
  ∃ e : Ex, e.sticky = false ∧ e.standsFor q ∧ v = unpack bf16 (roundFin bf16 1 0 e).1
/-- The three slices of a number (R36). -/
def slicesOf (q : ℚ) (x : Nat → FVal) : Prop :=
  sliceOf q (x 0) ∧ sliceOf (q - (x 0).rat) (x 1) ∧ sliceOf (q - (x 0).rat - (x 1).rat) (x 2)
/-- The seven digits of a number under a shared exponent, as R37 cuts them. -/
def digitsOf (q : ℚ) (E : Int) (d : Nat → Int) : Prop :=
  ∃ m : Nat → Int, m 0 = roundInt 1 (q * 2 ^ (54 - E)) ∧
    ∀ i < 7, d (6 - i) = (BitVec.ofInt 8 (m i)).toInt ∧ m (i + 1) = (m i - d (6 - i)) / 256
/-- The lesser or the greater of two operands (R38, R170): a NaN gives the canonical one; the operand chosen is as it was read,
a subnormal that reads as a zero being one. -/
def specMinMax (F : Fmt) (sub : Nat) (isMax : Bool) (a b : Nat) : Nat × Flags :=
  let x := operand F sub a
  let y := operand F sub b
  let read (v : FVal) (o : Nat) : Nat := if v.isZero then F.sign v.neg else o
  if x.isNan || y.isNan then (F.nan, if x.isSnan || y.isSnan then fNV else 0)
  else (if x.atMost y = isMax then read y b else read x a, 0)
/-- The four formats of scalar and vector arithmetic. -/
def arithFmts : List Fmt := [fp16, bf16, fp32, fp64]
/-- The scalar operations of R170 and R171 on the hart's operands, as bits: result and flags. -/
def floatForms : List ((FArgs → Instr) × (Fmt → Nat → Nat → FVal → FVal → FVal → Nat × Flags)) :=
  [(.fadd, fun F rm sub x y _ => addVal F rm sub x y), (.fsub, fun F rm sub x y _ => addVal F rm sub x y.negate),
   (.fmul, fun F rm sub x y _ => mulVal F rm sub x y), (.fdiv, fun F rm sub x y _ => divVal F rm sub x y),
   (.fsqrt, fun F rm sub x _ _ => sqrtVal F rm sub x), (.fmadd, fun F rm sub x y z => fmaVal F rm sub x y z),
   (.fmsub, fun F rm sub x y z => fmaVal F rm sub x y z.negate),
   (.feq, fun _ _ _ x y _ => (if !x.isNan && !y.isNan && eqVal x y then 1 else 0, flagIf (x.isSnan || y.isSnan) fNV)),
   (.flt, fun _ _ _ x y _ => (if !x.isNan && !y.isNan && ltVal x y then 1 else 0, flagIf (x.isNan || y.isNan) fNV)),
   (.fle, fun _ _ _ x y _ =>
      (if !x.isNan && !y.isNan && (ltVal x y || eqVal x y) then 1 else 0, flagIf (x.isNan || y.isNan) fNV))]
/-- The hart after a floating-point result: g[d] zero-extended, flags or-ed into bits 4:0 of fcsr (R166). -/
def Hart.floats (h : Hart) (d : Reg) (r : Nat × Flags) : Hart :=
  { h.setG d (BitVec.ofNat 64 r.1) with fcsr := h.fcsr ||| r.2.setWidth 64 }
/-- The class bit of R171. -/
def specClass (F : Fmt) (v : FVal) : Nat :=
  match v with
  | .inf true => 0
  | .fin true m _ => if m = 0 then 3 else if m < 2 ^ F.fbits then 2 else 1
  | .fin false m _ => if m = 0 then 4 else if m < 2 ^ F.fbits then 5 else 6
  | .inf false => 7
  | .nan true => 8
  | .nan false => 9

/-! ## Translation (R331 to R334) -/

/-- A pointer entry is well formed, where a level follows (R333 item 3). -/
def State.goodPointer (s : State) (e : Word × Word) : Prop :=
  bitsOf e.1 63 50 = 0 ∧ bitsOf e.1 15 2 = 0 ∧ e.2 = 0 ∧ s.canon (bitsOf e.1 49 16 * 65536) < localEnd
/-- A leaf of `size` bytes is well formed for an ASID of partition p (R332, R333 item 3). -/
def State.goodLeaf (s : State) (asid p size : Nat) (e : Word × Word) : Prop :=
  let base := bitsOf e.1 49 16 * 65536
  let a := s.canon base
  let cls := bitsOf e.1 4 2
  bitsOf e.1 63 50 = 0 ∧ bitsOf e.1 15 14 = 0 ∧ e.1.getLsbD 9 = false ∧ base % size = 0 ∧ cls ≤ 4 ∧
  (cls = 1 → bitsOf e.1 13 12 ≠ 3) ∧ (cls ≠ 1 → bitsOf e.1 13 10 = 0 ∧ e.2 = 0) ∧
  region a ≠ .hole ∧ (cls = 4 ↔ region a = .window) ∧
  (asid ≠ 0 → region a = .ours → s.gbase p * 2 ^ 23 ≤ a ∧ a + size ≤ (s.gbase p + s.gcount p) * 2 ^ 23)
/-- A leaf has the permissions of an access; no fetch reads a device page (R334). -/
def grantsAccess (w0 : Word) (need : Need) (user : Bool) : Bool :=
  (!user || w0.getLsbD 8) &&
    (match need with
     | .any => true
     | .r => w0.getLsbD 5
     | .w => w0.getLsbD 6
     | .rw => w0.getLsbD 5 && w0.getLsbD 6
     | .x => w0.getLsbD 7 && bitsOf w0 4 2 != 4)

/-! ## Memory -/

/-- No engine owns a line, no line is pinned or poisoned, no granule is in motion: accesses perform at once. -/
def State.calm (s : State) : Prop := s.cmds = [] ∧ s.pins = [] ∧ s.poison = [] ∧ ∀ p ∈ s.parts, p.2.swap = none
/-- Bytes written run after run. -/
def putRuns (m : List Host.Cell) : List Seg → List Byte → List Host.Cell
  | [], _ => m
  | g :: r, bs => putRuns (putBytes m g.leaf.pa (bs.take g.len)) r (bs.drop g.len)
/-- The physical address lies in one of the runs. -/
def inRuns (gs : List Seg) (a : Nat) : Prop := ∃ g ∈ gs, g.leaf.pa ≤ a ∧ a < g.leaf.pa + g.len
/-- A marked access pins the line of its run (R122, R178). -/
def State.marked (s : State) (x : MArgs) (gs : List Seg) : State :=
  match x.ar, gs with
  | true, g :: _ => s.pinLine s.cur (lineOf g.leaf.pa) x.scope.toNat
  | _, _ => s
/-- The trap that the executing agent takes at its statement: an application core vectors (R305), a vector hart or
sequencer stops (R343). -/
def State.traps (s : State) (c : Cause) (tval : Word) : State :=
  (s.dropPins s.cur).setMe
    (if kindOf s.cur = .app then s.me.enter false c.code tval s.me.pc
     else { s.me with status := .stopping, stop := some ⟨c, tval, s.me.vec.vstart, s.me.pc⟩, vec := { s.me.vec with queue := [] } })

/-! ## Vector instructions (R191 to R199) -/

/-- The hart moves past a vector instruction: pc, instret, and vstart at 0 (R165, R197); only its g registers, vector and
mask registers, fcsr and vstat may change beside them. -/
def Hart.passes (h h' : Hart) : Prop :=
  h' = { h with
    pc := h.pc + 8, instret := h.instret + 1, status := .running, g := h'.g, fcsr := h'.fcsr, vstat := h'.vstat,
    vec := { h.vec with vstart := 0, v := h'.vec.v, m := h'.vec.m } }
/-- The instruction completes, and what it leaves of its hart; nothing outside the hart changes. -/
def State.vecAnswers (s : State) (i : Instr) (P : Hart → Prop) : Prop :=
  ∃ h', exec i s = .next (s.setMe h') ∧ s.me.passes h' ∧ P h'
/-- EF of the hart's vtype. -/
def Hart.ef (h : Hart) : Nat := vtEF h.vtype
/-- Element width (R191). -/
def Hart.w (h : Hart) : Nat := efWidth h.ef
/-- The block length B of BLK (R21). -/
def Hart.blk (h : Hart) : Nat := blockLen (vtBLK h.vtype)
/-- Elements of the budget vb (R192). -/
def Hart.count (h : Hart) : Nat := if h.ef = 14 then h.vec.vb / (4 * h.blk) * h.blk else h.vec.vb / h.w
/-- Elements beside 32-bit operands (R192). -/
def Hart.count32 (h : Hart) : Nat := h.vec.vb / max h.w 32
/-- Register numbers lie below N (R155). -/
def Hart.has (h : Hart) (rs : List Reg) : Bool := rs.all fun r => decide (r.toNat < h.vec.n)
/-- Element e is active and not below vstart (R193, R197). -/
def Hart.acts (h : Hart) (me : Bool) (m : BitVec 4) (e : Nat) : Bool :=
  decide (h.vec.vstart ≤ e) && (!me || (h.mreg m.toNat).testBit e)
/-- The b operand of element e (R206): with S the low w bits of g[b]. -/
def Hart.opOf (h : Hart) (x : VArgs) (e : Nat) : Nat := if x.s then (h.getG x.b).toNat % 2 ^ h.w else h.el x.b h.w e
/-- v[d] after an instruction on n elements of w bits: active elements from f, the others as they were, fill n × w, zero
above; the flags and clamps of active elements accrue; every other register stays (R46, R193, R197, R199). -/
def Hart.elementwise (h h' : Hart) (me : Bool) (m : BitVec 4) (d : Reg) (w n : Nat) (f : Nat → ERes) : Prop :=
  let es := (List.range n).filter (h.acts me m)
  h'.vfill d = n * w ∧ h'.vbits d < 2 ^ (n * w) ∧
  (∀ e < n, h'.el d w e = if h.acts me m e then (f e).val % 2 ^ w else h.el d w e) ∧
  (∀ r, r ≠ d.toNat → h'.vreg r = h.vreg r) ∧ h'.vec.m = h.vec.m ∧ h'.g = h.g ∧
  h'.fcsr = es.foldl (fun c e => c ||| (f e).fl.setWidth 64) h.fcsr ∧
  h'.vstat = if es.any fun e => (f e).sat then h.vstat ||| 1 else h.vstat
/-- m[d] after a compare of n elements: active bits from f, the others as they were, zero above (R209). -/
def Hart.maskwise (h h' : Hart) (me : Bool) (m : BitVec 4) (d : Reg) (n : Nat) (f : Nat → Bool × Flags) : Prop :=
  (∀ e, (h'.mreg d.toNat).testBit e = (decide (e < n) && if h.acts me m e then (f e).1 else (h.mreg d.toNat).testBit e)) ∧
  (∀ r, r ≠ d.toNat → h'.mreg r = h.mreg r) ∧ h'.vec.v = h.vec.v ∧ h'.g = h.g ∧
  h'.fcsr = ((List.range n).filter (h.acts me m)).foldl (fun c e => c ||| (f e).2.setWidth 64) h.fcsr ∧ h'.vstat = h.vstat
/-- Only m[d] of the registers changes. -/
def Hart.onlyMask (h h' : Hart) (d : Reg) : Prop :=
  (∀ r, r ≠ d.toNat → h'.mreg r = h.mreg r) ∧ h'.vec.v = h.vec.v ∧ h'.g = h.g ∧ h'.fcsr = h.fcsr ∧ h'.vstat = h.vstat
/-- Only v[d] of the registers changes. -/
def Hart.onlyVReg (h h' : Hart) (d : Reg) : Prop :=
  (∀ r, r ≠ d.toNat → h'.vreg r = h.vreg r) ∧ h'.vec.m = h.vec.m ∧ h'.g = h.g

/-- A signed result clamped to w bits, and whether it clamped (R16). -/
def clampS (w : Nat) (v : Int) : BitVec w × Bool :=
  if v < -2 ^ (w - 1) then (BitVec.ofInt w (-2 ^ (w - 1)), true)
  else if 2 ^ (w - 1) ≤ v then (BitVec.ofInt w (2 ^ (w - 1) - 1), true)
  else (BitVec.ofInt w v, false)
/-- An unsigned result clamped to w bits. -/
def clampU (w : Nat) (v : Int) : BitVec w × Bool :=
  if v < 0 then (0, true) else if 2 ^ w ≤ v then (BitVec.allOnes w, true) else (BitVec.ofInt w v, false)
/-- The integer instructions of R206 with operands a and b: result and clamp of one element. -/
def vecInts : List ((VArgs → Instr) × ((w : Nat) → BitVec w → BitVec w → BitVec w × Bool)) :=
  [(.vadd, fun _ a b => (a + b, false)), (.vsub, fun _ a b => (a - b, false)), (.vmul, fun _ a b => (a * b, false)),
   (.vmulh, fun w a b => (BitVec.ofInt w (a.toInt * b.toInt / 2 ^ w), false)),
   (.vmulhu, fun w a b => (BitVec.ofNat w (a.toNat * b.toNat / 2 ^ w), false)),
   (.vmin, fun _ a b => (if b.toInt < a.toInt then b else a, false)),
   (.vmax, fun _ a b => (if a.toInt < b.toInt then b else a, false)),
   (.vminu, fun _ a b => (if b.toNat < a.toNat then b else a, false)),
   (.vmaxu, fun _ a b => (if a.toNat < b.toNat then b else a, false)),
   (.vand, fun _ a b => (a &&& b, false)), (.vor, fun _ a b => (a ||| b, false)), (.vxor, fun _ a b => (a ^^^ b, false)),
   (.vsll, fun w a b => (a <<< (b.toNat % w), false)), (.vsrl, fun w a b => (a >>> (b.toNat % w), false)),
   (.vsra, fun w a b => (BitVec.ofInt w (a.toInt / 2 ^ (b.toNat % w)), false)),
   (.vsadd, fun w a b => clampS w (a.toInt + b.toInt)), (.vssub, fun w a b => clampS w (a.toInt - b.toInt)),
   (.vsaddu, fun w a b => clampU w ((a.toNat : Int) + b.toNat)), (.vssubu, fun w a b => clampU w ((a.toNat : Int) - b.toNat))]
/-- A floating-point instruction of R207: whether it has operands b and c, whether it is of fp32 alone, and one element. -/
structure VFloat where
  ctor : VArgs → Instr
  b : Bool
  c : Bool
  only32 : Bool
  f : Fmt → Nat → Nat → Nat → Nat → Nat → Nat × Flags
/-- A function of read operands as one of bits. -/
def onVals (f : Fmt → Nat → Nat → FVal → FVal → FVal → Nat × Flags) : Fmt → Nat → Nat → Nat → Nat → Nat → Nat × Flags :=
  fun F rm sub a b c => f F rm sub (operand F sub a) (operand F sub b) (operand F sub c)
/-- The instructions of R207, R208 and R40. -/
def vecFloats : List VFloat :=
  [⟨.vfadd, true, false, false, onVals fun F rm sub x y _ => addVal F rm sub x y⟩,
   ⟨.vfsub, true, false, false, onVals fun F rm sub x y _ => addVal F rm sub x y.negate⟩,
   ⟨.vfmul, true, false, false, onVals fun F rm sub x y _ => mulVal F rm sub x y⟩,
   ⟨.vfdiv, true, false, false, onVals fun F rm sub x y _ => divVal F rm sub x y⟩,
   ⟨.vfsqrt, false, false, false, onVals fun F rm sub x _ _ => sqrtVal F rm sub x⟩,
   ⟨.vfmin, true, false, false, fun F _ sub x y _ => specMinMax F sub false x y⟩,
   ⟨.vfmax, true, false, false, fun F _ sub x y _ => specMinMax F sub true x y⟩,
   ⟨.vfma, true, true, false, onVals fun F rm sub x y z => fmaVal F rm sub x y z⟩,
   ⟨.vfms, true, true, false, onVals fun F rm sub x y z => fmaVal F rm sub x y z.negate⟩,
   ⟨.vfnma, true, true, false, onVals fun F rm sub x y z => fmaVal F rm sub x.negate y z⟩,
   ⟨.vfabs, false, false, false, onVals fun F _ _ x _ _ => signedBits F (fun _ => false) x⟩,
   ⟨.vfneg, false, false, false, onVals fun F _ _ x _ _ => signedBits F (fun v => !v.neg) x⟩,
   ⟨.vfexp2, false, false, true, onVals fun F rm sub x _ _ => exp2Val F rm sub x⟩,
   ⟨.vflog2, false, false, true, onVals fun F rm sub x _ _ => log2Val F rm sub x⟩,
   ⟨.vrsqe, true, false, true, onVals fun F rm sub x y _ => rsqeVal F rm sub x y⟩]
/-- The integer compares of R209. -/
def vecCompares : List ((VArgs → Instr) × ((w : Nat) → BitVec w → BitVec w → Bool)) :=
  [(.vceq, fun _ a b => a = b), (.vcne, fun _ a b => a ≠ b), (.vclt, fun _ a b => decide (a.toInt < b.toInt)),
   (.vcle, fun _ a b => decide (a.toInt ≤ b.toInt)), (.vcltu, fun _ a b => decide (a.toNat < b.toNat)),
   (.vcleu, fun _ a b => decide (a.toNat ≤ b.toNat))]
/-- The floating-point compares of R209, and whether a quiet NaN raises NV too. -/
def vecFCompares : List ((VArgs → Instr) × (FVal → FVal → Bool) × Bool) :=
  [(.vfceq, (fun a b => !a.isNan && !b.isNan && eqVal a b), false), (.vfclt, (fun a b => !a.isNan && !b.isNan && ltVal a b), true),
   (.vfcle, (fun a b => !a.isNan && !b.isNan && (ltVal a b || eqVal a b)), true), (.vfcun, (fun a b => a.isNan || b.isNan), false)]

/-- The uses of the register-only vector instructions that their rows do not call illegal (R155, R197, R205 to R222,
R227). -/
def Hart.legal (h : Hart) (i : Instr) : Bool :=
  let ef := h.ef
  let int := decide (ef ≤ 7)
  let fp := decide (10 ≤ ef) && decide (ef ≤ 13)
  let fixed := decide (ef ≤ 15)
  let fresh := h.vec.vstart == 0
  match i with
  | .vsetf x => h.has [x.d]
  | .vadd x | .vsub x | .vmul x | .vmulh x | .vmulhu x | .vmin x | .vmax x | .vminu x | .vmaxu x | .vand x | .vor x | .vxor x
  | .vsll x | .vsrl x | .vsra x | .vsadd x | .vssub x | .vsaddu x | .vssubu x => int && h.has [x.d, x.a] && (x.s || h.has [x.b])
  | .vmadd x => int && h.has [x.d, x.a, x.c] && (x.s || h.has [x.b])
  | .vmv x => int && h.has [x.d, x.a]
  | .vfadd x | .vfsub x | .vfmul x | .vfdiv x | .vfmin x | .vfmax x => fp && h.has [x.d, x.a] && (x.s || h.has [x.b])
  | .vfma x | .vfms x | .vfnma x => fp && h.has [x.d, x.a, x.c] && (x.s || h.has [x.b])
  | .vfsqrt x | .vfabs x | .vfneg x | .vclass x => fp && h.has [x.d, x.a]
  | .vfexp2 x | .vflog2 x => ef == 12 && h.has [x.d, x.a]
  | .vrsqe x => ef == 12 && h.has [x.d, x.a] && (x.s || h.has [x.b])
  | .vceq x | .vcne x | .vclt x | .vcle x | .vcltu x | .vcleu x => int && h.has [x.a] && (x.s || h.has [x.b])
  | .vfceq x | .vfclt x | .vfcle x | .vfcun x => fp && h.has [x.a] && (x.s || h.has [x.b])
  | .cvt x => decide (ef ≤ 13) && decide (x.c.toNat ≤ 13) && x.c.toNat != ef && h.has [x.d, x.a]
  | .cvtSr x => decide (8 ≤ ef) && decide (ef ≤ 12) && decide (10 ≤ x.c.toNat) && decide (x.c.toNat ≤ 13) && x.c.toNat != ef
      && h.has [x.d, x.a, x.b]
  | .vqmx x => fresh && ef == 14 && decide (10 ≤ x.c.toNat) && decide (x.c.toNat ≤ 12) && h.has [x.d, x.a, x.b] && x.b != x.a
      && x.b != x.d
  | .vdqmx x => fresh && ef == 14 && decide (10 ≤ x.c.toNat) && decide (x.c.toNat ≤ 12) && h.has [x.d, x.a, x.b] && x.b != x.a
  | .vexpand4 x => ef == 8 && h.has [x.d, x.a]
  | .vexpand6 x => ef == (if x.c = 0 then 9 else 8) && h.has [x.d, x.a]
  | .vrng x => int && h.has [x.d]
  | .vslup x | .vsldn x => fixed && (insertVal ef x.c.toNat).isSome && h.has [x.d, x.a]
  | .vbcast x => fixed && h.has [x.d]
  | .vxpand x => fixed && h.has [x.d, x.a]
  | .vperm x | .vzip x | .vunzip x => fixed && fresh && h.has [x.d, x.a, x.b]
  | .vcompress x | .vxch x => fixed && fresh && h.has [x.d, x.a]
  | .vtrans x => fixed && fresh && x.d.toNat % 8 == 0 && decide (x.d.toNat + 7 < h.vec.n) &&
      (if ef = 14 then h.vec.vb % (32 * h.blk) == 0 && h.has [x.a] && !(decide (x.d.toNat ≤ x.a.toNat) && decide (x.a.toNat < x.d.toNat + 8))
       else h.vec.vb % (8 * h.w) == 0 && x.a == 0)
  | .vmand _ | .vmor _ | .vmxor _ | .vmandn _ | .vmnot _ | .vmpopc _ | .vmfirst _ | .vmset _ => fresh
  | .vredsum x | .vscan x => int && fresh && h.has [x.d, x.a] && (x.c.getLsbD 2 || h.has [x.b])
  | .vfredsum x | .vfscan x => fp && fresh && h.has [x.d, x.a] && (x.c.getLsbD 2 || h.has [x.b])
  | .vredmin x | .vredmax x => (int || fp) && fresh && h.has [x.d, x.a] && (x.c.getLsbD 2 || h.has [x.b])
  | .vconfl x => fixed && fresh && h.has [x.a]
  | _ => false
/-- The register-only vector instructions. -/
def registerOnly (i : Instr) : Bool :=
  match i with
  | .vsetf _ | .vadd _ | .vsub _ | .vmul _ | .vmulh _ | .vmulhu _ | .vmin _ | .vmax _ | .vminu _ | .vmaxu _ | .vand _ | .vor _
  | .vxor _ | .vsll _ | .vsrl _ | .vsra _ | .vsadd _ | .vssub _ | .vsaddu _ | .vssubu _ | .vmadd _ | .vmv _ | .vfadd _ | .vfsub _
  | .vfmul _ | .vfdiv _ | .vfsqrt _ | .vfmin _ | .vfmax _ | .vfma _ | .vfms _ | .vfnma _ | .vfabs _ | .vfneg _ | .vfexp2 _
  | .vflog2 _ | .vrsqe _ | .vceq _ | .vcne _ | .vclt _ | .vcle _ | .vcltu _ | .vcleu _ | .vfceq _ | .vfclt _ | .vfcle _ | .vfcun _
  | .cvt _ | .cvtSr _ | .vqmx _ | .vdqmx _ | .vexpand4 _ | .vexpand6 _ | .vrng _ | .vclass _ | .vslup _ | .vsldn _ | .vbcast _
  | .vperm _ | .vcompress _ | .vxpand _ | .vtrans _ | .vzip _ | .vunzip _ | .vxch _ | .vmand _ | .vmor _ | .vmxor _ | .vmandn _
  | .vmnot _ | .vmpopc _ | .vmfirst _ | .vmset _ | .vredsum _ | .vfredsum _ | .vredmin _ | .vredmax _ | .vscan _ | .vfscan _
  | .vconfl _ => true
  | _ => false
/-- The slides, broadcasts and permutations of R217 that write element by element: elements, and element e. -/
def vecPermutes : List ((VArgs → Instr) × (VArgs → Hart → Nat) × (VArgs → Hart → Nat → Nat)) :=
  [(.vslup, (fun _ h => h.count), fun x h e =>
      if (h.getG x.b).toNat ≤ e then h.el x.a h.w (e - (h.getG x.b).toNat) else (insertVal h.ef x.c.toNat).getD 0),
   (.vsldn, (fun _ h => h.count), fun x h e =>
      if e + (h.getG x.b).toNat < h.count then h.el x.a h.w (e + (h.getG x.b).toNat) else (insertVal h.ef x.c.toNat).getD 0),
   (.vbcast, (fun _ h => h.count), fun x h _ => (h.getG x.a).toNat % 2 ^ h.w),
   (.vxpand, (fun _ h => h.count), fun x h e =>
      h.el x.a h.w ((List.range e).filter fun i => !x.me || (h.mreg x.m.toNat).testBit i).length),
   (.vperm, (fun _ h => h.count32), fun x h e => if h.el x.b 32 e < h.count32 then h.el x.a h.w (h.el x.b 32 e) else 0),
   (.vzip, (fun _ h => h.count), fun x h e =>
      let i := e / 2 + x.c.toNat * (h.count / 2)
      if h.count ≤ i then 0 else if e % 2 = 0 then h.el x.a h.w i else h.el x.b h.w i),
   (.vunzip, (fun _ h => h.count), fun x h e =>
      let i := 2 * e + x.c.toNat
      if i < h.count then h.el x.a h.w i else if i < 2 * h.count then h.el x.b h.w (i - h.count) else 0),
   (.vxch, (fun _ h => h.count), fun x h e =>
      if e ^^^ (h.getG x.b).toNat < h.count then h.el x.a h.w (e ^^^ (h.getG x.b).toNat) else 0)]
/-- Positions of a mask instruction (R221): the elements, or under the coded format the bits of vb that a mask holds. -/
def Hart.places (h : Hart) : Nat := if h.ef = 16 then min h.vec.vb (vbmax h.share h.vec.n / 4) else h.count
/-- The combinations of R221. -/
def maskForms : List ((VArgs → Instr) × (Bool → Bool → Bool)) :=
  [(.vmand, fun a b => a && b), (.vmor, fun a b => a || b), (.vmxor, fun a b => a != b), (.vmandn, fun a b => a && !b),
   (.vmnot, fun a _ => !a)]
/-- The active set bits of m[a] (R221). -/
def Hart.marks (h : Hart) (x : VArgs) : List Nat :=
  (List.range h.places).filter fun e => (h.mreg x.a.toNat).testBit e && (!x.me || (h.mreg x.m.toNat).testBit e)
/-- The active elements of v[a]. -/
def Hart.lively (h : Hart) (x : VArgs) : List Nat :=
  (List.range h.count).filter fun e => !x.me || (h.mreg x.m.toNat).testBit e

/-! ## Conversions, blocks and trees (R16, R19, R20, R29, R38, R39, R211, R213) -/

/-- CVT of one element (R16, R29, R211). -/
def specConvert (src dst rm sub : Nat) (b : Nat) : ERes :=
  let int (c : Nat) : Option (Nat × Bool) := if c ≤ 7 then some (efWidth c, c % 2 == 0) else none
  let num (w : Nat) (signed : Bool) : Int := if signed then (BitVec.ofNat w b).toInt else b
  match int src, int dst with
  | some (w, sg), some (w', sg') =>
    let r := if sg' then clampS w' (num w sg) else clampU w' (num w sg)
    ⟨r.1.toNat, 0, r.2⟩
  | some (w, sg), none => match fmtOf dst with
    | some F => let r := specRound F rm sub (specOfInt (num w sg)); ⟨r.1, r.2, false⟩
    | none => ⟨0, 0, false⟩
  | none, some (w', sg') => match fmtOf src with
    | some G => let r := specToInt w' sg' rm (operand G sub b); ⟨r.1, r.2, false⟩
    | none => ⟨0, 0, false⟩
  | none, none => match fmtOf src, fmtOf dst with
    | some G, some F => let r := specRound F rm sub (operand G sub b); ⟨r.1, r.2, false⟩
    | _, _ => ⟨0, 0, false⟩
/-- v / 2^s, as the operand of a rounding. -/
def FVal.over (v : FVal) (s : Int) : Ex := { v.exact with e := v.exact.e - s }
/-- A block of source values and its scale byte, elements and flags (R20): the least s with every |x| ≤ 6 × 2^s, held
within −127 and 127, −127 where every value is 0. -/
def specBlock (rm : Nat) (xs : List FVal) (r : Nat × List Nat × Flags) : Prop :=
  if xs.any fun v => v.isNan || v.isInf then r = (0xFF, xs.map fun _ => 0, fNV)
  else ∃ s : Int, -127 ≤ s ∧ s ≤ 127 ∧ (r.1 : Int) = s + 127 ∧
    (s = 127 ∨ ∀ v ∈ xs, |v.rat| ≤ 6 * 2 ^ s) ∧ (s = -127 ∨ ∃ v ∈ xs, 6 * 2 ^ (s - 1) < |v.rat|) ∧
    r.2.1 = xs.map (fun v => (roundFin fpE2M1 rm 0 (v.over s)).1) ∧
    r.2.2 = xs.foldl (fun f v => f ||| (roundFin fpE2M1 rm 0 (v.over s)).2) 0
/-- An element of a block: E2M1 × 2^(scale − 127), and the canonical NaN under scale 0xFF (R19, R213). -/
def specMx (F : Fmt) (rm sub el scale : Nat) : Nat × Flags :=
  if scale = 0xFF then (F.nan, 0) else roundFin F rm sub ((unpack fpE2M1 el).over (127 - scale))
/-- Position i at a level of the tree of R38. -/
def treeSpec {α : Type} (op : α → α → α) (x : Nat → α) : Nat → Nat → α
  | 0, i => x i
  | l + 1, i => op (treeSpec op x l (2 * i)) (treeSpec op x l (2 * i + 1))
/-- The groups of 32 combined in ascending order from an initial value (R38). -/
def reduceSpec {α : Type} (op : α → α → α) (x : Nat → α) (init : α) : Nat → α
  | 0 => init
  | j + 1 => op (reduceSpec op x init j) (treeSpec op (fun i => x (32 * j + i)) 5 0)
/-- Position i of a group at a level of the scan of R39. -/
def scanLevelSpec {α : Type} (op : α → α → α) (x : Nat → α) : Nat → Nat → α
  | 0, i => x i
  | l + 1, i => if i < 2 ^ l then scanLevelSpec op x l i else op (scanLevelSpec op x l (i - 2 ^ l)) (scanLevelSpec op x l i)
/-- The carry into group j of a scan (R39). -/
def scanCarry {α : Type} (op : α → α → α) (x : Nat → α) (init : α) : Nat → α
  | 0 => init
  | j + 1 => op (scanCarry op x init j) (scanLevelSpec op (fun i => x (32 * j + i)) 5 31)
/-- Element e of a scan (R39). -/
def scanSpec {α : Type} (op : α → α → α) (x : Nat → α) (init : α) (e : Nat) : α :=
  op (scanCarry op x init (e / 32)) (scanLevelSpec op (fun i => x (32 * (e / 32) + i)) 5 (e % 32))
/-- The operations of reductions and scans, 0 sum, 1 minimum, 2 maximum: result, and the flags so far (R38, R222). -/
def Hart.fold (h : Hart) (k : Nat) (a b : Nat × Flags) : Nat × Flags :=
  let num (v : Nat) : Int := if h.ef % 2 = 0 then (BitVec.ofNat h.w v).toInt else v
  let r : Nat × Flags := match fmtOf h.ef with
    | some F => match k with
      | 0 => addVal F (vtRM h.vtype) (vtSUB h.vtype) (operand F (vtSUB h.vtype) a.1) (operand F (vtSUB h.vtype) b.1)
      | 1 => specMinMax F (vtSUB h.vtype) false a.1 b.1
      | _ => specMinMax F (vtSUB h.vtype) true a.1 b.1
    | none => match k with
      | 0 => ((a.1 + b.1) % 2 ^ h.w, 0)
      | 1 => (if num b.1 < num a.1 then b.1 else a.1, 0)
      | _ => (if num a.1 < num b.1 then b.1 else a.1, 0)
  (r.1, a.2 ||| b.2 ||| r.2)
/-- The identities of the operations (R38). -/
def Hart.unit (h : Hart) (k : Nat) : Nat :=
  match fmtOf h.ef with
  | some F => match k with | 0 => F.sign true | 1 => F.inf false | _ => F.inf true
  | none => match k with
    | 0 => 0
    | 1 => if h.ef % 2 = 0 then 2 ^ (h.w - 1) - 1 else 2 ^ h.w - 1
    | _ => if h.ef % 2 = 0 then 2 ^ (h.w - 1) else 0
/-- Element e as a reduction or scan reads it: an inactive one, and one beyond the budget, is the identity (R38). -/
def Hart.folded (h : Hart) (x : VArgs) (k e : Nat) : Nat × Flags := (if e ∈ h.lively x then h.el x.a h.w e else h.unit k, 0)
/-- The initial value (R222). -/
def Hart.foldInit (h : Hart) (x : VArgs) (k : Nat) : Nat × Flags := (if x.c.getLsbD 2 then h.unit k else h.el x.b h.w 0, 0)

/-! ## Who has an instruction (R158) -/

/-- Instructions of vector harts alone. -/
def vectorOnly (i : Instr) : Bool :=
  registerOnly i || match i with
  | .vdrain _ | .vconf _ | .vsetb _ | .vsete _ | .vld _ | .vlds _ | .vldx _ | .vst _ | .vsts _ | .vstx _ | .vstxa _ | .vldsp _
  | .vstsp _ | .vldRd _ | .vstRc _ | .vldspRd _ | .vstspRc _ | .vldxRd _ | .vfence _ | .vcld _ | .vcst _ | .vcpos _ | .vclen _
  | .vcdec _ | .vcenc _ | .vcadd _ | .vcsub _ | .vcskip _ | .vccat _ | .gdesc _ | .gload _ | .gscat _ | .gsync _ => true
  | _ => false
/-- Instructions of sequencers alone. -/
def sequencerOnly (i : Instr) : Bool :=
  match i with
  | .mcfg _ | .msettl _ | .mlda _ | .mldb _ | .mma _ | .mopa _ | .mzero _ | .mld _ | .mst _ => true
  | _ => false
/-- Instructions that application cores do not have and the other agents do. -/
def hartsOnly (i : Instr) : Bool :=
  match i with
  | .join _ | .leave _ | .gbar _ | .idone _ | .claim _ | .clwait _ | .rcclose _ | .rcclosesp _ | .rcquery _ | .rcquerysp _
  | .cpyin _ | .cpyout _ | .nest _ | .loopb _ | .scank _ | .pftier _ | .evtier _ | .tokpost _ | .tokwait _ | .efence _ => true
  | _ => false

/-! ## Atomics and barrier objects -/

/-- The AMOs of R182 but AMOFADD: the value written, if any, from the old value, g[b] and g[d]. -/
def amoForms : List ((AmoArgs → Instr) × ((w : Nat) → BitVec w → BitVec w → BitVec w → Option (BitVec w))) :=
  [(.amoswap, fun _ _ y _ => some y), (.amoadd, fun _ o y _ => some (o + y)), (.amoand, fun _ o y _ => some (o &&& y)),
   (.amoor, fun _ o y _ => some (o ||| y)), (.amoxor, fun _ o y _ => some (o ^^^ y)),
   (.amomin, fun _ o y _ => some (if o.toInt < y.toInt then o else y)),
   (.amomax, fun _ o y _ => some (if o.toInt < y.toInt then y else o)),
   (.amominu, fun _ o y _ => some (if o.toNat < y.toNat then o else y)),
   (.amomaxu, fun _ o y _ => some (if o.toNat < y.toNat then y else o)),
   (.amocas, fun _ o y c => if o = c then some y else none)]
/-- A barrier object as its words give it (R124). -/
structure Barrier where
  phase : Nat
  expd : Nat
  arrived : Nat
  posted : Bool
  bexp : Nat
  barr : Nat
  err : Nat
  bc : Bool
deriving DecidableEq, Repr
/-- The object at a physical address. -/
def State.barrier (s : State) (pa : Nat) : Barrier :=
  { phase := bitsOf (s.rd64 pa) 31 0, expd := bitsOf (s.rd64 (pa + 8)) 31 0, arrived := bitsOf (s.rd64 (pa + 16)) 31 0,
    posted := (s.rd64 (pa + 24)).getLsbD 63, bexp := bitsOf (s.rd64 (pa + 24)) 62 0, barr := (s.rd64 (pa + 32)).toNat,
    err := bitsOf (s.rd64 (pa + 40)) 10 8, bc := (s.rd64 (pa + 40)).getLsbD 0 }
/-- Every Zero field of the object is 0. -/
def State.barrierClean (s : State) (pa : Nat) : Prop :=
  bitsOf (s.rd64 pa) 63 32 = 0 ∧ bitsOf (s.rd64 (pa + 8)) 63 32 = 0 ∧ bitsOf (s.rd64 (pa + 16)) 63 32 = 0 ∧
  bitsOf (s.rd64 (pa + 40)) 63 11 = 0 ∧ bitsOf (s.rd64 (pa + 40)) 7 1 = 0 ∧ s.rd64 (pa + 48) = 0 ∧ s.rd64 (pa + 56) = 0
/-- What an action does first (R125). -/
def Barrier.takes (o : Barrier) (a : BAct) : Barrier :=
  match a with
  | .arrive => if o.arrived = o.expd then { o with err := 3 } else { o with arrived := (o.arrived + 1) % 2 ^ 32 }
  | .report n => { o with barr := (o.barr + n) % 2 ^ 64 }
  | .expect n =>
    if !o.bc then { o with err := 1 }
    else if o.posted ∨ n.toNat < o.barr then { o with err := 2 }
    else { o with bexp := n.toNat, posted := true }
/-- Excess bytes, then the end of the phase (R125). -/
def Barrier.closes (o : Barrier) : Barrier :=
  let o := if o.err = 0 ∧ o.posted ∧ o.bexp < o.barr then { o with err := 2 } else o
  if o.err = 0 ∧ o.arrived = o.expd ∧ (!o.bc ∨ (o.posted ∧ o.barr = o.bexp)) then
    { o with phase := (o.phase + 1) % 2 ^ 32, arrived := 0, barr := 0, bexp := 0, posted := false }
  else o

/-! ## CSRs (R156, R189, R305, R306) -/

/-- The user CSRs of vector harts, sequencers and application cores (R156). -/
def userCsrs (k : Kind) : List Nat :=
  let all := [0x010, 0x020, 0x021, 0x022, 0x023, 0x030, 0x031, 0x032]
  match k with
  | .vector => [0x000, 0x001, 0x002, 0x003, 0x004, 0x005, 0x008, 0x009, 0x00A, 0x00B] ++ all
  | .sequencer => [0x000, 0x004] ++ all
  | .app => all
  | .none => []
/-- What a read of a user CSR returns (R156). -/
def State.csrValue (s : State) (n : Nat) : Word :=
  let h := s.me
  match n with
  | 0x000 => h.vtype
  | 0x001 => BitVec.ofNat 64 h.vec.vb
  | 0x002 => BitVec.ofNat 64 (vbmax h.share h.vec.n)
  | 0x003 => BitVec.ofNat 64 h.vec.vstart
  | 0x004 => h.vstat
  | 0x005 => h.vec.vfbthr
  | 0x008 => h.vec.vgn
  | 0x009 => h.vec.vga
  | 0x00A => h.vec.vgb
  | 0x00B => h.vec.vgo
  | 0x010 => h.fcsr
  | 0x020 => if kindOf s.cur = .app then s.app else s.arith
  | 0x021 => h.instret
  | 0x022 => h.fstall
  | 0x023 => h.ostall
  | 0x030 => BitVec.ofNat 64 s.cur
  | 0x031 => if kindOf s.cur = .vector then BitVec.ofNat 64 (coreOf s.cur) else BitVec.allOnes 64
  | _ => if kindOf s.cur = .app then BitVec.allOnes 64 else BitVec.ofNat 64 (clusterOf s.cur)
/-- The hart after a write of a user CSR: Zero fields drop out, reserved values of fcsr read as 0, and a read-only CSR
ignores the write (R3, R25, R52, R156, R157). -/
def Hart.putCsr (h : Hart) (n : Nat) (v : Word) : Hart :=
  match n with
  | 0x000 => { h with vtype := v }
  | 0x003 => { h with vec := { h.vec with vstart := v.toNat } }
  | 0x004 => { h with vstat := v &&& 0x1F }
  | 0x005 => { h with vec := { h.vec with vfbthr := v &&& 0x1FFFFFFFF } }
  | 0x008 => { h with vec := { h.vec with vgn := v &&& 0x7FFFF } }
  | 0x009 => { h with vec := { h.vec with vga := v &&& 0x7FFFF } }
  | 0x00A => { h with vec := { h.vec with vgb := v &&& 0x7FFFF } }
  | 0x00B => { h with vec := { h.vec with vgo := v &&& 0x7FFFF } }
  | 0x010 =>
    let sub := if bitsOf v 9 8 = 3 then 0 else bitsOf v 9 8
    let rm := if 4 < bitsOf v 7 5 then 0 else bitsOf v 7 5
    { h with fcsr := BitVec.ofNat 64 (sub * 256 + rm * 32 + bitsOf v 4 0) }
  | _ => h
/-- The privileged CSRs that lie in one core, with their reads and their writes (R305, R306, R313, R314). -/
def coreCsrs : List (Nat × (AppCore → Word) × (AppCore → Word → AppCore)) :=
  [(0x100, AppCore.xstatus, fun x v => { x with xstatus := (v &&& 0xE) ||| (x.xstatus &&& 1) }),
   (0x101, AppCore.xepc, fun x v => { x with xepc := v &&& 0xFFFFFFFFFFFFFFF8 }),
   (0x102, AppCore.xcause, fun x v => { x with xcause := v &&& 0x800000000000FFFF }),
   (0x103, AppCore.xtval, fun x v => { x with xtval := v }),
   (0x104, AppCore.xvec, fun x v => { x with xvec := v &&& 0xFFFFFFFFFFFFFF80 }),
   (0x105, AppCore.xscratch, fun x v => { x with xscratch := v }),
   (0x111, AppCore.curasid, fun x v => { x with curasid := v &&& 0x7FF }),
   (0x112, AppCore.curpart, fun x v => { x with curpart := v &&& 3 }),
   (0x150, AppCore.rcaddr, fun x v => { x with rcaddr := v &&& (if v.getLsbD 63 then 0x80000000FFFFFF80 else 0x0003FFFFFFFFFF80) }),
   (0x152, AppCore.tokaddr, fun x v => { x with tokaddr := v &&& 0xFFF })]
/-- A partcfg word that R309 refuses on its own. -/
def badPartcfg (v : Word) : Prop :=
  bitsOf v 62 61 ≠ 0 ∨ bitsOf v 18 0 ≠ 0 ∨
  (v.getLsbD 63 = true ∧ (bitsOf v 59 56 = 0 ∨ bitsOf v 55 37 = 0 ∨ 262144 < bitsOf v 36 19 + bitsOf v 55 37))
/-- Two partcfg words share a quadrant or a group (R309). -/
def partsMeet (v w : Word) : Prop :=
  (∃ q < 4, v.getLsbD (56 + q) = true ∧ w.getLsbD (56 + q) = true) ∨
  (bitsOf v 36 19 < bitsOf w 36 19 + bitsOf w 55 37 ∧ bitsOf w 36 19 < bitsOf v 36 19 + bitsOf v 55 37)
/-- A partition has a record in a queue or a hart placed. -/
def State.partInUse (s : State) (p : Nat) : Prop :=
  (∃ q ∈ (s.part p).queues, q.2.recs ≠ []) ∨ ∃ e ∈ s.harts, e.1 < appBase ∧ e.2.status ≠ .free ∧ e.2.status ≠ .held ∧ e.2.part = p

/-- A translation that f covers is in use: an engine command, a queued vector instruction, one of an ended hart, or a held store
has an entry of it that its walk read (R317, R335, R338). -/
def State.holdsEntry (s : State) (f : TlbEntry → Bool) : Prop :=
  ∃ e : TlbEntry, f e = true ∧
    ((∃ c ∈ s.cmds, e ∈ c.held) ∨ (∃ h ∈ s.harts, ∃ q ∈ h.2.vec.queue, e ∈ q.xl) ∨
      (∃ x ∈ s.tails, ∃ h ∈ x.2, ∃ q ∈ h.vec.queue, e ∈ q.xl) ∨ ∃ r ∈ s.recs, ∃ l ∈ r.lh, e ∈ l.2.xl)

/-! ## Deterministic mode and groups -/

/-- The record of the executing hart, if any, is not in deterministic mode, and the hart holds no store back (R127). -/
def State.undeferred (s : State) : Prop :=
  ∀ r, s.recOf s.me.part s.me.launch = some r → r.sr.det = false ∧ (r.lhart s.me.logical).held = []
/-- The name of the executing hart in a group. -/
def State.myName (s : State) : Nat × Nat := (s.me.launch, s.me.logical)
/-- Every member of a group has arrived, and what each contributed has drained (R70, R128). -/
def State.phaseDue (s : State) (p : Nat) (y : Grp) : Bool := y.members.all fun m => y.arrived.contains m && s.drainedAll p m
/-- No hart is in two groups of a partition (R69). -/
def State.groupsApart (s : State) (p : Nat) : Prop :=
  (s.groups.map fun z => (z.part, z.id)).Nodup ∧ ∀ z ∈ s.groups, ∀ y ∈ s.groups, z.part = p → y.part = p → z.id ≠ y.id →
    ∀ m ∈ z.members ++ z.arrived, m ∉ y.members ++ y.arrived
/-- A phase of a group completes (R70). -/
def Grp.completed (y : Grp) : Grp := { y with phase := y.phase + 1, arrived := [] }
/-- A start record that R61 calls malformed: a Zero field, or a field whose value its row excludes. -/
def badStart (bs : List Byte) : Prop :=
  let w (o : Nat) : Word := BitVec.ofNat 64 (natOfBytes ((bs.drop o).take 8))
  let ctl := w 0x10
  let nest := ctl.getLsbD 18 = true
  let dims := bitsOf ctl 24 22
  let bound (d : Nat) := (w (0x40 + 8 * d)).toNat
  bitsOf (w 0x18) 63 16 ≠ 0 ∨ natOfBytes ((bs.drop 0x34).take 4) ≠ 0 ∨ natOfBytes ((bs.drop 0x70).take 16) ≠ 0 ∨
  bitsOf ctl 63 45 ≠ 0 ∨ ctl.getLsbD 11 = true ∨ (w 0).toNat % 8 ≠ 0 ∨ (w 0x38).toNat % 64 ≠ 0 ∨
  (1 ≤ bitsOf ctl 44 26 ∧ bitsOf ctl 44 26 ≤ 127) ∨
  (¬ nest ∧ (dims ≠ 0 ∨ bitsOf ctl 21 20 ≠ 0 ∨ ctl.getLsbD 19 = true)) ∨ (nest ∧ (dims = 0 ∨ dims = 7)) ∨
  (∃ d < min dims 6, 2 ^ 32 < bound d) ∨ (∃ d < 6, dims ≤ d ∧ bound d ≠ 0) ∨
  2 ^ 48 < ((List.range (min dims 6)).map bound).prod ∨
  (ctl.getLsbD 25 = true ∧ (nest ∨ bitsOf ctl 16 15 ≠ 0 ∨ bitsOf ctl 44 26 ≠ 0)) ∨
  (ctl.getLsbD 19 = true ∧ ∃ c < 160, ∃ c' < c, (natOfBytes ((bs.drop 0x20).take 20)).testBit c = true ∧
    (natOfBytes ((bs.drop 0x20).take 20)).testBit c' = true)

/-! ## Vector memory (R223 to R230) -/

/-- Where element e of a unit-stride (0), strided (1) or indexed (2) access lies: the byte address, and the bit in it. -/
def Hart.place (h : Hart) (x : MArgs) (form e : Nat) : Nat × Nat :=
  let ea := h.getG x.a + x.disp.signExtend 64
  match form with
  | 0 => ((ea.toNat + e * h.w / 8) % 2 ^ 64, e * h.w % 8)
  | 1 => ((ea + BitVec.ofNat 64 e * h.getG x.b).toNat, 0)
  | _ => ((ea + BitVec.ofNat 64 (h.el x.b 32 e * (if x.sc then h.w / 8 else 1))).toNat, 0)
/-- Elements of an access: beside 32-bit indices, or of the budget. -/
def Hart.many (h : Hart) (form : Nat) : Nat := if form = 2 then h.count32 else h.count
/-- Bytes that w bits from a bit on touch. -/
def bytesAt (off w : Nat) : Nat := (off + w + 7) / 8
/-- The use is not illegal: a fixed-width format, mxfp4 in unit stride alone, registers below N. -/
def Hart.memLegal (h : Hart) (x : MArgs) (form : Nat) : Bool :=
  decide (h.ef ≤ 15) && (form == 0 || h.ef != 14) && h.has [x.d] && (form != 2 || h.has [x.b])
/-- The physical bytes of located runs. -/
def cellsOf (gs : List Seg) : List Nat := gs.flatMap fun g => (List.range g.len).map (g.leaf.pa + ·)
/-- w bits of memory from a bit of located runs on. -/
def State.valueAt (s : State) (gs : List Seg) (off w : Nat) : Nat := natOfBytes ((cellsOf gs).map s.rd8) / 2 ^ off % 2 ^ w
/-- The active elements from vstart on. -/
def Hart.doing (h : Hart) (me : Bool) (m : BitVec 4) (n : Nat) : List Nat := (List.range n).filter (h.acts me m)
/-- Bit j of the byte at a after stores of w bits, in order: each with its bytes, its first bit, and its value. -/
def storedBit (w : Nat) (es : List (List Nat × Nat × Nat)) (a j : Nat) (b : Bool) : Bool :=
  es.foldl (fun b p => p.1.zipIdx.foldl (fun b c =>
    if c.1 = a ∧ p.2.1 ≤ 8 * c.2 + j ∧ 8 * c.2 + j < p.2.1 + w then p.2.2.testBit (8 * c.2 + j - p.2.1) else b) b) b
/-- The lowest active element, one below vstart included. -/
def Hart.firstActive (h : Hart) (x : MArgs) : Option Nat :=
  (List.range h.count).find? fun e => !x.me || (h.mreg x.m.toNat).testBit e
/-- Element e of a store that takes `sb` bytes for each lies on a store-convert page whose format has that size (R85, R332). -/
def State.convertsAt (s : State) (k : Ctx) (ea : Word) (e sb : Nat) (l : Leaf) : Prop :=
  s.translate k .w ((ea.toNat + e * sb) % 2 ^ 64) = .ok l ∧ l.cls = 1 ∧ sb = if l.sf < 2 then 2 else 1
/-- The value that a store-convert page stores for element e at va (R32, R85, R332). -/
def specStoreConvert (l : Leaf) (sub va e b : Nat) : Nat × Flags :=
  let F := match l.sf with | 0 => bf16 | 1 => fp16 | 2 => fp8e4m3 | _ => fp8e5m2
  if l.srm = 2 then
    sroundVal F sub (operand fp32 sub b) ((mix l.seed (BitVec.ofNat 64 va ^^^ BitVec.ofNat 64 (e * 2 ^ 52))).toNat % 2 ^ 32)
  else specRound F l.srm sub (operand fp32 sub b)
/-- What the logical hart of the executing hart holds back grows by some entries, in order, and that of no other (R127). -/
def State.holds (s t : State) (new : List Held) : Prop :=
  ∀ r, s.recOf s.me.part s.me.launch = some r → ∃ r', t.recOf s.me.part s.me.launch = some r' ∧
    (r'.lhart s.me.logical).held = (r.lhart s.me.logical).held ++ new ∧ ∀ l, l ≠ s.me.logical → r'.lhart l = r.lhart l
/-- The hart past an instruction that changes none of its registers. -/
def Hart.moved (h : Hart) : Hart :=
  { h with pc := h.pc + 8, instret := h.instret + 1, status := .running, vec := { h.vec with vstart := 0 } }
/-- The stop of a vector instruction at element t: nothing retires, and the hart resumes there (R197, R198, R344). -/
def Hart.stopsAt (h h' : Hart) (c : Cause) (v : Word) (t : Nat) : Prop :=
  h'.status = .stopping ∧ h'.stop = some ⟨c, v, t, h.pc⟩ ∧ h'.pc = h.pc ∧ h'.instret = h.instret ∧ h'.vec.vstart = t ∧
  h'.vec.queue = [] ∧ h'.g = h.g ∧ h'.vec.m = h.vec.m
/-- Where element e of a scratchpad access lies (R228). -/
def Hart.spPlace (h : Hart) (x : SArgs) (e : Nat) : Nat × Nat :=
  (((h.getG x.a + x.disp.signExtend 64).toNat + e * h.w / 8) % 2 ^ 64, e * h.w % 8)
/-- An element passes the checks of R93. -/
def Hart.spFits (h : Hart) (x : SArgs) (e : Nat) : Prop :=
  (h.w = 4 ∨ (h.spPlace x e).1 % (h.w / 8) = 0) ∧ (h.spPlace x e).1 + bytesAt (h.spPlace x e).2 h.w ≤ 2 ^ 24
/-- The token that a scratchpad instruction waits for is there, and there is room for the one it pushes (R121, R228). -/
def State.spTokens (s : State) (x : SArgs) : Prop :=
  s.me.vec.popped = false ∧ (x.tc = true → 0 < s.tokens (clusterOf s.cur) x.kf.toNat) ∧
  (x.tc = false → x.tp = true → s.tokens (clusterOf s.cur) x.kf.toNat < 32)
/-- The token counts after a scratchpad instruction. -/
def State.spPaid (s t : State) (x : SArgs) : Prop :=
  let c := clusterOf s.cur
  let k := x.kf.toNat
  t.tokens c k = s.tokens c k - (if x.tc then 1 else 0) + (if x.tp then 1 else 0) ∧
  ∀ j, j ≠ 16 * c + k → assocGet 0 t.tok j = assocGet 0 s.tok j
/-- The blocks of 128 bytes that some places touch. -/
def blocksOf (w : Nat) (ps : List (Nat × Nat)) : List Nat :=
  ps.flatMap fun p => (List.range (bytesAt p.2 w)).map fun i => (p.1 + i) / 128
/-- The active elements below vstart. -/
def Hart.done (h : Hart) (me : Bool) (m : BitVec 4) (n : Nat) : List Nat :=
  (List.range n).filter fun e => decide (e < h.vec.vstart) && (!me || (h.mreg m.toNat).testBit e)
/-- The granules of the active elements below vstart, by where their bytes lie, whatever page names them (R98, R100). -/
def State.metBefore (s : State) (need : Need) (x : MArgs) (form : Nat) : List Nat :=
  (s.me.done x.me x.m (s.me.many form)).flatMap fun e =>
    (cutPages 2 (s.me.place x form e).1 (bytesAt (s.me.place x form e).2 s.me.w)).flatMap fun c =>
      match s.translate ⟨s.cur, s.me.asid, true⟩ need c.1 with
      | .ok l => (List.range c.2).map fun i => (l.pa + i) / 128
      | .error _ => []
/-- The granules that a counted access meets for the first time: those of elements from vstart on that no active element below it
touches (R100, R229). -/
def State.meetsGranules (s : State) (need : Need) (x : MArgs) (form : Nat) (segs : Nat → List Seg) : List Nat :=
  ((s.me.doing x.me x.m (s.me.many form)).flatMap fun e => (segs e).flatMap fun g =>
    (List.range g.len).map fun i => (g.leaf.pa + i) / 128).filter fun l => !(s.metBefore need x form).contains l
/-- The blocks of the scratchpad that a counted access meets for the first time. -/
def Hart.meetsBlocks (h : Hart) (x : SArgs) : List Nat :=
  let old := blocksOf h.w ((h.done x.me x.m h.count).map (h.spPlace x))
  (blocksOf h.w ((h.doing x.me x.m h.count).map (h.spPlace x))).filter fun b => !old.contains b

/-! ## Coded instructions (R231 to R241) -/

/-- The uses of the register-only coded instructions that are not illegal (R237 to R241). -/
def Hart.codedLegal (h : Hart) (i : Instr) : Bool :=
  let scaled (x : VArgs) := x.c == 0 || (decide (8 ≤ h.ef) && decide (h.ef ≤ 13) && x.c != x.a && x.c != x.d && vtBLK h.vtype != 3
    && h.has [x.c])
  match i with
  | .vcpos x | .vclen x => h.has [x.d, x.a]
  | .vcskip x => h.has [x.a]
  | .vcadd x | .vcsub x | .vccat x => h.has [x.d, x.a, x.b]
  | .vcdec x => decide (h.ef ≤ 13) && scaled x && h.has [x.d, x.a]
  | .vcenc x => (x.c != 0 || decide (h.ef ≤ 7) || (decide (10 ≤ h.ef) && decide (h.ef ≤ 13))) && scaled x && h.has [x.d, x.a]
  | _ => false
/-- The register-only coded instructions. -/
def codedOnly (i : Instr) : Bool :=
  match i with
  | .vcpos _ | .vclen _ | .vcskip _ | .vcadd _ | .vcsub _ | .vccat _ | .vcdec _ | .vcenc _ => true
  | _ => false
/-- A coded instruction moves past: beside what any vector instruction changes, the grant CSRs (R50). -/
def Hart.passesCoded (h h' : Hart) : Prop :=
  h' = { h with
    pc := h.pc + 8, instret := h.instret + 1, status := .running, fcsr := h'.fcsr, vstat := h'.vstat,
    vec := { h.vec with vstart := 0, v := h'.vec.v, vgn := h'.vec.vgn, vga := h'.vec.vga, vgb := h'.vec.vgb, vgo := h'.vec.vgo } }
/-- Bits of the first n results, each given as its bits and their number. -/
def lenTo (r : Nat → Nat × Nat) (n : Nat) : Nat := ((List.range n).map fun i => (r i).2).sum
/-- The production of R51: of n results as many as fit in vb, joined in v[d] from bit 0 on, and no other register. -/
def Hart.produces (h h' : Hart) (d : Reg) (n : Nat) (r : Nat → Nat × Nat) : Prop :=
  let e := h'.vec.vgn.toNat
  e ≤ n ∧ lenTo r e ≤ h.vec.vb ∧ (e < n → h.vec.vb < lenTo r (e + 1)) ∧
  h'.vec.vgo.toNat = lenTo r e ∧ h'.vfill d = lenTo r e ∧
  (∀ i < e, slice (h'.vbits d) (lenTo r i) (r i).2 = (r i).1) ∧ ∀ q, q ≠ d.toNat → h'.vreg q = h.vreg q
/-- vstat after a coded instruction (R51, R52): STOP, MAL with STOP = 3, SAT where a result was clamped; SHR stays. -/
def stopWord (v : Word) (stop : Nat) (sat : Bool) : Word :=
  BitVec.ofNat 64 (v.toNat / 16 * 16 + (if stop = 3 || v.getLsbD 3 then 8 else 0) + 2 * stop + (if sat || v.getLsbD 0 then 1 else 0))
/-- A value clamped to int32. -/
def clamp32 (v : Int) : Int := max (-2 ^ 31) (min v (2 ^ 31 - 1))
/-- Codes joined, the first the lowest: their bits and their length (R41, R45). -/
def joinCodes (k : Nat) : List Int → Nat × Nat
  | [] => (0, 0)
  | v :: r => let c := akenc v k; let t := joinCodes k r; (c.1 + t.1 * 2 ^ c.2, c.2 + t.2)

/-- VCDEC of a value under a scale byte (R16, R55, R238): the element, its flags, and whether it was clamped. -/
def Hart.decodes (h : Hart) (v : Int) (sc : Nat) : ERes :=
  if h.ef ≤ 7 then let r := if h.ef % 2 = 0 then clampS h.w v else clampU h.w v; ⟨r.1.toNat, 0, r.2⟩
  else match fmtOf h.ef with
    | some F => if sc = 0xFF then ⟨F.nan, 0, false⟩
      else let r := roundFin F (vtRM h.vtype) (vtSUB h.vtype) ((specOfInt v).over (127 - sc)); ⟨r.1, r.2, false⟩
    | none => ⟨0, 0, false⟩
/-- The integer of VCENC from an element under a scale byte (R29, R54, R238), its flags, and whether it was clamped. -/
def Hart.encodes (h : Hart) (el sc : Nat) : Int × Flags × Bool :=
  if h.ef ≤ 7 then
    let v : Int := if h.ef % 2 = 0 then (BitVec.ofNat h.w el).toInt else el
    (clamp32 v, 0, decide (clamp32 v ≠ v))
  else if sc = 0xFF then (0, fNV, false)
  else match fmtOf h.ef with
    | some F =>
      let v := match operand F (vtSUB h.vtype) el with
        | .fin n m e => .fin n m (e - ((sc : Int) - 127))
        | w => w
      let r := specToInt 32 true (vtRM h.vtype) v
      ((BitVec.ofNat 32 r.1).toInt, r.2, r.2 &&& fNV != 0 && !v.isNan)
    | none => (0, 0, false)
/-- The scale byte of result i of a scaled form, in the part of v[sc] that coded register r has (R21, R239); ×1 unscaled. -/
def Hart.codedScale (h : Hart) (sc r : Reg) (ph i : Nat) : Nat :=
  if sc = 0 then 127
  else slice (h.vbits sc) (r.toNat % (h.blk / 2) * (8 * (h.vec.vb / (4 * h.blk))) + 8 * ((ph % h.blk + i) / h.blk)) 8
/-- The results for which the part of a scaled form has scales (R239). -/
def Hart.scaled (h : Hart) (sc : Reg) (ph n : Nat) : Nat :=
  if sc = 0 then n else min n (h.vec.vb / (4 * h.blk) * h.blk - ph % h.blk)

/-! ## Matrix and engine commands (R255 to R277) -/

/-- What the last pair of a list with a key holds, if there is one. -/
def lastOf {α : Type} (l : List (Nat × α)) (k : Nat) : Option α := (l.filter fun p => p.1 == k).getLast?.map (·.2)
/-- The token that a format-X command takes is there, and there is room for the one it pushes (R121, R257). -/
def State.xTokens (s : State) (x : XArgs) : Prop :=
  let n := s.tokens (clusterOf s.cur) x.push.toNat
  (x.tc = true → 0 < s.tokens (clusterOf s.cur) x.pop.toNat) ∧
  (x.tp = true → (if x.tc = true ∧ x.pop = x.push then n - 1 else n) < 32)
/-- The token counts after a pop and a push. -/
def State.xPaid (s t : State) (pop push : Option (BitVec 4)) : Prop :=
  ∀ j, assocGet 0 t.tok j = assocGet 0 s.tok j - (if ∃ k ∈ pop, j = 16 * clusterOf s.cur + k.toNat then 1 else 0)
    + (if ∃ k ∈ push, j = 16 * clusterOf s.cur + k.toNat then 1 else 0)
/-- The FIFOs that a command pops and pushes. -/
def xPop (x : XArgs) : Option (BitVec 4) := if x.tc then some x.pop else none
def xPush (x : XArgs) : Option (BitVec 4) := if x.tp then some x.push else none
/-- The tile lies in an accumulator (R256, R260). -/
def Hart.tileFits (h : Hart) : Prop := h.mx.tm ≤ 128 ∧ h.mx.tn ≤ if fmtA h.mx.fmt = 13 then 64 else 128
/-- Position i of an accumulator belongs to the tile. -/
def Hart.inTile (h : Hart) (i : Nat) : Prop :=
  i / 128 < h.mx.tm ∧ i % 128 < if fmtA h.mx.fmt = 13 then 2 * h.mx.tn else h.mx.tn
/-- A matrix command completes: the sequencer moves past it, its tokens are paid, and beside latches, accumulators, fcsr,
vstat and scratchpad nothing changes. -/
def State.mxAnswers (s : State) (i : Instr) (x : XArgs) (P : State → Prop) : Prop :=
  ∃ t, exec i s = .next t ∧ t = ({ s with seq := s.seq + 1, tok := t.tok, spad := t.spad } : State).setMe t.me ∧
    s.xPaid t (xPop x) (xPush x) ∧
    t.me = { s.me with
      pc := s.me.pc + 8, instret := s.me.instret + 1, status := .running, fcsr := t.me.fcsr, vstat := t.me.vstat
      mx := { s.me.mx with la := t.me.mx.la, lb := t.me.mx.lb, acc := t.me.mx.acc } } ∧ P t
/-- No latch or accumulator position of the hart is poisoned (R355). -/
def Hart.sound (h : Hart) : Prop :=
  (∀ l ∈ h.mx.la, l.bad = false) ∧ (∀ l ∈ h.mx.lb, l.bad = false) ∧ ∀ p ∈ h.mx.acc, p.2.bad = []
/-- No scratchpad block, latch or accumulator position of this agent is poisoned (R355). -/
def State.unspoiled (s : State) : Prop := s.spoison = [] ∧ s.me.sound
/-- The accumulators other than a tile of one keep their values. -/
def Hart.onlyTile (h h' : Hart) (d : Nat) : Prop := ∀ a i, a ≠ d ∨ ¬ h.inTile i → h'.mx.accPos a i = h.mx.accPos a i
/-- A format-X instruction of this agent can act at once: a sequencer, or a vector hart with nothing queued. -/
def State.xReady (s : State) : Prop :=
  (kindOf s.cur = .sequencer ∧ s.me.vec.queue = []) ∨ (s.vecReady ∧ s.me.vec.vstart = 0)
/-- The bytes of a copy: scratchpad offset and physical address of each, in the order in which they move (R271). -/
def Cmd.moves (c : Cmd) (sp : Nat) (p : Word) (steps : List (Int × Int)) (run : Nat) : List (Nat × Nat) :=
  steps.flatMap fun d => (List.range run).map fun i => (stepOff sp d.1 + i, c.pa (stepAddr p d.2 + i))
/-- One command of the engines is outstanding, and nothing holds memory back. -/
def State.lone (s : State) (c : Cmd) : Prop :=
  s.cmds = [c] ∧ c.retiring = false ∧ s.pins = [] ∧ s.poison = [] ∧ s.spoison = [] ∧ (∀ p ∈ s.parts, p.2.swap = none) ∧ s.eager = false ∧
  s.matrixQueue c.cluster = []
/-- A report of n bytes by a command (R275). -/
def State.reports (s : State) (c : Cmd) (n : Nat) : State := match c.bobj with | some b => bobjAct s b.pa (.report n) | none => s

/-! ## Contexts, queues and partitions -/

/-- The bytes of two ranges do not meet. -/
def apart (a n b m : Nat) : Prop := a + n ≤ b ∨ b + m ≤ a
/-- Nothing of a record holds a hart slot. -/
def State.noHartOf (s : State) (p launch : Nat) : Prop :=
  ∀ hid < appBase, (s.hart hid).status = .free ∨ (s.hart hid).part ≠ p ∨ (s.hart hid).launch ≠ launch
/-- Nothing of a record executes: what is left in a slot only completes issued work (R352). -/
def State.noHartRuns (s : State) (p launch : Nat) : Prop :=
  ∀ hid < appBase, (s.hart hid).status = .free ∨ (s.hart hid).status = .ending ∨ (s.hart hid).part ≠ p ∨ (s.hart hid).launch ≠ launch
/-- The trap queue and the trap block of a partition lie in memory (R329, R346). -/
def State.trapMemOk (s : State) (p : Nat) : Prop :=
  ∀ a ∈ [s.canon (s.part p).trap.tqbase.toNat, s.trapBlockPA p], region a = .ours ∨ region a = .peer
/-- No issued work of a record is outstanding. -/
def State.idleRec (s : State) (p launch : Nat) : Prop :=
  (∀ e ∈ s.harts, e.2.part = p → e.2.launch = launch → e.2.vec.queue = [] ∧ e.2.mx.queue = []) ∧
  ∀ e ∈ s.tails, ∀ h ∈ e.2, h.part ≠ p ∨ h.launch ≠ launch

/-! ## Invariants -/

/-- What every step keeps (R82, R96, R97, R121, R304): memory and scratchpads are in their canonical form, no count of readers
is above 255, nor one that an outstanding copy sets, no token FIFO holds more than 32 tokens, and an application core runs or
waits: nothing stops, holds or displaces it. -/
def State.Inv (s : State) : Prop :=
  Memory.wf s.mem = true ∧ Memory.wf s.spad = true ∧ (∀ l, s.count l ≤ 255) ∧ (∀ b, assocGet 0 s.spcnt b ≤ 255) ∧
  (∀ j, assocGet 0 s.tok j ≤ 32) ∧
  (∀ c ∈ s.cmds, ∀ sp p steps run n, c.kind = .copyIn sp p steps run (some n) → n ≤ 255) ∧
  ∀ k, kindOf k = .app → ((s.hart k).status = .running ∨ (s.hart k).status = .waiting) ∧ (s.hart k).preempt = false ∧
    (s.hart k).vec.victim = false ∧ (s.hart k).vec.queue = []

end Sys2Proof.Machine
end

