-- ==== Sys2Proof/Certificates/Slice0/Obligations.lean ====
section
/-! DEFINITION. The statements for the provers. -/

open Sys2Proof Sys2Proof.Machine

/-! ## Encoding and decoding -/

/-- R143 to R164: decoding the words of a well-formed instruction gives the instruction, every operand at every value. -/
def Obligations.DecodeInvertsEncode : Prop :=
  ∀ i : Instr, i.encoded = true → i.ok = true → decodeStmt (encode i) = .ok i

/-- R143 to R164: a word that decodes is the word of its instruction, but for HINT, bits 63:60 (R153): no other bit is
dropped or free. -/
def Obligations.EncodeInvertsDecode : Prop :=
  ∀ (w : Word) (i : Instr), decodeOne w = .ok i → encode i = [w &&& 0x0FFFFFFFFFFFFFFF#64]

/-- The worked encodings of 09, 18 and 11 decode to the instructions that the text names. -/
def Obligations.SpecWords : Prop :=
  decodeOne 0x0400100700018540 = .ok (.ld ⟨5, 6, 0, 0, 4, 3, false, 0, 8, false, true⟩) ∧
  decodeOne 0x000042068061C548 = .ok (.amoadd ⟨5, 7, 6, 0, 2, 3, 2⟩) ∧
  decodeOne 0x00000F8034C2CA10 = .ok (.fmadd ⟨12, 10, 11, 12, 13⟩) ∧
  decodeOne 0x00000C0100000049 = .ok (.fence ⟨0, 0, 0, 0, 4, 0, false, 0, 6, false, false⟩) ∧
  decodeOne 0x0000000000800E60 = .ok (.csrr ⟨14, 0, 8⟩) ∧
  decodeOne 0x000000005955006A = .ok (.xinvt ⟨0, 20, 21, 22⟩)

/-- R164: at an agent with nothing queued, the step fetches the statement at the pc, decodes it and executes it, and then
what goes on after it; a statement that does not decode is rejected, and one that cannot be fetched traps. -/
def Obligations.StepRunsDecoded : Prop :=
  ∀ (s : State), s.agenda = [] → s.halted = false →
    (kindOf s.cur = .app → s.me.app.xwait = false ∧ s.me.interruptible = false) →
    (kindOf s.cur ≠ .app → (s.me.status = .running ∨ s.me.status = .waiting) ∧ s.me.preempt = false ∧ s.tailsFor s.cur = []) →
    s.agent → s.me.vec.queue = [] →
    let u := s.tickOn.stall
    let v := u.fetchServed s.cur s.me.pc
    (s.pins = [] → v = u) ∧
    (∀ ws i, u.fetchStmt s.cur s.me.pc = .ok ws → decodeOf ws = .ok i → step s = andThen (exec i { v with ir := ws.1 }) State.after) ∧
    (∀ ws r, u.fetchStmt s.cur s.me.pc = .ok ws → decodeOf ws = .error r →
      step s = andThen (rejected ws.2.isSome r v) State.after) ∧
    ∀ c x, u.fetchStmt s.cur s.me.pc = .error (.trap c x) → step s = (u.traps c x).after

/-- R152, R154, R158, R164: a statement that does not decode raises the illegal-instruction or the must-understand trap with the
word whose check failed; a single word of a privileged opcode raises the privilege trap on every agent below executive level; an
agent without the instruction raises the illegal-instruction trap. -/
def Obligations.StatementsRejected : Prop :=
  (∀ (s : State) (w : Word) (pair : Bool), s.agent → s.me.vec.queue = [] →
     rejected pair (.mustUnderstand w) s = .next (s.traps .mustUnderstand w) ∧
     rejected true (.illegal w) s = .next (s.traps .illegal w) ∧
     rejected false (.illegal w) s = .next (s.traps
       (if bitsOf w 7 0 ∈ [0x68, 0x69, 0x6A] ∧ s.privileged s.cur = false then .privilege else .illegal) w)) ∧
  ∀ (i : Instr) (s : State), s.agent → s.me.vec.queue = [] →
    (vectorOnly i = true ∧ kindOf s.cur ≠ .vector) ∨ (sequencerOnly i = true ∧ kindOf s.cur ≠ .sequencer) ∨
      (hartsOnly i = true ∧ kindOf s.cur = .app) →
    exec i s = .next (s.traps .illegal s.ir)

/-! ## Scalar arithmetic -/

/-- R155, R165, R167, R168: g0 reads 0, a write to it is discarded, and a write of another register changes that register
alone; each register form completes and writes the result of its row; nothing else changes. -/
def Obligations.RegisterForms : Prop :=
  (∀ (h : Hart) (d r : Reg) (v : Word), h.getG 0 = 0 ∧ h.setG 0 v = h ∧
     (d ≠ 0 → (h.setG d v).getG d = v) ∧ (r ≠ d → (h.setG d v).getG r = h.getG r)) ∧
  (∀ p ∈ regForms, ∀ (x : AArgs) (s : State), s.agent →
    exec (p.1 x) s = .next (s.writes x.d (p.2 (s.me.getG x.a) (s.me.getG x.b)))) ∧
  (∀ (x : AArgs) (s : State), s.agent →
    exec (.sel x) s = .next (s.writes x.d (if s.me.getG x.c ≠ 0 then s.me.getG x.a else s.me.getG x.b)))

/-- R165, R169: each immediate form completes and writes the result of its row; nothing else changes. -/
def Obligations.ImmediateForms : Prop :=
  ∀ p ∈ immForms, ∀ (x : IArgs) (s : State), s.agent →
    exec (p.1 x) s =
      .next (s.completes (s.me.setG x.d (p.2 (s.me.getG x.a) x.imm s.me.pc)) (s.me.pc + lenOf x.pfx))

/-- R29, R38, R166, R170 to R172: each floating-point form completes; it reads its operands under fcsr.FSUB, rounds under fcsr.FRM,
writes g[d] zero-extended and accrues its flags into bits 4:0 of fcsr; nothing else changes. -/
def Obligations.FloatForms : Prop :=
  (∀ p ∈ floatForms, ∀ (x : FArgs) (s : State) (F : Fmt), s.agent → fmtOf x.f.toNat = some F →
    let v (r : Reg) := operand F s.me.fsub (fpBits F (s.me.getG r))
    exec (p.1 x) s = .next (s.completes (s.me.floats x.d (p.2 F s.me.frm s.me.fsub (v x.a) (v x.b) (v x.c))) (s.me.pc + 8))) ∧
  (∀ (x : FArgs) (s : State) (F : Fmt), s.agent → fmtOf x.f.toNat = some F →
    let a := fpBits F (s.me.getG x.a)
    let b := fpBits F (s.me.getG x.b)
    exec (.fmin x) s = .next (s.completes (s.me.floats x.d (specMinMax F s.me.fsub false a b)) (s.me.pc + 8)) ∧
    exec (.fmax x) s = .next (s.completes (s.me.floats x.d (specMinMax F s.me.fsub true a b)) (s.me.pc + 8)) ∧
    exec (.fclass x) s = .next (s.completes (s.me.floats x.d (2 ^ specClass F (unpack F a), 0)) (s.me.pc + 8))) ∧
  (∀ (x : FArgs) (s : State), s.agent → x.f.toNat ∈ [4, 5, 6, 7, 10, 11, 12, 13] → x.c.toNat ∈ [4, 5, 6, 7, 10, 11, 12, 13] →
    10 ≤ x.f.toNat ∨ 10 ≤ x.c.toNat →
    exec (.fcvt x) s =
      .next (s.completes (s.me.floats x.d (specFcvt s.me x.f.toNat x.c.toNat (s.me.getG x.a))) (s.me.pc + 8)))

/-- R170: every result on finite operands is one rounding of the exact value: a sum, a product, a product plus a term, a
quotient by a value that is not zero, and a square root of a value above zero; the first three exactly, the others to at least
two bits beyond the significand and a rest. An exact zero has the sign that R170 gives. A NaN operand gives the canonical NaN,
with NV where one signals (R18); infinities of opposite sign in a sum, 0 times an infinity, 0 over 0, an infinity over an
infinity and a root below zero give it with NV; a finite value over a zero gives an infinity with DZ; other infinities go
through. -/
def Obligations.FloatExact : Prop :=
  ∀ F ∈ arithFmts, ∀ (rm sub : Nat),
    (∀ x y z : FVal,
      let p := x.neg != y.neg
      let nan (vs : List FVal) : Nat × Flags := (F.nan, if vs.any FVal.isSnan then fNV else 0)
      let invalid : Nat × Flags := (F.nan, fNV)
      let inf (n : Bool) : Nat × Flags := (F.inf n, 0)
      let bad := (x.isInf = true ∧ y.isZero = true) ∨ (x.isZero = true ∧ y.isInf = true)
      (x.isNan = true ∨ y.isNan = true → addVal F rm sub x y = nan [x, y] ∧ mulVal F rm sub x y = nan [x, y] ∧
        divVal F rm sub x y = nan [x, y]) ∧
      (x.isNan = true → sqrtVal F rm sub x = nan [x]) ∧
      (x.isNan = true ∨ y.isNan = true ∨ z.isNan = true → ¬ bad → fmaVal F rm sub x y z = nan [x, y, z]) ∧
      (bad → mulVal F rm sub x y = invalid ∧ fmaVal F rm sub x y z = invalid) ∧
      (x.isInf = true → y.isInf = true → divVal F rm sub x y = invalid ∧
        addVal F rm sub x y = if x.neg = y.neg then inf x.neg else invalid) ∧
      (x.isInf = true → y.finite → addVal F rm sub x y = inf x.neg ∧ divVal F rm sub x y = inf p) ∧
      (x.finite → y.isInf = true → addVal F rm sub x y = inf y.neg ∧ divVal F rm sub x y = (F.sign p, 0)) ∧
      (x.isInf = true ∨ y.isInf = true → x.isNan = false → y.isNan = false → ¬ bad → mulVal F rm sub x y = inf p ∧
        (z.finite → fmaVal F rm sub x y z = inf p) ∧
        (z.isInf = true → fmaVal F rm sub x y z = if z.neg = p then inf p else invalid)) ∧
      (x.finite → y.finite → z.isInf = true → fmaVal F rm sub x y z = inf z.neg) ∧
      (x.isZero = true → y.isZero = true → divVal F rm sub x y = invalid) ∧
      (x.finite → x.isZero = false → y.isZero = true → divVal F rm sub x y = (F.inf p, fDZ)) ∧
      (x.isInf = true → sqrtVal F rm sub x = if x.neg then invalid else inf false) ∧
      (x.finite → x.isZero = false → x.neg = true → sqrtVal F rm sub x = invalid)) ∧
    (∀ x y z : FVal, x.finite → y.finite → z.finite →
      let p := x.neg != y.neg
      (∃ e : Ex, e.sticky = false ∧ e.standsFor (x.rat + y.rat) ∧ addVal F rm sub x y = roundFin F rm sub e) ∧
      (∃ e : Ex, e.sticky = false ∧ e.standsFor (x.rat * y.rat) ∧ mulVal F rm sub x y = roundFin F rm sub e) ∧
      (∃ e : Ex, e.sticky = false ∧ e.standsFor (x.rat * y.rat + z.rat) ∧ fmaVal F rm sub x y z = roundFin F rm sub e) ∧
      (x.rat + y.rat = 0 → addVal F rm sub x y = (F.sign (if x.neg = y.neg then x.neg else rm == 2), 0)) ∧
      (x.rat * y.rat = 0 → mulVal F rm sub x y = (F.sign p, 0)) ∧
      (x.rat * y.rat + z.rat = 0 → fmaVal F rm sub x y z = (F.sign (if p = z.neg then p else rm == 2), 0))) ∧
    ∀ a b : Nat,
      let x := operand F sub a
      let y := operand F sub b
      x.finite →
      (y.finite → y.rat ≠ 0 →
        (∃ e : Ex, (e.sticky = true → 2 ^ (F.fbits + 2) ≤ e.m) ∧ e.standsFor (x.rat / y.rat) ∧
          divVal F rm sub x y = roundFin F rm sub e) ∧
        (x.rat = 0 → divVal F rm sub x y = (F.sign (x.neg != y.neg), 0))) ∧
      (x.rat = 0 → sqrtVal F rm sub x = (F.sign x.neg, 0)) ∧
      (0 < x.rat → ∃ e : Ex, e.neg = false ∧ (e.sticky = true → 2 ^ (F.fbits + 2) ≤ e.m) ∧
        sqrtVal F rm sub x = roundFin F rm sub e ∧
        (if e.sticky then ((e.m : ℚ) * 2 ^ e.e) ^ 2 < x.rat ∧ x.rat < (((e.m : ℚ) + 1) * 2 ^ e.e) ^ 2
         else ((e.m : ℚ) * 2 ^ e.e) ^ 2 = x.rat))

/-- R27, R28: a number is rounded to the precision of the format in the mode: to nearest with ties to even, toward zero, down,
up, or to nearest with ties away from zero. What then exceeds the greatest value overflows, with OF and NX, to an infinity or to
the greatest value, as the mode and the format say; what is below the least normal value is rounded on the subnormal grid, with
UF and NX where that is inexact, or under policies 1 and 2, in the formats that flush, is a zero of its sign with UF and NX; NX
says that the result differs. An exact zero keeps its sign. Rounding to nearest gives a value that no finite value of the format
is nearer to. -/
def Obligations.RoundNearest : Prop :=
  (∀ F ∈ [fp8e5m2, fp8e4m3, fpE2M1] ++ arithFmts, ∀ (mode sub : Nat) (e : Ex) (q : ℚ), mode ≤ 4 → sub ≤ 2 →
    e.standsFor q → (e.sticky = true → 2 ^ (F.fbits + 2) ≤ e.m) →
    let neg := decide (q < 0)
    let top := (F.maxM : ℚ) * 2 ^ F.maxE
    let least : ℚ := 2 ^ (F.emin + F.fbits)
    let r := roundFin F mode sub e
    (q = 0 → r = (F.sign e.neg, 0)) ∧
    (q ≠ 0 → ∀ (u : ℤ) (p : ℚ), 2 ^ (u + F.fbits) ≤ |q| → |q| < 2 ^ (u + F.fbits + 1) → roundsOn mode q u p →
      (top < |p| → r.2 = fOF ||| fNX ∧
        if F.kind = .ieee ∧ (mode = 0 ∨ mode = 4 ∨ (mode = 2 ∧ q < 0) ∨ (mode = 3 ∧ 0 < q)) then r.1 = F.inf neg
        else F.means r.1 neg (if q < 0 then -top else top)) ∧
      (|p| ≤ top → least ≤ |p| → F.means r.1 neg p ∧ r.2 = if p = q then 0 else fNX) ∧
      (|p| < least → sub = 0 ∨ F ∉ arithFmts → ∀ t, roundsOn mode q F.emin t →
        F.means r.1 neg t ∧ r.2 = if t = q then 0 else fUF ||| fNX) ∧
      (|p| < least → sub ≠ 0 → F ∈ arithFmts → r = (F.sign neg, fUF ||| fNX)))) ∧
  ∀ F ∈ arithFmts, ∀ (e : Ex) (q : ℚ), e.standsFor q → (e.sticky = true → 2 ^ (F.fbits + 2) ≤ e.m) →
    let r := unpack F (roundFin F 0 0 e).1
    r.finite = true → ∀ b : Nat, (unpack F b).finite = true → |q - r.rat| ≤ |q - (unpack F b).rat|

/-! ## Control transfer -/

/-- R147, R151, R173 to R175: a branch that is taken sets pc to its target, any other goes on to the next statement; CALL and
CALLR leave the address of the next statement in g63; JR and CALLR raise the misaligned-access trap where the low three bits of
g[a] are not 0, and change nothing else. -/
def Obligations.ControlTransfers : Prop :=
  (∀ p ∈ branchForms, ∀ (x : BArgs) (s : State), s.agent →
     exec (p.1 x) s = .next (s.completes s.me
       (if p.2 (s.me.getG x.a) (s.me.getG x.b) then branchTarget s.me.pc x.off x.pfx else s.me.pc + lenOf x.pfx))) ∧
  (∀ (x : BArgs) (s : State), s.agent →
    exec (.call x) s =
      .next (s.completes (s.me.setG 63 (s.me.pc + lenOf x.pfx)) (branchTarget s.me.pc x.off x.pfx))) ∧
  (∀ (x : AArgs) (s : State), s.agent → s.me.getG x.a &&& 7 = 0 →
    exec (.jr x) s = .next (s.completes s.me (s.me.getG x.a)) ∧
    exec (.callr x) s = .next (s.completes (s.me.setG 63 (s.me.pc + 8)) (s.me.getG x.a))) ∧
  (∀ (x : AArgs) (s : State), s.agent → s.me.vec.queue = [] → s.me.getG x.a &&& 7 ≠ 0 →
    exec (.jr x) s = .next (s.traps .misaligned (s.me.getG x.a)) ∧
    exec (.callr x) s = .next (s.traps .misaligned (s.me.getG x.a)))

/-! ## Memory -/

/-- R331 to R335: with nothing cached, an address translates through the ASID-table entry of its address space and at most three
levels of tables, each with its index, to a leaf, which gives the class and the physical address where it has the permission
that the access needs. That the Zero fields of an ASID-table entry are not looked at is the model's reading (log 18). The walk
stops with the translation fault: reason 0 for an address of 2^52 or above, 1 for an entry that is not valid, 2 for a root,
pointer or leaf that is malformed, 3 for a missing permission. -/
def Obligations.Translation : Prop :=
  ∀ (s : State) (c : Ctx) (need : Need) (va : Nat) (e0 e1 : Word), s.tlb = [] →
    let fault (r : Nat) := s.translate c need va = .error (.trap (.translation r) (BitVec.ofNat 64 va))
    let reads (pa : Nat) (e : Word × Word) := s.devWord c.who va pa = .ok e.1 ∧ s.devWord c.who va (pa + 8) = .ok e.2
    (2 ^ 52 ≤ va → fault 0) ∧
    (va < 2 ^ 52 → reads (s.asidtab.toNat + 16 * c.asid) (e0, e1) →
      (e0.getLsbD 63 = false → fault 1) ∧
      (e0.getLsbD 63 = true → bitsOf e0 15 0 ≠ 0 → fault 2) ∧
      (e0.getLsbD 63 = true → bitsOf e0 15 0 = 0 → ∀ (es : Nat → Word × Word) (n : Nat), 1 ≤ n → n ≤ 3 →
        let shift := 52 - 12 * n
        let table (k : Nat) := if k = 1 then bitsOf e0 49 0 else bitsOf (es (k - 1)).1 49 16 * 65536
        let w := es n
        (∀ k, 1 ≤ k → k ≤ n → reads (table k + 16 * (va / 2 ^ (52 - 12 * k) % 4096)) (es k)) →
        (∀ k, 1 ≤ k → k < n → (es k).1.getLsbD 0 = true ∧ (es k).1.getLsbD 1 = false ∧ s.goodPointer (es k)) →
        (w.1.getLsbD 0 = false → fault 1) ∧
        (w.1.getLsbD 0 = true → w.1.getLsbD 1 = false → n = 3 ∨ ¬ s.goodPointer w → fault 2) ∧
        (w.1.getLsbD 0 = true → w.1.getLsbD 1 = true →
          (¬ s.goodLeaf c.asid (bitsOf e0 62 61) (2 ^ shift) w → fault 2) ∧
          (s.goodLeaf c.asid (bitsOf e0 62 61) (2 ^ shift) w →
            (grantsAccess w.1 need c.user = false → fault 3) ∧
            (grantsAccess w.1 need c.user = true → s.translate c need va =
              .ok ⟨s.canon (bitsOf w.1 49 16 * 65536 + va % 2 ^ shift), bitsOf w.1 4 2, bitsOf w.1 11 10, bitsOf w.1 13 12, w.2⟩)))))

/-- R176 to R178: LD and LDU complete and write the bytes at ea, extended; a marked load pins its line; a device register
answers an aligned load; a page that does not allow the access, or a misaligned marked one, traps; memory never changes. That a
marked load of a device page pins no line (log 8), and that a marked one that is misaligned traps so before its page is looked at
(log 19), is the model's choice. -/
def Obligations.Loads : Prop :=
  ∀ (p : (MArgs → Instr) × Bool), p ∈ [(Instr.ld, true), (Instr.ldu, false)] →
    ∀ (x : MArgs) (s : State) (gs : List Seg), s.agent → x.size < 4 →
    let n := 2 ^ x.size.toNat
    let ea := s.me.getG x.a + s.me.getG x.b * (if x.sc then BitVec.ofNat 64 n else 1) + x.disp.signExtend 64
    let val (bs : List Byte) : Word := (fun v => if p.2 then sext64 v (8 * n) else v) (BitVec.ofNat 64 (natOfBytes bs))
    (s.calm → (x.ar = true → ea.toNat % n = 0) → s.locate (s.ctx s.cur) .r (fun _ => true) ea.toNat n = .ok gs →
      (∀ g ∈ gs, g.leaf.cls ≠ clsDevice) →
      exec (p.1 x) s =
        .next ((s.marked x gs).writes x.d (val (gs.flatMap fun g => (List.range g.len).map fun i => s.rd8 (g.leaf.pa + i))))) ∧
    (∀ g, s.locate (s.ctx s.cur) .r (fun _ => true) ea.toNat n = .ok [g] → g.leaf.cls = clsDevice → ea.toNat % n = 0 →
      exec (p.1 x) s = .next ((s.devLoad g.leaf.pa n).2.writes x.d (val (s.devLoad g.leaf.pa n).1))) ∧
    (s.me.vec.queue = [] → x.ar = true → ea.toNat % n ≠ 0 → exec (p.1 x) s = .next (s.traps .misaligned ea)) ∧
    (∀ c v, s.me.vec.queue = [] → (x.ar = true → ea.toNat % n = 0) →
      s.locate (s.ctx s.cur) .r (fun _ => true) ea.toNat n = .error (.trap c v) → exec (p.1 x) s = .next (s.traps c v))

/-- R176 to R178: ST completes and stores the low bytes of g[d] at ea, the first byte the lowest; every byte outside the stored
runs, every register and everything else stays; a fault leaves memory unchanged. That a marked store to a device page pins no
line and ends no pin (log 8), and that a marked one that is misaligned traps so before its page is looked at (log 19), is the
model's choice. -/
def Obligations.Stores : Prop :=
  ∀ (x : MArgs) (s : State) (gs : List Seg), s.agent → x.size < 4 →
    let n := 2 ^ x.size.toNat
    let ea := s.me.getG x.a + s.me.getG x.b * (if x.sc then BitVec.ofNat 64 n else 1) + x.disp.signExtend 64
    let bs := (List.range n).map fun i => (s.me.getG x.d).extractLsb' (8 * i) 8
    (s.calm → (x.ar = true → ea.toNat % n = 0) → s.locate (s.ctx s.cur) .w (fun _ => true) ea.toNat n = .ok gs →
      (∀ g ∈ gs, g.leaf.cls ≠ clsDevice) →
      ∃ t, exec (.st x) s = .next t ∧
        t = (({ s with mem := putRuns s.mem gs bs } : State).marked x gs).completes s.me (s.me.pc + 8) ∧
        (∀ a, ¬ inRuns gs a → t.rd8 a = s.rd8 a) ∧
        (∀ g, gs = [g] → ∀ i < n, t.rd8 (g.leaf.pa + i) = (s.me.getG x.d).extractLsb' (8 * i) 8)) ∧
    (∀ g, s.calm → s.locate (s.ctx s.cur) .w (fun _ => true) ea.toNat n = .ok [g] → g.leaf.cls = clsDevice →
      ea.toNat % n = 0 → exec (.st x) s = .next ((s.devStore g.leaf.pa bs).completes s.me (s.me.pc + 8))) ∧
    (s.me.vec.queue = [] → x.ar = true → ea.toNat % n ≠ 0 → exec (.st x) s = .next (s.traps .misaligned ea)) ∧
    (∀ c v, s.me.vec.queue = [] → (x.ar = true → ea.toNat % n = 0) →
      s.locate (s.ctx s.cur) .w (fun _ => true) ea.toNat n = .error (.trap c v) → exec (.st x) s = .next (s.traps c v))

/-- R97 to R99, R179: a counted load reads the bytes and takes one from the count of its granule, and no other count
changes; where the last count goes, only bytes of that granule may change (R101). A count of 0 is an overrun: it is counted
and trapped, and nothing else changes. A counted store sets the count and stores its bytes. -/
def Obligations.CountedAccesses : Prop :=
  (∀ (p : (MArgs → Instr) × Bool), p ∈ [(Instr.ldRd, true), (Instr.lduRd, false)] →
    ∀ (x : MArgs) (s : State) (g : Seg), s.agent → s.calm → x.size < 4 →
    let n := 2 ^ x.size.toNat
    let ea := s.me.getG x.a + s.me.getG x.b * (if x.sc then BitVec.ofNat 64 n else 1) + x.disp.signExtend 64
    let line := g.leaf.pa / 128
    let v := BitVec.ofNat 64 (natOfBytes ((List.range n).map fun i => s.rd8 (g.leaf.pa + i)))
    (∀ l, (assocGet [] s.under l).length ≤ 128) → ea.toNat % n = 0 →
    s.locate (s.ctx s.cur) .rw (· == clsCounted) ea.toNat n = .ok [g] →
    (0 < s.count line → ∃ t, exec (p.1 x) s = .next t ∧
      t = (({ s with cnt := t.cnt, under := t.under, away := t.away, mem := t.mem } : State).marked x [g]).writes x.d
        (if p.2 then sext64 v (8 * n) else v) ∧
      t.count line = s.count line - 1 ∧ (∀ l, l ≠ line → t.count l = s.count l) ∧
      ∀ a, a / 128 ≠ line ∨ s.count line ≠ 1 → t.rd8 a = s.rd8 a) ∧
    (s.count line = 0 → s.me.vec.queue = [] →
      exec (p.1 x) s = .next ((s.lineEvent line Part.addOvrun).traps .overrun (BitVec.ofNat 64 (ea.toNat / 128 * 128))))) ∧
  (∀ (x : MArgs) (s : State) (g : Seg), s.agent → s.calm → x.size < 4 →
    let n := 2 ^ x.size.toNat
    let ea := s.me.getG x.a + x.disp.signExtend 64
    let k := x.b.toNat + (if x.sc then 64 else 0) + (if x.ar then 128 else 0)
    let line := g.leaf.pa / 128
    ea.toNat % n = 0 → s.locate (s.ctx s.cur) .w (· == clsCounted) ea.toNat n = .ok [g] →
    ∃ t, exec (.stRc x) s = .next t ∧
      t = ({ s with cnt := t.cnt, under := t.under, away := t.away, mem := t.mem, parts := t.parts } : State).completes s.me (s.me.pc + 8) ∧
      t.count line = k ∧ (∀ l, l ≠ line → t.count l = s.count l) ∧
      t.parts = (if 0 < s.count line then (s.lineEvent line Part.addUread).parts else s.parts) ∧
      (∀ i < n, t.rd8 (g.leaf.pa + i) = (s.me.getG x.d).extractLsb' (8 * i) 8) ∧
      ∀ a, a < g.leaf.pa ∨ g.leaf.pa + n ≤ a → t.rd8 a = s.rd8 a)

/-- R182, R183: an AMO completes; it reads the old value, writes the new one of its row at g[a], and sets g[d] to the old
value sign-extended; every other byte stays; at core or cluster scope its line is pinned. AMOFADD adds to nearest even and
accrues its flags. A misaligned address traps. -/
def Obligations.Atomics : Prop :=
  (∀ p ∈ amoForms, ∀ (x : AmoArgs) (s : State) (g : Seg), s.agent → s.calm → x.size = 2 ∨ x.size = 3 →
    let n := 2 ^ x.size.toNat
    let va := s.me.getG x.a
    let old := BitVec.ofNat (8 * n) (natOfBytes ((List.range n).map fun i => s.rd8 (g.leaf.pa + i)))
    let new := p.2 (8 * n) old ((s.me.getG x.b).setWidth (8 * n)) ((s.me.getG x.d).setWidth (8 * n))
    va.toNat % n = 0 → s.locate (s.ctx s.cur) .rw (· != clsDevice) va.toNat n = .ok [g] →
    exec (p.1 x) s = .next
      ((({ s with mem := (match new with | some v => putBytes s.mem g.leaf.pa (bytesOfNat n v.toNat) | none => s.mem) } : State).pinLine
        s.cur (g.leaf.pa / 128) x.scope.toNat).writes x.d (old.signExtend 64))) ∧
  (∀ (x : AmoArgs) (s : State) (g : Seg), s.agent → s.calm → x.size = 2 ∨ x.size = 3 →
    let n := 2 ^ x.size.toNat
    let F := if n = 4 then fp32 else fp64
    let va := s.me.getG x.a
    let old := natOfBytes ((List.range n).map fun i => s.rd8 (g.leaf.pa + i))
    let r := addVal F 0 0 (unpack F old) (unpack F ((s.me.getG x.b).toNat % 2 ^ (8 * n)))
    va.toNat % n = 0 → s.locate (s.ctx s.cur) .rw (· != clsDevice) va.toNat n = .ok [g] →
    exec (.amofadd x) s = .next
      ((({ s with mem := putBytes s.mem g.leaf.pa (bytesOfNat n r.1) } : State).pinLine s.cur (g.leaf.pa / 128)
        x.scope.toNat).completes
        { s.me.setG x.d (sext64 (BitVec.ofNat 64 old) (8 * n)) with fcsr := s.me.fcsr ||| r.2.setWidth 64 } (s.me.pc + 8))) ∧
  ∀ (x : AmoArgs) (s : State), s.agent → s.me.vec.queue = [] → (s.me.getG x.a).toNat % 2 ^ x.size.toNat ≠ 0 →
    (∀ p ∈ amoForms, exec (p.1 x) s = .next (s.traps .misaligned (s.me.getG x.a))) ∧
    exec (.amofadd x) s = .next (s.traps .misaligned (s.me.getG x.a))

/-- R95, R112 to R114, R180, R181, R230, R251: IPREF changes nothing but what the issuer's instruction caches hold: they then hold
the line of its target, where that translates; ISYNC drops from them the lines of its range, those filled from it and those that
lie where it translates, all of them for a length above 2 MiB; VDRAIN completes once the vector queue is empty, GSYNC once no
GLOAD or GSCAT of its slot is queued, and until then they wait. FENCE only completes, and VFENCE outside deterministic mode
completes at once, since every earlier access has performed when it issues: the model's choice (log 8). The exact set of lines that
ISYNC drops is the model's choice too (log 11): those that lie where the range translates go under whatever name they were filled,
all of the issuer's caches where a page of the range cannot be translated now, and no other line goes. -/
def Obligations.Fences : Prop :=
  (∀ (s : State), s.agent →
     (∀ x, exec (.fence x) s = .next (s.completes s.me (s.me.pc + 8))) ∧
     (∀ x : PArgs,
       let line (l : Leaf) := s.translate (s.ctx s.cur) .x (branchTarget s.me.pc x.off x.pfx).toNat = .ok l
       ∃ ic, exec (.ipref x) s = .next (({ s with icache := ic } : State).completes s.me (s.me.pc + lenOf x.pfx)) ∧
         (∀ e ∈ ic, e ∈ s.icache ∨ e.cache ∈ icPath s.cur ∧ ∃ l, line l ∧ e.line = l.pa / 128) ∧
         ∀ l, s.calm → line l → ∃ e ∈ ic, e.cache ∈ icPath s.cur ∧ e.line = l.pa / 128) ∧
     ∀ x : MArgs,
       let lo := (s.me.getG x.a).toNat
       let len := (s.me.getG x.b).toNat
       let hi := min (lo + len - 1) (2 ^ 64 - 1)
       let within (vl : Nat) := lo / 128 ≤ vl ∧ vl ≤ hi / 128
       let page (pg : Nat) := s.translate { s.ctx s.cur with user := false } .any (65536 * pg)
       let drops (e : ICLine) := 0 < len ∧ e.cache ∈ icPath s.cur ∧ (2 ^ 21 < len ∨ (e.asid = s.asidOf s.cur ∧ within e.vline) ∨
         (∃ pg l, page pg = .ok l ∧ e.line / 512 = l.pa / 65536 ∧ within (512 * pg + e.line % 512)) ∨
         ∃ pg w, lo / 65536 ≤ pg ∧ pg ≤ hi / 65536 ∧ page pg = .error w ∧ ∀ c v, w ≠ .trap c v)
       ∃ ic, exec (.isync x) s = .next (({ s with icache := ic } : State).completes s.me (s.me.pc + 8)) ∧ ic.Sublist s.icache ∧
         ∀ e, e ∈ ic ↔ e ∈ s.icache ∧ ¬ drops e) ∧
  (∀ (s : State), kindOf s.cur = .vector →
     (∀ x, exec (.vdrain x) s = .next
       (if s.me.vec.queue = [] then s.completes s.me (s.me.pc + 8) else s.setMe { s.me with status := .waiting })) ∧
     ∀ x : VArgs,
       ((∀ q ∈ s.me.vec.queue, ∀ y, (q.ins = .gload y ∨ q.ins = .gscat y) → y.b ≠ x.b) →
         exec (.gsync x) s = .next (s.completes s.me (s.me.pc + 8))) ∧
       (∀ q ∈ s.me.vec.queue, ∀ y, (q.ins = .gload y ∨ q.ins = .gscat y) → y.b = x.b →
         exec (.gsync x) s = .next (s.setMe { s.me with status := .waiting }))) ∧
  ∀ (x : MArgs) (s : State), s.vecReady → s.undeferred → exec (.vfence x) s = .next (s.setMe s.me.moved)

/-! ## Barrier objects -/

/-- R125: what an arrival, a report or an EXPECT of less than 2^63 bytes makes of an object, and that it changes the
object's 64 bytes alone. That ARRIVED and BARR wrap modulo 2^32 and 2^64 is the model's choice (log 13). -/
def Obligations.BarrierActs : Prop :=
  ∀ (s : State) (pa : Nat) (a : BAct), (∀ n, a = .expect n → n.toNat < 2 ^ 63) →
    let t := bobjAct s pa a
    let o := s.barrier pa
    t = { s with mem := t.mem } ∧ (∀ b, b < pa ∨ pa + 64 ≤ b → t.rd8 b = s.rd8 b) ∧
    (o.err ≠ 0 → t = s) ∧
    (o.err = 0 → ¬ s.barrierClean pa ∨ (o.expd = 0 ∧ o.bc = false) → t.barrier pa = { o with err := 1 }) ∧
    (o.err = 0 → s.barrierClean pa → ¬ (o.expd = 0 ∧ o.bc = false) → t.barrier pa = (o.takes a).closes)

/-- R126, R184, R185: ARRIVE, ARRIVE.REL and EXPECT act on the object at g[a] and complete; WAITB returns ERR, or 0 once
the phase has passed, and waits otherwise; the synchronising forms pin the object's line; a misaligned object, or one that
does not translate, traps. An EXPECT of 2^63 bytes or more makes the object malformed (R185). -/
def Obligations.BarrierInstructions : Prop :=
  (∀ (x : MArgs) (s : State) (g : Seg), s.agent → s.calm →
    let va := s.me.getG x.a
    let pa := g.leaf.pa
    let d := (bitsOf (s.rd64 pa) 31 0 + 2 ^ 32 - bitsOf (s.me.getG x.b) 31 0) % 2 ^ 32
    va.toNat % 64 = 0 → s.locate (s.ctx s.cur) .rw (· == clsOrdinary) va.toNat 64 = .ok [g] →
    exec (.arrive x) s = .next
      (((bobjAct s pa .arrive).pinLine s.cur (pa / 128) x.scope.toNat).completes s.me (s.me.pc + 8)) ∧
    exec (.arriveRel x) s = .next
      (((bobjAct s pa .arrive).pinLine s.cur (pa / 128) x.scope.toNat).completes s.me (s.me.pc + 8)) ∧
    exec (.expect x) s = .next ((bobjAct s pa (.expect (s.me.getG x.b))).completes s.me (s.me.pc + 8)) ∧
    (bobjErr s pa ≠ 0 → exec (.waitb x) s = .next (s.writes x.d (BitVec.ofNat 64 (bobjErr s pa)))) ∧
    (bobjErr s pa = 0 → 1 ≤ d → d ≤ 2 ^ 31 - 1 →
      exec (.waitb x) s = .next ((s.pinLine s.cur (pa / 128) x.scope.toNat).writes x.d 0)) ∧
    (bobjErr s pa = 0 → d = 0 ∨ 2 ^ 31 ≤ d → exec (.waitb x) s = .next (s.setMe { s.me with status := .waiting }))) ∧
  (∀ (x : MArgs) (s : State) (c : Cause) (v : Word), s.agent → s.me.vec.queue = [] →
    let va := s.me.getG x.a
    (va.toNat % 64 ≠ 0 ∧ c = .misaligned ∧ v = va) ∨
      (va.toNat % 64 = 0 ∧ s.locate (s.ctx s.cur) .rw (· == clsOrdinary) va.toNat 64 = .error (.trap c v)) →
    exec (.arrive x) s = .next (s.traps c v) ∧ exec (.arriveRel x) s = .next (s.traps c v) ∧
    exec (.expect x) s = .next (s.traps c v) ∧ exec (.waitb x) s = .next (s.traps c v)) ∧
  ∀ (s : State) (pa : Nat) (n : Word), 2 ^ 63 ≤ n.toNat → bobjErr s pa = 0 → bobjErr (bobjAct s pa (.expect n)) pa = 1

/-! ## Groups, launches, items -/

/-- R69, R70: JOIN and LEAVE return the status of their table. JOIN puts the executing hart into the group of its identifier, or
creates that group, and leaves every other group as it was. LEAVE takes the hart out of its own group alone, which goes where it was
the last member, and completes its phase where it was the last one awaited. GBAR of a hart in no group returns 1; the last arrival
completes the phase and returns 0; an earlier one waits, and in deterministic mode each does, until the round to which its arrival
contributes has drained (R128), but not for its vector queue (R115); no other group changes, but one whose own phase was due
completes it. -/
def Obligations.Groups : Prop :=
  ∀ (x : AArgs) (s : State), kindOf s.cur = .vector ∨ kindOf s.cur = .sequencer →
    let v := s.me.getG x.a
    let id := bitsOf v 15 0
    let p := s.me.part
    let g := s.grpOf p s.me.launch s.me.logical
    let passed := { s.me.setG x.d 0 with pc := s.me.pc + 8, instret := s.me.instret + 1, status := .running }
    (id = 0 ∨ bitsOf v 63 16 ≠ 0 → exec (.join x) s = .next (s.writes x.d 3)) ∧
    (id ≠ 0 → bitsOf v 63 16 = 0 →
      (g.isSome → exec (.join x) s = .next (s.writes x.d 1)) ∧
      (g = none → s.grp p id = none → 4096 ≤ s.grpCount p → exec (.join x) s = .next (s.writes x.d 2)) ∧
      (g = none → s.grp p id = none → s.grpCount p < 4096 → exec (.join x) s =
        .next (({ s with groups := s.groups ++ [⟨p, id, 0, [s.myName], []⟩] } : State).writes x.d 0)) ∧
      (g = none → (s.grp p id).isSome → exec (.join x) s = .next (({ s with groups := s.groups.map fun y =>
        if y.part = p ∧ y.id = id then { y with members := y.members ++ [s.myName] } else y } : State).writes x.d 0))) ∧
    (g = none → exec (.leave x) s = .next (s.writes x.d 1) ∧ exec (.gbar x) s = .next (s.writes x.d 1)) ∧
    (∀ y, g = some y → s.groupsApart p →
      let out : Grp := { y with members := y.members.filter (· != s.myName), arrived := y.arrived.filter (· != s.myName) }
      ∃ t, exec (.leave x) s = .next t ∧ t = ({ s with groups := t.groups, recs := t.recs } : State).setMe passed ∧
        t.grp p y.id = (if out.members = [] then none else if s.phaseDue p out then some out.completed else some out) ∧
        (out.members = [] ∨ ¬ s.phaseDue p out → (∀ z ∈ s.groups, z.part = p → z.id ≠ y.id → z.members ≠ [] ∧ ¬ s.phaseDue p z) →
          t.recs = s.recs) ∧
        ∀ p' i, (p', i) ≠ (p, y.id) → t.grp p' i = (s.grp p' i).bind fun z =>
          if p' ≠ p then some z else if z.members = [] then none else if s.phaseDue p z then some z.completed else some z) ∧
    ∀ y r, g = some y → s.grp p y.id = some y → s.myRec s.cur = some r → (r.lhart s.me.logical).gwait = none →
      r.sr.det = false ∨ (s.eager = false ∧ (r.sr.rsv = true → (r.lhart s.me.logical).held = [])) →
      let others (t : State) := ∀ p' i, (p', i) ≠ (p, y.id) → t.grp p' i = s.grp p' i ∨
        (s.eager = true ∧ p' = p ∧ ∃ z, s.grp p' i = some z ∧ ((z.members = [] ∧ t.grp p' i = none) ∨
          ((∀ m ∈ z.members, m ∈ z.arrived) ∧ t.grp p' i = some z.completed)))
      let there := y.arrived ++ [s.myName]
      let rounds := r.sr.det = true ∧ r.sr.rsv = false
      (¬ rounds → (∀ m ∈ y.members, m ∈ there) → (∀ m ∈ y.members, s.drainedAll p m = true) → y.members ≠ [] →
        ∃ t, exec (.gbar x) s = .next t ∧ t.me = passed ∧ t.grp p y.id = some y.completed ∧ t.mem = s.mem ∧ others t) ∧
      ((∃ m ∈ y.members, m ∉ there) ∨ (rounds ∧ r.ending = none ∧ r.drained ≤ (r.lhart s.me.logical).drains) →
        ∃ t, exec (.gbar x) s = .next t ∧ t.me = { s.me with status := .waiting } ∧
          t.grp p y.id = some { y with arrived := there } ∧ t.mem = s.mem ∧ others t)

/-- R59 to R62, R309, R311, R312: SPAWN of a record that can be read, of a hart that holds nothing back, makes its checks in the
order of R61's table and writes the status of the first that fails: 5 for a queue number above 63, 3 for a disabled partition, 4
for a queue or an address space that the issuer may not use, 2 for a malformed record, 3 for its clusters, 2 for its DONE object, 1
for a full queue; nothing else changes. A record that passes is queued last in its queue, and g[d] holds its launch number above a
status of 0, which advances. -/
def Obligations.Spawn : Prop :=
  ∀ (x : AArgs) (s : State) (g : Seg), s.agent → s.calm → s.me.vec.queue = [] → (s.myLhart s.cur).held = [] →
    let va := s.me.getG x.a
    let q := (s.me.getG x.b).toNat
    let p := s.partOf s.cur
    let bs := (List.range g.len).map fun i => s.rd8 (g.leaf.pa + i)
    let w (o : Nat) : Word := BitVec.ofNat 64 (natOfBytes ((bs.drop o).take 8))
    let n := (s.part p).launches
    let asid := bitsOf (w 0x10) 10 0
    let gives (st : Nat) := exec (.spawn x) s = .next (s.writes x.d (BitVec.ofNat 64 st))
    let ctl : Word := assocGet 0 s.qctl (64 * p + q)
    let mayQueue := ctl.getLsbD 63 = true ∧ (s.privileged s.cur = true ∨ ctl.getLsbD 62 = true ∨ bitsOf ctl 42 32 = s.asidOf s.cur)
    let named := asid ≠ 0 ∧ (s.privileged s.cur = true ∨ asid = s.asidOf s.cur)
    let masked (c : Nat) := (natOfBytes ((bs.drop 0x20).take 20)).testBit c = true
    let clustersOk := (∃ c < 160, masked c) ∧ ∀ c < 160, masked c → s.ownsCluster p c = true
    va.toNat % 128 = 0 → s.locate (s.ctx s.cur) .r (fun _ => true) va.toNat 128 = .ok [g] → g.leaf.cls ≠ clsDevice →
    (63 < q → gives 5) ∧
    (q ≤ 63 → s.partEnabled p = false → gives 3) ∧
    (q ≤ 63 → s.partEnabled p = true →
      (¬ (mayQueue ∧ named) → gives 4) ∧
      ∀ e0 e1, mayQueue → named → s.entry ⟨s.cur, asid, false⟩ 0 0 0 (s.asidtab.toNat + 16 * asid) = .ok (e0, e1) →
        (e0.getLsbD 63 = false ∨ bitsOf e0 62 61 ≠ p → gives 4) ∧
        (e0.getLsbD 63 = true → bitsOf e0 62 61 = p →
          (badStart bs → gives 2) ∧
          (¬ badStart bs → ¬ clustersOk → gives 3) ∧
          (¬ badStart bs → clustersOk →
            let done := s.locate ⟨outsider, asid, true⟩ .rw (· == clsOrdinary) (w 0x38).toNat 64
            (∀ c v, w 0x38 ≠ 0 → done = .error (.trap c v) → gives 2) ∧
            (w 0x38 = 0 ∨ (∃ gs, done = .ok gs) → 32 ≤ ((s.part p).queue q).recs.length → gives 1) ∧
            (w 0x38 = 0 ∨ (∃ gs, done = .ok gs) → ((s.part p).queue q).recs.length < 32 → ∃ t, exec (.spawn x) s = .next t ∧
              t = ({ s with parts := t.parts } : State).writes x.d (BitVec.ofNat 64 (n * 256)) ∧
              (t.part p).launches = n + 1 ∧
              ((t.part p).queue q).recs = ((s.part p).queue q).recs ++ [{ startRecOf bs with launch := n }] ∧
              (∀ k, k ≠ q → (t.part p).queue k = (s.part p).queue k) ∧
              ∀ p', p' ≠ p → t.part p' = s.part p'))))

/-- R64, R66 to R68, R80: IDONE of a hart without a loop nest, or for which no item is left, ends the hart: its slot is free,
with its registers as they stand, its logical hart has ended, and what its queues hold goes on in the tail of its slot.
Otherwise it takes the next item of the record, or in deterministic mode its own next one, whose indices and argument are in g1
to g7 at the entry; it waits until no queued instruction has still to write one of them, which is the model's choice (log 26).
In a reserving record it first waits until the item is admitted; then the claims of the item go, and pins of a scope below the
device end (R123). The indices of the items of a nest in the four orders are the tuples within its bounds, each of them once. -/
def Obligations.ItemsEnd : Prop :=
  (∀ (x : AArgs) (s : State) (r : Rec), kindOf s.cur = .vector ∨ kindOf s.cur = .sequencer → s.eager = false → s.myRec s.cur = some r →
     let l := r.lhart s.me.logical
     let rsv := r.sr.nest && r.sr.rsv
     let q := if r.sr.det then s.me.logical + r.sr.harts * l.taken else r.nextItem
     let writesItem := ∃ e ∈ s.me.vec.queue, ∃ v : VArgs, (e.ins = .vmpopc v ∨ e.ins = .vmfirst v) ∧ 1 ≤ v.d.toNat ∧ v.d.toNat ≤ 7
     (rsv = true → l.item.isSome = true → l.adm ≠ .admitted → exec (.idone x) s = .next
       ((s.updLhart s.cur fun y => if y.adm = .none then { y with adm := .pending } else y).setMe { s.me with status := .waiting })) ∧
     (r.sr.rsv = true → s.me.vec.queue = [] ∧ l.held = [] ∧ (r.sr.nest = true → l.item.isSome = true ∧ l.adm = .admitted)) →
      (s.me.vec.victim = false →
       (r.sr.nest = false ∨ r.sr.items ≤ q → (s.coreHarts (coreOf s.cur) fun h => h.status == .parked) = [] →
         ∃ t, exec (.idone x) s = .next t ∧
           t.hart s.cur = { s.me with
             status := .free, instret := s.me.instret + 1, stop := none, preempt := false, vec := { s.me.vec with queue := [] }
             mx := { s.me.mx with queue := [] } } ∧
           (∀ r', t.recOf r.part r.sr.launch = some r' → (r'.lhart s.me.logical).place = .ended) ∧
           (∀ h, h ≠ s.cur → t.hart h = s.hart h) ∧ t.mem = s.mem ∧ assocGet [] t.tails s.cur = assocGet [] s.tails s.cur ++
             if s.me.vec.queue = [] ∧ s.me.mx.queue = [] then [] else [{ s.me with instret := s.me.instret + 1 }]) ∧
       (r.sr.nest = true → rsv = false → writesItem → q < r.sr.items →
         exec (.idone x) s = .next (s.setMe { s.me with status := .waiting })) ∧
       (r.sr.nest = true → s.me.vec.guest = false → rsv = true ∨ ¬ writesItem → q < r.sr.items →
         ∃ t, exec (.idone x) s = .next t ∧ t = ({ s with recs := t.recs, pins := t.pins } : State).setMe t.me ∧
           (rsv = false → t.pins = s.pins) ∧ (rsv = true → t.pins = (s.releasePins s.cur 4).pins) ∧
           t.me = { s.me with g := t.me.g, pc := r.sr.entry, status := .running, instret := s.me.instret + 1 } ∧
           (∀ d < 6, t.me.getG (BitVec.ofNat 6 (d + 1)) =
             BitVec.ofNat 64 ((itemIndices r.sr.order (r.sr.bounds.take r.sr.dims) q).getD d 0)) ∧
           t.me.getG 7 = r.sr.arg ∧ (∀ k : Reg, 7 < k.toNat → t.me.getG k = s.me.getG k) ∧
           ∀ r', t.recOf r.part r.sr.launch = some r' → r'.nextItem = (if r.sr.det then r.nextItem else q + 1) ∧
             (r'.lhart s.me.logical).item = some q ∧ (r'.lhart s.me.logical).claims = [] ∧ (r'.lhart s.me.logical).adm = .none))) ∧
  ∀ (order : Nat) (bounds : List Nat), order < 4 → bounds ≠ [] → bounds.length ≤ 6 → (∀ n ∈ bounds, 1 ≤ n ∧ n ≤ 2 ^ 32) →
    let Q := bounds.foldl (· * ·) 1
    (∀ q < Q, (itemIndices order bounds q).length = bounds.length ∧
      ∀ i < bounds.length, (itemIndices order bounds q).getD i 0 < bounds.getD i 0) ∧
    ∀ q < Q, ∀ q' < Q, itemIndices order bounds q = itemIndices order bounds q' → q = q'

/-- R72, R74, R75: CLAIM posts the slot of its address for the item, and raises the claim trap outside an item of a reserving
record, after admission, and at the seventeenth claim; CLWAIT goes on once the item is admitted and otherwise makes it
pending and waits. -/
def Obligations.Claims : Prop :=
  ∀ (s : State), kindOf s.cur = .vector ∨ kindOf s.cur = .sequencer → s.eager = false → s.me.vec.queue = [] →
    let l := s.myLhart s.cur
    let inItem := ∃ r, s.myRec s.cur = some r ∧ r.sr.rsv = true ∧ (r.lhart s.me.logical).item.isSome = true
    (∀ x : MArgs,
      let a := (s.me.getG x.a + x.disp.signExtend 64).toNat / 128
      let slot := (a ^^^ a / 2 ^ 12 ^^^ a / 2 ^ 24) % 4096
      (inItem → l.adm ≠ .admitted → l.nclaims < 16 → exec (.claim x) s = .next ((s.updLhart s.cur fun y =>
        { y with claims := if slot ∈ y.claims then y.claims else y.claims ++ [slot], nclaims := y.nclaims + 1 }).completes s.me
        (s.me.pc + 8))) ∧
      (¬ inItem ∨ l.adm = .admitted ∨ 16 ≤ l.nclaims → exec (.claim x) s = .next (s.traps .claim 0))) ∧
    ∀ x : AArgs,
      (¬ inItem → exec (.clwait x) s = .next (s.traps .claim 0)) ∧
      (inItem → l.adm = .admitted → exec (.clwait x) s = .next (s.completes s.me (s.me.pc + 8))) ∧
      (inItem → l.adm ≠ .admitted → exec (.clwait x) s = .next
        ((s.updLhart s.cur fun y => { y with adm := .pending }).setMe { s.me with status := .waiting }))

/-! ## CSRs, traps, privilege -/

/-- R156, R157, R188, R189: a user CSR of the agent reads as the table says, once vector and matrix work is done where the CSR
waits for it; CSRW, CSRS and CSRC return the old value and write the new one, set or cleared bits; a read-only CSR ignores
the write, and a reserved value of vtype raises the illegal-instruction trap. -/
def Obligations.UserCsrs : Prop :=
  ∀ (x : CsrArgs) (s : State), s.agent → s.me.vec.queue = [] → s.me.mx.queue = [] →
    let n := x.csr.toNat
    let old := s.csrValue n
    let put (v : Word) := s.completes ((s.me.putCsr n v).setG x.d old) (s.me.pc + 8)
    (n ∈ userCsrs (kindOf s.cur) →
      exec (.csrr x) s = .next (s.writes x.d old) ∧
      (n = 0 → vtypeOk (s.me.getG x.a) = false → exec (.csrw x) s = .next (s.traps .illegal s.ir)) ∧
      (n ≠ 0 ∨ vtypeOk (s.me.getG x.a) = true → exec (.csrw x) s = .next (put (s.me.getG x.a))) ∧
      (x.a = 0 → exec (.csrs x) s = .next (s.writes x.d old) ∧ exec (.csrc x) s = .next (s.writes x.d old)) ∧
      (x.a ≠ 0 → n ≠ 0 ∨ vtypeOk (old ||| s.me.getG x.a) = true → exec (.csrs x) s = .next (put (old ||| s.me.getG x.a))) ∧
      (x.a ≠ 0 → n ≠ 0 ∨ vtypeOk (old &&& ~~~s.me.getG x.a) = true →
        exec (.csrc x) s = .next (put (old &&& ~~~s.me.getG x.a)))) ∧
    (n < 0x100 → n ∉ userCsrs (kindOf s.cur) → ∀ f ∈ [Instr.csrr, .csrw, .csrs, .csrc],
      exec (f x) s = .next (s.traps .illegal s.ir)) ∧
    (0x100 ≤ n → s.privileged s.cur = false → ∀ f ∈ [Instr.csrr, .csrw, .csrs, .csrc],
      exec (f x) s = .next (s.traps .privilege s.ir))

/-- R188, R305 to R308, R312 to R314: at executive level each privileged CSR reads as it stands, a queue control with the number of
records in its queue, and takes its fields from a write by CSRW, or by CSRS or CSRC of other than g0, each of which returns the old
value; rcval and tokval read and set the count that rcaddr and tokaddr name, and asidtab is written as the event ASIDTAB_WRITE
does it. A number that names no CSR is illegal. -/
def Obligations.PrivilegedCsrs : Prop :=
  ∀ (x : CsrArgs) (s : State), s.privileged s.cur = true →
    let n := x.csr.toNat
    let v := s.me.getG x.a
    let writers (old : Word) : List (Instr × Word) :=
      (.csrw x, v) :: if x.a = 0 then [] else [(.csrs x, old ||| v), (.csrc x, old &&& ~~~v)]
    let reads (old : Word) := exec (.csrr x) s = .next (s.writes x.d old) ∧
      (x.a = 0 → exec (.csrs x) s = .next (s.writes x.d old) ∧ exec (.csrc x) s = .next (s.writes x.d old))
    let holds (old : Word) (put : Word → State) := reads old ∧ ∀ p ∈ writers old, exec p.1 s = .next ((put p.2).writes x.d old)
    (∀ c ∈ coreCsrs, n = c.1 → holds (c.2.1 s.me.app) fun w => s.setMe { s.me with app := c.2.2 s.me.app w }) ∧
    (0x120 ≤ n → n ≤ 0x123 → holds (s.partcfgOf (n - 0x120)) fun w => s.partcfgWrite (n - 0x120) w) ∧
    (0x200 ≤ n → n ≤ 0x2FF →
      let q := n - 0x200
      holds (assocGet 0 s.qctl q ||| BitVec.ofNat 64 ((s.part (q / 64)).queue (q % 64)).recs.length) fun w =>
        { s with qctl := assocPut 0 s.qctl q (w &&& 0xC00007FF00000000) }) ∧
    (n = 0x110 → reads s.asidtab ∧ (s.calm → ∀ p ∈ writers s.asidtab,
      (∀ t, exec (.asidtabWrite p.2) s = .next t → exec p.1 s = .next (t.writes x.d s.asidtab)) ∧
      ∀ f, exec (.asidtabWrite p.2) s = .fault f → exec p.1 s = .fault f)) ∧
    (n = 0x151 →
      let a := s.me.app.rcaddr
      let l := bitsOf a 49 7
      (s.calm → a.getLsbD 63 = false → l * 128 < localEnd → s.canon (l * 128) = l * 128 →
        reads (BitVec.ofNat 64 (s.count l)) ∧ ∀ p ∈ writers (BitVec.ofNat 64 (s.count l)),
          ∃ t, exec p.1 s = .next t ∧ t.mem = s.mem ∧ t.count l = bitsOf p.2 7 0 ∧ t.me.getG x.d = (if x.d = 0 then 0 else BitVec.ofNat 64 (s.count l))) ∧
      (∀ c b, s.countName a = .block c b → holds (BitVec.ofNat 64 (s.spCount c b)) fun w => s.setSpCount c b (bitsOf w 7 0)) ∧
      (s.countName a = .nothing → holds 0 fun _ => s)) ∧
    (n = 0x153 →
      let c := bitsOf s.me.app.tokaddr 7 0
      let k := bitsOf s.me.app.tokaddr 11 8
      (c ≤ 159 → holds (BitVec.ofNat 64 (s.tokens c k)) fun w => if bitsOf w 5 0 ≤ 32 then s.setTokens c k (bitsOf w 5 0) else s) ∧
      (159 < c → holds 0 fun _ => s)) ∧
    (0x100 ≤ n → (∀ c ∈ coreCsrs, n ≠ c.1) → ¬ (0x120 ≤ n ∧ n ≤ 0x123) → ¬ (0x200 ≤ n ∧ n ≤ 0x2FF) →
      n ∉ [0x110, 0x151, 0x153] → ∀ f ∈ [Instr.csrr, .csrw, .csrs, .csrc], exec (f x) s = .next (s.traps .illegal s.ir))

/-- R309, R310: a write to partcfg p is refused whole in each of the five cases, and otherwise it takes effect, a change from
scheduled to swap mode with a mark of the engine commands issued before it; a SPAWN whose issuer's
partition is disabled returns status 3, whatever its queue admits. -/
def Obligations.PartitionConfig : Prop :=
  (∀ (s : State) (p : Nat) (v : Word),
    let old := s.partcfgOf p
    let refused := badPartcfg v ∨
      (v.getLsbD 63 = true ∧ ∃ q < 4, q ≠ p ∧ (s.partcfgOf q).getLsbD 63 = true ∧ partsMeet v (s.partcfgOf q)) ∨
      (old.getLsbD 63 = true ∧ bitsOf v 59 19 ≠ bitsOf old 59 19) ∨
      (old.getLsbD 63 = true ∧ v.getLsbD 63 = false ∧ s.partInUse p)
    (refused → exec (.partcfgWrite p v) s = .next s) ∧
    (¬ refused → ∃ t, exec (.partcfgWrite p v) s = .next t ∧ t.partcfgOf p = v ∧ (∀ q, q ≠ p → t.partcfgOf q = s.partcfgOf q) ∧
      t = { s with partcfg := t.partcfg, parts := t.parts } ∧
      ∀ q, t.part q = if q = p ∧ old.getLsbD 60 = true ∧ v.getLsbD 60 = false then { s.part p with tierMark := s.seq } else s.part q)) ∧
  ∀ (x : AArgs) (s : State) (g : Seg), s.agent → s.calm → s.me.vec.queue = [] → (s.myLhart s.cur).held = [] →
    (s.me.getG x.a).toNat % 128 = 0 →
    s.locate (s.ctx s.cur) .r (fun _ => true) (s.me.getG x.a).toNat 128 = .ok [g] → g.leaf.cls ≠ clsDevice →
    s.partEnabled (s.partOf s.cur) = false → (s.me.getG x.b).toNat ≤ 63 → exec (.spawn x) s = .next (s.writes x.d 3)

/-- R190, R304, R305: SYSCALL and BREAK wait for earlier work and then trap with their number; on an application core the
saved pc of SYSCALL is the next statement's, of BREAK the statement's own; a vector hart or sequencer stops at the
statement. -/
def Obligations.SystemCalls : Prop :=
  ∀ (x : NArgs) (s : State), s.agent →
    let v := x.n.setWidth 64
    let done := s.me.vec.queue = [] ∧ s.me.mx.queue = [] ∧
      (kindOf s.cur = .app ∨ ∀ c ∈ s.cmds, ¬ (c.part = s.me.part ∧ c.launch = s.me.launch ∧ c.logical = s.me.logical))
    (done → exec (.brk x) s = .next (s.traps .breakpoint v)) ∧
    (done → kindOf s.cur = .app →
      exec (.syscall x) s = .next ((s.dropPins s.cur).setMe (s.me.enter false 12 v (s.me.pc + 8)))) ∧
    (done → kindOf s.cur ≠ .app → exec (.syscall x) s = .next (s.traps .systemCall v)) ∧
    (¬ done → exec (.syscall x) s = .next (s.setMe { s.me with status := .waiting }) ∧
      exec (.brk x) s = .next (s.setMe { s.me with status := .waiting }))

/-- R305: a trap or an interrupt of an application core saves the address, the cause and its value, the level and IE; it
enters executive level with interrupts off, at xvec, or at xvec + 128 c for interrupt c; nothing else of the core changes.
The lowest pending interrupt is taken first, and its pending bit falls as it is taken: for an interrupt other than 1, of which R348
says so, that is the model's reading (log 17). -/
def Obligations.TrapEntry : Prop :=
  (∀ (h : Hart) (interrupt : Bool) (code : Nat) (tval epc : Word), code < 2 ^ 16 →
    let t := h.enter interrupt code tval epc
    t.app.xepc = epc ∧ t.app.xtval = tval ∧
    t.app.xcause = (if interrupt then 0x8000000000000000 else 0) + BitVec.ofNat 64 code ∧
    t.app.xstatus.getLsbD 1 = h.app.xstatus.getLsbD 0 ∧ t.app.xstatus.getLsbD 3 = h.app.xstatus.getLsbD 2 ∧
    t.app.xstatus.getLsbD 0 = true ∧ t.app.xstatus.getLsbD 2 = false ∧
    t.pc = (if interrupt then h.app.xvec + 128 * BitVec.ofNat 64 code else h.app.xvec) ∧
    t = { h with pc := t.pc, status := .running, app := { h.app with xstatus := t.app.xstatus, xepc := epc,
                                                                     xcause := t.app.xcause, xtval := tval, xwait := false } }) ∧
  (∀ (s : State) (hid cause : Nat) (tval : Word), kindOf hid = .app → 1 ≤ cause → cause ≤ 16 →
    exec (.trapEntry hid cause tval) s = .next ((s.dropPins hid).setHart hid ((s.hart hid).enter false cause tval
      (if cause = 12 then (s.hart hid).pc + 8 else (s.hart hid).pc)))) ∧
  ∀ (s : State) (hid c : Nat), kindOf hid = .app → (s.hart hid).app.xstatus.getLsbD 2 = true → (s.hart hid).app.xwait = false →
    c < 64 → (s.hart hid).app.pending.testBit c = true → (∀ k < c, (s.hart hid).app.pending.testBit k = false) →
    ∃ t, exec (.interruptEntry hid) s = .next t ∧ (t.hart hid).pc = (s.hart hid).app.xvec + BitVec.ofNat 64 (128 * c) ∧
      (t.hart hid).app.xepc = (s.hart hid).pc ∧ (t.hart hid).app.xcause = 0x8000000000000000 + BitVec.ofNat 64 c ∧
      (∀ k, (t.hart hid).app.pending.testBit k = (decide (k ≠ c) && (s.hart hid).app.pending.testBit k)) ∧
      t = s.setHart hid (t.hart hid)

/-- R315 to R317: at executive level XRET restores pc, level and IE from what the trap saved; XWAIT completes where an interrupt
is pending and waits otherwise; XINVT, XINVTA and XINVTD drop the cached entries that they cover and no other, those of a walk
under way included, and complete once no engine command, queued vector instruction or held store uses a translation of them
(R317); an ASID above 2,047 is illegal. Below executive level each privileged instruction raises the privilege trap. -/
def Obligations.PrivilegedInstructions : Prop :=
  (∀ (x : AArgs) (s : State),
     (s.privileged s.cur = true →
       (∃ h', exec (.xret x) s = .next (s.setMe h') ∧ h'.pc = s.me.app.xepc ∧
         h'.app.xstatus.getLsbD 0 = s.me.app.xstatus.getLsbD 1 ∧ h'.app.xstatus.getLsbD 2 = s.me.app.xstatus.getLsbD 3 ∧
         h' = { s.me with pc := h'.pc, instret := s.me.instret + 1, status := .running, app := { s.me.app with xstatus := h'.app.xstatus } }) ∧
       (s.me.app.pending ≠ 0 →
         exec (.xwait x) s = .next (s.completes { s.me with app := { s.me.app with xwait := false } } (s.me.pc + 8))) ∧
       (s.me.app.pending = 0 →
         exec (.xwait x) s = .next (s.setMe { s.me with status := .waiting, app := { s.me.app with xwait := true } }))) ∧
     (s.agent → s.privileged s.cur = false → s.me.vec.queue = [] →
       ∀ f ∈ [Instr.xret, .xwait, .xinvt, .xinvta, .xinvtd], exec (f x) s = .next (s.traps .privilege s.ir))) ∧
  ∀ (x : AArgs) (s : State), s.privileged s.cur = true →
    let asid := (s.me.getG x.a).toNat
    let lo := (s.me.getG x.b).toNat
    let len := (s.me.getG x.c).toNat
    let hi := min (lo + len - 1) (2 ^ 64 - 1)
    let dropped (f : TlbEntry → Bool) : State := { s with tlb := s.tlb.filter fun e => !f e, walks := s.walks.filter fun e => !f e }
    let drops (i : Instr) (f : TlbEntry → Bool) :=
      (¬ s.holdsEntry f → exec i s = .next ((dropped f).completes s.me (s.me.pc + 8))) ∧
      (s.holdsEntry f → exec i s = .next ((dropped f).setMe { s.me with status := .waiting }))
    (2047 < asid → exec (.xinvt x) s = .next (s.traps .illegal s.ir) ∧ exec (.xinvta x) s = .next (s.traps .illegal s.ir)) ∧
    (asid ≤ 2047 →
      (len = 0 → exec (.xinvt x) s = .next (s.completes s.me (s.me.pc + 8))) ∧
      (0 < len → drops (.xinvt x) fun e => e.asid == asid && e.level != 0
        && decide (e.index * 2 ^ levelShift e.level ≤ hi) && decide (lo < (e.index + 1) * 2 ^ levelShift e.level)) ∧
      drops (.xinvta x) fun e => e.asid == asid) ∧
    drops (.xinvtd x) fun _ => true

/-! ## Vector instructions -/

/-- R194, R202 to R205, R47: VCONF sets N and clears the vector registers, masks, vb and vstart; VSETB and VSETE grant
min(request, VBMAX, CEIL, SMAX) rounded down to the format's unit, cut every fill to it, and say in vstat.SHR whether the
Shutter shortened it; VSETE under the coded format is illegal; VSETF sets one fill, within vb. Behind a queue, VCONF and VSETB write
g[d] and set vb, and VCONF N, at once, and enter the queue for the rest. The first VSETB or VSETE of a Shutter victim, and of one
restored before it, empties every register, sets SHR, and passes lanes: the guests of its core go on where no other victim holds any
(R323, R325). -/
def Obligations.VectorConfiguration : Prop :=
  (∀ (x : GArgs) (s : State), s.vecReady →
    exec (.vconf x) s = .next (s.completes
      ({ s.me with vec := { s.me.vec with n := x.n.toNat, vb := 0, vstart := 0, v := [], m := [] } }.setG x.d
        (BitVec.ofNat 64 (vbmax s.me.share x.n.toNat))) (s.me.pc + 8))) ∧
  (∀ (x : VArgs) (s : State), s.vecReady → (s.me.vec.v.map (·.1)).Nodup →
    let h := s.me
    let take := h.vec.victim = true ∧ (h.vec.passed = false ∨ h.vec.taken = true)
    let ceil := s.ceilOf s.cur
    let unit := if h.ef = 16 then 1 else if h.ef = 14 then 4 * h.blk else h.w
    let cap (n : Nat) := let t := min n (vbmax h.share h.vec.n); if ceil = 0 then t else min t ceil
    let grant (n : Nat) := let t := if h.smax = 0 then cap n else min (cap n) h.smax; t - t % unit
    let short (n : Nat) := h.smax ≠ 0 ∧ h.smax < cap n
    let leaves (i : Instr) (n : Nat) (shown : Word) := ∃ h', exec i s = .next (s.setMe h') ∧
      h' = { h with pc := h.pc + 8, instret := h.instret + 1, status := .running, g := (h.setG x.d shown).g, vstat := h'.vstat,
                    vec := { h.vec with vb := grant n, vstart := 0, v := h'.vec.v } } ∧
      h'.vstat.getLsbD 4 = decide (short n) ∧ (∀ i, i ≠ 4 → h'.vstat.getLsbD i = h.vstat.getLsbD i) ∧
      ∀ r, h'.vreg r = ⟨min (h.vreg r).fill (grant n), (h.vreg r).bits % 2 ^ min (h.vreg r).fill (grant n)⟩
    let gives (i : Instr) (n : Nat) (shown : Word) := (¬ take → leaves i n shown) ∧ (take → ∃ t, exec i s = .next t ∧
      t = { s with harts := t.harts } ∧
      t.me = { h with pc := h.pc + 8, instret := h.instret + 1, status := .running, g := (h.setG x.d shown).g, vstat := h.vstat ||| 16,
                      vec := { h.vec with vb := grant n, vstart := 0, v := [], passed := true, taken := false } } ∧
      (∀ k, k ≠ s.cur → t.hart k = s.hart k ∨ (k < seqBase ∧ coreOf k = coreOf s.cur ∧
        t.hart k = { s.hart k with vec := { (s.hart k).vec with vwait := false } })) ∧
      (h.vec.passed = false → s.tails = [] → (∀ k < seqBase, coreOf k = coreOf s.cur → k ≠ s.cur → (s.hart k).status ≠ .free →
          (s.hart k).vec.victim = true → (s.hart k).vec.passed = true) →
        ∀ k < seqBase, coreOf k = coreOf s.cur → (s.hart k).status ≠ .free → (t.hart k).vec.vwait = false))
    gives (.vsetb x) (h.getG x.a).toNat (BitVec.ofNat 64 (grant (h.getG x.a).toNat)) ∧
    (h.ef ≠ 16 →
      let n := min (h.getG x.a).toNat (2 ^ 52) * h.w
      gives (.vsete x) n (BitVec.ofNat 64 (if h.ef = 14 then grant n / (4 * h.blk) * h.blk else grant n / h.w))) ∧
    (h.ef = 16 → exec (.vsete x) s = .next (s.traps .illegal s.ir))) ∧
  (∀ (s : State), kindOf s.cur = .vector → s.eager = false → s.me.vec.queue.length < 16 →
    let h := s.me
    let ceil := s.ceilOf s.cur
    let unit := if h.ef = 16 then 1 else if h.ef = 14 then 4 * h.blk else h.w
    let joins (i : Instr) (d : Reg) (v n b : Nat) := ∃ e : QEntry, e.ins = i ∧ e.pc = h.pc ∧ e.n = h.vec.n ∧ e.vb = h.vec.vb ∧
      exec i s = .next (s.setMe { h.setG d (BitVec.ofNat 64 v) with
        pc := h.pc + 8, status := .running, vec := { h.vec with n := n, vb := b, vstart := 0, queue := h.vec.queue ++ [e] } })
    (∀ x : GArgs, joins (.vconf x) x.d (vbmax h.share x.n.toNat) x.n.toNat 0) ∧
    ∀ x : VArgs,
      let t := min (h.getG x.a).toNat (vbmax h.share h.vec.n)
      let u := if ceil = 0 then t else min t ceil
      let w := if h.smax = 0 then u else min u h.smax
      joins (.vsetb x) x.d (w - w % unit) h.vec.n (w - w % unit)) ∧
  ∀ (x : VArgs) (s : State), s.vecReady → s.me.has [x.d] = true →
    let n := min (s.me.getG x.a).toNat s.me.vec.vb
    s.vecAnswers (.vsetf x) fun h' => h'.vreg x.d.toNat = ⟨n, s.me.vbits x.d % 2 ^ n⟩ ∧ s.me.onlyVReg h' x.d ∧
      h'.fcsr = s.me.fcsr ∧ h'.vstat = s.me.vstat

/-- R79, R155, R165, R196 to R222, R343, R344: every register-only vector instruction whose use its row does not call illegal
completes, and changes nothing outside its hart; on the hart only g registers, vector and mask registers, fcsr, vstat, and vstart
to 0. Every other use raises the illegal-instruction trap with the instruction word, and changes no register. Where work is left
queued, the head of a queue of such instructions completes by its event, or stops its hart; an empty queue changes nothing. -/
def Obligations.VectorsComplete : Prop :=
  (∀ (i : Instr) (s : State), registerOnly i = true → s.vecReady → s.me.legal i = true → s.vecAnswers i fun _ => True) ∧
  (∀ (i : Instr) (s : State), registerOnly i = true → s.vecReady → s.me.legal i = false → exec i s = .next (s.traps .illegal s.ir)) ∧
  ∀ (s : State) (hid : Nat), s.tailsFor hid = [] → (s.hart hid).status ≠ .ending →
    ((s.hart hid).vec.queue = [] → exec (.vectorInstructionComplete hid) s = .next s) ∧
    ∀ q r, (s.hart hid).vec.queue = q :: r → (s.hart hid).vec.vwait = false → s.eager = false → registerOnly q.ins = true →
      ∃ t, exec (.vectorInstructionComplete hid) s = .next t ∧ t = ({ s with pins := t.pins } : State).setHart hid (t.hart hid) ∧
        ((t.pins = s.pins ∧ (t.hart hid).status = (s.hart hid).status ∧ (t.hart hid).vec.queue = r ∧
            (t.hart hid).instret = (s.hart hid).instret + 1) ∨
          ((t.hart hid).status = .stopping ∧ (t.hart hid).vec.queue = [] ∧ (t.hart hid).pc = q.pc ∧
            (t.hart hid).instret = (s.hart hid).instret))

/-- R193, R197, R199, R206: each integer instruction writes the result of its row in every active element from vstart on. -/
def Obligations.VectorIntegers : Prop :=
  ∀ (x : VArgs) (s : State), s.vecReady →
    let h := s.me
    let a (e : Nat) := BitVec.ofNat h.w (h.el x.a h.w e)
    let b (e : Nat) := BitVec.ofNat h.w (h.opOf x e)
    let c (e : Nat) := BitVec.ofNat h.w (h.el x.c h.w e)
    let gives (i : Instr) (f : Nat → ERes) := h.legal i = true → s.vecAnswers i fun h' => h.elementwise h' x.me x.m x.d h.w h.count f
    (∀ p ∈ vecInts, gives (p.1 x) fun e => ⟨(p.2 h.w (a e) (b e)).1.toNat, 0, (p.2 h.w (a e) (b e)).2⟩) ∧
    gives (.vmadd x) (fun e => ⟨(a e * b e + c e).toNat, 0, false⟩) ∧ gives (.vmv x) (fun e => ⟨(a e).toNat, 0, false⟩)

/-- R193, R197, R199, R207, R208: each floating-point instruction writes the result of its row, under vtype's rounding mode
and subnormal policy, in every active element from vstart on, and accrues the flags of those elements. Of VFEXP2, VFLOG2 and VRSQE
the special cases, the exact cases and the flags are those of the tables of R208 and R40; a result that is not exact sets NX. -/
def Obligations.VectorFloats : Prop :=
  (∀ v ∈ vecFloats, ∀ (x : VArgs) (s : State) (F : Fmt), s.vecReady → s.me.legal (v.ctor x) = true → fmtOf s.me.ef = some F →
    let h := s.me
    s.vecAnswers (v.ctor x) fun h' => h.elementwise h' x.me x.m x.d h.w h.count fun e =>
      let r := v.f F (vtRM h.vtype) (vtSUB h.vtype) (h.el x.a h.w e) (h.opOf x e) (h.el x.c h.w e)
      ⟨r.1, r.2, false⟩) ∧
  ∀ rm sub a b : Nat, rm ≤ 4 →
    let x := operand fp32 sub a
    let eps := operand fp32 sub b
    let nan : Nat × Flags := (fp32.nan, fNV)
    let inf (n : Bool) : Nat × Flags := (fp32.inf n, 0)
    let exp2 := exp2Val fp32 rm sub x
    let log2 := log2Val fp32 rm sub x
    let rsqe := rsqeVal fp32 rm sub x eps
    let once (q : ℚ) (r : Nat × Flags) := ∃ e : Ex, (e.sticky = true → 2 ^ (fp32.fbits + 2) ≤ e.m) ∧ e.standsFor q ∧ r = roundFin fp32 rm sub e
    (∀ k, x = .nan k → exp2 = (fp32.nan, if k then fNV else 0) ∧ log2 = (fp32.nan, if k then fNV else 0)) ∧
    (x = .inf false → exp2 = inf false ∧ log2 = inf false) ∧ (x = .inf true → exp2 = (0, 0) ∧ log2 = nan) ∧
    (x.isZero = true → exp2 = (0x3F800000, 0) ∧ log2 = (fp32.inf true, fDZ)) ∧
    (x.finite → x.isZero = false →
      (∀ k : ℤ, x.rat = k → exp2 = roundFin fp32 rm sub ⟨false, 1, k, false⟩) ∧
      ((∀ k : ℤ, x.rat ≠ k) → exp2.2.getLsbD 0 = true) ∧
      (x.neg = true → log2 = nan) ∧
      (x.neg = false → (∀ k : ℤ, x.rat = 2 ^ k → log2 = roundFin fp32 rm sub ⟨decide (k < 0), k.natAbs, 0, false⟩) ∧
        ((∀ k : ℤ, x.rat ≠ 2 ^ k) → log2.2.getLsbD 0 = true))) ∧
    (x.isNan = true ∨ eps.isNan = true → rsqe = nan) ∧
    (x = .inf false → (eps = .inf true → rsqe = nan) ∧ (eps.finite → rsqe = (0, 0))) ∧
    (x.isNan = false → eps = .inf false → rsqe = (0, 0)) ∧
    (x.isNan = false → x ≠ .inf false → eps = .inf true → rsqe = (fp32.sign true, 0)) ∧
    (x = .inf true ∨ (x.finite = true ∧ x.rat ≤ 0) → eps.finite →
      (eps.rat = 0 → rsqe = (fp32.inf false, fDZ)) ∧ (eps.rat ≠ 0 → once (1 / eps.rat) rsqe)) ∧
    (x.finite → ∀ r : ℚ, 0 < r → r ^ 2 = x.rat → eps.finite →
      (r + eps.rat = 0 → rsqe = (fp32.inf false, fDZ)) ∧ (r + eps.rat ≠ 0 → once (1 / (r + eps.rat)) rsqe))

/-- R209: each compare writes the mask bits of active elements from vstart on, keeps those of inactive ones, and clears the
bits above the last element; signed NaN operands raise NV as the rows say. -/
def Obligations.VectorCompares : Prop :=
  ∀ (x : VArgs) (s : State), s.vecReady →
    let h := s.me
    (∀ p ∈ vecCompares, h.legal (p.1 x) = true → s.vecAnswers (p.1 x) fun h' => h.maskwise h' x.me x.m x.d h.count fun e =>
      (p.2 h.w (BitVec.ofNat h.w (h.el x.a h.w e)) (BitVec.ofNat h.w (h.opOf x e)), 0)) ∧
    ∀ p ∈ vecFCompares, ∀ F, h.legal (p.1 x) = true → fmtOf h.ef = some F →
      s.vecAnswers (p.1 x) fun h' => h.maskwise h' x.me x.m x.d h.count fun e =>
        let a := operand F (vtSUB h.vtype) (h.el x.a h.w e)
        let b := operand F (vtSUB h.vtype) (h.opOf x e)
        (p.2.1 a b, if a.isSnan || b.isSnan || (p.2.2 && (a.isNan || b.isNan)) then fNV else 0)

/-- R16, R19 to R21, R29, R211 to R216: the conversions, VRNG and VCLASS write the result of their row in every active element;
VDQMX writes every element of its blocks, an element times the power of two of its block's scale byte; VQMX writes elements and
scale bytes of whole blocks, the least scale that holds a block within 6, and no other bit of the scale register. -/
def Obligations.VectorConversions : Prop :=
  ∀ (x : VArgs) (s : State), s.vecReady →
    let h := s.me
    let rm := vtRM h.vtype
    let sub := vtSUB h.vtype
    let src := x.c.toNat
    let ws := efWidth src
    let gives (i : Instr) (w n : Nat) (f : Nat → ERes) :=
      h.legal i = true → s.vecAnswers i fun h' => h.elementwise h' x.me x.m x.d w n f
    let scaleAt (r : Reg) (j : Nat) := r.toNat % (h.blk / 2) * (8 * (h.vec.vb / (4 * h.blk))) + 8 * j
    gives (.cvt x) h.w (h.vec.vb / max ws h.w) (fun e => specConvert src h.ef rm sub (h.el x.a ws e)) ∧
    (∀ F G, fmtOf src = some F → fmtOf h.ef = some G → gives (.cvtSr x) h.w (h.vec.vb / max (max ws h.w) 32) fun e =>
      let r := sroundVal G sub (operand F sub (h.el x.a ws e)) (h.el x.b 32 e)
      ⟨r.1, r.2, false⟩) ∧
    gives (.vexpand4 x) 8 (h.vec.vb / 8) (fun e =>
      ⟨(specRound fp8e4m3 0 0 (specOfInt (BitVec.ofNat 4 (h.el x.a 4 e)).toInt)).1, 0, false⟩) ∧
    gives (.vexpand6 x) 8 (h.vec.vb / 8) (fun e =>
      ⟨if x.c = 0 then (specRound fp8e5m2 0 0 (unpack fp6e3m2 (h.el x.a 6 e))).1
       else (specRound fp8e4m3 0 0 (unpack fp6e2m3 (h.el x.a 6 e))).1, 0, false⟩) ∧
    gives (.vrng x) h.w h.count (fun e => ⟨(mix (h.getG x.a) (h.getG x.b + BitVec.ofNat 64 e)).toNat % 2 ^ h.w, 0, false⟩) ∧
    (∀ F, fmtOf h.ef = some F → gives (.vclass x) h.w h.count fun e => ⟨2 ^ specClass F (unpack F (h.el x.a h.w e)), 0, false⟩) ∧
    (∀ F, fmtOf src = some F → h.legal (.vdqmx x) = true → s.vecAnswers (.vdqmx x) fun h' =>
      h.elementwise h' false 0 x.d ws (h.vec.vb / (ws * h.blk) * h.blk) fun e =>
        let r := specMx F rm sub (h.el x.a 4 e) (slice (h.vbits x.b) (scaleAt x.a (e / h.blk)) 8)
        ⟨r.1, r.2, false⟩) ∧
    ∀ F, fmtOf src = some F → h.legal (.vqmx x) = true → s.vecAnswers (.vqmx x) fun h' =>
      let nb := h.vec.vb / (ws * h.blk)
      let values (j : Nat) := (List.range h.blk).map fun i => operand F sub (h.el x.a ws (j * h.blk + i))
      ∃ block : Nat → Nat × List Nat × Flags, (∀ j < nb, specBlock rm (values j) (block j)) ∧
        h'.vfill x.d = 4 * (nb * h.blk) ∧ h'.vfill x.b = max (h.vfill x.b) (scaleAt x.d nb) ∧
        (∀ j < nb, slice (h'.vbits x.b) (scaleAt x.d j) 8 = (block j).1 ∧
          ∀ i < h.blk, h'.el x.d 4 (j * h.blk + i) = (block j).2.1.getD i 0) ∧
        (∀ i, i < scaleAt x.d 0 ∨ scaleAt x.d nb ≤ i →
          (h'.vbits x.b).testBit i = (decide (i < h'.vfill x.b) && (h.vbits x.b).testBit i)) ∧
        (∀ r, r ≠ x.d.toNat → r ≠ x.b.toNat → h'.vreg r = h.vreg r) ∧ h'.vec.m = h.vec.m ∧ h'.g = h.g ∧ h'.vstat = h.vstat ∧
        h'.fcsr = (List.range nb).foldl (fun c j => c ||| (block j).2.2.setWidth 64) h.fcsr

/-- R21, R217 to R220: the slides, broadcasts and permutations write the element that their row names; VCOMPRESS packs the active
elements; VTRANS transposes each 8 × 8 tile of its eight registers, under mxfp4 by blocks with their scale bytes, 1.0 for a block
above its register's fill; no other register changes. -/
def Obligations.VectorPermutations : Prop :=
  ∀ (x : VArgs) (s : State), s.vecReady →
    let h := s.me
    (∀ p ∈ vecPermutes, h.legal (p.1 x) = true → s.vecAnswers (p.1 x) fun h' =>
      h.elementwise h' x.me x.m x.d h.w (p.2.1 x h) fun e => ⟨p.2.2 x h e, 0, false⟩) ∧
    (h.legal (.vcompress x) = true → s.vecAnswers (.vcompress x) fun h' =>
      h.onlyVReg h' x.d ∧ h'.fcsr = h.fcsr ∧ h'.vstat = h.vstat ∧ h'.vfill x.d = (h.lively x).length * h.w ∧
      ∀ i (hi : i < (h.lively x).length), h'.el x.d h.w i = h.el x.a h.w ((h.lively x)[i])) ∧
    (h.legal (.vtrans x) = true → s.vecAnswers (.vtrans x) fun h' =>
      let w := if h.ef = 14 then 4 * h.blk else h.w
      let reg (k : Nat) : Reg := BitVec.ofNat 6 (x.d.toNat + k)
      (∀ r < 8, h'.vfill (reg r) = h.vec.vb ∧
        ∀ e < h.vec.vb / w, h'.el (reg r) w e = h.el (reg (e % 8)) w (e / 8 * 8 + r)) ∧
      (∀ k, k < x.d.toNat ∨ x.d.toNat + 8 ≤ k → (h.ef = 14 → k ≠ x.a.toNat) → h'.vreg k = h.vreg k) ∧
      (h.ef = 14 →
        let n := h.vec.vb / w
        let scaleAt (r : Reg) (j : Nat) := r.toNat % (h.blk / 2) * (8 * n) + 8 * j
        (∀ r < 8, ∀ b < n, slice (h'.vbits x.a) (scaleAt (reg r) b) 8 =
          if h.vfill (reg (b % 8)) ≤ (b / 8 * 8 + r) * w then 0x7F else slice (h.vbits x.a) (scaleAt (reg (b % 8)) (b / 8 * 8 + r)) 8) ∧
        h'.vfill x.a = max (h.vfill x.a) (scaleAt (reg 7) n) ∧
        ∀ i, i < scaleAt (reg 0) 0 ∨ scaleAt (reg 7) n ≤ i →
          (h'.vbits x.a).testBit i = (decide (i < h'.vfill x.a) && (h.vbits x.a).testBit i)) ∧
      h'.vec.m = h.vec.m ∧ h'.g = h.g ∧ h'.fcsr = h.fcsr ∧ h'.vstat = h.vstat)

/-- R221, R227: the mask instructions combine the bits below the positions and clear those above; VMPOPC counts, and VMFIRST
finds, the active set bits; VMSET sets the low g[a] bits; VCONFL marks the first active element of each index. -/
def Obligations.VectorMasks : Prop :=
  ∀ (x : VArgs) (s : State), s.vecReady →
    let h := s.me
    let bits (i : Instr) (f : Nat → Bool) := h.legal i = true → s.vecAnswers i fun h' =>
      h.onlyMask h' x.d ∧ ∀ e, (h'.mreg x.d.toNat).testBit e = f e
    let sets (i : Instr) (v : Word) := h.legal i = true → s.vecAnswers i fun h' =>
      h'.g = (h.setG x.d v).g ∧ h'.vec.v = h.vec.v ∧ h'.vec.m = h.vec.m ∧ h'.fcsr = h.fcsr ∧ h'.vstat = h.vstat
    (∀ p ∈ maskForms, bits (p.1 x) fun e =>
      decide (e < h.places) && p.2 ((h.mreg x.a.toNat).testBit e) ((h.mreg x.b.toNat).testBit e)) ∧
    sets (.vmpopc x) (BitVec.ofNat 64 (h.marks x).length) ∧
    sets (.vmfirst x) (match h.marks x with | e :: _ => BitVec.ofNat 64 e | [] => 0xFFFFFFFFFFFFFFFF) ∧
    bits (.vmset x) (fun e => decide (e < h.places) && decide (e < (h.getG x.a).toNat)) ∧
    bits (.vconfl x) (fun e => decide (e < h.count32) && h.acts x.me x.m e &&
      !(List.range e).any fun k => h.acts x.me x.m k && h.el x.a 32 k == h.el x.a 32 e)

/-- R38, R39, R218, R222: a reduction leaves in element 0 of v[d] the initial value combined with the tree of each group of 32 in
ascending order, and fill w; a scan leaves in each active element what R39 computes for it; every operation accrues its flags.
The trees give the sum modulo 2^w, the least and the greatest value in integers. -/
def Obligations.VectorReductions : Prop :=
  ∀ (x : VArgs) (s : State), s.vecReady →
    let h := s.me
    let w := h.w
    let groups := (h.count + 31) / 32
    let all := (if x.c.getLsbD 2 then [] else [h.el x.b w 0]) ++ (h.lively x).map (h.el x.a w)
    let num (v : Nat) : Int := if h.ef % 2 = 0 then (BitVec.ofNat w v).toInt else v
    (∀ p ∈ [(Instr.vredsum x, 0), (.vfredsum x, 0), (.vredmin x, 1), (.vredmax x, 2)], h.legal p.1 = true →
      s.vecAnswers p.1 fun h' =>
        let r := reduceSpec (h.fold p.2) (h.folded x p.2) (h.foldInit x p.2) groups
        h.onlyVReg h' x.d ∧ h'.vfill x.d = w ∧ h'.vstat = h.vstat ∧ h'.el x.d w 0 = r.1 ∧ h'.fcsr = h.fcsr ||| r.2.setWidth 64) ∧
    (h.ef ≤ 7 →
      (reduceSpec (h.fold 0) (h.folded x 0) (h.foldInit x 0) groups).1 = all.foldl (· + ·) 0 % 2 ^ w ∧
      (all ≠ [] →
        (let v := (reduceSpec (h.fold 1) (h.folded x 1) (h.foldInit x 1) groups).1
         v ∈ all ∧ ∀ y ∈ all, num v ≤ num y) ∧
        (let v := (reduceSpec (h.fold 2) (h.folded x 2) (h.foldInit x 2) groups).1
         v ∈ all ∧ ∀ y ∈ all, num y ≤ num v))) ∧
    ∀ i ∈ [Instr.vscan x, .vfscan x], ∀ k < 3, x.c.toNat % 4 = k → h.legal i = true → s.vecAnswers i fun h' =>
      let y (e : Nat) := scanSpec (h.fold k) (h.folded x k) (h.foldInit x k) e
      h.onlyVReg h' x.d ∧ h'.vfill x.d = h.count * w ∧ h'.vbits x.d < 2 ^ (h.count * w) ∧ h'.vstat = h.vstat ∧
      (∀ e < h.count, h'.el x.d w e = if h.acts x.me x.m e then (y e).1 else h.el x.d w e) ∧
      h'.fcsr = h.fcsr ||| ((List.range (32 * groups)).foldl (fun f e => f ||| (y e).2) 0).setWidth 64

/-! ## Vector memory -/

/-- R84, R193, R197, R198, R223: a plain vector load whose active elements all lie on pages that allow them reads each from its
address; where element t is the first that faults, the elements before it are loaded, the fill reaches at least to it,
everything from it on stays, and the hart stops with vstart = t. -/
def Obligations.VectorLoads : Prop :=
  ∀ (p : (MArgs → Instr) × Nat), p ∈ [(Instr.vld, 0), (.vlds, 1), (.vldx, 2)] →
    ∀ (x : MArgs) (s : State) (segs : Nat → List Seg), s.vecReady → s.calm → s.undeferred → s.me.memLegal x p.2 = true →
    let h := s.me
    let n := h.many p.2
    let at_ (e : Nat) := s.locate ⟨s.cur, h.asid, true⟩ .r (· != clsDevice) (h.place x p.2 e).1 (bytesAt (h.place x p.2 e).2 h.w)
    let value (e : Nat) := s.valueAt (segs e) (h.place x p.2 e).2 h.w
    ((∀ e ∈ h.doing x.me x.m n, at_ e = .ok (segs e)) →
      s.vecAnswers (p.1 x) fun h' => h.elementwise h' x.me x.m x.d h.w n fun e => ⟨value e, 0, false⟩) ∧
    ∀ t ∈ h.doing x.me x.m n, ∀ c v, (∀ e ∈ h.doing x.me x.m n, e < t → at_ e = .ok (segs e)) → at_ t = .error (.trap c v) →
      ∃ h', exec (p.1 x) s = .next (s.setMe h') ∧ h.stopsAt h' c v t ∧
        (∀ e < t, h'.el x.d h.w e = if h.acts x.me x.m e then value e else h.el x.d h.w e) ∧
        h'.vfill x.d = max (h.vfill x.d) (t * h.w) ∧
        (∀ i, t * h.w ≤ i → (h'.vbits x.d).testBit i = (decide (i < h.vfill x.d) && (h.vbits x.d).testBit i)) ∧
        ∀ r, r ≠ x.d.toNat → h'.vreg r = h.vreg r

/-- R44, R84, R85, R127, R197, R198, R223 to R226: a plain vector store writes the active elements, a later one over an earlier,
and no other bit of memory; where element t faults, the elements before it are stored. A VST of fp32 whose lowest active element
lies on a store-convert page stores the converted values; that this element decides is the model's choice (log 42). In
deterministic mode memory does not change: the logical hart holds the bytes, in order, for the round of its next drain point.
VSTXA adds each active element into the aligned word that its index names, on an ordinary or a grid page, in ascending order,
which R226 leaves open outside deterministic mode: the model's choice (log 8); the flags of the additions accrue; a misaligned
element traps. An addition reads and writes the bytes of its element alone: integers wrap, and a floating-point sum is rounded
to nearest even with subnormals kept; that of GSCAT adds an fp32 contribution in the feature's format and raises NV for
infinities of opposite sign alone. -/
def Obligations.VectorStores : Prop :=
  (∀ (s : State) (pa ef v : Nat) (grid : Bool), ef ≤ 13 →
    let n := efWidth ef / 8
    let old := natOfBytes ((List.range n).map fun i => s.rd8 (pa + i))
    ∃ (t : State) (new : Nat), t = { s with mem := t.mem } ∧ (∀ i < n, t.rd8 (pa + i) = BitVec.ofNat 8 (new / 2 ^ (8 * i))) ∧
      (∀ a, a < pa ∨ pa + n ≤ a → t.rd8 a = s.rd8 a) ∧
      (ef ≤ 7 → new = (old + v) % 2 ^ (8 * n) ∧ s.addAt pa ef v grid = (t, 0)) ∧
      ∀ F, fmtOf ef = some F → (grid = true → F ∈ arithFmts) →
        let x := unpack F old
        let y := unpack (if grid then fp32 else F) v
        new = (addVal F 0 0 x y).1 ∧ s.addAt pa ef v grid = (t, if grid then
          (if x.isInf = true ∧ y.isInf = true ∧ x.neg ≠ y.neg then fNV else 0) else (addVal F 0 0 x y).2)) ∧
  (∀ (p : (MArgs → Instr) × Nat), p ∈ [(Instr.vst, 0), (.vsts, 1), (.vstx, 2)] →
    ∀ (x : MArgs) (s : State) (segs : Nat → List Seg), s.vecReady → s.calm → s.me.memLegal x p.2 = true →
    let h := s.me
    let n := h.many p.2
    let k : Ctx := ⟨s.cur, h.asid, true⟩
    let fp32Unit := p.2 = 0 ∧ h.ef = 12
    let at_ (e : Nat) := s.locate k .w (fun c => c != clsDevice && !(decide fp32Unit && c == clsConvert)) (h.place x p.2 e).1
      (bytesAt (h.place x p.2 e).2 h.w)
    let parts (l : List Nat) := l.map fun e => (cellsOf (segs e), (h.place x p.2 e).2, h.el x.d h.w e)
    (fp32Unit → ∀ e, h.firstActive x = some e → ∀ sb, ¬ ∃ l, s.convertsAt k (h.getG x.a + x.disp.signExtend 64) e sb l) →
    ((∀ e ∈ h.doing x.me x.m n, at_ e = .ok (segs e)) →
      (s.undeferred → ∃ t, exec (p.1 x) s = .next t ∧ t = ({ s with mem := t.mem } : State).setMe h.moved ∧
        ∀ a, ∀ j < 8, (t.rd8 a).getLsbD j = storedBit h.w (parts (h.doing x.me x.m n)) a j ((s.rd8 a).getLsbD j)) ∧
      (∀ r, s.recOf h.part h.launch = some r → r.sr.det = true →
        ∃ t new, exec (p.1 x) s = .next t ∧ t = ({ s with recs := t.recs } : State).setMe h.moved ∧ s.holds t new ∧
          (∀ e ∈ new, ∃ pa m v w, e = .byte ((r.lhart h.logical).drains + 1) x.oc.toNat pa m v w) ∧
          ∀ a b, ∀ j < 8, (seenByte new x.oc.toNat a b).getLsbD j =
            storedBit h.w (parts (h.doing x.me x.m n)) a j (b.getLsbD j))) ∧
    (s.undeferred → ∀ t ∈ h.doing x.me x.m n, ∀ c v, (∀ e ∈ h.doing x.me x.m n, e < t → at_ e = .ok (segs e)) →
      at_ t = .error (.trap c v) → ∃ u, exec (p.1 x) s = .next u ∧ h.stopsAt u.me c v t ∧ u.me.vec.v = h.vec.v ∧
        ∀ a, ∀ j < 8, (u.rd8 a).getLsbD j =
          storedBit h.w (parts ((h.doing x.me x.m n).filter (· < t))) a j ((s.rd8 a).getLsbD j))) ∧
  (∀ (x : MArgs) (s : State) (first : Leaf) (e0 : Nat) (segs : Nat → Seg), s.vecReady → s.calm → s.undeferred →
     s.me.memLegal x 0 = true → s.me.ef = 12 →
     let h := s.me
     let k : Ctx := ⟨s.cur, h.asid, true⟩
     let ea := h.getG x.a + x.disp.signExtend 64
     let sb := if first.sf < 2 then 2 else 1
     let va (e : Nat) := (ea.toNat + e * sb) % 2 ^ 64
     let value (e : Nat) := specStoreConvert (segs e).leaf (vtSUB h.vtype) (va e) e (h.el x.d 32 e)
     h.firstActive x = some e0 → s.convertsAt k ea e0 sb first → (sb = 1 → ¬ ∃ l, s.convertsAt k ea e0 2 l) →
     (∀ e ∈ h.doing x.me x.m h.count, s.locate k .w (fun _ => true) (va e) sb = .ok [segs e] ∧
       (segs e).leaf.cls = clsConvert ∧ (segs e).leaf.sf = first.sf ∧ (segs e).leaf.srm = first.srm) →
     ∃ t, exec (.vst x) s = .next t ∧
       t = ({ s with mem := t.mem } : State).setMe
         { h.moved with fcsr := (h.doing x.me x.m h.count).foldl (fun c e => c ||| (value e).2.setWidth 64) h.fcsr } ∧
       ∀ a, ∀ j < 8, (t.rd8 a).getLsbD j =
         storedBit (8 * sb) ((h.doing x.me x.m h.count).map fun e => (cellsOf [segs e], 0, (value e).1)) a j ((s.rd8 a).getLsbD j)) ∧
  (∀ (x : MArgs) (s : State) (r : Rec) (segs : Nat → Seg), s.vecReady → s.calm →
    let h := s.me
    let act := h.doing x.me x.m h.count32
    s.recOf h.part h.launch = some r → r.sr.det = true → (4 ≤ h.ef ∧ h.ef ≤ 7) ∨ h.ef = 12 ∨ h.ef = 13 → h.has [x.d, x.b] = true →
    (∀ e ∈ act, (h.place x 2 e).1 % (h.w / 8) = 0 ∧ s.locate ⟨s.cur, h.asid, true⟩ .rw (fun c => c == clsOrdinary || c == clsGrid)
      (h.place x 2 e).1 (h.w / 8) = .ok [segs e]) →
    ∃ t, exec (.vstxa x) s = .next t ∧ t = ({ s with recs := t.recs } : State).setMe h.moved ∧
      s.holds t (act.map fun e => .add ((r.lhart h.logical).drains + 1) (segs e).leaf.pa h.ef (h.el x.d h.w e) false)) ∧
  ∀ (x : MArgs) (s : State) (segs : Nat → Seg), s.vecReady → s.calm → s.undeferred →
    let h := s.me
    let act := h.doing x.me x.m h.count32
    let va (e : Nat) := (h.place x 2 e).1
    (4 ≤ h.ef ∧ h.ef ≤ 7) ∨ h.ef = 12 ∨ h.ef = 13 → h.has [x.d, x.b] = true →
    ((∀ e ∈ act, va e % (h.w / 8) = 0 ∧
        s.locate ⟨s.cur, h.asid, true⟩ .rw (fun c => c == clsOrdinary || c == clsGrid) (va e) (h.w / 8) = .ok [segs e]) →
      let r := act.foldl (fun (a : State × Flags) e =>
        let u := a.1.addAt (segs e).leaf.pa h.ef (h.el x.d h.w e) false; (u.1, a.2 ||| u.2)) (s, 0)
      exec (.vstxa x) s = .next (({ s with mem := r.1.mem } : State).setMe { h.moved with fcsr := h.fcsr ||| r.2.setWidth 64 })) ∧
    (∀ t, act.head? = some t → va t % (h.w / 8) ≠ 0 →
      ∃ h', exec (.vstxa x) s = .next (s.setMe h') ∧ h.stopsAt h' .misaligned (BitVec.ofNat 64 (va t)) t)

/-- R93, R121, R228: VLDSP and VSTSP read and write the elements in the scratchpad of the hart's cluster, pop a token before
and push one after as the word says, and change no byte of memory. -/
def Obligations.ScratchpadAccesses : Prop :=
  ∀ (x : SArgs) (s : State), s.vecReady → s.spoison = [] → s.me.ef ≤ 15 → s.me.has [x.d] = true → s.spTokens x →
    let h := s.me
    let c := clusterOf s.cur
    let act := h.doing x.me x.m h.count
    (∀ e ∈ act, h.spFits x e) →
    (∃ t, exec (.vldsp x) s = .next t ∧ t = ({ s with tok := t.tok } : State).setMe t.me ∧ s.spPaid t x ∧ h.passes t.me ∧
      h.elementwise t.me x.me x.m x.d h.w h.count fun e => ⟨natOfBytes (s.spBytes c (h.spPlace x e).1 (bytesAt (h.spPlace x e).2 h.w))
        / 2 ^ (h.spPlace x e).2 % 2 ^ h.w, 0, false⟩) ∧
    ∃ t, exec (.vstsp x) s = .next t ∧ t = ({ s with tok := t.tok, spad := t.spad } : State).setMe h.moved ∧ s.spPaid t x ∧
      (∀ a < 2 ^ 24, ∀ j < 8, (t.sp8 c a).getLsbD j = storedBit h.w (act.map fun e =>
        ((List.range (bytesAt (h.spPlace x e).2 h.w)).map ((h.spPlace x e).1 + ·), (h.spPlace x e).2, h.el x.d h.w e)) a j
        ((s.sp8 c a).getLsbD j)) ∧
      ∀ c' a, c' ≠ c → a < 2 ^ 24 → t.sp8 c' a = s.sp8 c' a

/-- R96 to R100, R229: a counted vector load takes one from each granule or block that it meets for the first time, whatever page
names it, and from no other; a counted vector store sets those counts to its n. -/
def Obligations.VectorCounted : Prop :=
  (∀ (p : (MArgs → Instr) × Nat), p ∈ [(Instr.vldRd, 0), (.vldxRd, 2)] →
    ∀ (x : MArgs) (s : State) (segs : Nat → List Seg), s.vecReady → s.calm → s.undeferred → s.me.memLegal x p.2 = true →
    (∀ l, (assocGet [] s.under l).length ≤ 128) →
    let h := s.me
    let n := h.many p.2
    let met := s.meetsGranules .rw x p.2 segs
    (∀ e ∈ h.doing x.me x.m n, s.locate ⟨s.cur, h.asid, true⟩ .rw (· == clsCounted) (h.place x p.2 e).1
      (bytesAt (h.place x p.2 e).2 h.w) = .ok (segs e)) → (∀ l ∈ met, 0 < s.count l) →
    ∃ t, exec (p.1 x) s = .next t ∧
      t = ({ s with cnt := t.cnt, under := t.under, away := t.away, mem := t.mem } : State).setMe t.me ∧ h.passes t.me ∧
      h.elementwise t.me x.me x.m x.d h.w n (fun e => ⟨s.valueAt (segs e) (h.place x p.2 e).2 h.w, 0, false⟩) ∧
      (∀ l, t.count l = s.count l - if l ∈ met then 1 else 0) ∧
      ∀ a, a / 128 ∉ met ∨ s.count (a / 128) ≠ 1 → t.rd8 a = s.rd8 a) ∧
  (∀ (x : MArgs) (s : State) (segs : Nat → List Seg), s.vecReady → s.calm → s.undeferred → s.me.memLegal x 0 = true →
    let h := s.me
    let met := s.meetsGranules .w x 0 segs
    let k := x.b.toNat + (if x.sc then 64 else 0) + (if x.ar then 128 else 0)
    (∀ e ∈ h.doing x.me x.m h.count, s.locate ⟨s.cur, h.asid, true⟩ .w (· == clsCounted) (h.place x 0 e).1
      (bytesAt (h.place x 0 e).2 h.w) = .ok (segs e)) →
    ∃ t, exec (.vstRc x) s = .next t ∧
      t = ({ s with cnt := t.cnt, under := t.under, away := t.away, mem := t.mem, parts := t.parts } : State).setMe h.moved ∧
      (∀ l, t.count l = if l ∈ met then k else s.count l) ∧
      ∀ a, ∀ j < 8, (t.rd8 a).getLsbD j = storedBit h.w ((h.doing x.me x.m h.count).map fun e =>
        (cellsOf (segs e), (h.place x 0 e).2, h.el x.d h.w e)) a j ((s.rd8 a).getLsbD j)) ∧
  ∀ (x : SArgs) (s : State), s.vecReady → s.spoison = [] → s.me.ef ≤ 15 → s.me.has [x.d] = true → s.spTokens x →
    let h := s.me
    let c := clusterOf s.cur
    let k := x.b.toNat + (if x.sc then 64 else 0) + (if x.ar then 128 else 0)
    let met := h.meetsBlocks x
    (∀ e ∈ h.doing x.me x.m h.count, h.spFits x e) →
    ((∀ b ∈ met, 0 < s.spCount c b) → ∃ t, exec (.vldspRd x) s = .next t ∧ s.spPaid t x ∧ h.passes t.me ∧
      t = ({ s with tok := t.tok, spcnt := t.spcnt } : State).setMe t.me ∧
      h.elementwise t.me x.me x.m x.d h.w h.count (fun e => ⟨natOfBytes (s.spBytes c (h.spPlace x e).1
        (bytesAt (h.spPlace x e).2 h.w)) / 2 ^ (h.spPlace x e).2 % 2 ^ h.w, 0, false⟩) ∧
      ∀ b < 131072, t.spCount c b = s.spCount c b - if b ∈ met then 1 else 0) ∧
    ∃ t, exec (.vstspRc x) s = .next t ∧ s.spPaid t x ∧
      t = ({ s with tok := t.tok, spcnt := t.spcnt, spad := t.spad, parts := t.parts } : State).setMe h.moved ∧
      (∀ b < 131072, t.spCount c b = if b ∈ met then k else s.spCount c b) ∧
      ∀ a < 2 ^ 24, ∀ j < 8, (t.sp8 c a).getLsbD j = storedBit h.w ((h.doing x.me x.m h.count).map fun e =>
        ((List.range (bytesAt (h.spPlace x e).2 h.w)).map ((h.spPlace x e).1 + ·), (h.spPlace x e).2, h.el x.d h.w e)) a j
        ((s.sp8 c a).getLsbD j)

/-! ## Alkel codes -/

/-- R41, R42, R45, R49: the codes of int32 values, joined, decode to the values, and the list ends with the register. -/
def Obligations.CodesRoundTrip : Prop :=
  ∀ (k : Nat) (vs : List Int), k ≤ 7 → (∀ v ∈ vs, -2 ^ 31 ≤ v ∧ v < 2 ^ 31) →
    let c := joinCodes k vs
    let r := boundsFrom c.1 c.2 k (c.2 + 1) 0
    r.vals = vs ∧ r.why = 0 ∧ r.stop = c.2 ∧ r.starts.length = vs.length

/-- R49 to R52, R54, R55, R237 to R241: each register-only coded instruction whose use is not illegal completes; it writes v[d],
the grant CSRs and vstat, and nothing outside the hart. It grants as many results as its sources, the limit, the scales and vb
allow; vgn, vga, vgb and vgo are the elements, the bits taken and the bits left; the results are those of its row, joined from
bit 0 on; STOP says what ended them. vstat.SAT is set where a result clamps, the one whose code does not fit included (R51,
R54); that the flags of that one accrue too is the model's choice (log 43). What the results are is said for vstart = 0. Every
other use traps. -/
def Obligations.CodedInstructions : Prop :=
  (∀ (i : Instr) (s : State), codedOnly i = true → s.vecReady →
    (s.me.codedLegal i = true → ∃ h', exec i s = .next (s.setMe h') ∧ s.me.passesCoded h') ∧
    (s.me.codedLegal i = false → exec i s = .next (s.traps .illegal s.ir))) ∧
  ∀ (x : VArgs) (s : State), s.vecReady → s.me.vec.vstart = 0 →
    let h := s.me
    let k := vtK h.vtype
    let a := h.codes x.a k
    let b := h.codes x.b k
    let lim (r : Reg) := if r = 0 then 2 ^ 64 - 1 else (h.getG r).toNat % 2 ^ 58
    let ph := if x.b = 0 then 0 else (h.getG x.b).toNat / 2 ^ 58
    let answers (i : Instr) (P : Hart → Nat → Prop) := h.codedLegal i = true →
      ∃ h', exec i s = .next (s.setMe h') ∧ P h' h'.vec.vgn.toNat
    let flags (h' : Hart) (e : Nat) (fl : Nat → Flags) :=
      h'.fcsr = (List.range e).foldl (fun c i => c ||| (fl i).setWidth 64) h.fcsr
    let one (i : Instr) (c : Codes) (n : Nat) (r : Nat → Nat × Nat) (fl : Nat → Flags) (sat : Nat → Bool) :=
      answers i fun h' e => h.produces h' x.d n r ∧ h'.vec.vga.toNat = c.start e ∧ h'.vec.vgb = 0 ∧ flags h' (min (e + 1) n) fl ∧
        h'.vstat = stopWord h.vstat (if e < min c.n (lim x.b) then 2 else if e = lim x.b then 0 else c.why)
          ((List.range (min (e + 1) n)).any sat)
    let two (i : Instr) (v : Nat → Int) :=
      let n := min (min a.n b.n) (lim x.c)
      answers i fun h' e => h.produces h' x.d n (fun j => akenc (clamp32 (v j)) k) ∧
        h'.vec.vga.toNat = a.start e ∧ h'.vec.vgb.toNat = b.start e ∧ h'.fcsr = h.fcsr ∧
        h'.vstat = stopWord h.vstat (if e < n then 2 else if e = lim x.c then 0 else if e = a.n then a.why else b.why)
          ((List.range (min (e + 1) n)).any fun j => decide (clamp32 (v j) ≠ v j))
    h.vec.vb ≤ 262144 → h.vfill x.a ≤ 262144 → h.vfill x.b ≤ 262144 →
    one (.vcpos x) a (min a.n (lim x.b)) (fun i => (a.start i, 32)) (fun _ => 0) (fun _ => false) ∧
    one (.vclen x) a (min a.n (lim x.b)) (fun i => (a.start (i + 1) - a.start i, 8)) (fun _ => 0) (fun _ => false) ∧
    (let res (i : Nat) := h.decodes (a.vals.getD i 0) (h.codedScale x.c x.a ph i)
     one (.vcdec x) a (h.scaled x.c ph (min a.n (lim x.b))) (fun i => ((res i).val, h.w)) (fun i => (res i).fl) fun i => (res i).sat) ∧
    (let c : Codes := ⟨(List.range (h.vfill x.a / h.w)).map (· * h.w), [], h.vfill x.a / h.w * h.w,
       if h.vfill x.a % h.w = 0 then 0 else 1⟩
     let res (i : Nat) := h.encodes (h.el x.a h.w i) (h.codedScale x.c x.d ph i)
     one (.vcenc x) c (h.scaled x.c ph (min c.n (lim x.b))) (fun i => akenc (res i).1 k) (fun i => (res i).2.1) fun i => (res i).2.2) ∧
    two (.vcadd x) (fun i => a.vals.getD i 0 + b.vals.getD i 0) ∧
    two (.vcsub x) (fun i => a.vals.getD i 0 - b.vals.getD i 0) ∧
    answers (.vcskip x) (fun h' e => e = min a.n (lim x.b) ∧ h'.vec.v = h.vec.v ∧ h'.vec.vga.toNat = a.start e ∧ h'.vec.vgb = 0 ∧
      h'.vec.vgo = 0 ∧ h'.fcsr = h.fcsr ∧ h'.vstat = stopWord h.vstat (if e = lim x.b then 0 else a.why) false) ∧
    answers (.vccat x) fun h' e =>
      let total := a.n + if a.why = 0 then b.n else 0
      h.produces h' x.d (min total (lim x.c)) (fun i =>
        if i < a.n then (slice (h.vbits x.a) (a.start i) (a.len i), a.len i)
        else (slice (h.vbits x.b) (b.start (i - a.n)) (b.len (i - a.n)), b.len (i - a.n))) ∧
      h'.vec.vga.toNat = a.start (min e a.n) ∧ h'.vec.vgb.toNat = b.start (e - a.n) ∧ h'.fcsr = h.fcsr ∧
      h'.vstat = stopWord h.vstat (if e < min total (lim x.c) then 2 else if e < total then 0
        else if a.why = 0 then b.why else a.why) false

/-- R43, R234, R235: VCLD loads vb bits from bit pointer g[a] on, and VCST stores the bits below the fill of v[d] there; no other
bit of memory changes, and the grants are the bits moved. -/
def Obligations.CodedMemory : Prop :=
  ∀ (x : MArgs) (s : State) (segs : Nat → Seg), s.vecReady → s.calm → s.undeferred → s.me.has [x.d] = true →
    let h := s.me
    let at_ (need : Need) (j : Nat) := s.locate ⟨s.cur, h.asid, true⟩ need (· != clsDevice) ((h.getG x.a + BitVec.ofNat 64 j).toNat / 8) 1
    let bit (j : Nat) := (h.getG x.a + BitVec.ofNat 64 j).toNat % 8
    let f := h.vfill x.d
    h.vec.vb ≤ 262144 → f ≤ 262144 →
    ((∀ j, h.vec.vstart ≤ j → j < h.vec.vb → at_ .r j = .ok [segs j]) →
      ∃ h', exec (.vcld x) s = .next (s.setMe h') ∧ h.passesCoded h' ∧ h'.vfill x.d = h.vec.vb ∧
        h'.vec.vgo = BitVec.ofNat 64 h.vec.vb ∧ h'.vec.vgn = 0 ∧ h'.vec.vga = 0 ∧ h'.vec.vgb = 0 ∧
        (∀ j < h.vec.vb, (h'.vbits x.d).testBit j =
          if h.vec.vstart ≤ j then (s.rd8 (segs j).leaf.pa).getLsbD (bit j) else (h.vbits x.d).testBit j) ∧
        ∀ r, r ≠ x.d.toNat → h'.vreg r = h.vreg r) ∧
    ((∀ j, h.vec.vstart ≤ j → j < f → at_ .w j = .ok [segs j]) →
      ∃ t, exec (.vcst x) s = .next t ∧ t = ({ s with mem := t.mem } : State).setMe t.me ∧ h.passesCoded t.me ∧ t.me.vec.v = h.vec.v ∧
        t.me.vec.vga = BitVec.ofNat 64 f ∧ t.me.vec.vgo = 0 ∧
        ∀ a, ∀ i < 8, (t.rd8 a).getLsbD i =
          storedBit 1 (((List.range f).filter (h.vec.vstart ≤ ·)).map fun j =>
            ([(segs j).leaf.pa], bit j, ((h.vbits x.d).testBit j).toNat)) a i ((s.rd8 a).getLsbD i))

/-! ## Hashed grids and reader counts -/

/-- R244, R246 to R250: every entry that a point reaches lies in the table of its level; GDESC loads a valid slot or raises the
grid-descriptor trap; GLOAD interpolates each point from its entries, in ascending corner; GSCAT adds each weighted gradient
into its entry, in ascending point, level, corner and feature; a slot that is not valid traps. The fields of a descriptor are
those of R242, and the resolutions, coordinates, corners, weights and indices those of R243, R246 and R247. That GSCAT takes EF
= 12 alone (log 33) and that its additions come in that order outside deterministic mode too (log 8) is the model's choice. -/
def Obligations.GridInstructions : Prop :=
  (∀ (d : Nat) (xs : List Nat), descOk d = true → xs.length = gD d → ∀ e ∈ gridEntries d xs,
    gBase d ≤ e.2.1 ∧ e.2.1 + gE d ≤ gBase d + gL d * 2 ^ gT d * gE d ∧ (e.2.1 - gBase d) % gE d = 0) ∧
  (∀ d l : Nat,
    gBase d = d % 2 ^ 64 ∧ gRes d = d / 2 ^ 96 % 2 ^ 16 ∧ gL d = d / 2 ^ 68 % 16 + 1 ∧ gD d = d / 2 ^ 64 % 8 ∧ gT d = d / 2 ^ 72 % 32 ∧
    gF d = 2 ^ (d / 2 ^ 77 % 4) ∧ gEF d = [10, 11, 12, 12].getD (d / 2 ^ 79 % 4) 0 ∧ gfb d = [2, 2, 4, 4].getD (d / 2 ^ 79 % 4) 0 ∧
    gE d = gF d * gfb d ∧ gridRes d l = (fun q => q * (d / 2 ^ 128 % 2 ^ 32) / 65536)^[l] (gRes d * 65536) / 65536 ∧
    (descOk d = true ↔ d / 2 ^ 52 % 2 ^ 12 = 0 ∧ d / 2 ^ 112 % 2 ^ 16 = 0 ∧ d / 2 ^ 81 % 2 ^ 15 = 0 ∧ d / 2 ^ 67 % 2 = 0 ∧
      d / 2 ^ 160 = 0 ∧ gD d ≠ 0 ∧ 4 ≤ gT d ∧ gT d ≤ 24 ∧ d / 2 ^ 79 % 4 ≠ 3 ∧ 2 ≤ gRes d ∧ 65536 ≤ d / 2 ^ 128 % 2 ^ 32 ∧
      gBase d % 128 = 0 ∧ (∀ l < gL d, gridRes d l ≤ 2 ^ 24) ∧ gBase d + gL d * 2 ^ gT d * gE d ≤ 2 ^ 52)) ∧
  (∀ (d : Nat) (xs : List Nat), gridEntries d xs = (List.range (gL d)).flatMap fun l => (List.range (2 ^ gD d)).map fun k =>
    let cs := xs.map fun x => lowerCorner x (gridRes d l)
    let qs := cs.zipIdx.map fun c => c.1.1 + (k / 2 ^ c.2 % 2)
    let one := unpack fp32 0x3F800000
    (l, gBase d + (l * 2 ^ gT d + entryIndex (gT d) (gridRes d l) qs) * gE d,
      cs.zipIdx.foldl (fun w c => (mulVal fp32 0 0 (unpack fp32 w) (unpack fp32 (if k.testBit c.2 then c.1.2
        else (addVal fp32 0 0 one (unpack fp32 c.1.2).negate).1))).1) 0x3F800000)) ∧
  (∀ b : Nat, let v := unpack fp32 b
    (v.isNan = true → coord b = (0, fNV)) ∧ (v = .inf true ∨ (v.finite = true ∧ v.rat ≤ 0) → coord b = (0, 0)) ∧
    (v = .inf false ∨ 1 < v.rat → coord b = (0x3F800000, 0)) ∧ (0 < v.rat → v.rat ≤ 1 → coord b = (b, 0))) ∧
  (∀ b res : Nat, 2 ≤ res → res ≤ 2 ^ 24 → (unpack fp32 b).finite = true → 0 ≤ (unpack fp32 b).rat → (unpack fp32 b).rat ≤ 1 →
    (unpack fp32 b).neg = false →
    ∃ e : Ex, e.sticky = false ∧ e.standsFor ((unpack fp32 b).rat * (res - 1)) ∧
      let p := (unpack fp32 (roundFin fp32 0 0 e).1).rat
      let c := lowerCorner b res
      (c.1 : ℤ) = min ⌊p⌋ (res - 2) ∧ (unpack fp32 c.2).finite = true ∧ (unpack fp32 c.2).rat = p - c.1) ∧
  (∀ (t res : Nat) (qs : List Nat), qs.length ≤ 7 →
    let D := qs.length
    let factor (i : Nat) := [0x6C8E9CF1, 0xB5AD4EC1, 0x4F1BBCDD, 0xD1B54A33, 0x7A2D58E9, 0x93C4670B, 0xE8F12A57].getD i 0
    entryIndex t res qs = if res ^ D ≤ 2 ^ t then ((List.range D).map fun i => qs.getD i 0 * res ^ (D - 1 - i)).sum
      else ((List.range D).foldl (fun a i => a ^^^ (qs.getD i 0 * factor i % 2 ^ 32)) 0) % 2 ^ t) ∧
  (∀ (x : MArgs) (s : State) (g : Seg), s.vecReady → s.calm → s.undeferred →
    let h := s.me
    let ea := h.getG x.a + x.disp.signExtend 64
    let d := natOfBytes ((List.range 64).map fun i => s.rd8 (g.leaf.pa + i))
    (ea.toNat % 64 ≠ 0 → ∃ h', exec (.gdesc x) s = .next (s.setMe h') ∧ h.stopsAt h' .misaligned ea h.vec.vstart) ∧
    (ea.toNat % 64 = 0 → s.locate ⟨s.cur, h.asid, true⟩ .r (· != clsDevice) ea.toNat 64 = .ok [g] → g.len = 64 →
      (descOk d = true → exec (.gdesc x) s = .next (s.setMe
        { h.moved with vec := { h.moved.vec with gd := assocPut GSlot.zero h.vec.gd x.d.toNat ⟨d, x.oc.toNat, true⟩ } })) ∧
      (descOk d = false → ∃ h', exec (.gdesc x) s = .next (s.setMe h') ∧
        h.stopsAt h' .gridDescriptor (BitVec.ofNat 64 x.d.toNat) h.vec.vstart))) ∧
  ∀ (x : VArgs) (s : State) (seg : Nat → Seg), s.vecReady → s.calm → s.undeferred →
    let h := s.me
    let slot := assocGet GSlot.zero h.vec.gd x.b.toNat
    let d := slot.desc
    let per := gL d * gF d
    let xs (pt : Nat) := (List.range (gD d)).map fun i => (coord (h.el x.a 32 (pt * gD d + i))).1
    let es (pt : Nat) := gridEntries d (xs pt)
    let cap (n : Nat) := min (min (h.getG x.c).toNat (h.vfill x.a / (32 * gD d))) (n / (32 * per))
    let legal := h.ef = 12 ∧ h.has [x.d, x.a] = true
    (¬ legal → exec (.gload x) s = .next (s.traps .illegal s.ir) ∧ exec (.gscat x) s = .next (s.traps .illegal s.ir)) ∧
    (legal → slot.valid = false → ∀ i ∈ [Instr.gload x, .gscat x], ∃ h', exec i s = .next (s.setMe h') ∧
      h.stopsAt h' .gridDescriptor (BitVec.ofNat 64 x.b.toNat) h.vec.vstart) ∧
    (legal → slot.valid = true →
      (∀ pt < cap h.vec.vb, h.vec.vstart ≤ pt → ∀ e ∈ es pt,
        s.locate ⟨s.cur, h.asid, true⟩ .r (· == clsGrid) e.2.1 (gE d) = .ok [seg e.2.1]) →
      ∃ h', exec (.gload x) s = .next (s.setMe h') ∧ h.passes h' ∧ h'.g = h.g ∧ h'.vec.m = h.vec.m ∧ h'.vstat = h.vstat ∧
        h'.vfill x.d = cap h.vec.vb * (per * 32) ∧ (∀ r, r ≠ x.d.toNat → h'.vreg r = h.vreg r) ∧
        h'.fcsr &&& ~~~(fNV.setWidth 64) = h.fcsr &&& ~~~(fNV.setWidth 64) ∧
        ∀ pt < cap h.vec.vb, ∀ l < gL d, ∀ f < gF d, h'.el x.d 32 (pt * per + l * gF d + f) =
          if h.vec.vstart ≤ pt then
            ((es pt).filter fun e => e.1 == l).foldl (fun a e => (add32 a (mul32 e.2.2 (feature32 (gEF d)
              (elem (natOfBytes ((List.range (gE d)).map fun i => s.rd8 ((seg e.2.1).leaf.pa + i))) (8 * gfb d) f))).1).1) 0
          else h.el x.d 32 (pt * per + l * gF d + f)) ∧
    (legal → slot.valid = true →
      (∀ pt < cap (h.vfill x.d), h.vec.vstart ≤ pt → ∀ e ∈ es pt,
        s.locate ⟨s.cur, h.asid, true⟩ .rw (· == clsGrid) e.2.1 (gE d) = .ok [seg e.2.1]) →
      ∃ t, exec (.gscat x) s = .next t ∧
        t = ({ s with mem := t.mem } : State).setMe { h.moved with fcsr := t.me.fcsr } ∧
        t.me.fcsr &&& ~~~(fNV.setWidth 64) = h.fcsr &&& ~~~(fNV.setWidth 64) ∧
        t.mem = ((((List.range (cap (h.vfill x.d))).filter (h.vec.vstart ≤ ·)).flatMap fun pt => (es pt).flatMap fun e =>
          (List.range (gF d)).map fun f => ((seg e.2.1).leaf.pa + f * gfb d,
            (mul32 e.2.2 (h.el x.d 32 ((pt * gL d + e.1) * gF d + f))).1)).foldl
          (fun u p => (u.addAt p.1 (gEF d) p.2 true).1) s).mem)

/-- R99, R101, R252 to R254: RCCLOSE and RCCLOSESP close the granules or blocks of their range, return how many were open, and
change no other count; RCQUERY and RCQUERYSP return one count; a range that is too long is illegal, one beyond scratchpad is an
access fault, and the first page that fails, in ascending address, traps with nothing closed. -/
def Obligations.ReaderCounts : Prop :=
  ∀ (x : AArgs) (s : State), kindOf s.cur = .vector ∨ kindOf s.cur = .sequencer → s.me.vec.queue = [] →
    let a := (s.me.getG x.a).toNat
    let n := (s.me.getG x.b).toNat
    let c := clusterOf s.cur
    (n = 0 → exec (.rcclose x) s = .next (s.writes x.d 0) ∧ exec (.rcclosesp x) s = .next (s.writes x.d 0)) ∧
    (2 ^ 32 < n ∨ 2 ^ 64 < a + n →
      exec (.rcclose x) s = .next (s.traps .illegal s.ir) ∧ exec (.rcclosesp x) s = .next (s.traps .illegal s.ir)) ∧
    (∀ gs, s.calm → (∀ l, (assocGet [] s.under l).length ≤ 128) → 0 < n → n ≤ 2 ^ 32 → a + n ≤ 2 ^ 64 →
      s.locate (s.ctx s.cur) .rw (· == clsCounted) a n = .ok gs →
      let ls := (gs.flatMap fun g => linesOf g.leaf.pa g.len).eraseDups
      ∃ t, exec (.rcclose x) s = .next t ∧
        t = ({ s with cnt := t.cnt, under := t.under, away := t.away, mem := t.mem, parts := t.parts } : State).writes x.d
          (BitVec.ofNat 64 (ls.filter fun l => decide (0 < s.count l)).length) ∧
        (∀ l, t.count l = if l ∈ ls then 0 else s.count l) ∧
        (∀ b, b / 128 ∉ ls ∨ s.count (b / 128) = 0 → t.rd8 b = s.rd8 b) ∧
        ∀ p, t.part p = { s.part p with uread := (t.part p).uread }) ∧
    (0 < n → n ≤ 2 ^ 32 → a + n ≤ 2 ^ 64 →
      (2 ^ 24 < a + n → exec (.rcclosesp x) s = .next (s.traps .access (BitVec.ofNat 64 (max a (2 ^ 24))))) ∧
      (a + n ≤ 2 ^ 24 → ∃ t, exec (.rcclosesp x) s = .next t ∧
        t = ({ s with spcnt := t.spcnt, parts := t.parts } : State).writes x.d
          (BitVec.ofNat 64 ((linesOf a n).filter fun b => decide (0 < s.spCount c b)).length) ∧
        (∀ b < 131072, t.spCount c b = if b ∈ linesOf a n then 0 else s.spCount c b) ∧
        (∀ c' b, c' ≠ c → b < 131072 → t.spCount c' b = s.spCount c' b) ∧
        ∀ p, t.part p = { s.part p with uread := (t.part p).uread })) ∧
    (∀ g, s.calm → s.locate (s.ctx s.cur) .r (· == clsCounted) a 1 = .ok [g] →
      exec (.rcquery x) s = .next (s.writes x.d (BitVec.ofNat 64 (s.count (g.leaf.pa / 128))))) ∧
    (a < 2 ^ 24 → exec (.rcquerysp x) s = .next (s.writes x.d (BitVec.ofNat 64 (s.spCount c (a / 128))))) ∧
    (2 ^ 24 ≤ a → exec (.rcquerysp x) s = .next (s.traps .access (s.me.getG x.a))) ∧
    ∀ cs v, (s.locate (s.ctx s.cur) .r (· == clsCounted) a 1 = .error (.trap cs v) → exec (.rcquery x) s = .next (s.traps cs v)) ∧
      (0 < n → n ≤ 2 ^ 32 → a + n ≤ 2 ^ 64 →
        let page (p : Nat) := p = a ∨ p % 65536 = 0 ∧ a < p ∧ p < a + n
        ∀ p, page p → (∀ q < p, page q → ∃ l, s.translate (s.ctx s.cur) .rw q = .ok l ∧ l.cls = clsCounted) →
          (s.translate (s.ctx s.cur) .rw p = .error (.trap cs v) → exec (.rcclose x) s = .next (s.traps cs v)) ∧
          ∀ l, s.translate (s.ctx s.cur) .rw p = .ok l → l.cls ≠ clsCounted →
            exec (.rcclose x) s = .next (s.traps .pageClass (BitVec.ofNat 64 p)))

/-! ## The matrix sequencer -/

/-- R256, R259 to R262, R266 to R268: MCFG sets the words for the legal pairs of formats and traps for any other; MSETTL grants;
MLDA and MLDB load a latch row by row; MZERO clears an accumulator, MLD loads a tile of it, and MST drains one, each value in
its output format, the later of two that share a byte, and clears it with CLR. That the scale rows of an indexed MLDA follow its
list is the model's choice (log 32). -/
def Obligations.MatrixLoads : Prop :=
  ∀ (x : XArgs) (s : State), s.seqReady → s.unspoiled →
    let h := s.me
    let c := clusterOf s.cur
    let m := h.mx
    let ga := h.getG x.a
    let gb := h.getG x.b
    let gc := h.getG x.c
    let f64 := decide (fmtA m.fmt = 13)
    let pitch (i : Nat) := bitsOf m.pitch (20 * i + 19) (20 * i) * 16
    let legal := bitsOf ga 63 13 = 0 ∧ bitsOf ga 7 5 = 0 ∧ bitsOf gb 63 60 = 0 ∧ (bitsOf ga 4 0, bitsOf ga 12 8) ∈
      [(0, 0), (0, 1), (1, 0), (1, 1), (8, 8), (8, 9), (9, 8), (9, 9), (10, 10), (11, 11), (12, 12), (13, 13), (14, 14)]
    (legal → exec (.mcfg x) s = .next (s.completes ({ h with mx := { m with fmt := ga, pitch := gb } }.setG x.d m.fmt) (h.pc + 8))) ∧
    (¬ legal → exec (.mcfg x) s = .next (s.traps .illegal s.ir)) ∧
    (∀ k ∈ [(0, 256), (1, 256), (8, 256), (9, 256), (10, 128), (11, 128), (12, 64), (13, 32), (14, 512)], fmtA m.fmt = k.1 →
      let tm := min ga.toNat 128
      let tn := min gb.toNat (if f64 then 64 else 128)
      let tk := min gc.toNat k.2
      exec (.msettl x) s = .next (s.completes ((({ h with mx := { m with tm := tm, tn := tn, tk := tk } }.setG x.d
        (BitVec.ofNat 64 tm)).setG (x.d + 1) (BitVec.ofNat 64 tn)).setG (x.d + 2) (BitVec.ofNat 64 tk)) (h.pc + 8))) ∧
    (s.xTokens x →
      s.mxAnswers (.mzero x) x (fun t => t.spad = s.spad ∧ t.me.fcsr = h.fcsr ∧ t.me.vstat = h.vstat ∧ t.me.mx.la = m.la ∧
        t.me.mx.lb = m.lb ∧ (∀ i, t.me.mx.accPos x.d.toNat i = 0) ∧
        ∀ a i, a ≠ x.d.toNat → t.me.mx.accPos a i = m.accPos a i)) ∧
    (s.xTokens x → h.tileFits →
      let n8 := if f64 then 8 else 4
      ga.toNat % n8 = 0 → (m.tn ≠ 0 → ∀ i < m.tm, ga.toNat + i * pitch 2 + m.tn * n8 ≤ 2 ^ 24) →
      s.mxAnswers (.mld x) x (fun t => t.spad = s.spad ∧ t.me.fcsr = h.fcsr ∧ t.me.vstat = h.vstat ∧ t.me.mx.la = m.la ∧
        t.me.mx.lb = m.lb ∧ h.onlyTile t.me x.d.toNat ∧ ∀ i < m.tm, ∀ j < m.tn, t.me.mx.accVal (accKind m.fmt) x.d.toNat i j =
          natOfBytes (s.spBytes c (ga.toNat + i * pitch 2 + j * n8) n8))) ∧
    (s.xTokens x → h.tileFits → mstOk x m.fmt = true →
      let os := mstBytes x.fn m.fmt
      let F := fmtOf (x.fn.toNat % 32)
      let v (i j : Nat) : ERes :=
        let b := m.accVal (accKind m.fmt) x.d.toNat i j
        if x.fn.getLsbD 5 = false then ⟨b, 0, false⟩
        else if accKind m.fmt = .int then
          let r := clampS (8 * os) (BitVec.ofNat 32 b).toInt
          ⟨r.1.toNat, 0, r.2⟩
        else
          let y := operand (if f64 then fp64 else fp32) (vtSUB h.vtype) b
          let r := if x.fn.getLsbD 6 then
              sroundVal (F.getD fp32) (vtSUB h.vtype) y ((mix gb (gc + BitVec.ofNat 64 (128 * i + j))).toNat % 2 ^ 32)
            else roundVal (F.getD fp32) (vtRM h.vtype) (vtSUB h.vtype) y
          ⟨r.1, r.2, false⟩
      let tile := (List.range m.tm).flatMap fun i => (List.range m.tn).map fun j => (i, j)
      ga.toNat % os = 0 → (m.tn ≠ 0 → ∀ i < m.tm, ga.toNat + i * pitch 2 + m.tn * os ≤ 2 ^ 24) →
      s.mxAnswers (.mst x) x (fun t => t.me.mx.la = m.la ∧ t.me.mx.lb = m.lb ∧ h.onlyTile t.me x.d.toNat ∧
        (∀ i, h.inTile i → t.me.mx.accPos x.d.toNat i = if x.fn.getLsbD 7 then 0 else m.accPos x.d.toNat i) ∧
        t.me.fcsr = tile.foldl (fun w p => w ||| (v p.1 p.2).fl.setWidth 64) h.fcsr ∧
        t.me.vstat = (if tile.any fun p => (v p.1 p.2).sat then h.vstat ||| 1 else h.vstat) ∧
        (∀ o < 2 ^ 24, t.sp8 c o = (lastOf (tile.flatMap fun p => (List.range os).map fun b =>
          (ga.toNat + p.1 * pitch 2 + p.2 * os + b, BitVec.ofNat 8 ((v p.1 p.2).val / 2 ^ (8 * b)))) o).getD (s.sp8 c o)) ∧
        ∀ c' o, c' ≠ c → o < 2 ^ 24 → t.sp8 c' o = s.sp8 c' o)) ∧
    ∀ isB : Bool, s.xTokens x →
      let ef := if isB then fmtB m.fmt else fmtA m.fmt
      let kr := x.fn.getLsbD 0
      let side := if isB then m.tn else m.tm
      let rows := if side = 0 ∨ m.tk = 0 then 0 else if kr then m.tk else side
      let p := pitch (if isB then 1 else 0)
      let es := if ef = 14 then 1 else efWidth ef / 8
      let len := rowBytes ef (if kr then side else m.tk)
      let list := isB = false ∧ x.b ≠ 0
      let row (i : Nat) := if list then natOfBytes (s.spBytes c (gb.toNat + 4 * i) 4) else i
      let B := h.blk
      slOk h.vtype m.fmt = true → (if ef = 14 then x.c ≠ 0 ∧ kr = false ∧ p % (B / 2) = 0 else x.c = 0) →
      ga.toNat % es = 0 → (list → gb.toNat % 4 = 0) → (list → 0 < rows → gb.toNat + 4 * rows ≤ 2 ^ 24) →
      (∀ i < rows, ga.toNat + row i * p + len ≤ 2 ^ 24) →
      (ef = 14 → ∀ i < rows, gc.toNat + row i * (p * 2 / B) + (m.tk + B - 1) / B ≤ 2 ^ 24) →
      s.mxAnswers (if isB then .mldb x else .mlda x) x (fun t => t.spad = s.spad ∧ t.me.fcsr = h.fcsr ∧ t.me.vstat = h.vstat ∧
        t.me.mx.acc = m.acc ∧ (if isB then t.me.mx.la = m.la else t.me.mx.lb = m.lb) ∧
        ∃ L, (if isB then t.me.mx.lb else t.me.mx.la) = some L ∧ L.stamp = (m.tm, m.tn, m.tk, m.fmt, kr) ∧
          L.rows.length = rows ∧
          (∀ i < rows, L.rows.getD i 0 = natOfBytes (s.spBytes c (ga.toNat + row i * p) len)) ∧
          (ef = 14 → ∀ i < rows, ∀ j < (m.tk + B - 1) / B, (L.scales.getD i []).getD j 0 =
            (s.sp8 c (gc.toNat + row i * (p * 2 / B) + j)).toNat))

/-- R33 to R37, R256, R263, R264: with both latches loaded under the grants and formats in force, in the layout of the
instruction, MMA and MOPA add the sum of the products to each value of the tile, rounded once, or clamped in integers; flags and
clamps accrue; nothing else changes. Under a grant of no K they touch no element (R260, log 32). A latch that does not fit
raises the engine-command trap. The sum of finite products is one rounding of the exact value; NaN, infinities and an exact zero
are as R34 orders them. A product of finite elements is exact; one of three slices is the sum of six products of bf16 slices,
and one of seven slices that of 28 products of digits under shared exponents; a product with a NaN or an infinity is that of the
elements. -/
def Obligations.MatrixProducts : Prop :=
  (∀ (x : XArgs) (s : State) (la lb : Latch), s.seqReady → s.unspoiled → s.xTokens x → s.me.tileFits →
    let h := s.me
    let m := h.mx
    let sub := vtSUB h.vtype
    let ks := List.range m.tk
    let a := fmtA m.fmt
    let b := fmtB m.fmt
    let out (i j : Nat) : ERes :=
      let acc := m.accVal (accKind m.fmt) x.d.toNat i j
      if accKind m.fmt = .int then
        let r := clampS 32 ((BitVec.ofNat 32 acc).toInt + (ks.map fun k => la.ival a i k * lb.ival b j k).sum)
        ⟨r.1.toNat, 0, r.2⟩
      else
        let F := if a = 13 then fp64 else fp32
        let u (k : Nat) := la.val a sub i k
        let w (k : Nat) := lb.val b sub j k
        let r := matrixSum F sub (operand F sub acc) (
          if a = 13 then ks.map fun k => prod7 (u k) (w k) (sharedExp (ks.map u)) (sharedExp (ks.map w))
          else if a = 12 then ks.flatMap fun k => prods3 (u k) (w k)
          else ks.map fun k => prodVal (u k) (w k))
        ⟨r.1, r.2, false⟩
    let tile := if m.tk = 0 then [] else (List.range m.tm).flatMap fun i => (List.range m.tn).map fun j => (i, j)
    ∀ f ∈ [(Instr.mma x, false), (.mopa x, true)],
      let want := some (m.tm, m.tn, m.tk, m.fmt, f.2)
      (slOk h.vtype m.fmt = true → m.la = some la → m.lb = some lb → some la.stamp = want → some lb.stamp = want →
        s.mxAnswers f.1 x (fun t => t.spad = s.spad ∧ t.me.mx.la = m.la ∧ t.me.mx.lb = m.lb ∧ h.onlyTile t.me x.d.toNat ∧
          (m.tk = 0 → ∀ i, t.me.mx.accPos x.d.toNat i = m.accPos x.d.toNat i) ∧
          (∀ p ∈ tile, t.me.mx.accVal (accKind m.fmt) x.d.toNat p.1 p.2 = (out p.1 p.2).val) ∧
          t.me.fcsr = tile.foldl (fun w p => w ||| (out p.1 p.2).fl.setWidth 64) h.fcsr ∧
          t.me.vstat = if tile.any fun p => (out p.1 p.2).sat then h.vstat ||| 1 else h.vstat)) ∧
      (slOk h.vtype m.fmt = true → m.la.map Latch.stamp ≠ want ∨ m.lb.map Latch.stamp ≠ want →
        exec f.1 s = .next (s.traps .engine 0)) ∧
      (slOk h.vtype m.fmt = false → exec f.1 s = .next (s.traps .illegal s.ir))) ∧
  (∀ a b : FVal,
    (a.isNan = true ∨ b.isNan = true → prodVal a b = (.nan false, if a.isSnan || b.isSnan then fNV else 0)) ∧
    ((a.isInf = true ∧ b.isZero = true) ∨ (a.isZero = true ∧ b.isInf = true) → prodVal a b = (.nan false, fNV)) ∧
    (a.isNan = false → b.isNan = false → a.isInf = true ∨ b.isInf = true → a.isZero = false → b.isZero = false →
      prodVal a b = (.inf (a.neg != b.neg), 0)) ∧
    (a.finite → b.finite → ∃ v : FVal, prodVal a b = (v, 0) ∧ v.finite = true ∧ v.rat = a.rat * b.rat ∧ v.neg = (a.neg != b.neg)) ∧
    (a.finite = false ∨ b.finite = false → prods3 a b = [prodVal a b] ∧ ∀ ea eb, prod7 a b ea eb = prodVal a b) ∧
    (a.finite → b.finite →
      (∃ u w : Nat → FVal, slicesOf a.rat u ∧ slicesOf b.rat w ∧
        prods3 a b = [(0, 0), (0, 1), (0, 2), (1, 0), (1, 1), (2, 0)].map fun p => prodVal (u p.1) (w p.2)) ∧
      ∀ ea eb : Int, ∃ (u w : Nat → Int) (v : FVal), digitsOf a.rat ea u ∧ digitsOf b.rat eb w ∧ prod7 a b ea eb = (v, 0) ∧
        v.finite = true ∧ v.rat = (((List.range 7).flatMap fun i => (List.range (7 - i)).map fun j =>
          u i * w j * 2 ^ (8 * (12 - i - j))).sum : Int) * 2 ^ (ea + eb - 108))) ∧
  (∀ vs : List FVal, let E := sharedExp vs
    ((∀ v ∈ vs, v.rat = 0) → E = 0) ∧
    ((∃ v ∈ vs, v.rat ≠ 0) → (∃ v ∈ vs, 2 ^ E ≤ |v.rat|) ∧ ∀ v ∈ vs, |v.rat| < 2 ^ (E + 1))) ∧
  (∀ (l : Latch) (sub i k : Nat), let sc := (l.scales.getD i []).getD (k / blockLen l.blk) 0
    (sc = 0xFF → l.val 14 sub i k = .nan false) ∧ (sc ≠ 0xFF → (l.val 14 sub i k).finite = true ∧
      (l.val 14 sub i k).rat = (unpack fpE2M1 (l.at 4 i k)).rat * 2 ^ ((sc : Int) - 127))) ∧
  ∀ F ∈ [fp32, fp64], ∀ (sub : Nat) (acc : FVal) (ps : List (FVal × Flags)),
    let vs := acc :: ps.map (·.1)
    let fl := ps.foldl (fun f p => f ||| p.2) (if acc.isSnan then fNV else 0)
    (vs.any FVal.isNan = true → matrixSum F sub acc ps = (F.nan, fl)) ∧
    (vs.any FVal.isNan = false → .inf false ∈ vs → .inf true ∈ vs → matrixSum F sub acc ps = (F.nan, fl ||| fNV)) ∧
    (vs.any FVal.isNan = false → ∀ n, .inf n ∈ vs → .inf (!n) ∉ vs → matrixSum F sub acc ps = (F.inf n, fl)) ∧
    ((∀ v ∈ vs, v.finite) →
      let q := (vs.map FVal.rat).sum
      (q = 0 → matrixSum F sub acc ps = (if ∀ v ∈ vs, v.rat = 0 then F.sign acc.neg else 0, fl)) ∧
      (q ≠ 0 → ∃ e : Ex, e.sticky = false ∧ e.standsFor q ∧
        matrixSum F sub acc ps = ((roundFin F 0 sub e).1, fl ||| (roundFin F 0 sub e).2)))

/-! ## Engines, tokens and loops -/

/-- R257, R270, R271, R273 to R275: at a sequencer, or a vector hart with nothing queued, NEST loads the pending nest, and
CPYIN, CPYOUT, SCANK, PFTIER and EVTIER issue one command with what they captured, the entries that map its pages among it (a
copy's through the cache of its cluster, R338), take their token and complete; the engines then go on with what is outstanding.
A use that a row calls illegal, and a missing nest, trap. -/
def Obligations.EngineCommands : Prop :=
  ∀ (x : XArgs) (s : State), s.xReady →
    let h := s.me
    let c := clusterOf s.cur
    let k : Ctx := ⟨s.cur, h.asid, true⟩
    let ke : Ctx := ⟨engineOf c, h.asid, true⟩
    let ga := h.getG x.a
    let gb := h.getG x.b
    let issues (k : Ctx) (i : Instr) (h1 : Hart) (kind : CmdKind) (xl : List (Nat × Nat)) (b : Option BObj) :=
      ∃ tok, s.xPaid ({ s with tok := tok } : State) (xPop x) none ∧
        exec i s = .next (State.settleEngines (State.completes { s with
          tok := tok, seq := s.seq + 1
          cmds := s.cmds ++ [{ id := s.seq, pc := h.pc, owner := s.cur, launch := h.launch, logical := h.logical, part := h.part, cluster := c,
                               kind := kind, xl := heldPages xl b, held := s.trails k ((heldPages xl b).map (·.1)),
                               asid := h.asid, bobj := b, push := (xPush x).map (·.toNat), retiring := false }] } h1 (h.pc + 8)))
    let token := x.tc = true → 0 < s.tokens c x.pop.toNat
    let object (k : Ctx) (b : Option BObj) := s.bobjIssue k (h.getG x.d) = .ok b
    (∀ (o : Bool) (steps : List (Int × Int)) (run : Nat) (xl : List (Nat × Nat)) (b : Option BObj), token → object ke b →
      cpyOk o x (opsOf x h s.ir) = true → cpySteps x (opsOf x h s.ir) h = some (steps, run) →
      (run ≠ 0 → ∀ d ∈ steps, stepOff ga.toNat d.1 + run ≤ 2 ^ 24) →
      s.holdPages ke (if o then .w else .r) notDevice (steps.map fun d => (stepAddr gb d.2, run)) = .ok xl →
      issues ke (if o then .cpyout x else .cpyin x) (if x.fn.getLsbD 1 then { h with nest := none } else h)
        (if o then .copyOut ga.toNat gb steps run
         else .copyIn ga.toNat gb steps run (if x.fn.getLsbD 2 then some (x.fn.toNat / 8 % 256) else none)) xl b) ∧
    (∀ o, cpyOk o x (opsOf x h s.ir) = false → exec (if o then .cpyout x else .cpyin x) s = .next (s.traps .illegal s.ir)) ∧
    (∀ o, cpyOk o x (opsOf x h s.ir) = true → x.fn.getLsbD 1 = true → h.nest = none →
      exec (if o then .cpyout x else .cpyin x) s = .next (s.traps .engine 0)) ∧
    (∀ gs bs n, s.calm → ga.toNat % 128 = 0 → s.locate k .r notDevice ga.toNat 128 = .ok gs → s.segBytes gs = bs →
      (parseNest bs = some n →
        exec (.nest x) s = .next (State.settleEngines (s.completes { h with nest := some n } (h.pc + 8)))) ∧
      (parseNest bs = none → exec (.nest x) s = .next (s.traps .engine 0))) ∧
    (∀ gs bs xr xo b, token → object k b → s.calm → ga.toNat % 64 = 0 → s.locate k .r notDevice ga.toNat 64 = .ok gs →
      s.segBytes gs = bs → scanDescOk bs = true →
      let f := (wordAt bs 0x18).toNat
      let n := (wordAt bs 8).toNat
      let seg := (wordAt bs 0x28).toNat
      s.holdPages k .r notDevice [((wordAt bs 0).toNat, n * scanWidth f)] = .ok xr →
      s.holdPages k .w (· == clsOrdinary) [((wordAt bs 0x20).toNat, 256 * seg)] = .ok xo →
      issues k (.scank x) h (.scan (wordAt bs 0) n (wordAt bs 0x10).toNat f (wordAt bs 0x20) seg (List.range 256))
        ((xo ++ gs.map fun (g : Seg) => (g.va / 65536, g.leaf.pa - g.va % 65536)).foldl (fun m e => assocSet m e.1 e.2) xr) b) ∧
    ∀ (evict : Bool) (leaf : Nat → Leaf) (b : Option BObj), token → object k b →
      let va (j : Nat) := (ga + BitVec.ofNat 64 (j * 2 ^ 21)).toNat
      let i := if evict then Instr.evtier x else .pftier x
      (gb.toNat ≤ 2 ^ 20 → (∀ j < gb.toNat, s.translate k .r (va j) = .ok (leaf j) ∧ (leaf j).cls ≠ clsDevice) →
        issues k i h (.tier evict ((List.range gb.toNat).map fun j => (leaf j).pa / 2 ^ 21) (s.scheduledMode h.part) .ready)
          ((List.range gb.toNat).foldl (fun m j => assocSet m (va j / 65536) ((leaf j).pa - va j % 65536)) []) b) ∧
      (2 ^ 20 < gb.toNat → exec i s = .next (s.traps .illegal s.ir))

/-- R121, R272, R276, R277: TOKPOST pushes once earlier work has retired and there is room, TOKWAIT pops where a token is there,
EFENCE pops, waits for the commands that its mask covers, and pushes; each waits otherwise. LOOPB of a sequencer issues the body's
statements in order, tuple by tuple, and goes on behind the body. A vector hart queues its LOOPB with the words of its body and the
g registers, and moves past the body; at the head of the queue it issues the body's statements in that order. Without a nest it
raises the engine-command trap, and with a statement that no body admits the illegal-instruction trap, with that statement's word.
That the front end reads the body as it queues a LOOPB (log 30), that an illegal body traps before a missing nest (log 19), and what
each statement counts in instret (log 26), is the model's choice. -/
def Obligations.TokensAndLoops : Prop :=
  (∀ (x : XArgs) (s : State), kindOf s.cur = .vector → s.eager = false →
    let h := s.me
    let n := x.fn.toNat + 1
    (∀ ws, let p := h.loopPos.getD ⟨0, 0, []⟩
      h.vec.queue.length < 16 → (if p.body = [] then (s.bodyWords s.cur s.cur h.pc n).map (s.ir :: ·) else .ok p.body) = .ok ws →
      (∀ w ∈ ws.drop 1, ∀ i, decodeOne w = .ok i → s.gPending s.cur i = false) →
      exec (.loopb x) s = .next (s.setMe { h with
        pc := h.pc + BitVec.ofNat 64 (8 * (n + 1)), status := .running, loopPos := none
        vec := { h.vec with
          vstart := 0
          queue := h.vec.queue ++ [{ entryOf (.loopb x) 0 0 0 0 h s.ir with loop := some { p with body := ws }, regs := h.g }] } })) ∧
    ∀ q qs ws, h.vec.queue = q :: qs → q.ins = .loopb x → q.xl = [] → q.vstart = 0 → s.tailsFor s.cur = [] → h.vec.vwait = false →
      h.preempt = false → h.status ≠ .ending → (∀ r ∈ s.pins, vectorUnit s.cur ∉ r.refused) →
      let p := q.loop.getD ⟨0, 0, []⟩
      (if p.body = [] then (s.bodyWords s.cur (vectorUnit s.cur) q.pc n).map (q.ir :: ·) else .ok p.body) = .ok ws →
      let body := bodyOf false (ws.drop 1)
      let e := Instr.vectorInstructionComplete s.cur
      let stops (c : Cause) (v : Word) := exec e s = .next (((s.dropPins s.cur).unrefuse (vectorUnit s.cur)).setMe
        ((h.unwind q).stopAt c v 0 q.pc))
      (∀ w, body = .error w → stops .illegal w) ∧
      (∀ b, body = .ok b → h.nest = none → stops .engine (BitVec.ofNat 64 p.q)) ∧
      ∀ b w i nest u, body = .ok b → h.nest = some nest → b[p.k]? = some (w, i) →
        issueBody s.cur w i nest p.q p.k { h with g := q.regs, pc := q.pc, vtype := q.vtype } s = .ok u →
        exec e s = .next (u.2.setMe (if p.k + 1 < n ∨ p.q + 1 < nest.size then
            { h with
              instret := h.instret + 1
              vec := { h.vec with queue :=
                { q with loop := some (if p.k + 1 < n then ⟨p.q, p.k + 1, ws⟩ else ⟨p.q + 1, 0, ws⟩) } :: qs } }
          else { h with instret := h.instret + 2, nest := none, vec := { h.vec with queue := qs } }))) ∧
  ∀ (x : XArgs) (s : State), s.xReady → s.me.mx.queue = [] → s.me.vec.popped = false →
    let h := s.me
    let c := clusterOf s.cur
    let waits := s.setMe { h with status := .waiting }
    let done (i : Instr) (pop push : Option (BitVec 4)) := ∃ tok, s.xPaid ({ s with tok := tok } : State) pop push ∧
      exec i s = .next (State.settleEngines (State.completes { s with tok := tok } h (h.pc + 8)))
    let left (popped : Bool) (u : State) : State := u.setMe { h with vec := { h.vec with popped := popped }, status := .waiting }
    let held := (x.fn.getLsbD 1 ∨ x.fn.getLsbD 2 ∨ x.fn.getLsbD 3) ∧ ∃ k ∈ s.cmds, k.part = h.part ∧ k.launch = h.launch ∧
      k.logical = h.logical ∧ (match k.kind with
        | .copyIn .. => x.fn.getLsbD 1 | .copyOut .. => x.fn.getLsbD 2 | _ => x.fn.getLsbD 3) = true
    (s.tokens c x.push.toNat < 32 → done (.tokpost x) none (some x.push)) ∧
    (x.tc = true → 0 < s.tokens c x.pop.toNat → done (.tokwait x) (some x.pop) none) ∧
    (s.xTokens x → ¬ held → done (.efence x) (xPop x) (xPush x)) ∧
    (x.tc = false → held → exec (.efence x) s = .next waits) ∧
    (x.tc = true → 0 < s.tokens c x.pop.toNat → held → ∃ tok, s.xPaid ({ s with tok := tok } : State) (some x.pop) none ∧
      exec (.efence x) s = .next (left true { s with tok := tok })) ∧
    (let u := s.setMe { h with vec := { h.vec with popped := true } }
     (held → exec (.efence x) u = .next (left true s)) ∧
     (¬ held → (x.tp = true → s.tokens c x.push.toNat < 32) → ∃ tok, s.xPaid ({ s with tok := tok } : State) none (xPush x) ∧
       exec (.efence x) u = .next (State.settleEngines (State.completes { s with tok := tok } h (h.pc + 8))))) ∧
    (kindOf s.cur = .sequencer →
      (32 ≤ s.tokens c x.push.toNat → exec (.tokpost x) s = .next waits) ∧
      (x.tc = true → s.tokens c x.pop.toNat = 0 → exec (.tokwait x) s = .next waits ∧ exec (.efence x) s = .next waits)) ∧
    let n := x.fn.toNat + 1
    let p := h.loopPos.getD ⟨0, 0, []⟩
    kindOf s.cur = .sequencer → ∀ ws, (if p.body = [] then (s.bodyWords s.cur s.cur h.pc n).map (s.ir :: ·) else .ok p.body) = .ok ws →
      let body := bodyOf true (ws.drop 1)
      let back := s.setMe { h with loopPos := if p.q = 0 then none else some ⟨p.q, 0, []⟩ }
      (∀ w, body = .error w → exec (.loopb x) s = .next (back.traps .illegal w)) ∧
      (∀ b, body = .ok b → h.nest = none → exec (.loopb x) s = .next (back.traps .engine (BitVec.ofNat 64 p.q))) ∧
      ∀ b w i nest u, body = .ok b → h.nest = some nest → b[p.k]? = some (w, i) → issueBody s.cur w i nest p.q p.k h s = .ok u →
        let more := p.k + 1 < n ∨ p.q + 1 < nest.size
        exec (.loopb x) s = .next (State.settleEngines (u.2.setMe
          (if more then { u.1 with instret := u.1.instret + 1, status := .running
                                   loopPos := some (if p.k + 1 < n then ⟨p.q, p.k + 1, ws⟩ else ⟨p.q + 1, 0, ws⟩) }
           else { u.1 with instret := u.1.instret + 2, status := .running, loopPos := none, nest := none
                           pc := u.1.pc + BitVec.ofNat 64 (8 * (n + 1)) })))

/-- R103, R107, R117, R257, R271, R273 to R275, R342: where one command is outstanding and nothing holds memory back, a copy
moves each byte of each step, the later step winning, sets the block counts that CPYIN.rc names, and reports once; a channel of
a scan writes its segment: how many elements were selected, how many are listed, and those; a tier command reports the next
granule, which in scheduled mode first moves, MOV being 1 from the start of the swap to its end, unless a count or PIN bars it,
or is skipped where it is counted, and a skip counts an event; each reports its bytes; a matrix command at the head of its
queue, of an ended hart whose commands still run before those of the hart that is there now (log 40), leaves the latches,
accumulators, flags and scratchpad that the run of it gives (whose values MatrixLoads and MatrixProducts state), and retires,
with its token, where its FIFO has room. That a copy is one step, that a tier command swaps, then ends MOV, then reports, in the
mode of its issue, and that a counted granule counts a skip where nothing would move, is the model's reading (log 29). An event
that finds nothing to do changes nothing. -/
def Obligations.EngineEvents : Prop :=
  (∀ (s : State) (c : Cmd) (sp : Nat) (p : Word) (steps : List (Int × Int)) (run : Nat), s.lone c → c.push = none →
    (run ≠ 0 → ∀ d ∈ steps, stepOff sp d.1 + run ≤ 2 ^ 24) →
    let l := c.moves sp p steps run
    let cl := c.cluster
    (∀ rc, c.kind = .copyIn sp p steps run rc → ∃ u t : State, exec (.copyComplete c.id) s = .next t ∧
      t = ({ u.reports c (run * steps.length) with cmds := [] } : State) ∧
      u = { s with spad := u.spad, spcnt := u.spcnt, parts := u.parts } ∧
      (∀ o < 2 ^ 24, u.sp8 cl o = (lastOf l o).elim (s.sp8 cl o) s.rd8) ∧
      (∀ c' o, c' ≠ cl → o < 2 ^ 24 → u.sp8 c' o = s.sp8 c' o) ∧
      ∀ b < 131072, u.spCount cl b = match rc with
        | some n => if ∃ e ∈ l, e.1 / 128 = b then n else s.spCount cl b
        | none => s.spCount cl b) ∧
    (c.kind = .copyOut sp p steps run → ∃ u t : State, exec (.copyComplete c.id) s = .next t ∧
      t = ({ u.reports c (run * steps.length) with cmds := [] } : State) ∧ u = { s with mem := u.mem } ∧
      ∀ a, u.rd8 a = (lastOf (l.map fun e => (e.2, e.1)) a).elim (s.rd8 a) (s.sp8 cl))) ∧
  (∀ (s : State) (c : Cmd) (rbase obuf : Word) (count thr fmt seg ch : Nat) (todo : List Nat), s.lone c → c.push = none →
    c.kind = .scan rbase count thr fmt obuf seg todo → ch ∈ todo →
    let w := scanWidth fmt
    let rest := todo.filter (· != ch)
    let pa (i : Nat) := c.pa (rbase.toNat + i * w)
    let val (i : Nat) := natOfBytes ((List.range w).map fun j => s.rd8 (pa i + j))
    let found := ((List.range count).filter fun i => homeChannel (pa i / 128) == ch).filter fun i => scanSelects fmt thr (val i)
    let out := found.take ((seg - 8) / 8)
    let bs := bytesOfNat 8 (found.length % 2 ^ 32 + out.length * 2 ^ 32)
      ++ out.flatMap fun i => bytesOfNat 8 (i + scanValue fmt (val i) * 2 ^ 32)
    ∃ u t : State, exec (.scanSegmentWritten c.id ch) s = .next t ∧ u = { s with mem := u.mem } ∧
      t = ({ u.reports c seg with cmds := if rest = [] then [] else
        [{ c with kind := .scan rbase count thr fmt obuf seg rest }] } : State) ∧
      ∀ a, u.rd8 a = (lastOf ((List.range bs.length).map fun i =>
        (c.pa (obuf.toNat + ch * seg + i), bs.getD i 0)) a).getD (s.rd8 a)) ∧
  (∀ (s : State) (c : Cmd) (evict sched : Bool) (gs : List Nat), s.lone c → c.push = none → (s.part c.part).swap = none →
    (∀ n rest, gs = n :: rest → c.kind = .tier evict gs sched .ready →
      let r := s.remapOf (n / 4)
      let other := if evict then 0 else r.fast
      let due := sched = true ∧ n < 2 ^ 20 ∧ if evict then r.locOf (n % 4) = 0 ∧ n % 4 ≠ 0 else r.locOf (n % 4) ≠ 0
      let barred := s.swapBarred (n / 4) (n % 4) other = true
      (due ∧ ¬ barred → exec (.tierGranuleReport c.id) s = .next { s.setRemap (n / 4) { r with mov := true } with
        cmds := [{ c with kind := .tier evict gs sched (.moving (n / 4) (n % 4) other) }] }) ∧
      (¬ due ∨ barred →
        let u := if sched = true ∧ (s.cntOfName n ≠ 0 ∨ (due ∧ barred)) then s.lineEvent (n * 2 ^ 14) Part.addTskip else s
        exec (.tierGranuleReport c.id) s = .next { u.reports c (2 ^ 21) with
          cmds := if rest = [] then [] else [{ c with kind := .tier evict rest sched .ready }] })) ∧
    (∀ n rest, gs = n :: rest → c.kind = .tier evict gs sched .moved →
      exec (.tierGranuleReport c.id) s = .next { s.reports c (2 ^ 21) with
        cmds := if rest = [] then [] else [{ c with kind := .tier evict rest sched .ready }] }) ∧
    ∀ g j k, c.kind = .tier evict gs sched (.moving g j k) →
      let u := s.setRemap g { (s.remapOf g).exchange j k with mov := false }
      exec (.tierGranuleReport c.id) s = .next { u.lineEvent (g * 2 ^ 16) Part.addSwap with
        cmds := [{ c with kind := .tier evict gs sched .moved }] }) ∧
  (∀ (s : State) (cl : Nat) (c : MCmd) (r : List MCmd),
    let ended := assocGet [] s.tails (seqBase + cl)
    let h := s.engineHart cl
    h.mx.queue = c :: r → (if ended = [] then h.status ≠ .ending else s.eager = false) →
    c.retiring = true ∨ (s.mHeld cl c = false ∧ s.spoison = [] ∧ h.sound) →
    let room := s.pushRoom cl (pushOf c.ins)
    let n := if c.retiring then (h, s) else runMatrix c cl h s
    let after := { h with
      fcsr := n.1.fcsr, vstat := n.1.vstat
      mx := { h.mx with la := n.1.mx.la, lb := n.1.mx.lb, acc := n.1.mx.acc,
                        queue := if room then r else { c with retiring := true } :: r } }
    room = true ∨ c.retiring = false →
    ∃ t, exec (.matrixCommandComplete cl) s = .next t ∧
      (ended = [] → t.hart (seqBase + cl) = after) ∧
      (ended ≠ [] → assocGet [] t.tails (seqBase + cl) = if after.mx.queue = [] then ended.drop 1 else after :: ended.drop 1) ∧
      t.spad = n.2.spad ∧ (∀ k, t.tokens cl k = s.tokens cl k + if room = true ∧ pushOf c.ins = some k then 1 else 0) ∧
      (∀ k, k ≠ seqBase + cl → t.hart k = s.hart k) ∧ t.mem = s.mem ∧ t.cmds = s.cmds) ∧
  ∀ (s : State) (k : Nat), (∀ c ∈ s.cmds, c.id ≠ k) → (s.engineHart k).mx.queue = [] →
    (∀ ch, exec (.scanSegmentWritten k ch) s = .next s) ∧ exec (.copyComplete k) s = .next s ∧
    exec (.tierGranuleReport k) s = .next s ∧ exec (.matrixCommandComplete k) s = .next s

/-! ## The scheduler's events -/

/-- R61, R63 to R65, R74, R80, R123, R128, R319, R321, R323, R325: the record selected has the greatest effective priority, and
the lowest launch number among equals; it takes its group memberships; a wait raises one age; every masked cluster that is free
is granted, with its harts at the entry; a wave admits no two items that share a slot; lanes pass once no victim holds them, one
that has ended or parked included; an ended hart leaves its slot, which keeps its registers; a record that is done arrives at
its DONE object, or leaves a trap record where it cannot be reached, and goes; a round performs the held entries of the drain
points that its harts have reached, in ascending logical index and program order, and one that a pin keeps from draining is
refused there (R122); a pin that refused an access ends. That what the queue of an ended hart stores drains with the next round
is the model's reading (log 25). -/
def Obligations.SchedulerEvents : Prop :=
  (∀ (s : State) (p : Nat), s.eager = false → (s.part p).placing = none → s.candidates p ≠ [] →
    (∀ c ∈ s.candidates p, s.recOf p c.2.1.launch = none) →
    ∃ q r e t, (q, r, e) ∈ s.candidates p ∧
      (∀ c ∈ s.candidates p, c.2.2 < e ∨ (c.2.2 = e ∧ r.launch ≤ c.2.1.launch)) ∧
      exec (.recordSelect p) s = .next t ∧ ((t.part p).queue q).recs = ((s.part p).queue q).recs.drop 1 ∧
      (∀ k, k ≠ q → (t.part p).queue k = (s.part p).queue k) ∧ (∃ y, t.recOf p r.launch = some y ∧ y.sr = r) ∧ t.mem = s.mem ∧
      (t.part p).placing = if r.nest = true ∧ r.items = 0 ∧ (r.group = 0 ∨ (s.grp p r.group).isSome ∨ s.grpCount p < 4096)
        then none else some r.launch) ∧
  (∀ (s : State) (p : Nat) (r : Rec), s.placingRec p = some r →
    (r.selected = true → exec (.groupMembershipTake p) s = .next s) ∧
    (r.selected = false → r.sr.group ≠ 0 → s.grp p r.sr.group = none → 4096 ≤ s.grpCount p →
      exec (.groupMembershipTake p) s = .next s) ∧
    (r.selected = false → r.sr.group ≠ 0 → (s.grp p r.sr.group).isSome ∨ s.grpCount p < 4096 → r.sr.nest = false ∨ r.sr.items ≠ 0 →
      exec (.groupMembershipTake p) s = .next ((s.groupJoin p r.sr.group r.sr.members).setRec { r with selected := true }))) ∧
  (∀ (s : State) (p q : Nat), q < 64 → ((s.part p).queue q).recs ≠ [] → ∃ t, exec (.priorityAging p q) s = .next t ∧
    t = { s with parts := t.parts } ∧
    (t.part p).queue q = { (s.part p).queue q with aged := ((s.part p).queue q).aged + 1 } ∧
    ∀ k, k ≠ q → (t.part p).queue k = (s.part p).queue k) ∧
  (∀ (s : State) (p : Nat) (r : Rec), s.eager = false → s.placingRec p = some r → r.part = p → r.selected = true →
    r.sr.nest = false → r.granted = 0 → (∀ c ∈ r.sr.clusters, s.withheld p c = false ∧ s.clusterFree c r.sr.seq = true) →
    ∃ t, exec (.clusterGrant p) s = .next t ∧ t.mem = s.mem ∧ (t.part p).placing = none ∧
      (∀ c ∈ r.sr.clusters, ∀ k < r.sr.perCluster,
        let h := t.hart ((slotsOf c r.sr.seq (fun _ => 0) r.sr.share).getD k 0)
        let l := (r.sr.clusters.filter (· < c)).length * r.sr.perCluster + k
        h.status = .running ∧ h.pc = r.sr.entry ∧ h.part = p ∧ h.launch = r.sr.launch ∧ h.logical = l ∧ h.asid = r.sr.asid ∧
        h.share = r.sr.share ∧ h.getG 1 = BitVec.ofNat 64 l ∧ h.getG 2 = BitVec.ofNat 64 r.sr.harts ∧ h.getG 7 = r.sr.arg ∧
        h.getG 8 = BitVec.ofNat 64 r.sr.launch ∧ h.vec.n = 32 ∧ h.vec.vb = 0 ∧ h.vtype = 0 ∧ h.fcsr = 0) ∧
      ∀ hid, (∀ c ∈ r.sr.clusters, hid ∉ slotsOf c r.sr.seq (fun _ => 0) r.sr.share) → t.hart hid = s.hart hid) ∧
  (∀ (s : State) (p launch : Nat) (r : Rec), s.recOf p launch = some r → r.sr.rsv = true → r.waveReady = true →
    (r.lh.map (·.1)).Nodup →
    ∃ y, exec (.waveForm p launch) s = .next (s.setRec y) ∧ y.wave = r.wave + 1 ∧
      y.lh.map (fun e => (e.1, { e.2 with adm := .none })) = r.lh.map (fun e => (e.1, { e.2 with adm := .none })) ∧
      (∀ a ∈ y.lh, ∀ b ∈ y.lh, a.2.adm = .admitted → b.2.adm = .admitted → a.1 ≠ b.1 → ∀ c ∈ a.2.claims, c ∉ b.2.claims) ∧
      ∀ a ∈ y.lh, a.2.adm = .pending → a.2.item.isSome = true →
        ∃ b ∈ y.lh, b.2.adm = .admitted ∧ ∃ c ∈ b.2.claims, c ∈ a.2.claims) ∧
  (∀ (s : State) (core : Nat),
    let due (h : Hart) := h.vec.victim = true ∧ h.vec.passed = false
    let holding := (∃ hid < seqBase, coreOf hid = core ∧ (s.hart hid).status ≠ .free ∧ due (s.hart hid) ∧
        ((s.hart hid).status ≠ .parked ∨ (s.hart hid).vec.queue ≠ [])) ∨
      ∃ e ∈ s.tails, e.1 < seqBase ∧ coreOf e.1 = core ∧ ∃ h ∈ e.2, due h ∧ h.vec.queue ≠ []
    (s.harts.map (·.1)).Nodup →
    (¬ holding → ∃ t, exec (.shutterLanesPass core) s = .next t ∧ t = { s with harts := t.harts } ∧
      ∀ hid < seqBase, coreOf hid = core → (s.hart hid).status ≠ .free →
        t.hart hid = { s.hart hid with vec := { (s.hart hid).vec with vwait := false } }) ∧
    (holding → exec (.shutterLanesPass core) s = .next s)) ∧
  (∀ (s : State) (hid : Nat),
    let due := (s.hart hid).vec.victim = true ∧ (s.hart hid).vec.passed = false ∧ (s.myLhart hid).adm ≠ .admitted ∧
      ∀ q ∈ (s.hart hid).vec.queue, (∃ x, q.ins = .vsetb x) ∨ (∃ x, q.ins = .vsete x) → q.gc ≠ 2 ∨ (q.ef = 16 ∧ ∃ x, q.ins = .vsete x)
    (due →
      exec (.shutterWindowExpiry hid) s = .next (s.setHart hid { s.hart hid with
        preempt := true, vec := { (s.hart hid).vec with expired := true } })) ∧
    (¬ due → exec (.shutterWindowExpiry hid) s = .next s) ∧
    ∀ h r, assocGet [] s.tails hid = h :: r →
      (h.vec.queue ≠ [] ∨ h.mx.queue ≠ [] → exec (.lanesRelease hid) s = .next s) ∧
      (h.vec.queue = [] → h.mx.queue = [] → s.eager = false → ∃ t, exec (.lanesRelease hid) s = .next t ∧
        t = { s with tails := t.tails, harts := t.harts } ∧
        assocGet [] t.tails hid = r ∧ (∀ k, k ≠ hid → assocGet [] t.tails k = assocGet [] s.tails k ∧ t.hart k = s.hart k) ∧
        let o := s.hart hid
        t.hart hid = if o.status = .free ∧ o.part = h.part ∧ o.launch = h.launch ∧ o.logical = h.logical
          then { h with status := .free } else o)) ∧
  (∀ (s : State) (p launch : Nat) (r : Rec), s.recOf p launch = some r → r.ending = none →
    let gone (u : State) : State := { u with recs := u.recs.filter fun y => !(y.part == p && y.sr.launch == launch) }
    (s.recDone r = false → exec (.recordComplete p launch) s = .next s) ∧
    (s.recDone r = true → r.sr.done = 0 → exec (.recordComplete p launch) s = .next (gone s)) ∧
    (s.recDone r = true → r.sr.done ≠ 0 → s.calm →
      (∀ pa, s.bobjLocate ⟨outsider, r.sr.asid, true⟩ r.sr.done = .ok pa →
        exec (.recordComplete p launch) s = .next (gone (bobjAct s pa .arrive))) ∧
      ∀ c v, s.bobjLocate ⟨outsider, r.sr.asid, true⟩ r.sr.done = .error (.trap c v) →
        let tb := (s.part p).trap
        ((tb.tqhead - tb.tqtail).toNat < tb.len → exec (.recordComplete p launch) s = .next (gone (s.writeTrap p
          { hart := 0x1FFF, asid := r.sr.asid, cause := c, xpc := 0, tval := r.sr.done, vstart := 0, launch := launch, area := 0 }))) ∧
        (tb.len ≤ (tb.tqhead - tb.tqtail).toNat → exec (.recordComplete p launch) s = .next s))) ∧
  (∀ (s : State) (p launch : Nat) (r : Rec), s.recOf p launch = some r → r.sr.det = true → r.sr.rsv = false → r.sr.group = 0 →
    s.groups = [] → (r.lh.map (·.1)).Pairwise (· < ·) →
    let n := r.drained + 1
    let gives (x : LHart) (e : Held) := decide (heldRound e ≤ n ∧ (x.place = .ended ∨ heldRound e ≤ x.drains))
    (s.roundReady r n = true → r.ending = none → ∃ t y, exec (.drainRound p launch) s = .next t ∧ t.recOf p launch = some y ∧ y.drained = n ∧
      t.mem = ((r.lh.flatMap fun e => (e.2.held.filter (gives e.2)).map fun d => (e, d)).foldl
        (fun u d => u.performHeld p launch d.1.1 d.1.2 d.2) s).mem ∧
      ∀ l, let rest := (r.lhart l).held.filter fun e => !gives (r.lhart l) e
        y.lhart l = { r.lhart l with
          held := rest, xl := if rest = [] then [] else (r.lhart l).xl, fl := (y.lhart l).fl }) ∧
    (s.roundReady r n = false → s.poison = [] → ∃ pins names, exec (.drainRound p launch) s = .next { s with pins := pins, lineup := names } ∧
      (s.pins = [] → pins = []) ∧ (r.ending = none → (∀ e ∈ r.lh, e.2.reached n = true) → ∀ e ∈ r.lh, ∀ k c pa m v b,
        (e.2.held.filter (gives e.2)).head? = some (.byte k c pa m v b) →
        (∃ q ∈ s.pins, q.line = pa / 128 ∧ q.ended = false ∧ q.within (e.2.who p launch e.1) = false) →
        ∃ q ∈ pins, q.line = pa / 128 ∧ e.2.who p launch e.1 ∈ q.refused))) ∧
  ∀ (s : State) (line : Nat), ∃ t, exec (.pinWiden line) s = .next t ∧ t = { s with pins := t.pins } ∧
    (∀ q ∈ t.pins, q.line = line → q.refused ≠ [] → q.ended = true ∧ (q ∈ s.pins ∨ q.holders = [])) ∧
    ∀ q ∈ s.pins, q.line ≠ line → q.ended = false → q ∈ t.pins

/-! ## Contexts -/

/-- R307, R313, R314, R318, R346 to R352: a stopped hart is saved, its slot held, and its trap record written at the head of the
partition's queue with interrupt 1; RELEASE frees a held slot; RESUME places a checked context at its saved pc and registers,
and ends the record where CHECK fails, or the layout word is not the one that the last stop of the hart wrote; after KILL no
hart of the record executes, and an ended record goes once its issued work is complete; a write of asidtab reads the blocks of
every partition, and a hart on a cluster that is now withheld is not switched out, but for a victim whose window has passed; a
write of rcval or tokval sets the count that the address CSR names, and no other. That asidtab keeps bits 49:16 and a queue's
length is its power of two (log 18), that blocks which lie in no memory stop the run (R329, log 41), and that another layout
word fails as CHECK does (log 28), is the model's choice. -/
def Obligations.ContextEvents : Prop :=
  (∀ (s : State) (hid : Nat) (st : StopInfo),
    let h := (s.hart hid).giveLanes
    let p := h.part
    let tb := (s.part p).trap
    let area := s.canon (tb.sabase.toNat + hid * 2 ^ 20)
    let a := s.canon (tb.tqbase.toNat + 64 * (tb.tqhead.toNat % tb.len))
    let blk := s.trapBlockPA p
    hid < appBase → s.eager = false → h.status = .stopping → h.stop = some st →
    (tb.full = true ∨ h.mx.queue ≠ [] → exec (.hartStop hid) s = .next s) ∧
    (tb.full = false → h.mx.queue = [] → h.sound →
      (region area = .hole → exec (.hartStop hid) s = .fault (.noSuchAddress area)) ∧
      (region area = .window → exec (.hartStop hid) s = .fault (.deviceBlock area))) ∧
    (tb.full = false → h.mx.queue = [] → h.sound → area + 2 ^ 20 ≤ localEnd → s.trapMemOk p → s.still = true →
      apart area (2 ^ 20) a 64 → apart area (2 ^ 20) (blk + 16) 8 → apart a 64 (blk + 16) 8 →
      h.share ∈ [1, 2, 4, 8] → h.vec.n ∈ [8, 16, 32, 64] →
      ∃ t, exec (.hartStop hid) s = .next t ∧ t.hart hid = { h with status := .held, stop := none, preempt := false } ∧
        (t.part p).trap = { tb with tqhead := tb.tqhead + 1 } ∧ t.rd64 (blk + 16) = tb.tqhead + 1 ∧
        t.rd64 (area + 0x28) = h.pc ∧ t.rd64 (area + 0x30) = BitVec.ofNat 64 st.cause.code ∧ t.rd64 (area + 0x38) = st.tval ∧
        t.rd64 area = t.checkOf area (saveLen (kindOf hid == .sequencer) h.share) ∧
        t.rd64 a = tb.tqhead ∧ t.rd64 (a + 16) = BitVec.ofNat 64 (st.cause.code + st.cause.reason * 2 ^ 16) ∧
        t.rd64 (a + 24) = st.xpc ∧ t.rd64 (a + 32) = st.tval ∧ t.rd64 (a + 56) = BitVec.ofNat 64 area ∧
        (bitsOf tb.tqctl 12 8 < 24 → (t.hart (appBase + bitsOf tb.tqctl 12 8)).app.pending.testBit 1 = true) ∧
        ∀ y, t.recOf p h.launch = some y → (y.lhart h.logical).place = .suspended ∧
          (y.lhart h.logical).layout = some (t.rd64 (area + 0x10)) ∧ (y.lhart h.logical).saved.map (·.hid) = some hid)) ∧
  (∀ (s : State) (p : Nat) (area : Word) (target : Nat),
    ((s.hart target).status ≠ .held → exec (.release p area target) s = .next s) ∧
    ((s.hart target).status = .held → s.eager = false → (s.coreHarts (coreOf target) fun h => h.status == .parked) = [] →
      exec (.release p area target) s = .next (s.setHart target { s.hart target with
        status := .free, stop := none, preempt := false, vec := { (s.hart target).vec with queue := [] }
        mx := { (s.hart target).mx with queue := [] } }))) ∧
  (∀ (s : State) (p : Nat) (area : Word) (target : Nat) (r : Rec),
    let a := s.canon area.toNat
    let launch := bitsOf (s.rd64 (a + 0xB0)) 55 0
    let asid := bitsOf (s.rd64 (a + 0x20)) 10 0
    let named := s.recs.find? fun r => r.part == p && r.ending.isNone && r.sr.launch == launch && r.sr.asid == asid
    let x := r.lhart (s.rd64 (a + 0x18)).toNat
    let broken := s.rd64 a ≠ s.checkOf a (s.rd64 (a + 8)).toNat
    let ends (i : Instr) (n : Nat) := (∃ t, exec i s = .next t ∧ t.noHartRuns p launch ∧
        ∀ y, t.recOf p launch = some y → y.ending.isSome = true ∧ ∀ l, (y.lhart l).held = [] ∧ (y.lhart l).claims = []) ∧
      (s.idleRec p launch → (∀ y ∈ s.recs, y.ending = none) → r.sr.done = 0 → (s.part p).trap.room n = true →
        ∃ t, exec i s = .next t ∧ t.recOf p launch = none ∧ t.noHartOf p launch)
    s.still = true →
    (s.targetFree a p target = false ∨ s.areaOk a p target = false ∨ named = none →
      exec (.resume p area target) s = .next s) ∧
    (s.targetFree a p target = true → s.areaOk a p target = true → named = some r →
      (s.targetOk a r target = false → exec (.resume p area target) s = .next s) ∧
      (s.targetOk a r target = true → s.poison = [] → ¬ broken → x.layout = some (s.rd64 (a + 0x10)) →
        ∃ t, exec (.resume p area target) s = .next t ∧ t.mem = s.mem ∧
          (t.hart target).status = .running ∧ (t.hart target).pc = s.rd64 (a + 0x28) &&& ~~~7#64 ∧ (t.hart target).part = p ∧
          (t.hart target).launch = launch ∧ (t.hart target).asid = asid ∧
          (∀ i < 63, (t.hart target).getG (BitVec.ofNat 6 (i + 1)) = s.rd64 (a + 0x200 + 8 * i)) ∧
          (∀ y, t.recOf p launch = some y → (y.lhart (s.rd64 (a + 0x18)).toNat).place = .placed target ∧
            (y.lhart (s.rd64 (a + 0x18)).toNat).layout = none) ∧
          ∀ hid, hid ≠ target → t.hart hid = s.hart hid) ∧
      (s.targetOk a r target = true → s.poison = [] → broken ∨ x.layout ≠ some (s.rd64 (a + 0x10)) → ends (.resume p area target) 1)) ∧
    (named = some r → ends (.kill p area target) 0) ∧
    (named = none → exec (.kill p area target) s = .next s)) ∧
  (∀ (s : State) (v : Word), s.calm →
    let u : State := { s with asidtab := v &&& 0x3FFFFFFFF0000, host := { s.host with asidtabSet := true } }
    let b := u.canon u.asidtab.toNat
    (region b = .hole → exec (.asidtabWrite v) s = .fault (.noSuchAddress b)) ∧
    (region b = .window → exec (.asidtabWrite v) s = .fault (.deviceBlock b)) ∧
    (region b = .ours ∨ region b = .peer →
      (∀ p < 4, (u.readTrap p).rlhead = (u.readTrap p).rltail ∧ (s.part p).placing = none ∧ (s.part p).queues = []) →
      ∃ t, exec (.asidtabWrite v) s = .next t ∧ t = { u with parts := t.parts, harts := t.harts } ∧
        (∀ p < 4, t.part p = { s.part p with sched := u.readSched p, trap := u.readTrap p }) ∧
        ∀ hid, let h := s.hart hid
          t.hart hid = if hid < appBase ∧ (h.vec.victim = false ∨ h.vec.passed = true ∨ h.vec.expired = false) ∧ t.withheld h.part (clusterOf hid) = true
            then { h with preempt := false } else h)) ∧
  ∀ (s : State) (hid : Nat) (v : Word),
    let a := (s.hart hid).app.rcaddr
    let b := (s.hart hid).app.tokaddr
    exec (.curasidWrite hid v) s =
      .next (s.setHart hid { s.hart hid with app := { (s.hart hid).app with curasid := v &&& 0x7FF } }) ∧
    (∀ l, s.countName a = .granule l → s.inMotion l = true → exec (.rcvalWrite hid v) s = .next s) ∧
    (s.calm → ∃ t, exec (.rcvalWrite hid v) s = .next t ∧ t.mem = s.mem ∧ t = { s with cnt := t.cnt, under := t.under, away := t.away, spcnt := t.spcnt } ∧
      (∀ l, s.countName a = .granule l → t.spcnt = s.spcnt ∧ ∀ k, t.count k = if k = l then bitsOf v 7 0 else s.count k) ∧
      (∀ c k, s.countName a = .block c k → t.cnt = s.cnt ∧
        ∀ j, assocGet 0 t.spcnt j = if j = blockKey c k then bitsOf v 7 0 else assocGet 0 s.spcnt j) ∧
      (s.countName a = .nothing → t = s)) ∧
    ∃ t, exec (.tokvalWrite hid v) s = .next t ∧ t = { s with tok := t.tok } ∧
      ∀ j, assocGet 0 t.tok j = if bitsOf b 7 0 ≤ 159 ∧ bitsOf v 5 0 ≤ 32 ∧ j = 16 * bitsOf b 7 0 + bitsOf b 11 8 then bitsOf v 5 0
        else assocGet 0 s.tok j

/-! ## Errors, links, tiers and the host -/

/-- R355 to R359, R361, R362, R370: an error event counts once in ESEQ and its counter, and writes a log record where the log
has room, else OVF, and under EN sets interrupt 2 pending on the core of ECTL; a scrub raises one for a corrected line and
poisons a line once; an error of each other structure counts by its kind, and an uncorrectable one poisons what holds it, as a
store's check-value mismatch does (R361); a link takes each flit in order, once, asks once for one that is missing, sends again
what it holds from the flit asked for, and at a loss ends the accesses in flight; a read of ESEQ latches; LTAIL moves only
within the log; an interrupt from outside becomes pending on its core alone. The model's own readings are: that the fabric count
advances after an event, and what each error strikes (log 34); that a port asks once, what a flit carries before the first
received, and that the accesses in flight at a loss are an argument of the event (log 35); and that the core of an outside
interrupt is one (log 15). -/
def Obligations.ErrorsAndLinks : Prop :=
  (∀ (s : State) (kind unit asid place : Nat),
    let t := s.errEvent kind unit asid place
    let e := s.err
    let c := bitsOf e.ectl 4 0
    t = { s with err := t.err, fabric := s.fabric + 1, harts := t.harts } ∧ (e.ectl.getLsbD 8 = false → t.harts = s.harts) ∧
    (∀ k, t.hart k = { s.hart k with app := { (s.hart k).app with pending := (t.hart k).app.pending } } ∧
      ∀ i, (t.hart k).app.pending.testBit i =
        (decide (e.ectl.getLsbD 8 = true ∧ c < 24 ∧ k = appBase + c ∧ i = 2) || (s.hart k).app.pending.testBit i)) ∧
    t.err.eseq = e.eseq + 1 ∧
    (∀ k, assocGet 0 t.err.cnt k = assocGet 0 e.cnt k + if k = kind then 1 else 0) ∧
    ((e.lhead - e.ltail).toNat < 16 → t.err.lhead = e.lhead + 1 ∧ t.err.ovf = e.ovf ∧
      ∃ r, assocGet ⟨0, 0, 0, 0⟩ t.err.log (e.lhead.toNat % 16) = r ∧ r.w0 = e.eseq ∧ r.w2 = BitVec.ofNat 64 place ∧
        r.w3 = s.fabric ∧ ∃ lasting : Bool, r.w1 = BitVec.ofNat 64 (kind + lasting.toNat * 16 + unit * 2 ^ 16 + asid * 2 ^ 32)) ∧
    (16 ≤ (e.lhead - e.ltail).toNat → t.err.lhead = e.lhead ∧ t.err.log = e.log ∧ t.err.ovf = e.ovf + 1)) ∧
  (∀ (s : State) (line : Nat), line < localEnd / 128 →
    exec (.patrolScrub line .clean) s = .next s ∧
    exec (.patrolScrub line .corrected) s = .next (s.errEvent 0 (homeChannel line) 0x7FF (128 * line)) ∧
    (s.poisoned line = true → exec (.patrolScrub line .uncorrectable) s = .next s) ∧
    (s.poisoned line = false → ∃ t, exec (.patrolScrub line .uncorrectable) s = .next t ∧ t.poisoned line = true ∧
      (∀ l, l ≠ line → t.poisoned l = s.poisoned l) ∧ t.mem = s.mem ∧ t.err.eseq = s.err.eseq + 1)) ∧
  (∀ (s : State) (line c blk a pos core lane unit place hid : Nat) (f : Option Struck), line < localEnd / 128 → s.poisoned line = false → c < 160 →
    blk < 131072 → assocGet false s.spoison (blockKey c blk) = false → a < 8 → pos < 16384 → core < 640 → lane ≤ 32 →
    ∀ p ∈ [(Upset.line true line f, 0), (.line false line f, 1), (.slice true line f, 2), (.slice false line f, 3),
        (.scalarL1 true hid line f, 4), (.scalarL1 false hid line f, 5), (.block true c blk f, 4), (.block false c blk f, 5),
        (.acc false c a pos f, 5), (.latch false c true f, 5), (.lane core lane, 6), (.retried unit place, 9),
        (.badStore unit line f, 10), (.badBlock c blk f, 10)],
      let t := s.upsets [p.1]
      (∀ k, assocGet 0 t.err.cnt k = assocGet 0 s.err.cnt k + if k = p.2 then 1 else 0) ∧ t.mem = s.mem ∧ t.spad = s.spad ∧
      t.poisoned line = decide (p.1 ∈ [.line false line f, .slice false line f, .scalarL1 false hid line f, .badStore unit line f]) ∧
      assocGet false t.spoison (blockKey c blk) = decide (p.1 ∈ [.block false c blk f, .badBlock c blk f]) ∧
      (p.1 = .acc false c a pos f → pos ∈ (assocGet ⟨false, [], []⟩ (t.engineHart c).mx.acc a).bad) ∧
      (p.1 = .latch false c true f → ∀ l ∈ (t.engineHart c).mx.lb, l.bad = true)) ∧
  (∀ (s : State) (port seq ack core : Nat), port < 12 →
    let l := s.link port
    let flits (qs : List Nat) := qs.map fun q => (⟨4096 * port + q, bytesOfNat 2 ((l.expect + 4095) % 4096), .flit⟩ : OutReq)
    let asks := s.out ++ [(⟨4096 * port + l.expect, [], .replay⟩ : OutReq)]
    let has := seq ∈ l.held ∨ seq = l.next
    let again := l.held.dropWhile (· != seq)
    (∀ good, (good = false ∨ seq ≠ l.expect) →
      (l.asked = true → seq ≠ l.expect → exec (.flitReceive port seq ack good) s = .next s) ∧
      (l.asked = false → exec (.flitReceive port seq ack good) s =
        .next { s.setLink port { l with asked := true } with out := asks })) ∧
    (∃ t, exec (.flitReceive port l.expect ack true) s = .next t ∧ t = { s with links := t.links } ∧
      (t.link port).expect = (l.expect + 1) % 4096 ∧ (t.link port).held <:+ l.held ∧ ∀ q, q ≠ port → t.link q = s.link q) ∧
    (has → exec (.replayRequest port seq) s = .next (State.errEvent
      { s.setLink port { l with held := again } with out := s.out ++ flits again } 11 port 0x7FF seq)) ∧
    (¬ has → exec (.replayRequest port seq) s = .next (s.errEvent 11 port 0x7FF seq)) ∧
    (core < 24 → ∀ flying : List (Struck × Nat), ∃ t, exec (.linkRetrain port ⟨seq, flying⟩ core) s = .next t ∧
      (t.hart (appBase + core)).app.pending.testBit 12 = true ∧ (t.link port).expect = l.expect ∧
      (has → (t.link port).held = again ∧ t.err = s.err ∧ t.mem = s.mem ∧ t.out = asks ++ flits again) ∧
      (¬ has → flying = [] → (t.link port).held = [] ∧ t.err.eseq = s.err.eseq + 1 ∧ t.mem = s.mem ∧ t.out = asks) ∧
      (¬ has → ∀ k < 24, ∀ pa, flying = [(.agent (appBase + k), pa)] → region (s.canon pa) = .peer →
        (s.hart (appBase + k)).status = .running → let h := t.hart (appBase + k)
        h.app.xcause = 15 ∧ h.app.xtval = BitVec.ofNat 64 (pa / 65536 * 65536) ∧ h.pc = (s.hart (appBase + k)).app.xvec))) ∧
  (∀ (s : State) (v : Word),
    exec .eseqRead s = .next { s with err := { s.err with latLhead := s.err.lhead, latOvf := s.err.ovf, latCnt := s.err.cnt } } ∧
    (s.err.ltail ≤ v → v ≤ s.err.lhead → exec (.ltailWrite v) s = .next { s with err := { s.err with ltail := v } }) ∧
    ((v < s.err.ltail ∨ s.err.lhead < v) → exec (.ltailWrite v) s = .next s)) ∧
  ∀ (s : State) (r core : Nat), core < 24 → r < 8 →
    ∀ p ∈ [(Instr.powerLimitExceeded core, 13), (.aerError core, 3), (.rootPortInterrupt r core, 4 + r)],
      ∃ t, exec p.1 s = .next t ∧ t = s.setHart (appBase + core) (t.hart (appBase + core)) ∧
        (∀ k, (t.hart (appBase + core)).app.pending.testBit k =
          (decide (k = p.2) || (s.hart (appBase + core)).app.pending.testBit k)) ∧
        t.hart (appBase + core) = { s.hart (appBase + core) with
          app := { (s.hart (appBase + core)).app with pending := (t.hart (appBase + core)).app.pending } }

/-- R310, R335, R339 to R341, R363, R364, R376: the tracker halves every HEAT of a partition in swap mode and lists at most 64
candidates, each hotter by 16 or more than the name in its fast slot; a swap starts with the first candidate unless a count or
PIN bars it, which counts for the owner of its group (R376), or the partition owns the group no more, and not while a tier
command of an earlier mode is outstanding; its end exchanges two locations, and counts likewise; a PIN write keeps every other
field; a page-table walk only adds valid entries to its cache; a fingerprint pass writes the tree, whose nodes are the mixes of
their children, and counts. That a pass reads its pages and writes its tree in one step at its end is the model's choice (log
23); so is that the list is made from the halved values, and that a swap takes the fast name of the moment (log 5). -/
def Obligations.TrackerEvents : Prop :=
  (∀ (s : State) (p : Nat),
    (s.scheduledMode p = true → exec (.heatHalving p) s = .next s ∧ exec (.swapStart p) s = .next s) ∧
    (s.tierPending p = true ∨ (s.part p).swap.isSome → exec (.swapStart p) s = .next s) ∧
    (s.scheduledMode p = false → (s.remap.map (·.1)).Nodup → ∃ t, exec (.heatHalving p) s = .next t ∧
      t = { s with remap := t.remap, parts := t.parts } ∧
      (∀ g, t.remapOf g = if s.ownsGroup p g then { s.remapOf g with heat := (s.remapOf g).heat.map (· / 2) } else s.remapOf g) ∧
      (t.part p).cand.length ≤ 64 ∧
      ∀ c ∈ (t.part p).cand, s.ownsGroup p c.1 = true ∧
        (t.remapOf c.1).heat.getD (t.remapOf c.1).fast 0 + 16 ≤ (t.remapOf c.1).heat.getD c.2 0) ∧
    (∀ g c r, s.scheduledMode p = false → (s.part p).swap = none → s.tierPending p = false → (s.part p).cand = (g, c) :: r →
      let f := (s.remapOf g).fast
      ∃ t, exec (.swapStart p) s = .next t ∧ t = { s with remap := t.remap, parts := t.parts } ∧ (t.part p).cand = r ∧
        (∀ q, (t.part q).tskip = (s.part q).tskip + if c ≠ f ∧ s.ownsGroup p g = true ∧ s.swapBarred g c f = true ∧
          s.partOfGroup g = some q ∧ g < 2 ^ 18 then 1 else 0) ∧
        (c = f ∨ s.ownsGroup p g = false ∨ s.swapBarred g c f = true → t.remap = s.remap ∧ (t.part p).swap = none) ∧
        (c ≠ f → s.ownsGroup p g = true → s.swapBarred g c f = false → (t.part p).swap = some (g, c, f) ∧
          t.remapOf g = { s.remapOf g with mov := true }))) ∧
  (∀ (s : State) (p g c f : Nat), p < 4 → (s.part p).swap = some (g, c, f) → (∀ q < p, ∀ x, (s.part q).swap = some x → x.1 ≠ g) →
    ∃ t, exec (.swapComplete g) s = .next t ∧ t = { s with remap := t.remap, parts := t.parts } ∧ (t.part p).swap = none ∧
      (∀ q, t.part q = { s.part q with
        swap := (t.part q).swap, swaps := (s.part q).swaps + if s.partOfGroup g = some q ∧ g < 2 ^ 18 then 1 else 0 }) ∧
      t.remapOf g = { (s.remapOf g).exchange c f with mov := false } ∧
      (∀ q, q ≠ p → (t.part q).swap = (s.part q).swap) ∧ ∀ k, k ≠ g → t.remapOf k = s.remapOf k) ∧
  (∀ (r : Remap) (j k : Nat), j < 4 → k < 4 → j ≠ k → r.loc < 256 →
    (r.exchange j k).locOf j = r.locOf k ∧ (r.exchange j k).locOf k = r.locOf j ∧
    ∀ i < 4, i ≠ j → i ≠ k → (r.exchange j k).locOf i = r.locOf i) ∧
  (∀ (s : State) (g : Nat) (v : Word), g < 2 ^ 18 →
    (bitsOf v 58 40 = 0 → ∃ t, exec (.remapPinWrite g v) s = .next t ∧ t = { s with remap := t.remap } ∧
      t.remapOf g = { s.remapOf g with pin := bitsOf v 63 60 } ∧ ∀ k, k ≠ g → t.remapOf k = s.remapOf k) ∧
    (bitsOf v 58 40 ≠ 0 → exec (.remapPinWrite g v) s = .next s)) ∧
  (∀ (s : State) (cache asid va : Nat), ∃ t, exec (.pageTableWalk ⟨cache, asid⟩ va) s = .next t ∧ t = { s with tlb := t.tlb } ∧
    s.tlb <:+ t.tlb ∧ (∀ e ∈ t.tlb, e ∈ s.tlb ∨ (e.cache = cache ∧ e.asid = asid ∧ e.w0.getLsbD (if e.level = 0 then 63 else 0) = true)) ∧
    (s.calm → s.tlb = [] → ∀ (c : Ctx) (need : Need) (a : Nat), t.translate c need a = s.translate c need a)) ∧
  (∀ (s : State),
    exec .fingerprintGo s = .next { s with fp := { s.fp with busy := true } } ∧
    (s.fp.int ≠ 0 → exec .fingerprintIntervalExpiry s = .next { s with fp := { s.fp with busy := true } }) ∧
    (s.fp.int = 0 → exec .fingerprintIntervalExpiry s = .next s) ∧
    (s.fp.busy = false → exec .fingerprintPassEnd s = .next s) ∧
    (s.fp.busy = true → s.calm →
      let P := 2 ^ bitsOf s.fp.log 4 0
      ∃ t, exec .fingerprintPassEnd s = .next t ∧ t = { s with mem := t.mem, fp := t.fp } ∧
        t.fp = { s.fp with busy := false, passes := s.fp.passes + 1 } ∧
        let node (i : Nat) := t.rd64 (s.fp.tree.toNat + 8 * i)
        (∀ i, 1 ≤ i → i < P → node i = mix (node (2 * i)) (node (2 * i + 1))) ∧
        (∀ j < P, node (P + j) = (List.range 8192).foldl
          (fun c w => mix c (s.rd64 (s.fp.base.toNat + 65536 * j + 8 * w))) (BitVec.ofNat 64 j)) ∧
        ∀ a, a < s.fp.tree.toNat + 8 ∨ s.fp.tree.toNat + 16 * P ≤ a → t.rd8 a = s.rd8 a))

/-- R3, R86, R98, R99, R366 to R369, R371, R374: a register write acts on one register of the window, and no agent is changed by
one but the command INVAL, where it completes at once; HIRQ sends one of 16 vectors; DEVNUM is written once; until READY a host
read returns all ones and a host write is discarded, and then they act on local memory, waiting for a granule in motion; an
inbound request acts only through a window that admits its source, a peer's counted access with the count of each line it
covers, and any other is refused; PROBE counts the harts of the range by their pc and their fetched statements, and the queued
records; a device reset leaves the machine of R371, a peer's memory and counts as they were, with HSTAT telling how far boot
went, and READY is set at step 7. The model's choices: INVAL drops the lines of the code range by whatever name they were
filled, and every line where a page of it cannot be translated now (log 11); a command written while BUSY is ignored, and one
completes in an event of its own or at once (log 23); a reset takes boot to step 4 in one step and keeps what the model holds
for itself, and the code with which a boot fails is a free value (log 36). -/
def Obligations.HostEvents : Prop :=
  (∀ (s : State) (pa : Nat) (v : Word),
    (region pa = .window → pa % 8 = 0 → exec (.registerWrite pa v) s = .next (s.devStore pa (bytesOfNat 8 v.toNat))) ∧
    (region pa ≠ .window ∨ pa % 8 ≠ 0 → exec (.registerWrite pa v) s = .next s) ∧
    (∃ t, exec (.registerWrite pa v) s = .next t ∧ t.mem = s.mem ∧ t.asidtab = s.asidtab ∧ t.partcfg = s.partcfg ∧
      t.qctl = s.qctl ∧ (¬ (s.eager = true ∧ pa = codeBase + 0x18 ∧ v = 2) → t.harts = s.harts)) ∧
    (v.toNat < 16 → exec (.hirqWrite v) s = .next { s with msix := s.msix ++ [v.toNat] }) ∧
    (16 ≤ v.toNat → exec (.hirqWrite v) s = .next s) ∧
    (bitsOf v 63 6 = 0 → s.host.devnumSet = false →
      exec (.devnumWrite v) s = .next { s with host := { s.host with devnum := v, devnumSet := true } }) ∧
    (bitsOf v 63 6 ≠ 0 ∨ s.host.devnumSet = true → exec (.devnumWrite v) s = .next s)) ∧
  (∀ (s : State) (src a n : Nat) (data : List Byte),
    let ready := s.host.hstat.getLsbD 0 = true
    let inLocal (k : Nat) := a + k ≤ 2 ^ 41
    let w (i k : Nat) : Word := assocGet 0 s.host.inwin (3 * i + k)
    let admits (n : Nat) := ∃ i < 4, (w i 2).getLsbD 63 = true ∧ src ≤ 8 ∧ (w i 2).getLsbD src = true ∧
      bitsOf (w i 0) 49 12 * 4096 ≤ a ∧ a + n ≤ bitsOf (w i 1) 49 12 * 4096 + 4096
    let answer (d : List Byte) (k : OutKind) : State := { s with out := s.out ++ [⟨a, d, k⟩] }
    (¬ ready → exec (.hostBar0Write a data) s = .next s ∧
      exec (.hostBar0Read a n) s = .next (answer (List.replicate n 0xFF) .response)) ∧
    (ready → s.calm → s.reqs = [] → inLocal data.length → ∃ t, exec (.hostBar0Write a data) s = .next t ∧ t = { s with mem := t.mem } ∧
      (∀ i < data.length, t.rd8 (a + i) = data.getD i 0) ∧ ∀ b, b < a ∨ a + data.length ≤ b → t.rd8 b = s.rd8 b) ∧
    (ready → s.calm → s.reqs = [] → inLocal n → exec (.hostBar0Read a n) s =
      .next (answer ((List.range n).map fun i => s.rd8 (a + i)) .response)) ∧
    (∀ l, ready → s.pins = [] → 0 < data.length → inLocal data.length → l ∈ linesOf a data.length → s.inMotion l = true →
      (∀ r ∈ s.reqs, r.src ≠ 9) → ∃ t, exec (.hostBar0Write a data) s = .next t ∧ (⟨9, a, .write data⟩ : OutsideReq) ∈ t.reqs) ∧
    (admits n → inLocal n → ready → s.calm → s.reqs = [] →
      (n = data.length → exec (.inboundRequest src a n (.write data)) s = exec (.hostBar0Write a data) s) ∧
      exec (.inboundRequest src a n (.read n)) s = exec (.hostBar0Read a n) s) ∧
    (admits 1 → inLocal 1 → src = 8 → s.calm → s.reqs = [] →
      exec (.inboundRequest src a 1 .query) s = .next (answer (bytesOfNat 1 (s.count (a / 128))) .response)) ∧
    (admits n → inLocal n → src = 8 → s.calm → s.reqs = [] → (∃ l ∈ linesOf a n, s.count l = 0) → ∃ t,
      exec (.inboundRequest src a n (.loadRd n)) s = .next t ∧ t.mem = s.mem ∧ t.cnt = s.cnt ∧ t.out = s.out ++ [⟨a, [], .overrun⟩]) ∧
    (admits n → inLocal n → src = 8 → s.calm → s.reqs = [] → (∀ l ∈ linesOf a n, 0 < s.count l) →
      (∀ l, (assocGet [] s.under l).length ≤ 128) → ∃ t, exec (.inboundRequest src a n (.loadRd n)) s = .next t ∧
        t.out = s.out ++ [⟨a, (List.range n).map fun i => s.rd8 (a + i), .response⟩] ∧
        (∀ l, t.count l = if l ∈ linesOf a n then s.count l - 1 else s.count l) ∧
        ∀ b, b / 128 ∉ linesOf a n ∨ s.count (b / 128) ≠ 1 → t.rd8 b = s.rd8 b) ∧
    (∀ k < 256, admits data.length → inLocal data.length → src = 8 → s.calm → s.reqs = [] → ∃ t,
      exec (.inboundRequest src a data.length (.storeRc k data)) s = .next t ∧
        (∀ l, t.count l = if l ∈ linesOf a data.length then k else s.count l) ∧
        (∀ i < data.length, t.rd8 (a + i) = data.getD i 0) ∧ ∀ b, b < a ∨ a + data.length ≤ b → t.rd8 b = s.rd8 b) ∧
    (src ≤ 8 → ¬ admits n → ∀ op, outsideSize op = n →
      exec (.inboundRequest src a n op) s = .next (answer [] (if src < 8 then .unsupported else .error)))) ∧
  (∀ (s : State),
    let c := s.code
    let lo := c.base.toNat
    let asid := bitsOf c.asid 10 0
    let covers (va : Nat) := lo ≤ va ∧ va < lo + c.len.toNat ∧ va < 2 ^ 64
    let hits (e : ICLine) := e.asid = asid ∧ lo / 128 ≤ e.vline ∧ e.vline ≤ min (lo + c.len.toNat - 1) (2 ^ 64 - 1) / 128
    let page (va : Nat) := s.translate ⟨outsider, asid, false⟩ .any (va / 65536 * 65536)
    let runs (k : Nat) : State := { s with code := { c with cmd := some k } }
    let ofBody (h : Hart) (at_ : Word) (o : Option LoopPos) (pc : Word) := ∃ p i, o = some p ∧ i + 1 < p.body.length ∧
      pc = at_ + BitVec.ofNat 64 (8 * (i + 1)) ∧ (p.k ≤ i ∨ ∃ n, h.nest = some n ∧ p.q + 1 < n.bounds.foldl (· * ·) 1)
    let fetched (hid : Nat) (h : Hart) (pc : Word) := pc = h.pc ∨ ofBody h h.pc h.loopPos pc ∨
      (∃ q ∈ h.vec.queue, q.pc = pc ∨ ofBody h q.pc q.loop pc) ∨
      (∃ m ∈ h.mx.queue, m.pc = pc) ∨ ∃ x ∈ s.cmds, x.owner = hid ∧ x.ofHart h = true ∧ x.pc = pc
    (c.cmd.isSome → exec .probe s = .next s ∧ exec .inval s = .next s) ∧
    (c.cmd = none → s.eager = false → exec .probe s = .next (runs 1) ∧ exec .inval s = .next (runs 2)) ∧
    (c.cmd = none → s.eager = true → exec .probe s = exec .codeRangeCommandComplete (runs 1) ∧
      exec .inval s = exec .codeRangeCommandComplete (runs 2)) ∧
    (∃ (hs : List (Nat × Hart)) (rs : List StartRec), s.probeCount = hs.length + rs.length ∧ hs.Sublist s.harts ∧
      rs.Sublist (s.parts.flatMap fun p => p.2.queues.flatMap fun q => q.2.recs) ∧
      (∀ e, e ∈ hs ↔ e ∈ s.harts ∧ e.1 < appBase ∧ e.2.status ≠ .free ∧ e.2.asid = asid ∧
        ∃ pc, fetched e.1 e.2 pc ∧ covers pc.toNat) ∧
      ∀ r, r ∈ rs ↔ (∃ p ∈ s.parts, ∃ q ∈ p.2.queues, r ∈ q.2.recs) ∧ r.asid = asid ∧ covers r.entry.toNat) ∧
    (c.cmd = none → exec .codeRangeCommandComplete s = .next s) ∧
    (c.cmd = some 1 → exec .codeRangeCommandComplete s =
      .next { s with code := { c with cmd := none, result := BitVec.ofNat 32 s.probeCount } }) ∧
    (c.cmd = some 2 → ∃ t, exec .codeRangeCommandComplete s = .next t ∧
      t = { s with
        icache := t.icache, code := { c with cmd := none }
        harts :=
          let anew (o : Option LoopPos) := o.map fun p => { p with body := [] }
          s.harts.map fun e => (e.1, { e.2 with
            loopPos := anew e.2.loopPos
            vec := { e.2.vec with queue := e.2.vec.queue.map fun q => { q with loop := anew q.loop } } }) } ∧
      (c.len = 0 → t.icache = s.icache) ∧ (2 ^ 21 < c.len.toNat → t.icache = []) ∧ (∀ e ∈ t.icache, e ∈ s.icache) ∧
      (c.len ≠ 0 → ∀ e ∈ t.icache, ¬ hits e) ∧
      ∀ va, covers va → (∀ l, page va = .ok l → ∀ e ∈ t.icache, e.line ≠ (l.pa + va % 65536) / 128) ∧
        (∀ w, page va = .error w → (∀ k v, w ≠ .trap k v) → t.icache = []))) ∧
  (∀ (s : State) (fail : Nat),
    let after (k step : Nat) : State := { State.reset with
      agenda := s.agenda, eager := s.eager, tick := s.tick, free := s.free, msix := s.msix, out := s.out, halted := decide (k ≠ 0)
      mem := s.mem.filter fun e => decide (2 ^ 48 ≤ e.1), cnt := s.cnt.filter fun e => decide (2 ^ 41 ≤ e.1)
      under := s.under.filter fun e => decide (2 ^ 41 ≤ e.1), away := s.away.filter fun l => decide (2 ^ 41 ≤ l), poison := s.poison.filter fun e => decide (2 ^ 41 ≤ e.1)
      host := { HostBlk.reset with hstat := BitVec.ofNat 64 (step * 256 + k * 65536) } }
    (fail = 0 ∨ 3 < fail → exec (.deviceReset fail) s = .next (after 0 4)) ∧ (fail = 1 → exec (.deviceReset fail) s = .next (after 1 1)) ∧
    (fail = 2 → exec (.deviceReset fail) s = .next (after 2 3)) ∧ (fail = 3 → exec (.deviceReset fail) s = .next (after 3 4)) ∧
    exec .functionLevelReset s = exec (.deviceReset (Config.freeBoot s.free)) { s with free := s.free + 1 }) ∧
  ∀ s : State, s.halted = false → s.bootStep = (
    let reach (n : Nat) (r : Nat) : State := { s with host := { s.host with hstat := BitVec.ofNat 64 (n * 256 + r) } }
    if bitsOf s.host.hstat 15 8 ≤ 4 then (if s.host.devnumSet then reach 5 0 else s)
    else if bitsOf s.host.hstat 15 8 = 5 then (if s.host.asidtabSet then reach 6 0 else s)
    else if bitsOf s.host.hstat 15 8 = 6 then reach 7 1 else s)

/-! ## Reset, invariants and protection -/

/-- R7, R64, R96, R121, R155, R305, R339, R357, R366, R371: after reset application core 0 runs at executive level with
interrupts off and the other 23 wait in XWAIT; no hart is placed; memory, scratchpads, counts and tokens are 0, every LOC is
0xE4, PWRLIM is 2,800, ESEQ and the trap queues are empty, no partition is enabled and no queue offers a record. The firmware
entry (log 4), that the translation caches are empty (log 12) and that the memory of peers reads 0 (log 16) are the model's
choices. -/
def Obligations.ResetState : Prop :=
  let s := State.reset
  (∀ k < 24, (s.hart (appBase + k)).app.xstatus = 1 ∧ (s.hart (appBase + k)).pc = firmwareEntry ∧
    (s.hart (appBase + k)).app.xwait = decide (k ≠ 0)) ∧
  (∀ h < appBase, (s.hart h).status = .free) ∧ s.cur = appBase ∧
  (∀ a, s.rd8 a = 0) ∧ (∀ c o, s.sp8 c o = 0) ∧ (∀ l, s.count l = 0) ∧ (∀ c b, s.spCount c b = 0) ∧ (∀ c k, s.tokens c k = 0) ∧
  (∀ g, (s.remapOf g).loc = 0xE4 ∧ (s.remapOf g).pin = 0) ∧ s.host.pwrlim = 2800 ∧ s.host.devnumSet = false ∧ s.err.eseq = 0 ∧
  s.asidtab = 0 ∧ (∀ p, s.partEnabled p = false) ∧ (∀ p q, ((s.part p).queue q).recs = []) ∧ s.recs = [] ∧ s.cmds = [] ∧
  s.pins = [] ∧ s.poison = [] ∧ s.spoison = [] ∧ s.tlb = [] ∧ s.walks = [] ∧ s.tails = [] ∧ s.reqs = [] ∧ s.Inv

/-- R82, R96 to R98, R121, R304: a step keeps memory and scratchpads in their canonical form, every count of readers within 0 to
255, every token FIFO within 0 to 32 tokens, and every application core running or waiting; so does every instruction and event. -/
def Obligations.InvariantKept : Prop :=
  (∀ s t : State, s.Inv → step s = .next t → t.Inv) ∧
  ∀ (i : Instr) (s t : State), s.Inv → exec i s = .next t → t.Inv

/-- R304, R307, R309, R312, R315: no instruction of an agent that is not an application core at executive level changes asidtab,
the partition configuration, the queue controls, or the address space, partition, vector base, scratch word, and address words for
counts and tokens of a core; and the status of a core, with its saved pc, cause and trap value, changes only by the trap that this
core takes itself, at its vector base. The premise holds in every state that a run reaches (InvariantKept, ResetState). -/
def Obligations.PrivilegeKept : Prop :=
  ∀ (i : Instr) (s t : State), i.encoded = true → s.Inv → s.privileged s.cur = false → exec i s = .next t →
    t.asidtab = s.asidtab ∧ t.partcfg = s.partcfg ∧ t.qctl = s.qctl ∧
    ∀ k, kindOf k = .app → (t.hart k).app.xvec = (s.hart k).app.xvec ∧ (t.hart k).app.curasid = (s.hart k).app.curasid ∧
      (t.hart k).app.curpart = (s.hart k).app.curpart ∧ (t.hart k).app.xscratch = (s.hart k).app.xscratch ∧
      (t.hart k).app.rcaddr = (s.hart k).app.rcaddr ∧ (t.hart k).app.tokaddr = (s.hart k).app.tokaddr ∧
      (((t.hart k).app.xstatus = (s.hart k).app.xstatus ∧ (t.hart k).app.xepc = (s.hart k).app.xepc ∧
        (t.hart k).app.xcause = (s.hart k).app.xcause ∧ (t.hart k).app.xtval = (s.hart k).app.xtval) ∨ (k = s.cur ∧ (t.hart k).pc = (s.hart k).app.xvec))
end

