-- ==== Sys2Proof/Laws/Assoc.lean ====
section
/-! SUPPORT. Laws of the sparse maps (Machine/Ops.lean) and of the canonical form of a memory. -/

namespace Sys2Proof.Machine

section maps
variable {α : Type} {d x y : α} {m : List (Nat × α)} {a b : Nat}

theorem assocGet_del_same : assocGet d (assocDel m a) a = d := by
  induction m with
  | nil => rfl
  | cons e r ih =>
    obtain ⟨k, v⟩ := e
    by_cases h : k = a <;> simp [assocDel, assocGet, h, ih]

theorem assocGet_del_ne (h : b ≠ a) : assocGet d (assocDel m a) b = assocGet d m b := by
  induction m with
  | nil => rfl
  | cons e r ih =>
    obtain ⟨k, v⟩ := e
    by_cases hk : k = a
    · subst hk; simp [assocDel, assocGet, ih, Ne.symm h]
    · simp [assocDel, assocGet, hk, ih]

theorem assocGet_ins_ne (h : b ≠ a) : assocGet d (assocIns m a x) b = assocGet d m b := by
  induction m with
  | nil => simp [assocIns, assocGet, Ne.symm h]
  | cons e r ih =>
    obtain ⟨k, v⟩ := e
    by_cases hk : a < k <;> simp [assocIns, assocGet, hk, ih, Ne.symm h]

theorem assocGet_ins_del : assocGet d (assocIns (assocDel m a) a x) a = x := by
  induction m with
  | nil => simp [assocDel, assocIns, assocGet]
  | cons e r ih =>
    obtain ⟨k, v⟩ := e
    by_cases hk : k = a
    · simp [assocDel, hk, ih]
    · by_cases hl : a < k <;> simp [assocDel, assocIns, assocGet, hk, hl, ih]

/-- Reading a key that was just set. -/
@[simp] theorem assocGet_set_same : assocGet d (assocSet m a x) a = x := assocGet_ins_del

/-- Reading another key. -/
theorem assocGet_set_ne (h : b ≠ a) : assocGet d (assocSet m a x) b = assocGet d m b := by
  rw [assocSet, assocGet_ins_ne h, assocGet_del_ne h]

theorem assocDel_del : assocDel (assocDel m a) a = assocDel m a := by
  induction m with
  | nil => rfl
  | cons e r ih =>
    obtain ⟨k, v⟩ := e
    by_cases hk : k = a <;> simp [assocDel, hk, ih]

theorem assocDel_ins : assocDel (assocIns m a x) a = assocDel m a := by
  induction m with
  | nil => simp [assocIns, assocDel]
  | cons e r ih =>
    obtain ⟨k, v⟩ := e
    by_cases hl : a < k
    · simp [assocIns, assocDel, hl]
    · simp [assocIns, assocDel, hl, ih]

/-- The second of two writes of one key stands. -/
@[simp] theorem assocSet_set : assocSet (assocSet m a x) a y = assocSet m a y := by
  simp [assocSet, assocDel_ins, assocDel_del]

variable [DecidableEq α]

/-- Reading a key that was just put. -/
@[simp] theorem assocGet_put_same : assocGet d (assocPut d m a x) a = x := by
  unfold assocPut
  split
  · next h => rw [assocGet_del_same, h]
  · exact assocGet_set_same

/-- Reading another key. -/
theorem assocGet_put_ne (h : b ≠ a) : assocGet d (assocPut d m a x) b = assocGet d m b := by
  unfold assocPut
  split
  · exact assocGet_del_ne h
  · exact assocGet_set_ne h

/-! ## The canonical form -/

theorem assocWfFrom_mono {lo hi : Nat} (h : lo ≤ hi) (w : assocWfFrom d hi m) : assocWfFrom d lo m := by
  cases m with
  | nil => rfl
  | cons e r =>
    obtain ⟨k, v⟩ := e
    simp only [assocWfFrom, Bool.and_eq_true, decide_eq_true_eq] at w ⊢
    exact ⟨⟨by omega, w.1.2⟩, w.2⟩

/-- Entries of a canonical map: keys are at least the bound and values are not the default. -/
theorem assocWfFrom_mem {lo : Nat} {e : Nat × α} (w : assocWfFrom d lo m) (h : e ∈ m) : lo ≤ e.1 ∧ e.2 ≠ d := by
  induction m generalizing lo with
  | nil => cases h
  | cons f r ih =>
    obtain ⟨k, v⟩ := f
    simp only [assocWfFrom, Bool.and_eq_true, decide_eq_true_eq, bne_iff_ne] at w
    rcases List.mem_cons.1 h with rfl | h
    · exact w.1
    · have := ih w.2 h
      exact ⟨by omega, this.2⟩

/-- A part of a canonical map that a filter keeps is canonical. -/
theorem assocWfFrom_filter {lo : Nat} (f : Nat × α → Bool) (w : assocWfFrom d lo m) : assocWfFrom d lo (m.filter f) := by
  induction m generalizing lo with
  | nil => rfl
  | cons e r ih =>
    obtain ⟨k, v⟩ := e
    simp only [assocWfFrom, Bool.and_eq_true, decide_eq_true_eq] at w
    by_cases hf : f (k, v)
    · simp [hf, assocWfFrom, w.1, ih w.2]
    · rw [List.filter_cons_of_neg hf]
      exact assocWfFrom_mono (by omega) (ih w.2)

/-- Two canonical maps one after the other, the second's keys past the first's. -/
theorem assocWfFrom_append {lo hi : Nat} {n : List (Nat × α)} (h : ∀ e ∈ m, e.1 < hi) (hl : lo ≤ hi)
    (w : assocWfFrom d lo m) (v : assocWfFrom d hi n) : assocWfFrom d lo (m ++ n) := by
  induction m generalizing lo with
  | nil => exact assocWfFrom_mono hl v
  | cons e r ih =>
    obtain ⟨k, z⟩ := e
    simp only [assocWfFrom, Bool.and_eq_true, decide_eq_true_eq] at w
    have hk : k < hi := h (k, z) (by simp)
    simp only [List.cons_append, assocWfFrom, Bool.and_eq_true, decide_eq_true_eq]
    exact ⟨w.1, ih (fun e he => h e (List.mem_cons_of_mem _ he)) (by omega) w.2⟩

theorem assocWfFrom_weaken {lo hi : Nat} (w : assocWfFrom d lo m) (h : ∀ e ∈ m, hi ≤ e.1) : assocWfFrom d hi m := by
  cases m with
  | nil => rfl
  | cons e r =>
    obtain ⟨k, v⟩ := e
    simp only [assocWfFrom, Bool.and_eq_true, decide_eq_true_eq] at w ⊢
    exact ⟨⟨h (k, v) (by simp), w.1.2⟩, w.2⟩

theorem assocWfFrom_del {lo : Nat} (w : assocWfFrom d lo m) : assocWfFrom d lo (assocDel m a) := by
  induction m generalizing lo with
  | nil => rfl
  | cons e r ih =>
    obtain ⟨k, v⟩ := e
    simp only [assocWfFrom, Bool.and_eq_true, decide_eq_true_eq] at w
    by_cases hk : k = a
    · simp only [assocDel, hk, if_true]
      exact assocWfFrom_mono (by omega) (ih w.2)
    · simp only [assocDel, hk, if_false, assocWfFrom, Bool.and_eq_true, decide_eq_true_eq]
      exact ⟨w.1, ih w.2⟩

theorem assocWfFrom_ins {lo : Nat} (h : lo ≤ a) (hx : x ≠ d) (hm : ∀ e ∈ m, e.1 ≠ a) (w : assocWfFrom d lo m) :
    assocWfFrom d lo (assocIns m a x) := by
  induction m generalizing lo with
  | nil => simp [assocIns, assocWfFrom, h, hx]
  | cons e r ih =>
    obtain ⟨k, v⟩ := e
    have hk : k ≠ a := hm (k, v) (by simp)
    simp only [assocWfFrom, Bool.and_eq_true, decide_eq_true_eq] at w
    by_cases hl : a < k
    · simp only [assocIns, hl, if_true, assocWfFrom, Bool.and_eq_true, decide_eq_true_eq, bne_iff_ne]
      exact ⟨⟨h, hx⟩, ⟨by omega, by simpa using w.1.2⟩, w.2⟩
    · simp only [assocIns, hl, if_false, assocWfFrom, Bool.and_eq_true, decide_eq_true_eq]
      exact ⟨w.1, ih (by omega) (fun e he => hm e (List.mem_cons_of_mem _ he)) w.2⟩

omit [DecidableEq α] in
theorem assocDel_keys {e : Nat × α} (h : e ∈ assocDel m a) : e.1 ≠ a := by
  induction m with
  | nil => cases h
  | cons f r ih =>
    obtain ⟨k, v⟩ := f
    by_cases hk : k = a
    · exact ih (by simpa [assocDel, hk] using h)
    · simp only [assocDel, hk, if_false, List.mem_cons] at h
      rcases h with rfl | h
      · exact hk
      · exact ih h

/-- `assocPut` keeps the canonical form. -/
theorem assocWf_put (w : assocWf d m) : assocWf d (assocPut d m a x) := by
  unfold assocPut assocSet
  split
  · exact assocWfFrom_del w
  · next hx => exact assocWfFrom_ins (Nat.zero_le _) hx (fun _ h => assocDel_keys h) (assocWfFrom_del w)

end maps

/-! ## Memories -/

theorem byteCells_from (a : Nat) (bs : List Byte) : assocWfFrom 0 a (byteCells a bs) := by
  induction bs generalizing a with
  | nil => rfl
  | cons b r ih =>
    by_cases hb : b = 0
    · simp only [byteCells, hb, if_true]
      exact assocWfFrom_mono (by omega) (ih (a + 1))
    · rw [byteCells, if_neg hb]
      simp only [assocWfFrom, Bool.and_eq_true, decide_eq_true_eq, bne_iff_ne]
      exact ⟨⟨Nat.le_refl a, hb⟩, ih (a + 1)⟩

theorem byteCells_lt (a : Nat) (bs : List Byte) {e : Host.Cell} (h : e ∈ byteCells a bs) : e.1 < a + bs.length := by
  induction bs generalizing a with
  | nil => cases h
  | cons b r ih =>
    by_cases hb : b = 0
    · have := ih (a + 1) (by simpa [byteCells, hb] using h)
      simp only [List.length_cons]; omega
    · simp only [byteCells, hb, if_false, List.mem_cons] at h
      rcases h with rfl | h
      · simp
      · have := ih (a + 1) h
        simp only [List.length_cons]; omega

/-- A write of bytes keeps the canonical form of a memory. -/
theorem Memory.wf_putBytes {m : List Host.Cell} (a : Nat) (bs : List Byte) (w : Memory.wf m) : Memory.wf (putBytes m a bs) := by
  have tail : assocWfFrom (0 : Byte) (a + bs.length) (m.filter fun e => decide (a + bs.length ≤ e.1)) :=
    assocWfFrom_weaken (assocWfFrom_filter _ w) (fun e h => by simpa using (List.mem_filter.1 h).2)
  have mid : assocWfFrom (0 : Byte) a (byteCells a bs ++ m.filter fun e => decide (a + bs.length ≤ e.1)) :=
    assocWfFrom_append (fun _ h => byteCells_lt a bs h) (by omega) (byteCells_from a bs) tail
  unfold putBytes
  rw [List.append_assoc]
  exact assocWfFrom_append (fun e h => by simpa using (List.mem_filter.1 h).2) (Nat.zero_le _) (assocWfFrom_filter _ w) mid

theorem assocGet_append_of_not_mem {α : Type} {d : α} {m n : List (Nat × α)} {a : Nat} (h : ∀ e ∈ m, e.1 ≠ a) :
    assocGet d (m ++ n) a = assocGet d n a := by
  induction m with
  | nil => rfl
  | cons e r ih =>
    obtain ⟨k, v⟩ := e
    have hk : k ≠ a := h (k, v) (by simp)
    simp [assocGet, hk, ih fun e he => h e (List.mem_cons_of_mem _ he)]

theorem assocGet_append_left {α : Type} {d : α} {m n : List (Nat × α)} {a : Nat} (h : ∀ e ∈ n, e.1 ≠ a) :
    assocGet d (m ++ n) a = assocGet d m a := by
  induction m with
  | nil =>
    have := assocGet_append_of_not_mem (d := d) (n := []) h
    simpa [assocGet] using this
  | cons e r ih =>
    obtain ⟨k, v⟩ := e
    by_cases hk : k = a <;> simp [assocGet, hk, ih]

theorem assocGet_filter {α : Type} {d : α} {m : List (Nat × α)} {a : Nat} {f : Nat × α → Bool}
    (h : ∀ v, f (a, v) = true) : assocGet d (m.filter f) a = assocGet d m a := by
  induction m with
  | nil => rfl
  | cons e r ih =>
    obtain ⟨k, v⟩ := e
    by_cases hk : k = a
    · subst hk; simp [h v, assocGet]
    · by_cases hf : f (k, v)
      · simp [hf, assocGet, hk, ih]
      · rw [List.filter_cons_of_neg hf, ih]; simp [assocGet, hk]

theorem assocGet_byteCells (a : Nat) (bs : List Byte) (i : Nat) (h : i < bs.length) :
    assocGet 0 (byteCells a bs) (a + i) = bs[i] := by
  induction bs generalizing a i with
  | nil => simp at h
  | cons b r ih =>
    cases i with
    | zero =>
      by_cases hb : b = 0
      · have hn : ∀ e ∈ byteCells (a + 1) r, e.1 ≠ a := fun e he => by
          have := (assocWfFrom_mem (byteCells_from (a + 1) r) he).1
          omega
        have := assocGet_append_of_not_mem (d := (0 : Byte)) (n := []) hn
        simpa [byteCells, hb, assocGet] using this
      · rw [byteCells, if_neg hb]; simp [assocGet]
    | succ j =>
      have hj : j < r.length := by simpa using h
      have := ih (a + 1) j hj
      have e : a + 1 + j = a + (j + 1) := by omega
      rw [e] at this
      by_cases hb : b = 0
      · rw [byteCells, if_pos hb]; simpa using this
      · rw [byteCells, if_neg hb]; simpa [assocGet] using this

/-- Reading an address inside the bytes just written. -/
theorem assocGet_putBytes_in (m : List Host.Cell) (a : Nat) (bs : List Byte) (i : Nat) (h : i < bs.length) :
    assocGet 0 (putBytes m a bs) (a + i) = bs[i] := by
  unfold putBytes
  rw [assocGet_append_left, assocGet_append_of_not_mem, assocGet_byteCells a bs i h]
  · intro e he
    have : e.1 < a := by simpa using (List.mem_filter.1 he).2
    omega
  · intro e he
    have : a + bs.length ≤ e.1 := by simpa using (List.mem_filter.1 he).2
    omega

/-- Reading an address outside the bytes just written. -/
theorem assocGet_putBytes_out (m : List Host.Cell) (a : Nat) (bs : List Byte) (b : Nat) (h : b < a ∨ a + bs.length ≤ b) :
    assocGet 0 (putBytes m a bs) b = assocGet 0 m b := by
  unfold putBytes
  have hc : ∀ e ∈ byteCells a bs, e.1 ≠ b := fun e he => by
    have h1 := (assocWfFrom_mem (byteCells_from a bs) he).1
    have h2 := byteCells_lt a bs he
    omega
  rcases h with h | h
  · rw [assocGet_append_left, assocGet_append_left hc, assocGet_filter (by simp [h])]
    intro e he
    have : a + bs.length ≤ e.1 := by simpa using (List.mem_filter.1 he).2
    omega
  · rw [List.append_assoc, assocGet_append_of_not_mem, assocGet_append_of_not_mem hc, assocGet_filter (by simp [h])]
    intro e he
    have : e.1 < a := by simpa using (List.mem_filter.1 he).2
    omega

end Sys2Proof.Machine
end

