-- ==== Sys2Proof/Laws/State.lean ====
section
/-! SUPPORT. One lemma per field per update of the state, of an agent, and what reading an agent, a count or a byte gives after an
update. -/

namespace Sys2Proof.Machine

variable (s : State)


/-! ## setHart -/

@[simp] theorem State.setHart_agenda (h : Nat) (x : Hart) : (s.setHart h x).agenda = s.agenda := rfl
@[simp] theorem State.setHart_cur (h : Nat) (x : Hart) : (s.setHart h x).cur = s.cur := rfl
@[simp] theorem State.setHart_ir (h : Nat) (x : Hart) : (s.setHart h x).ir = s.ir := rfl
@[simp] theorem State.setHart_eager (h : Nat) (x : Hart) : (s.setHart h x).eager = s.eager := rfl
@[simp] theorem State.setHart_tick (h : Nat) (x : Hart) : (s.setHart h x).tick = s.tick := rfl
@[simp] theorem State.setHart_free (h : Nat) (x : Hart) : (s.setHart h x).free = s.free := rfl
@[simp] theorem State.setHart_mem (h : Nat) (x : Hart) : (s.setHart h x).mem = s.mem := rfl
@[simp] theorem State.setHart_under (h : Nat) (x : Hart) : (s.setHart h x).under = s.under := rfl
@[simp] theorem State.setHart_away (h : Nat) (x : Hart) : (s.setHart h x).away = s.away := rfl
@[simp] theorem State.setHart_cnt (h : Nat) (x : Hart) : (s.setHart h x).cnt = s.cnt := rfl
@[simp] theorem State.setHart_spad (h : Nat) (x : Hart) : (s.setHart h x).spad = s.spad := rfl
@[simp] theorem State.setHart_spcnt (h : Nat) (x : Hart) : (s.setHart h x).spcnt = s.spcnt := rfl
@[simp] theorem State.setHart_tok (h : Nat) (x : Hart) : (s.setHart h x).tok = s.tok := rfl
@[simp] theorem State.setHart_poison (h : Nat) (x : Hart) : (s.setHart h x).poison = s.poison := rfl
@[simp] theorem State.setHart_spoison (h : Nat) (x : Hart) : (s.setHart h x).spoison = s.spoison := rfl
@[simp] theorem State.setHart_pins (h : Nat) (x : Hart) : (s.setHart h x).pins = s.pins := rfl
@[simp] theorem State.setHart_tlb (h : Nat) (x : Hart) : (s.setHart h x).tlb = s.tlb := rfl
@[simp] theorem State.setHart_walks (h : Nat) (x : Hart) : (s.setHart h x).walks = s.walks := rfl
@[simp] theorem State.setHart_lineup (h : Nat) (x : Hart) : (s.setHart h x).lineup = s.lineup := rfl
@[simp] theorem State.setHart_icache (h : Nat) (x : Hart) : (s.setHart h x).icache = s.icache := rfl
@[simp] theorem State.setHart_asidtab (h : Nat) (x : Hart) : (s.setHart h x).asidtab = s.asidtab := rfl
@[simp] theorem State.setHart_partcfg (h : Nat) (x : Hart) : (s.setHart h x).partcfg = s.partcfg := rfl
@[simp] theorem State.setHart_qctl (h : Nat) (x : Hart) : (s.setHart h x).qctl = s.qctl := rfl
@[simp] theorem State.setHart_parts (h : Nat) (x : Hart) : (s.setHart h x).parts = s.parts := rfl
@[simp] theorem State.setHart_recs (h : Nat) (x : Hart) : (s.setHart h x).recs = s.recs := rfl
@[simp] theorem State.setHart_groups (h : Nat) (x : Hart) : (s.setHart h x).groups = s.groups := rfl
@[simp] theorem State.setHart_cmds (h : Nat) (x : Hart) : (s.setHart h x).cmds = s.cmds := rfl
@[simp] theorem State.setHart_seq (h : Nat) (x : Hart) : (s.setHart h x).seq = s.seq := rfl
@[simp] theorem State.setHart_remap (h : Nat) (x : Hart) : (s.setHart h x).remap = s.remap := rfl
@[simp] theorem State.setHart_err (h : Nat) (x : Hart) : (s.setHart h x).err = s.err := rfl
@[simp] theorem State.setHart_fp (h : Nat) (x : Hart) : (s.setHart h x).fp = s.fp := rfl
@[simp] theorem State.setHart_host (h : Nat) (x : Hart) : (s.setHart h x).host = s.host := rfl
@[simp] theorem State.setHart_code (h : Nat) (x : Hart) : (s.setHart h x).code = s.code := rfl
@[simp] theorem State.setHart_links (h : Nat) (x : Hart) : (s.setHart h x).links = s.links := rfl
@[simp] theorem State.setHart_msix (h : Nat) (x : Hart) : (s.setHart h x).msix = s.msix := rfl
@[simp] theorem State.setHart_out (h : Nat) (x : Hart) : (s.setHart h x).out = s.out := rfl
@[simp] theorem State.setHart_reqs (h : Nat) (x : Hart) : (s.setHart h x).reqs = s.reqs := rfl
@[simp] theorem State.setHart_halted (h : Nat) (x : Hart) : (s.setHart h x).halted = s.halted := rfl
@[simp] theorem State.setHart_arith (h : Nat) (x : Hart) : (s.setHart h x).arith = s.arith := rfl
@[simp] theorem State.setHart_fabric (h : Nat) (x : Hart) : (s.setHart h x).fabric = s.fabric := rfl
@[simp] theorem State.setHart_app (h : Nat) (x : Hart) : (s.setHart h x).app = s.app := rfl
@[simp] theorem State.setHart_harts (h : Nat) (x : Hart) : (s.setHart h x).harts = assocSet s.harts h x := rfl
@[simp] theorem State.setHart_tails (h : Nat) (x : Hart) : (s.setHart h x).tails = s.tails := rfl

/-! ## updHart -/

@[simp] theorem State.updHart_agenda (h : Nat) (f : Hart → Hart) : (s.updHart h f).agenda = s.agenda := rfl
@[simp] theorem State.updHart_cur (h : Nat) (f : Hart → Hart) : (s.updHart h f).cur = s.cur := rfl
@[simp] theorem State.updHart_ir (h : Nat) (f : Hart → Hart) : (s.updHart h f).ir = s.ir := rfl
@[simp] theorem State.updHart_eager (h : Nat) (f : Hart → Hart) : (s.updHart h f).eager = s.eager := rfl
@[simp] theorem State.updHart_tick (h : Nat) (f : Hart → Hart) : (s.updHart h f).tick = s.tick := rfl
@[simp] theorem State.updHart_free (h : Nat) (f : Hart → Hart) : (s.updHart h f).free = s.free := rfl
@[simp] theorem State.updHart_mem (h : Nat) (f : Hart → Hart) : (s.updHart h f).mem = s.mem := rfl
@[simp] theorem State.updHart_under (h : Nat) (f : Hart → Hart) : (s.updHart h f).under = s.under := rfl
@[simp] theorem State.updHart_away (h : Nat) (f : Hart → Hart) : (s.updHart h f).away = s.away := rfl
@[simp] theorem State.updHart_cnt (h : Nat) (f : Hart → Hart) : (s.updHart h f).cnt = s.cnt := rfl
@[simp] theorem State.updHart_spad (h : Nat) (f : Hart → Hart) : (s.updHart h f).spad = s.spad := rfl
@[simp] theorem State.updHart_spcnt (h : Nat) (f : Hart → Hart) : (s.updHart h f).spcnt = s.spcnt := rfl
@[simp] theorem State.updHart_tok (h : Nat) (f : Hart → Hart) : (s.updHart h f).tok = s.tok := rfl
@[simp] theorem State.updHart_poison (h : Nat) (f : Hart → Hart) : (s.updHart h f).poison = s.poison := rfl
@[simp] theorem State.updHart_spoison (h : Nat) (f : Hart → Hart) : (s.updHart h f).spoison = s.spoison := rfl
@[simp] theorem State.updHart_pins (h : Nat) (f : Hart → Hart) : (s.updHart h f).pins = s.pins := rfl
@[simp] theorem State.updHart_tlb (h : Nat) (f : Hart → Hart) : (s.updHart h f).tlb = s.tlb := rfl
@[simp] theorem State.updHart_walks (h : Nat) (f : Hart → Hart) : (s.updHart h f).walks = s.walks := rfl
@[simp] theorem State.updHart_lineup (h : Nat) (f : Hart → Hart) : (s.updHart h f).lineup = s.lineup := rfl
@[simp] theorem State.updHart_icache (h : Nat) (f : Hart → Hart) : (s.updHart h f).icache = s.icache := rfl
@[simp] theorem State.updHart_asidtab (h : Nat) (f : Hart → Hart) : (s.updHart h f).asidtab = s.asidtab := rfl
@[simp] theorem State.updHart_partcfg (h : Nat) (f : Hart → Hart) : (s.updHart h f).partcfg = s.partcfg := rfl
@[simp] theorem State.updHart_qctl (h : Nat) (f : Hart → Hart) : (s.updHart h f).qctl = s.qctl := rfl
@[simp] theorem State.updHart_parts (h : Nat) (f : Hart → Hart) : (s.updHart h f).parts = s.parts := rfl
@[simp] theorem State.updHart_recs (h : Nat) (f : Hart → Hart) : (s.updHart h f).recs = s.recs := rfl
@[simp] theorem State.updHart_groups (h : Nat) (f : Hart → Hart) : (s.updHart h f).groups = s.groups := rfl
@[simp] theorem State.updHart_cmds (h : Nat) (f : Hart → Hart) : (s.updHart h f).cmds = s.cmds := rfl
@[simp] theorem State.updHart_seq (h : Nat) (f : Hart → Hart) : (s.updHart h f).seq = s.seq := rfl
@[simp] theorem State.updHart_remap (h : Nat) (f : Hart → Hart) : (s.updHart h f).remap = s.remap := rfl
@[simp] theorem State.updHart_err (h : Nat) (f : Hart → Hart) : (s.updHart h f).err = s.err := rfl
@[simp] theorem State.updHart_fp (h : Nat) (f : Hart → Hart) : (s.updHart h f).fp = s.fp := rfl
@[simp] theorem State.updHart_host (h : Nat) (f : Hart → Hart) : (s.updHart h f).host = s.host := rfl
@[simp] theorem State.updHart_code (h : Nat) (f : Hart → Hart) : (s.updHart h f).code = s.code := rfl
@[simp] theorem State.updHart_links (h : Nat) (f : Hart → Hart) : (s.updHart h f).links = s.links := rfl
@[simp] theorem State.updHart_msix (h : Nat) (f : Hart → Hart) : (s.updHart h f).msix = s.msix := rfl
@[simp] theorem State.updHart_out (h : Nat) (f : Hart → Hart) : (s.updHart h f).out = s.out := rfl
@[simp] theorem State.updHart_reqs (h : Nat) (f : Hart → Hart) : (s.updHart h f).reqs = s.reqs := rfl
@[simp] theorem State.updHart_halted (h : Nat) (f : Hart → Hart) : (s.updHart h f).halted = s.halted := rfl
@[simp] theorem State.updHart_arith (h : Nat) (f : Hart → Hart) : (s.updHart h f).arith = s.arith := rfl
@[simp] theorem State.updHart_fabric (h : Nat) (f : Hart → Hart) : (s.updHart h f).fabric = s.fabric := rfl
@[simp] theorem State.updHart_app (h : Nat) (f : Hart → Hart) : (s.updHart h f).app = s.app := rfl
@[simp] theorem State.updHart_harts (h : Nat) (f : Hart → Hart) : (s.updHart h f).harts = assocSet s.harts h (f (s.hart h)) := rfl
@[simp] theorem State.updHart_tails (h : Nat) (f : Hart → Hart) : (s.updHart h f).tails = s.tails := rfl

/-! ## updPart -/

@[simp] theorem State.updPart_agenda (p : Nat) (f : Part → Part) : (s.updPart p f).agenda = s.agenda := rfl
@[simp] theorem State.updPart_cur (p : Nat) (f : Part → Part) : (s.updPart p f).cur = s.cur := rfl
@[simp] theorem State.updPart_ir (p : Nat) (f : Part → Part) : (s.updPart p f).ir = s.ir := rfl
@[simp] theorem State.updPart_eager (p : Nat) (f : Part → Part) : (s.updPart p f).eager = s.eager := rfl
@[simp] theorem State.updPart_tick (p : Nat) (f : Part → Part) : (s.updPart p f).tick = s.tick := rfl
@[simp] theorem State.updPart_free (p : Nat) (f : Part → Part) : (s.updPart p f).free = s.free := rfl
@[simp] theorem State.updPart_mem (p : Nat) (f : Part → Part) : (s.updPart p f).mem = s.mem := rfl
@[simp] theorem State.updPart_under (p : Nat) (f : Part → Part) : (s.updPart p f).under = s.under := rfl
@[simp] theorem State.updPart_away (p : Nat) (f : Part → Part) : (s.updPart p f).away = s.away := rfl
@[simp] theorem State.updPart_cnt (p : Nat) (f : Part → Part) : (s.updPart p f).cnt = s.cnt := rfl
@[simp] theorem State.updPart_spad (p : Nat) (f : Part → Part) : (s.updPart p f).spad = s.spad := rfl
@[simp] theorem State.updPart_spcnt (p : Nat) (f : Part → Part) : (s.updPart p f).spcnt = s.spcnt := rfl
@[simp] theorem State.updPart_tok (p : Nat) (f : Part → Part) : (s.updPart p f).tok = s.tok := rfl
@[simp] theorem State.updPart_poison (p : Nat) (f : Part → Part) : (s.updPart p f).poison = s.poison := rfl
@[simp] theorem State.updPart_spoison (p : Nat) (f : Part → Part) : (s.updPart p f).spoison = s.spoison := rfl
@[simp] theorem State.updPart_pins (p : Nat) (f : Part → Part) : (s.updPart p f).pins = s.pins := rfl
@[simp] theorem State.updPart_tlb (p : Nat) (f : Part → Part) : (s.updPart p f).tlb = s.tlb := rfl
@[simp] theorem State.updPart_walks (p : Nat) (f : Part → Part) : (s.updPart p f).walks = s.walks := rfl
@[simp] theorem State.updPart_lineup (p : Nat) (f : Part → Part) : (s.updPart p f).lineup = s.lineup := rfl
@[simp] theorem State.updPart_icache (p : Nat) (f : Part → Part) : (s.updPart p f).icache = s.icache := rfl
@[simp] theorem State.updPart_asidtab (p : Nat) (f : Part → Part) : (s.updPart p f).asidtab = s.asidtab := rfl
@[simp] theorem State.updPart_partcfg (p : Nat) (f : Part → Part) : (s.updPart p f).partcfg = s.partcfg := rfl
@[simp] theorem State.updPart_qctl (p : Nat) (f : Part → Part) : (s.updPart p f).qctl = s.qctl := rfl
@[simp] theorem State.updPart_parts (p : Nat) (f : Part → Part) : (s.updPart p f).parts = assocSet s.parts p (f (s.part p)) := rfl
@[simp] theorem State.updPart_recs (p : Nat) (f : Part → Part) : (s.updPart p f).recs = s.recs := rfl
@[simp] theorem State.updPart_groups (p : Nat) (f : Part → Part) : (s.updPart p f).groups = s.groups := rfl
@[simp] theorem State.updPart_cmds (p : Nat) (f : Part → Part) : (s.updPart p f).cmds = s.cmds := rfl
@[simp] theorem State.updPart_seq (p : Nat) (f : Part → Part) : (s.updPart p f).seq = s.seq := rfl
@[simp] theorem State.updPart_remap (p : Nat) (f : Part → Part) : (s.updPart p f).remap = s.remap := rfl
@[simp] theorem State.updPart_err (p : Nat) (f : Part → Part) : (s.updPart p f).err = s.err := rfl
@[simp] theorem State.updPart_fp (p : Nat) (f : Part → Part) : (s.updPart p f).fp = s.fp := rfl
@[simp] theorem State.updPart_host (p : Nat) (f : Part → Part) : (s.updPart p f).host = s.host := rfl
@[simp] theorem State.updPart_code (p : Nat) (f : Part → Part) : (s.updPart p f).code = s.code := rfl
@[simp] theorem State.updPart_links (p : Nat) (f : Part → Part) : (s.updPart p f).links = s.links := rfl
@[simp] theorem State.updPart_msix (p : Nat) (f : Part → Part) : (s.updPart p f).msix = s.msix := rfl
@[simp] theorem State.updPart_out (p : Nat) (f : Part → Part) : (s.updPart p f).out = s.out := rfl
@[simp] theorem State.updPart_reqs (p : Nat) (f : Part → Part) : (s.updPart p f).reqs = s.reqs := rfl
@[simp] theorem State.updPart_halted (p : Nat) (f : Part → Part) : (s.updPart p f).halted = s.halted := rfl
@[simp] theorem State.updPart_arith (p : Nat) (f : Part → Part) : (s.updPart p f).arith = s.arith := rfl
@[simp] theorem State.updPart_fabric (p : Nat) (f : Part → Part) : (s.updPart p f).fabric = s.fabric := rfl
@[simp] theorem State.updPart_app (p : Nat) (f : Part → Part) : (s.updPart p f).app = s.app := rfl
@[simp] theorem State.updPart_harts (p : Nat) (f : Part → Part) : (s.updPart p f).harts = s.harts := rfl
@[simp] theorem State.updPart_tails (p : Nat) (f : Part → Part) : (s.updPart p f).tails = s.tails := rfl

/-! ## wrBytes -/

@[simp] theorem State.wrBytes_agenda (a : Nat) (b : List Byte) : (s.wrBytes a b).agenda = s.agenda := rfl
@[simp] theorem State.wrBytes_cur (a : Nat) (b : List Byte) : (s.wrBytes a b).cur = s.cur := rfl
@[simp] theorem State.wrBytes_ir (a : Nat) (b : List Byte) : (s.wrBytes a b).ir = s.ir := rfl
@[simp] theorem State.wrBytes_eager (a : Nat) (b : List Byte) : (s.wrBytes a b).eager = s.eager := rfl
@[simp] theorem State.wrBytes_tick (a : Nat) (b : List Byte) : (s.wrBytes a b).tick = s.tick := rfl
@[simp] theorem State.wrBytes_free (a : Nat) (b : List Byte) : (s.wrBytes a b).free = s.free := rfl
@[simp] theorem State.wrBytes_mem (a : Nat) (b : List Byte) : (s.wrBytes a b).mem = putBytes s.mem a b := rfl
@[simp] theorem State.wrBytes_under (a : Nat) (b : List Byte) : (s.wrBytes a b).under = s.under := rfl
@[simp] theorem State.wrBytes_away (a : Nat) (b : List Byte) : (s.wrBytes a b).away = s.away := rfl
@[simp] theorem State.wrBytes_cnt (a : Nat) (b : List Byte) : (s.wrBytes a b).cnt = s.cnt := rfl
@[simp] theorem State.wrBytes_spad (a : Nat) (b : List Byte) : (s.wrBytes a b).spad = s.spad := rfl
@[simp] theorem State.wrBytes_spcnt (a : Nat) (b : List Byte) : (s.wrBytes a b).spcnt = s.spcnt := rfl
@[simp] theorem State.wrBytes_tok (a : Nat) (b : List Byte) : (s.wrBytes a b).tok = s.tok := rfl
@[simp] theorem State.wrBytes_poison (a : Nat) (b : List Byte) : (s.wrBytes a b).poison = s.poison := rfl
@[simp] theorem State.wrBytes_spoison (a : Nat) (b : List Byte) : (s.wrBytes a b).spoison = s.spoison := rfl
@[simp] theorem State.wrBytes_pins (a : Nat) (b : List Byte) : (s.wrBytes a b).pins = s.pins := rfl
@[simp] theorem State.wrBytes_tlb (a : Nat) (b : List Byte) : (s.wrBytes a b).tlb = s.tlb := rfl
@[simp] theorem State.wrBytes_walks (a : Nat) (b : List Byte) : (s.wrBytes a b).walks = s.walks := rfl
@[simp] theorem State.wrBytes_lineup (a : Nat) (b : List Byte) : (s.wrBytes a b).lineup = s.lineup := rfl
@[simp] theorem State.wrBytes_icache (a : Nat) (b : List Byte) : (s.wrBytes a b).icache = s.icache := rfl
@[simp] theorem State.wrBytes_asidtab (a : Nat) (b : List Byte) : (s.wrBytes a b).asidtab = s.asidtab := rfl
@[simp] theorem State.wrBytes_partcfg (a : Nat) (b : List Byte) : (s.wrBytes a b).partcfg = s.partcfg := rfl
@[simp] theorem State.wrBytes_qctl (a : Nat) (b : List Byte) : (s.wrBytes a b).qctl = s.qctl := rfl
@[simp] theorem State.wrBytes_parts (a : Nat) (b : List Byte) : (s.wrBytes a b).parts = s.parts := rfl
@[simp] theorem State.wrBytes_recs (a : Nat) (b : List Byte) : (s.wrBytes a b).recs = s.recs := rfl
@[simp] theorem State.wrBytes_groups (a : Nat) (b : List Byte) : (s.wrBytes a b).groups = s.groups := rfl
@[simp] theorem State.wrBytes_cmds (a : Nat) (b : List Byte) : (s.wrBytes a b).cmds = s.cmds := rfl
@[simp] theorem State.wrBytes_seq (a : Nat) (b : List Byte) : (s.wrBytes a b).seq = s.seq := rfl
@[simp] theorem State.wrBytes_remap (a : Nat) (b : List Byte) : (s.wrBytes a b).remap = s.remap := rfl
@[simp] theorem State.wrBytes_err (a : Nat) (b : List Byte) : (s.wrBytes a b).err = s.err := rfl
@[simp] theorem State.wrBytes_fp (a : Nat) (b : List Byte) : (s.wrBytes a b).fp = s.fp := rfl
@[simp] theorem State.wrBytes_host (a : Nat) (b : List Byte) : (s.wrBytes a b).host = s.host := rfl
@[simp] theorem State.wrBytes_code (a : Nat) (b : List Byte) : (s.wrBytes a b).code = s.code := rfl
@[simp] theorem State.wrBytes_links (a : Nat) (b : List Byte) : (s.wrBytes a b).links = s.links := rfl
@[simp] theorem State.wrBytes_msix (a : Nat) (b : List Byte) : (s.wrBytes a b).msix = s.msix := rfl
@[simp] theorem State.wrBytes_out (a : Nat) (b : List Byte) : (s.wrBytes a b).out = s.out := rfl
@[simp] theorem State.wrBytes_reqs (a : Nat) (b : List Byte) : (s.wrBytes a b).reqs = s.reqs := rfl
@[simp] theorem State.wrBytes_halted (a : Nat) (b : List Byte) : (s.wrBytes a b).halted = s.halted := rfl
@[simp] theorem State.wrBytes_arith (a : Nat) (b : List Byte) : (s.wrBytes a b).arith = s.arith := rfl
@[simp] theorem State.wrBytes_fabric (a : Nat) (b : List Byte) : (s.wrBytes a b).fabric = s.fabric := rfl
@[simp] theorem State.wrBytes_app (a : Nat) (b : List Byte) : (s.wrBytes a b).app = s.app := rfl
@[simp] theorem State.wrBytes_harts (a : Nat) (b : List Byte) : (s.wrBytes a b).harts = s.harts := rfl
@[simp] theorem State.wrBytes_tails (a : Nat) (b : List Byte) : (s.wrBytes a b).tails = s.tails := rfl

/-! ## spWrite -/

@[simp] theorem State.spWrite_agenda (c o : Nat) (b : List Byte) : (s.spWrite c o b).agenda = s.agenda := rfl
@[simp] theorem State.spWrite_cur (c o : Nat) (b : List Byte) : (s.spWrite c o b).cur = s.cur := rfl
@[simp] theorem State.spWrite_ir (c o : Nat) (b : List Byte) : (s.spWrite c o b).ir = s.ir := rfl
@[simp] theorem State.spWrite_eager (c o : Nat) (b : List Byte) : (s.spWrite c o b).eager = s.eager := rfl
@[simp] theorem State.spWrite_tick (c o : Nat) (b : List Byte) : (s.spWrite c o b).tick = s.tick := rfl
@[simp] theorem State.spWrite_free (c o : Nat) (b : List Byte) : (s.spWrite c o b).free = s.free := rfl
@[simp] theorem State.spWrite_mem (c o : Nat) (b : List Byte) : (s.spWrite c o b).mem = s.mem := rfl
@[simp] theorem State.spWrite_under (c o : Nat) (b : List Byte) : (s.spWrite c o b).under = s.under := rfl
@[simp] theorem State.spWrite_away (c o : Nat) (b : List Byte) : (s.spWrite c o b).away = s.away := rfl
@[simp] theorem State.spWrite_cnt (c o : Nat) (b : List Byte) : (s.spWrite c o b).cnt = s.cnt := rfl
@[simp] theorem State.spWrite_spad (c o : Nat) (b : List Byte) : (s.spWrite c o b).spad = putBytes s.spad (c * spadSize + o) b := rfl
@[simp] theorem State.spWrite_spcnt (c o : Nat) (b : List Byte) : (s.spWrite c o b).spcnt = s.spcnt := rfl
@[simp] theorem State.spWrite_tok (c o : Nat) (b : List Byte) : (s.spWrite c o b).tok = s.tok := rfl
@[simp] theorem State.spWrite_poison (c o : Nat) (b : List Byte) : (s.spWrite c o b).poison = s.poison := rfl
@[simp] theorem State.spWrite_spoison (c o : Nat) (b : List Byte) : (s.spWrite c o b).spoison = s.spoison := rfl
@[simp] theorem State.spWrite_pins (c o : Nat) (b : List Byte) : (s.spWrite c o b).pins = s.pins := rfl
@[simp] theorem State.spWrite_tlb (c o : Nat) (b : List Byte) : (s.spWrite c o b).tlb = s.tlb := rfl
@[simp] theorem State.spWrite_walks (c o : Nat) (b : List Byte) : (s.spWrite c o b).walks = s.walks := rfl
@[simp] theorem State.spWrite_lineup (c o : Nat) (b : List Byte) : (s.spWrite c o b).lineup = s.lineup := rfl
@[simp] theorem State.spWrite_icache (c o : Nat) (b : List Byte) : (s.spWrite c o b).icache = s.icache := rfl
@[simp] theorem State.spWrite_asidtab (c o : Nat) (b : List Byte) : (s.spWrite c o b).asidtab = s.asidtab := rfl
@[simp] theorem State.spWrite_partcfg (c o : Nat) (b : List Byte) : (s.spWrite c o b).partcfg = s.partcfg := rfl
@[simp] theorem State.spWrite_qctl (c o : Nat) (b : List Byte) : (s.spWrite c o b).qctl = s.qctl := rfl
@[simp] theorem State.spWrite_parts (c o : Nat) (b : List Byte) : (s.spWrite c o b).parts = s.parts := rfl
@[simp] theorem State.spWrite_recs (c o : Nat) (b : List Byte) : (s.spWrite c o b).recs = s.recs := rfl
@[simp] theorem State.spWrite_groups (c o : Nat) (b : List Byte) : (s.spWrite c o b).groups = s.groups := rfl
@[simp] theorem State.spWrite_cmds (c o : Nat) (b : List Byte) : (s.spWrite c o b).cmds = s.cmds := rfl
@[simp] theorem State.spWrite_seq (c o : Nat) (b : List Byte) : (s.spWrite c o b).seq = s.seq := rfl
@[simp] theorem State.spWrite_remap (c o : Nat) (b : List Byte) : (s.spWrite c o b).remap = s.remap := rfl
@[simp] theorem State.spWrite_err (c o : Nat) (b : List Byte) : (s.spWrite c o b).err = s.err := rfl
@[simp] theorem State.spWrite_fp (c o : Nat) (b : List Byte) : (s.spWrite c o b).fp = s.fp := rfl
@[simp] theorem State.spWrite_host (c o : Nat) (b : List Byte) : (s.spWrite c o b).host = s.host := rfl
@[simp] theorem State.spWrite_code (c o : Nat) (b : List Byte) : (s.spWrite c o b).code = s.code := rfl
@[simp] theorem State.spWrite_links (c o : Nat) (b : List Byte) : (s.spWrite c o b).links = s.links := rfl
@[simp] theorem State.spWrite_msix (c o : Nat) (b : List Byte) : (s.spWrite c o b).msix = s.msix := rfl
@[simp] theorem State.spWrite_out (c o : Nat) (b : List Byte) : (s.spWrite c o b).out = s.out := rfl
@[simp] theorem State.spWrite_reqs (c o : Nat) (b : List Byte) : (s.spWrite c o b).reqs = s.reqs := rfl
@[simp] theorem State.spWrite_halted (c o : Nat) (b : List Byte) : (s.spWrite c o b).halted = s.halted := rfl
@[simp] theorem State.spWrite_arith (c o : Nat) (b : List Byte) : (s.spWrite c o b).arith = s.arith := rfl
@[simp] theorem State.spWrite_fabric (c o : Nat) (b : List Byte) : (s.spWrite c o b).fabric = s.fabric := rfl
@[simp] theorem State.spWrite_app (c o : Nat) (b : List Byte) : (s.spWrite c o b).app = s.app := rfl
@[simp] theorem State.spWrite_harts (c o : Nat) (b : List Byte) : (s.spWrite c o b).harts = s.harts := rfl
@[simp] theorem State.spWrite_tails (c o : Nat) (b : List Byte) : (s.spWrite c o b).tails = s.tails := rfl

/-! ## setSpCount -/

@[simp] theorem State.setSpCount_agenda (c b n : Nat) : (s.setSpCount c b n).agenda = s.agenda := rfl
@[simp] theorem State.setSpCount_cur (c b n : Nat) : (s.setSpCount c b n).cur = s.cur := rfl
@[simp] theorem State.setSpCount_ir (c b n : Nat) : (s.setSpCount c b n).ir = s.ir := rfl
@[simp] theorem State.setSpCount_eager (c b n : Nat) : (s.setSpCount c b n).eager = s.eager := rfl
@[simp] theorem State.setSpCount_tick (c b n : Nat) : (s.setSpCount c b n).tick = s.tick := rfl
@[simp] theorem State.setSpCount_free (c b n : Nat) : (s.setSpCount c b n).free = s.free := rfl
@[simp] theorem State.setSpCount_mem (c b n : Nat) : (s.setSpCount c b n).mem = s.mem := rfl
@[simp] theorem State.setSpCount_under (c b n : Nat) : (s.setSpCount c b n).under = s.under := rfl
@[simp] theorem State.setSpCount_away (c b n : Nat) : (s.setSpCount c b n).away = s.away := rfl
@[simp] theorem State.setSpCount_cnt (c b n : Nat) : (s.setSpCount c b n).cnt = s.cnt := rfl
@[simp] theorem State.setSpCount_spad (c b n : Nat) : (s.setSpCount c b n).spad = s.spad := rfl
@[simp] theorem State.setSpCount_spcnt (c b n : Nat) : (s.setSpCount c b n).spcnt = assocPut 0 s.spcnt (blockKey c b) n := rfl
@[simp] theorem State.setSpCount_tok (c b n : Nat) : (s.setSpCount c b n).tok = s.tok := rfl
@[simp] theorem State.setSpCount_poison (c b n : Nat) : (s.setSpCount c b n).poison = s.poison := rfl
@[simp] theorem State.setSpCount_spoison (c b n : Nat) : (s.setSpCount c b n).spoison = s.spoison := rfl
@[simp] theorem State.setSpCount_pins (c b n : Nat) : (s.setSpCount c b n).pins = s.pins := rfl
@[simp] theorem State.setSpCount_tlb (c b n : Nat) : (s.setSpCount c b n).tlb = s.tlb := rfl
@[simp] theorem State.setSpCount_walks (c b n : Nat) : (s.setSpCount c b n).walks = s.walks := rfl
@[simp] theorem State.setSpCount_lineup (c b n : Nat) : (s.setSpCount c b n).lineup = s.lineup := rfl
@[simp] theorem State.setSpCount_icache (c b n : Nat) : (s.setSpCount c b n).icache = s.icache := rfl
@[simp] theorem State.setSpCount_asidtab (c b n : Nat) : (s.setSpCount c b n).asidtab = s.asidtab := rfl
@[simp] theorem State.setSpCount_partcfg (c b n : Nat) : (s.setSpCount c b n).partcfg = s.partcfg := rfl
@[simp] theorem State.setSpCount_qctl (c b n : Nat) : (s.setSpCount c b n).qctl = s.qctl := rfl
@[simp] theorem State.setSpCount_parts (c b n : Nat) : (s.setSpCount c b n).parts = s.parts := rfl
@[simp] theorem State.setSpCount_recs (c b n : Nat) : (s.setSpCount c b n).recs = s.recs := rfl
@[simp] theorem State.setSpCount_groups (c b n : Nat) : (s.setSpCount c b n).groups = s.groups := rfl
@[simp] theorem State.setSpCount_cmds (c b n : Nat) : (s.setSpCount c b n).cmds = s.cmds := rfl
@[simp] theorem State.setSpCount_seq (c b n : Nat) : (s.setSpCount c b n).seq = s.seq := rfl
@[simp] theorem State.setSpCount_remap (c b n : Nat) : (s.setSpCount c b n).remap = s.remap := rfl
@[simp] theorem State.setSpCount_err (c b n : Nat) : (s.setSpCount c b n).err = s.err := rfl
@[simp] theorem State.setSpCount_fp (c b n : Nat) : (s.setSpCount c b n).fp = s.fp := rfl
@[simp] theorem State.setSpCount_host (c b n : Nat) : (s.setSpCount c b n).host = s.host := rfl
@[simp] theorem State.setSpCount_code (c b n : Nat) : (s.setSpCount c b n).code = s.code := rfl
@[simp] theorem State.setSpCount_links (c b n : Nat) : (s.setSpCount c b n).links = s.links := rfl
@[simp] theorem State.setSpCount_msix (c b n : Nat) : (s.setSpCount c b n).msix = s.msix := rfl
@[simp] theorem State.setSpCount_out (c b n : Nat) : (s.setSpCount c b n).out = s.out := rfl
@[simp] theorem State.setSpCount_reqs (c b n : Nat) : (s.setSpCount c b n).reqs = s.reqs := rfl
@[simp] theorem State.setSpCount_halted (c b n : Nat) : (s.setSpCount c b n).halted = s.halted := rfl
@[simp] theorem State.setSpCount_arith (c b n : Nat) : (s.setSpCount c b n).arith = s.arith := rfl
@[simp] theorem State.setSpCount_fabric (c b n : Nat) : (s.setSpCount c b n).fabric = s.fabric := rfl
@[simp] theorem State.setSpCount_app (c b n : Nat) : (s.setSpCount c b n).app = s.app := rfl
@[simp] theorem State.setSpCount_harts (c b n : Nat) : (s.setSpCount c b n).harts = s.harts := rfl
@[simp] theorem State.setSpCount_tails (c b n : Nat) : (s.setSpCount c b n).tails = s.tails := rfl

/-! ## setTokens -/

@[simp] theorem State.setTokens_agenda (c k n : Nat) : (s.setTokens c k n).agenda = s.agenda := rfl
@[simp] theorem State.setTokens_cur (c k n : Nat) : (s.setTokens c k n).cur = s.cur := rfl
@[simp] theorem State.setTokens_ir (c k n : Nat) : (s.setTokens c k n).ir = s.ir := rfl
@[simp] theorem State.setTokens_eager (c k n : Nat) : (s.setTokens c k n).eager = s.eager := rfl
@[simp] theorem State.setTokens_tick (c k n : Nat) : (s.setTokens c k n).tick = s.tick := rfl
@[simp] theorem State.setTokens_free (c k n : Nat) : (s.setTokens c k n).free = s.free := rfl
@[simp] theorem State.setTokens_mem (c k n : Nat) : (s.setTokens c k n).mem = s.mem := rfl
@[simp] theorem State.setTokens_under (c k n : Nat) : (s.setTokens c k n).under = s.under := rfl
@[simp] theorem State.setTokens_away (c k n : Nat) : (s.setTokens c k n).away = s.away := rfl
@[simp] theorem State.setTokens_cnt (c k n : Nat) : (s.setTokens c k n).cnt = s.cnt := rfl
@[simp] theorem State.setTokens_spad (c k n : Nat) : (s.setTokens c k n).spad = s.spad := rfl
@[simp] theorem State.setTokens_spcnt (c k n : Nat) : (s.setTokens c k n).spcnt = s.spcnt := rfl
@[simp] theorem State.setTokens_tok (c k n : Nat) : (s.setTokens c k n).tok = assocPut 0 s.tok (16 * c + k) n := rfl
@[simp] theorem State.setTokens_poison (c k n : Nat) : (s.setTokens c k n).poison = s.poison := rfl
@[simp] theorem State.setTokens_spoison (c k n : Nat) : (s.setTokens c k n).spoison = s.spoison := rfl
@[simp] theorem State.setTokens_pins (c k n : Nat) : (s.setTokens c k n).pins = s.pins := rfl
@[simp] theorem State.setTokens_tlb (c k n : Nat) : (s.setTokens c k n).tlb = s.tlb := rfl
@[simp] theorem State.setTokens_walks (c k n : Nat) : (s.setTokens c k n).walks = s.walks := rfl
@[simp] theorem State.setTokens_lineup (c k n : Nat) : (s.setTokens c k n).lineup = s.lineup := rfl
@[simp] theorem State.setTokens_icache (c k n : Nat) : (s.setTokens c k n).icache = s.icache := rfl
@[simp] theorem State.setTokens_asidtab (c k n : Nat) : (s.setTokens c k n).asidtab = s.asidtab := rfl
@[simp] theorem State.setTokens_partcfg (c k n : Nat) : (s.setTokens c k n).partcfg = s.partcfg := rfl
@[simp] theorem State.setTokens_qctl (c k n : Nat) : (s.setTokens c k n).qctl = s.qctl := rfl
@[simp] theorem State.setTokens_parts (c k n : Nat) : (s.setTokens c k n).parts = s.parts := rfl
@[simp] theorem State.setTokens_recs (c k n : Nat) : (s.setTokens c k n).recs = s.recs := rfl
@[simp] theorem State.setTokens_groups (c k n : Nat) : (s.setTokens c k n).groups = s.groups := rfl
@[simp] theorem State.setTokens_cmds (c k n : Nat) : (s.setTokens c k n).cmds = s.cmds := rfl
@[simp] theorem State.setTokens_seq (c k n : Nat) : (s.setTokens c k n).seq = s.seq := rfl
@[simp] theorem State.setTokens_remap (c k n : Nat) : (s.setTokens c k n).remap = s.remap := rfl
@[simp] theorem State.setTokens_err (c k n : Nat) : (s.setTokens c k n).err = s.err := rfl
@[simp] theorem State.setTokens_fp (c k n : Nat) : (s.setTokens c k n).fp = s.fp := rfl
@[simp] theorem State.setTokens_host (c k n : Nat) : (s.setTokens c k n).host = s.host := rfl
@[simp] theorem State.setTokens_code (c k n : Nat) : (s.setTokens c k n).code = s.code := rfl
@[simp] theorem State.setTokens_links (c k n : Nat) : (s.setTokens c k n).links = s.links := rfl
@[simp] theorem State.setTokens_msix (c k n : Nat) : (s.setTokens c k n).msix = s.msix := rfl
@[simp] theorem State.setTokens_out (c k n : Nat) : (s.setTokens c k n).out = s.out := rfl
@[simp] theorem State.setTokens_reqs (c k n : Nat) : (s.setTokens c k n).reqs = s.reqs := rfl
@[simp] theorem State.setTokens_halted (c k n : Nat) : (s.setTokens c k n).halted = s.halted := rfl
@[simp] theorem State.setTokens_arith (c k n : Nat) : (s.setTokens c k n).arith = s.arith := rfl
@[simp] theorem State.setTokens_fabric (c k n : Nat) : (s.setTokens c k n).fabric = s.fabric := rfl
@[simp] theorem State.setTokens_app (c k n : Nat) : (s.setTokens c k n).app = s.app := rfl
@[simp] theorem State.setTokens_harts (c k n : Nat) : (s.setTokens c k n).harts = s.harts := rfl
@[simp] theorem State.setTokens_tails (c k n : Nat) : (s.setTokens c k n).tails = s.tails := rfl

/-! ## unpoison -/

@[simp] theorem State.unpoison_agenda (a n : Nat) : (s.unpoison a n).agenda = s.agenda := rfl
@[simp] theorem State.unpoison_cur (a n : Nat) : (s.unpoison a n).cur = s.cur := rfl
@[simp] theorem State.unpoison_ir (a n : Nat) : (s.unpoison a n).ir = s.ir := rfl
@[simp] theorem State.unpoison_eager (a n : Nat) : (s.unpoison a n).eager = s.eager := rfl
@[simp] theorem State.unpoison_tick (a n : Nat) : (s.unpoison a n).tick = s.tick := rfl
@[simp] theorem State.unpoison_free (a n : Nat) : (s.unpoison a n).free = s.free := rfl
@[simp] theorem State.unpoison_mem (a n : Nat) : (s.unpoison a n).mem = s.mem := rfl
@[simp] theorem State.unpoison_under (a n : Nat) : (s.unpoison a n).under = s.under := rfl
@[simp] theorem State.unpoison_away (a n : Nat) : (s.unpoison a n).away = s.away := rfl
@[simp] theorem State.unpoison_cnt (a n : Nat) : (s.unpoison a n).cnt = s.cnt := rfl
@[simp] theorem State.unpoison_spad (a n : Nat) : (s.unpoison a n).spad = s.spad := rfl
@[simp] theorem State.unpoison_spcnt (a n : Nat) : (s.unpoison a n).spcnt = s.spcnt := rfl
@[simp] theorem State.unpoison_tok (a n : Nat) : (s.unpoison a n).tok = s.tok := rfl
@[simp] theorem State.unpoison_spoison (a n : Nat) : (s.unpoison a n).spoison = s.spoison := rfl
@[simp] theorem State.unpoison_pins (a n : Nat) : (s.unpoison a n).pins = s.pins := rfl
@[simp] theorem State.unpoison_tlb (a n : Nat) : (s.unpoison a n).tlb = s.tlb := rfl
@[simp] theorem State.unpoison_walks (a n : Nat) : (s.unpoison a n).walks = s.walks := rfl
@[simp] theorem State.unpoison_lineup (a n : Nat) : (s.unpoison a n).lineup = s.lineup := rfl
@[simp] theorem State.unpoison_icache (a n : Nat) : (s.unpoison a n).icache = s.icache := rfl
@[simp] theorem State.unpoison_asidtab (a n : Nat) : (s.unpoison a n).asidtab = s.asidtab := rfl
@[simp] theorem State.unpoison_partcfg (a n : Nat) : (s.unpoison a n).partcfg = s.partcfg := rfl
@[simp] theorem State.unpoison_qctl (a n : Nat) : (s.unpoison a n).qctl = s.qctl := rfl
@[simp] theorem State.unpoison_parts (a n : Nat) : (s.unpoison a n).parts = s.parts := rfl
@[simp] theorem State.unpoison_recs (a n : Nat) : (s.unpoison a n).recs = s.recs := rfl
@[simp] theorem State.unpoison_groups (a n : Nat) : (s.unpoison a n).groups = s.groups := rfl
@[simp] theorem State.unpoison_cmds (a n : Nat) : (s.unpoison a n).cmds = s.cmds := rfl
@[simp] theorem State.unpoison_seq (a n : Nat) : (s.unpoison a n).seq = s.seq := rfl
@[simp] theorem State.unpoison_remap (a n : Nat) : (s.unpoison a n).remap = s.remap := rfl
@[simp] theorem State.unpoison_err (a n : Nat) : (s.unpoison a n).err = s.err := rfl
@[simp] theorem State.unpoison_fp (a n : Nat) : (s.unpoison a n).fp = s.fp := rfl
@[simp] theorem State.unpoison_host (a n : Nat) : (s.unpoison a n).host = s.host := rfl
@[simp] theorem State.unpoison_code (a n : Nat) : (s.unpoison a n).code = s.code := rfl
@[simp] theorem State.unpoison_links (a n : Nat) : (s.unpoison a n).links = s.links := rfl
@[simp] theorem State.unpoison_msix (a n : Nat) : (s.unpoison a n).msix = s.msix := rfl
@[simp] theorem State.unpoison_out (a n : Nat) : (s.unpoison a n).out = s.out := rfl
@[simp] theorem State.unpoison_reqs (a n : Nat) : (s.unpoison a n).reqs = s.reqs := rfl
@[simp] theorem State.unpoison_halted (a n : Nat) : (s.unpoison a n).halted = s.halted := rfl
@[simp] theorem State.unpoison_arith (a n : Nat) : (s.unpoison a n).arith = s.arith := rfl
@[simp] theorem State.unpoison_fabric (a n : Nat) : (s.unpoison a n).fabric = s.fabric := rfl
@[simp] theorem State.unpoison_app (a n : Nat) : (s.unpoison a n).app = s.app := rfl
@[simp] theorem State.unpoison_harts (a n : Nat) : (s.unpoison a n).harts = s.harts := rfl
@[simp] theorem State.unpoison_tails (a n : Nat) : (s.unpoison a n).tails = s.tails := rfl

/-! ## unpoisonCells -/

@[simp] theorem State.unpoisonCells_agenda (l : List Nat) : (s.unpoisonCells l).agenda = s.agenda := rfl
@[simp] theorem State.unpoisonCells_cur (l : List Nat) : (s.unpoisonCells l).cur = s.cur := rfl
@[simp] theorem State.unpoisonCells_ir (l : List Nat) : (s.unpoisonCells l).ir = s.ir := rfl
@[simp] theorem State.unpoisonCells_eager (l : List Nat) : (s.unpoisonCells l).eager = s.eager := rfl
@[simp] theorem State.unpoisonCells_tick (l : List Nat) : (s.unpoisonCells l).tick = s.tick := rfl
@[simp] theorem State.unpoisonCells_free (l : List Nat) : (s.unpoisonCells l).free = s.free := rfl
@[simp] theorem State.unpoisonCells_mem (l : List Nat) : (s.unpoisonCells l).mem = s.mem := rfl
@[simp] theorem State.unpoisonCells_under (l : List Nat) : (s.unpoisonCells l).under = s.under := rfl
@[simp] theorem State.unpoisonCells_away (l : List Nat) : (s.unpoisonCells l).away = s.away := rfl
@[simp] theorem State.unpoisonCells_cnt (l : List Nat) : (s.unpoisonCells l).cnt = s.cnt := rfl
@[simp] theorem State.unpoisonCells_spad (l : List Nat) : (s.unpoisonCells l).spad = s.spad := rfl
@[simp] theorem State.unpoisonCells_spcnt (l : List Nat) : (s.unpoisonCells l).spcnt = s.spcnt := rfl
@[simp] theorem State.unpoisonCells_tok (l : List Nat) : (s.unpoisonCells l).tok = s.tok := rfl
@[simp] theorem State.unpoisonCells_spoison (l : List Nat) : (s.unpoisonCells l).spoison = s.spoison := rfl
@[simp] theorem State.unpoisonCells_pins (l : List Nat) : (s.unpoisonCells l).pins = s.pins := rfl
@[simp] theorem State.unpoisonCells_tlb (l : List Nat) : (s.unpoisonCells l).tlb = s.tlb := rfl
@[simp] theorem State.unpoisonCells_walks (l : List Nat) : (s.unpoisonCells l).walks = s.walks := rfl
@[simp] theorem State.unpoisonCells_lineup (l : List Nat) : (s.unpoisonCells l).lineup = s.lineup := rfl
@[simp] theorem State.unpoisonCells_icache (l : List Nat) : (s.unpoisonCells l).icache = s.icache := rfl
@[simp] theorem State.unpoisonCells_asidtab (l : List Nat) : (s.unpoisonCells l).asidtab = s.asidtab := rfl
@[simp] theorem State.unpoisonCells_partcfg (l : List Nat) : (s.unpoisonCells l).partcfg = s.partcfg := rfl
@[simp] theorem State.unpoisonCells_qctl (l : List Nat) : (s.unpoisonCells l).qctl = s.qctl := rfl
@[simp] theorem State.unpoisonCells_parts (l : List Nat) : (s.unpoisonCells l).parts = s.parts := rfl
@[simp] theorem State.unpoisonCells_recs (l : List Nat) : (s.unpoisonCells l).recs = s.recs := rfl
@[simp] theorem State.unpoisonCells_groups (l : List Nat) : (s.unpoisonCells l).groups = s.groups := rfl
@[simp] theorem State.unpoisonCells_cmds (l : List Nat) : (s.unpoisonCells l).cmds = s.cmds := rfl
@[simp] theorem State.unpoisonCells_seq (l : List Nat) : (s.unpoisonCells l).seq = s.seq := rfl
@[simp] theorem State.unpoisonCells_remap (l : List Nat) : (s.unpoisonCells l).remap = s.remap := rfl
@[simp] theorem State.unpoisonCells_err (l : List Nat) : (s.unpoisonCells l).err = s.err := rfl
@[simp] theorem State.unpoisonCells_fp (l : List Nat) : (s.unpoisonCells l).fp = s.fp := rfl
@[simp] theorem State.unpoisonCells_host (l : List Nat) : (s.unpoisonCells l).host = s.host := rfl
@[simp] theorem State.unpoisonCells_code (l : List Nat) : (s.unpoisonCells l).code = s.code := rfl
@[simp] theorem State.unpoisonCells_links (l : List Nat) : (s.unpoisonCells l).links = s.links := rfl
@[simp] theorem State.unpoisonCells_msix (l : List Nat) : (s.unpoisonCells l).msix = s.msix := rfl
@[simp] theorem State.unpoisonCells_out (l : List Nat) : (s.unpoisonCells l).out = s.out := rfl
@[simp] theorem State.unpoisonCells_reqs (l : List Nat) : (s.unpoisonCells l).reqs = s.reqs := rfl
@[simp] theorem State.unpoisonCells_halted (l : List Nat) : (s.unpoisonCells l).halted = s.halted := rfl
@[simp] theorem State.unpoisonCells_arith (l : List Nat) : (s.unpoisonCells l).arith = s.arith := rfl
@[simp] theorem State.unpoisonCells_fabric (l : List Nat) : (s.unpoisonCells l).fabric = s.fabric := rfl
@[simp] theorem State.unpoisonCells_app (l : List Nat) : (s.unpoisonCells l).app = s.app := rfl
@[simp] theorem State.unpoisonCells_harts (l : List Nat) : (s.unpoisonCells l).harts = s.harts := rfl
@[simp] theorem State.unpoisonCells_tails (l : List Nat) : (s.unpoisonCells l).tails = s.tails := rfl

/-! ## spUnpoison -/

@[simp] theorem State.spUnpoison_agenda (c o n : Nat) : (s.spUnpoison c o n).agenda = s.agenda := rfl
@[simp] theorem State.spUnpoison_cur (c o n : Nat) : (s.spUnpoison c o n).cur = s.cur := rfl
@[simp] theorem State.spUnpoison_ir (c o n : Nat) : (s.spUnpoison c o n).ir = s.ir := rfl
@[simp] theorem State.spUnpoison_eager (c o n : Nat) : (s.spUnpoison c o n).eager = s.eager := rfl
@[simp] theorem State.spUnpoison_tick (c o n : Nat) : (s.spUnpoison c o n).tick = s.tick := rfl
@[simp] theorem State.spUnpoison_free (c o n : Nat) : (s.spUnpoison c o n).free = s.free := rfl
@[simp] theorem State.spUnpoison_mem (c o n : Nat) : (s.spUnpoison c o n).mem = s.mem := rfl
@[simp] theorem State.spUnpoison_under (c o n : Nat) : (s.spUnpoison c o n).under = s.under := rfl
@[simp] theorem State.spUnpoison_away (c o n : Nat) : (s.spUnpoison c o n).away = s.away := rfl
@[simp] theorem State.spUnpoison_cnt (c o n : Nat) : (s.spUnpoison c o n).cnt = s.cnt := rfl
@[simp] theorem State.spUnpoison_spad (c o n : Nat) : (s.spUnpoison c o n).spad = s.spad := rfl
@[simp] theorem State.spUnpoison_spcnt (c o n : Nat) : (s.spUnpoison c o n).spcnt = s.spcnt := rfl
@[simp] theorem State.spUnpoison_tok (c o n : Nat) : (s.spUnpoison c o n).tok = s.tok := rfl
@[simp] theorem State.spUnpoison_poison (c o n : Nat) : (s.spUnpoison c o n).poison = s.poison := rfl
@[simp] theorem State.spUnpoison_pins (c o n : Nat) : (s.spUnpoison c o n).pins = s.pins := rfl
@[simp] theorem State.spUnpoison_tlb (c o n : Nat) : (s.spUnpoison c o n).tlb = s.tlb := rfl
@[simp] theorem State.spUnpoison_walks (c o n : Nat) : (s.spUnpoison c o n).walks = s.walks := rfl
@[simp] theorem State.spUnpoison_lineup (c o n : Nat) : (s.spUnpoison c o n).lineup = s.lineup := rfl
@[simp] theorem State.spUnpoison_icache (c o n : Nat) : (s.spUnpoison c o n).icache = s.icache := rfl
@[simp] theorem State.spUnpoison_asidtab (c o n : Nat) : (s.spUnpoison c o n).asidtab = s.asidtab := rfl
@[simp] theorem State.spUnpoison_partcfg (c o n : Nat) : (s.spUnpoison c o n).partcfg = s.partcfg := rfl
@[simp] theorem State.spUnpoison_qctl (c o n : Nat) : (s.spUnpoison c o n).qctl = s.qctl := rfl
@[simp] theorem State.spUnpoison_parts (c o n : Nat) : (s.spUnpoison c o n).parts = s.parts := rfl
@[simp] theorem State.spUnpoison_recs (c o n : Nat) : (s.spUnpoison c o n).recs = s.recs := rfl
@[simp] theorem State.spUnpoison_groups (c o n : Nat) : (s.spUnpoison c o n).groups = s.groups := rfl
@[simp] theorem State.spUnpoison_cmds (c o n : Nat) : (s.spUnpoison c o n).cmds = s.cmds := rfl
@[simp] theorem State.spUnpoison_seq (c o n : Nat) : (s.spUnpoison c o n).seq = s.seq := rfl
@[simp] theorem State.spUnpoison_remap (c o n : Nat) : (s.spUnpoison c o n).remap = s.remap := rfl
@[simp] theorem State.spUnpoison_err (c o n : Nat) : (s.spUnpoison c o n).err = s.err := rfl
@[simp] theorem State.spUnpoison_fp (c o n : Nat) : (s.spUnpoison c o n).fp = s.fp := rfl
@[simp] theorem State.spUnpoison_host (c o n : Nat) : (s.spUnpoison c o n).host = s.host := rfl
@[simp] theorem State.spUnpoison_code (c o n : Nat) : (s.spUnpoison c o n).code = s.code := rfl
@[simp] theorem State.spUnpoison_links (c o n : Nat) : (s.spUnpoison c o n).links = s.links := rfl
@[simp] theorem State.spUnpoison_msix (c o n : Nat) : (s.spUnpoison c o n).msix = s.msix := rfl
@[simp] theorem State.spUnpoison_out (c o n : Nat) : (s.spUnpoison c o n).out = s.out := rfl
@[simp] theorem State.spUnpoison_reqs (c o n : Nat) : (s.spUnpoison c o n).reqs = s.reqs := rfl
@[simp] theorem State.spUnpoison_halted (c o n : Nat) : (s.spUnpoison c o n).halted = s.halted := rfl
@[simp] theorem State.spUnpoison_arith (c o n : Nat) : (s.spUnpoison c o n).arith = s.arith := rfl
@[simp] theorem State.spUnpoison_fabric (c o n : Nat) : (s.spUnpoison c o n).fabric = s.fabric := rfl
@[simp] theorem State.spUnpoison_app (c o n : Nat) : (s.spUnpoison c o n).app = s.app := rfl
@[simp] theorem State.spUnpoison_harts (c o n : Nat) : (s.spUnpoison c o n).harts = s.harts := rfl
@[simp] theorem State.spUnpoison_tails (c o n : Nat) : (s.spUnpoison c o n).tails = s.tails := rfl

/-! ## spUnpoisonCells -/

@[simp] theorem State.spUnpoisonCells_agenda (c : Nat) (l : List Nat) : (s.spUnpoisonCells c l).agenda = s.agenda := rfl
@[simp] theorem State.spUnpoisonCells_cur (c : Nat) (l : List Nat) : (s.spUnpoisonCells c l).cur = s.cur := rfl
@[simp] theorem State.spUnpoisonCells_ir (c : Nat) (l : List Nat) : (s.spUnpoisonCells c l).ir = s.ir := rfl
@[simp] theorem State.spUnpoisonCells_eager (c : Nat) (l : List Nat) : (s.spUnpoisonCells c l).eager = s.eager := rfl
@[simp] theorem State.spUnpoisonCells_tick (c : Nat) (l : List Nat) : (s.spUnpoisonCells c l).tick = s.tick := rfl
@[simp] theorem State.spUnpoisonCells_free (c : Nat) (l : List Nat) : (s.spUnpoisonCells c l).free = s.free := rfl
@[simp] theorem State.spUnpoisonCells_mem (c : Nat) (l : List Nat) : (s.spUnpoisonCells c l).mem = s.mem := rfl
@[simp] theorem State.spUnpoisonCells_under (c : Nat) (l : List Nat) : (s.spUnpoisonCells c l).under = s.under := rfl
@[simp] theorem State.spUnpoisonCells_away (c : Nat) (l : List Nat) : (s.spUnpoisonCells c l).away = s.away := rfl
@[simp] theorem State.spUnpoisonCells_cnt (c : Nat) (l : List Nat) : (s.spUnpoisonCells c l).cnt = s.cnt := rfl
@[simp] theorem State.spUnpoisonCells_spad (c : Nat) (l : List Nat) : (s.spUnpoisonCells c l).spad = s.spad := rfl
@[simp] theorem State.spUnpoisonCells_spcnt (c : Nat) (l : List Nat) : (s.spUnpoisonCells c l).spcnt = s.spcnt := rfl
@[simp] theorem State.spUnpoisonCells_tok (c : Nat) (l : List Nat) : (s.spUnpoisonCells c l).tok = s.tok := rfl
@[simp] theorem State.spUnpoisonCells_poison (c : Nat) (l : List Nat) : (s.spUnpoisonCells c l).poison = s.poison := rfl
@[simp] theorem State.spUnpoisonCells_pins (c : Nat) (l : List Nat) : (s.spUnpoisonCells c l).pins = s.pins := rfl
@[simp] theorem State.spUnpoisonCells_tlb (c : Nat) (l : List Nat) : (s.spUnpoisonCells c l).tlb = s.tlb := rfl
@[simp] theorem State.spUnpoisonCells_walks (c : Nat) (l : List Nat) : (s.spUnpoisonCells c l).walks = s.walks := rfl
@[simp] theorem State.spUnpoisonCells_lineup (c : Nat) (l : List Nat) : (s.spUnpoisonCells c l).lineup = s.lineup := rfl
@[simp] theorem State.spUnpoisonCells_icache (c : Nat) (l : List Nat) : (s.spUnpoisonCells c l).icache = s.icache := rfl
@[simp] theorem State.spUnpoisonCells_asidtab (c : Nat) (l : List Nat) : (s.spUnpoisonCells c l).asidtab = s.asidtab := rfl
@[simp] theorem State.spUnpoisonCells_partcfg (c : Nat) (l : List Nat) : (s.spUnpoisonCells c l).partcfg = s.partcfg := rfl
@[simp] theorem State.spUnpoisonCells_qctl (c : Nat) (l : List Nat) : (s.spUnpoisonCells c l).qctl = s.qctl := rfl
@[simp] theorem State.spUnpoisonCells_parts (c : Nat) (l : List Nat) : (s.spUnpoisonCells c l).parts = s.parts := rfl
@[simp] theorem State.spUnpoisonCells_recs (c : Nat) (l : List Nat) : (s.spUnpoisonCells c l).recs = s.recs := rfl
@[simp] theorem State.spUnpoisonCells_groups (c : Nat) (l : List Nat) : (s.spUnpoisonCells c l).groups = s.groups := rfl
@[simp] theorem State.spUnpoisonCells_cmds (c : Nat) (l : List Nat) : (s.spUnpoisonCells c l).cmds = s.cmds := rfl
@[simp] theorem State.spUnpoisonCells_seq (c : Nat) (l : List Nat) : (s.spUnpoisonCells c l).seq = s.seq := rfl
@[simp] theorem State.spUnpoisonCells_remap (c : Nat) (l : List Nat) : (s.spUnpoisonCells c l).remap = s.remap := rfl
@[simp] theorem State.spUnpoisonCells_err (c : Nat) (l : List Nat) : (s.spUnpoisonCells c l).err = s.err := rfl
@[simp] theorem State.spUnpoisonCells_fp (c : Nat) (l : List Nat) : (s.spUnpoisonCells c l).fp = s.fp := rfl
@[simp] theorem State.spUnpoisonCells_host (c : Nat) (l : List Nat) : (s.spUnpoisonCells c l).host = s.host := rfl
@[simp] theorem State.spUnpoisonCells_code (c : Nat) (l : List Nat) : (s.spUnpoisonCells c l).code = s.code := rfl
@[simp] theorem State.spUnpoisonCells_links (c : Nat) (l : List Nat) : (s.spUnpoisonCells c l).links = s.links := rfl
@[simp] theorem State.spUnpoisonCells_msix (c : Nat) (l : List Nat) : (s.spUnpoisonCells c l).msix = s.msix := rfl
@[simp] theorem State.spUnpoisonCells_out (c : Nat) (l : List Nat) : (s.spUnpoisonCells c l).out = s.out := rfl
@[simp] theorem State.spUnpoisonCells_reqs (c : Nat) (l : List Nat) : (s.spUnpoisonCells c l).reqs = s.reqs := rfl
@[simp] theorem State.spUnpoisonCells_halted (c : Nat) (l : List Nat) : (s.spUnpoisonCells c l).halted = s.halted := rfl
@[simp] theorem State.spUnpoisonCells_arith (c : Nat) (l : List Nat) : (s.spUnpoisonCells c l).arith = s.arith := rfl
@[simp] theorem State.spUnpoisonCells_fabric (c : Nat) (l : List Nat) : (s.spUnpoisonCells c l).fabric = s.fabric := rfl
@[simp] theorem State.spUnpoisonCells_app (c : Nat) (l : List Nat) : (s.spUnpoisonCells c l).app = s.app := rfl
@[simp] theorem State.spUnpoisonCells_harts (c : Nat) (l : List Nat) : (s.spUnpoisonCells c l).harts = s.harts := rfl
@[simp] theorem State.spUnpoisonCells_tails (c : Nat) (l : List Nat) : (s.spUnpoisonCells c l).tails = s.tails := rfl

/-! ## setRemap -/

@[simp] theorem State.setRemap_agenda (g : Nat) (r : Remap) : (s.setRemap g r).agenda = s.agenda := rfl
@[simp] theorem State.setRemap_cur (g : Nat) (r : Remap) : (s.setRemap g r).cur = s.cur := rfl
@[simp] theorem State.setRemap_ir (g : Nat) (r : Remap) : (s.setRemap g r).ir = s.ir := rfl
@[simp] theorem State.setRemap_eager (g : Nat) (r : Remap) : (s.setRemap g r).eager = s.eager := rfl
@[simp] theorem State.setRemap_tick (g : Nat) (r : Remap) : (s.setRemap g r).tick = s.tick := rfl
@[simp] theorem State.setRemap_free (g : Nat) (r : Remap) : (s.setRemap g r).free = s.free := rfl
@[simp] theorem State.setRemap_mem (g : Nat) (r : Remap) : (s.setRemap g r).mem = s.mem := rfl
@[simp] theorem State.setRemap_under (g : Nat) (r : Remap) : (s.setRemap g r).under = s.under := rfl
@[simp] theorem State.setRemap_away (g : Nat) (r : Remap) : (s.setRemap g r).away = s.away := rfl
@[simp] theorem State.setRemap_cnt (g : Nat) (r : Remap) : (s.setRemap g r).cnt = s.cnt := rfl
@[simp] theorem State.setRemap_spad (g : Nat) (r : Remap) : (s.setRemap g r).spad = s.spad := rfl
@[simp] theorem State.setRemap_spcnt (g : Nat) (r : Remap) : (s.setRemap g r).spcnt = s.spcnt := rfl
@[simp] theorem State.setRemap_tok (g : Nat) (r : Remap) : (s.setRemap g r).tok = s.tok := rfl
@[simp] theorem State.setRemap_poison (g : Nat) (r : Remap) : (s.setRemap g r).poison = s.poison := rfl
@[simp] theorem State.setRemap_spoison (g : Nat) (r : Remap) : (s.setRemap g r).spoison = s.spoison := rfl
@[simp] theorem State.setRemap_pins (g : Nat) (r : Remap) : (s.setRemap g r).pins = s.pins := rfl
@[simp] theorem State.setRemap_tlb (g : Nat) (r : Remap) : (s.setRemap g r).tlb = s.tlb := rfl
@[simp] theorem State.setRemap_walks (g : Nat) (r : Remap) : (s.setRemap g r).walks = s.walks := rfl
@[simp] theorem State.setRemap_lineup (g : Nat) (r : Remap) : (s.setRemap g r).lineup = s.lineup := rfl
@[simp] theorem State.setRemap_icache (g : Nat) (r : Remap) : (s.setRemap g r).icache = s.icache := rfl
@[simp] theorem State.setRemap_asidtab (g : Nat) (r : Remap) : (s.setRemap g r).asidtab = s.asidtab := rfl
@[simp] theorem State.setRemap_partcfg (g : Nat) (r : Remap) : (s.setRemap g r).partcfg = s.partcfg := rfl
@[simp] theorem State.setRemap_qctl (g : Nat) (r : Remap) : (s.setRemap g r).qctl = s.qctl := rfl
@[simp] theorem State.setRemap_parts (g : Nat) (r : Remap) : (s.setRemap g r).parts = s.parts := rfl
@[simp] theorem State.setRemap_recs (g : Nat) (r : Remap) : (s.setRemap g r).recs = s.recs := rfl
@[simp] theorem State.setRemap_groups (g : Nat) (r : Remap) : (s.setRemap g r).groups = s.groups := rfl
@[simp] theorem State.setRemap_cmds (g : Nat) (r : Remap) : (s.setRemap g r).cmds = s.cmds := rfl
@[simp] theorem State.setRemap_seq (g : Nat) (r : Remap) : (s.setRemap g r).seq = s.seq := rfl
@[simp] theorem State.setRemap_remap (g : Nat) (r : Remap) : (s.setRemap g r).remap = assocPut Remap.reset s.remap g r := rfl
@[simp] theorem State.setRemap_err (g : Nat) (r : Remap) : (s.setRemap g r).err = s.err := rfl
@[simp] theorem State.setRemap_fp (g : Nat) (r : Remap) : (s.setRemap g r).fp = s.fp := rfl
@[simp] theorem State.setRemap_host (g : Nat) (r : Remap) : (s.setRemap g r).host = s.host := rfl
@[simp] theorem State.setRemap_code (g : Nat) (r : Remap) : (s.setRemap g r).code = s.code := rfl
@[simp] theorem State.setRemap_links (g : Nat) (r : Remap) : (s.setRemap g r).links = s.links := rfl
@[simp] theorem State.setRemap_msix (g : Nat) (r : Remap) : (s.setRemap g r).msix = s.msix := rfl
@[simp] theorem State.setRemap_out (g : Nat) (r : Remap) : (s.setRemap g r).out = s.out := rfl
@[simp] theorem State.setRemap_reqs (g : Nat) (r : Remap) : (s.setRemap g r).reqs = s.reqs := rfl
@[simp] theorem State.setRemap_halted (g : Nat) (r : Remap) : (s.setRemap g r).halted = s.halted := rfl
@[simp] theorem State.setRemap_arith (g : Nat) (r : Remap) : (s.setRemap g r).arith = s.arith := rfl
@[simp] theorem State.setRemap_fabric (g : Nat) (r : Remap) : (s.setRemap g r).fabric = s.fabric := rfl
@[simp] theorem State.setRemap_app (g : Nat) (r : Remap) : (s.setRemap g r).app = s.app := rfl
@[simp] theorem State.setRemap_harts (g : Nat) (r : Remap) : (s.setRemap g r).harts = s.harts := rfl
@[simp] theorem State.setRemap_tails (g : Nat) (r : Remap) : (s.setRemap g r).tails = s.tails := rfl

/-! ## setRec -/

@[simp] theorem State.setRec_agenda (r : Rec) : (s.setRec r).agenda = s.agenda := rfl
@[simp] theorem State.setRec_cur (r : Rec) : (s.setRec r).cur = s.cur := rfl
@[simp] theorem State.setRec_ir (r : Rec) : (s.setRec r).ir = s.ir := rfl
@[simp] theorem State.setRec_eager (r : Rec) : (s.setRec r).eager = s.eager := rfl
@[simp] theorem State.setRec_tick (r : Rec) : (s.setRec r).tick = s.tick := rfl
@[simp] theorem State.setRec_free (r : Rec) : (s.setRec r).free = s.free := rfl
@[simp] theorem State.setRec_mem (r : Rec) : (s.setRec r).mem = s.mem := rfl
@[simp] theorem State.setRec_under (r : Rec) : (s.setRec r).under = s.under := rfl
@[simp] theorem State.setRec_away (r : Rec) : (s.setRec r).away = s.away := rfl
@[simp] theorem State.setRec_cnt (r : Rec) : (s.setRec r).cnt = s.cnt := rfl
@[simp] theorem State.setRec_spad (r : Rec) : (s.setRec r).spad = s.spad := rfl
@[simp] theorem State.setRec_spcnt (r : Rec) : (s.setRec r).spcnt = s.spcnt := rfl
@[simp] theorem State.setRec_tok (r : Rec) : (s.setRec r).tok = s.tok := rfl
@[simp] theorem State.setRec_poison (r : Rec) : (s.setRec r).poison = s.poison := rfl
@[simp] theorem State.setRec_spoison (r : Rec) : (s.setRec r).spoison = s.spoison := rfl
@[simp] theorem State.setRec_pins (r : Rec) : (s.setRec r).pins = s.pins := rfl
@[simp] theorem State.setRec_tlb (r : Rec) : (s.setRec r).tlb = s.tlb := rfl
@[simp] theorem State.setRec_walks (r : Rec) : (s.setRec r).walks = s.walks := rfl
@[simp] theorem State.setRec_lineup (r : Rec) : (s.setRec r).lineup = s.lineup := rfl
@[simp] theorem State.setRec_icache (r : Rec) : (s.setRec r).icache = s.icache := rfl
@[simp] theorem State.setRec_asidtab (r : Rec) : (s.setRec r).asidtab = s.asidtab := rfl
@[simp] theorem State.setRec_partcfg (r : Rec) : (s.setRec r).partcfg = s.partcfg := rfl
@[simp] theorem State.setRec_qctl (r : Rec) : (s.setRec r).qctl = s.qctl := rfl
@[simp] theorem State.setRec_parts (r : Rec) : (s.setRec r).parts = s.parts := rfl
@[simp] theorem State.setRec_groups (r : Rec) : (s.setRec r).groups = s.groups := rfl
@[simp] theorem State.setRec_cmds (r : Rec) : (s.setRec r).cmds = s.cmds := rfl
@[simp] theorem State.setRec_seq (r : Rec) : (s.setRec r).seq = s.seq := rfl
@[simp] theorem State.setRec_remap (r : Rec) : (s.setRec r).remap = s.remap := rfl
@[simp] theorem State.setRec_err (r : Rec) : (s.setRec r).err = s.err := rfl
@[simp] theorem State.setRec_fp (r : Rec) : (s.setRec r).fp = s.fp := rfl
@[simp] theorem State.setRec_host (r : Rec) : (s.setRec r).host = s.host := rfl
@[simp] theorem State.setRec_code (r : Rec) : (s.setRec r).code = s.code := rfl
@[simp] theorem State.setRec_links (r : Rec) : (s.setRec r).links = s.links := rfl
@[simp] theorem State.setRec_msix (r : Rec) : (s.setRec r).msix = s.msix := rfl
@[simp] theorem State.setRec_out (r : Rec) : (s.setRec r).out = s.out := rfl
@[simp] theorem State.setRec_reqs (r : Rec) : (s.setRec r).reqs = s.reqs := rfl
@[simp] theorem State.setRec_halted (r : Rec) : (s.setRec r).halted = s.halted := rfl
@[simp] theorem State.setRec_arith (r : Rec) : (s.setRec r).arith = s.arith := rfl
@[simp] theorem State.setRec_fabric (r : Rec) : (s.setRec r).fabric = s.fabric := rfl
@[simp] theorem State.setRec_app (r : Rec) : (s.setRec r).app = s.app := rfl
@[simp] theorem State.setRec_harts (r : Rec) : (s.setRec r).harts = s.harts := rfl
@[simp] theorem State.setRec_tails (r : Rec) : (s.setRec r).tails = s.tails := rfl

/-! ## delRec -/

@[simp] theorem State.delRec_agenda (p l : Nat) : (s.delRec p l).agenda = s.agenda := rfl
@[simp] theorem State.delRec_cur (p l : Nat) : (s.delRec p l).cur = s.cur := rfl
@[simp] theorem State.delRec_ir (p l : Nat) : (s.delRec p l).ir = s.ir := rfl
@[simp] theorem State.delRec_eager (p l : Nat) : (s.delRec p l).eager = s.eager := rfl
@[simp] theorem State.delRec_tick (p l : Nat) : (s.delRec p l).tick = s.tick := rfl
@[simp] theorem State.delRec_free (p l : Nat) : (s.delRec p l).free = s.free := rfl
@[simp] theorem State.delRec_mem (p l : Nat) : (s.delRec p l).mem = s.mem := rfl
@[simp] theorem State.delRec_under (p l : Nat) : (s.delRec p l).under = s.under := rfl
@[simp] theorem State.delRec_away (p l : Nat) : (s.delRec p l).away = s.away := rfl
@[simp] theorem State.delRec_cnt (p l : Nat) : (s.delRec p l).cnt = s.cnt := rfl
@[simp] theorem State.delRec_spad (p l : Nat) : (s.delRec p l).spad = s.spad := rfl
@[simp] theorem State.delRec_spcnt (p l : Nat) : (s.delRec p l).spcnt = s.spcnt := rfl
@[simp] theorem State.delRec_tok (p l : Nat) : (s.delRec p l).tok = s.tok := rfl
@[simp] theorem State.delRec_poison (p l : Nat) : (s.delRec p l).poison = s.poison := rfl
@[simp] theorem State.delRec_spoison (p l : Nat) : (s.delRec p l).spoison = s.spoison := rfl
@[simp] theorem State.delRec_pins (p l : Nat) : (s.delRec p l).pins = s.pins := rfl
@[simp] theorem State.delRec_tlb (p l : Nat) : (s.delRec p l).tlb = s.tlb := rfl
@[simp] theorem State.delRec_walks (p l : Nat) : (s.delRec p l).walks = s.walks := rfl
@[simp] theorem State.delRec_lineup (p l : Nat) : (s.delRec p l).lineup = s.lineup := rfl
@[simp] theorem State.delRec_icache (p l : Nat) : (s.delRec p l).icache = s.icache := rfl
@[simp] theorem State.delRec_asidtab (p l : Nat) : (s.delRec p l).asidtab = s.asidtab := rfl
@[simp] theorem State.delRec_partcfg (p l : Nat) : (s.delRec p l).partcfg = s.partcfg := rfl
@[simp] theorem State.delRec_qctl (p l : Nat) : (s.delRec p l).qctl = s.qctl := rfl
@[simp] theorem State.delRec_parts (p l : Nat) : (s.delRec p l).parts = s.parts := rfl
@[simp] theorem State.delRec_groups (p l : Nat) : (s.delRec p l).groups = s.groups := rfl
@[simp] theorem State.delRec_cmds (p l : Nat) : (s.delRec p l).cmds = s.cmds := rfl
@[simp] theorem State.delRec_seq (p l : Nat) : (s.delRec p l).seq = s.seq := rfl
@[simp] theorem State.delRec_remap (p l : Nat) : (s.delRec p l).remap = s.remap := rfl
@[simp] theorem State.delRec_err (p l : Nat) : (s.delRec p l).err = s.err := rfl
@[simp] theorem State.delRec_fp (p l : Nat) : (s.delRec p l).fp = s.fp := rfl
@[simp] theorem State.delRec_host (p l : Nat) : (s.delRec p l).host = s.host := rfl
@[simp] theorem State.delRec_code (p l : Nat) : (s.delRec p l).code = s.code := rfl
@[simp] theorem State.delRec_links (p l : Nat) : (s.delRec p l).links = s.links := rfl
@[simp] theorem State.delRec_msix (p l : Nat) : (s.delRec p l).msix = s.msix := rfl
@[simp] theorem State.delRec_out (p l : Nat) : (s.delRec p l).out = s.out := rfl
@[simp] theorem State.delRec_reqs (p l : Nat) : (s.delRec p l).reqs = s.reqs := rfl
@[simp] theorem State.delRec_halted (p l : Nat) : (s.delRec p l).halted = s.halted := rfl
@[simp] theorem State.delRec_arith (p l : Nat) : (s.delRec p l).arith = s.arith := rfl
@[simp] theorem State.delRec_fabric (p l : Nat) : (s.delRec p l).fabric = s.fabric := rfl
@[simp] theorem State.delRec_app (p l : Nat) : (s.delRec p l).app = s.app := rfl
@[simp] theorem State.delRec_harts (p l : Nat) : (s.delRec p l).harts = s.harts := rfl
@[simp] theorem State.delRec_tails (p l : Nat) : (s.delRec p l).tails = s.tails := rfl

/-! ## setLink -/

@[simp] theorem State.setLink_agenda (p : Nat) (l : Link) : (s.setLink p l).agenda = s.agenda := rfl
@[simp] theorem State.setLink_cur (p : Nat) (l : Link) : (s.setLink p l).cur = s.cur := rfl
@[simp] theorem State.setLink_ir (p : Nat) (l : Link) : (s.setLink p l).ir = s.ir := rfl
@[simp] theorem State.setLink_eager (p : Nat) (l : Link) : (s.setLink p l).eager = s.eager := rfl
@[simp] theorem State.setLink_tick (p : Nat) (l : Link) : (s.setLink p l).tick = s.tick := rfl
@[simp] theorem State.setLink_free (p : Nat) (l : Link) : (s.setLink p l).free = s.free := rfl
@[simp] theorem State.setLink_mem (p : Nat) (l : Link) : (s.setLink p l).mem = s.mem := rfl
@[simp] theorem State.setLink_under (p : Nat) (l : Link) : (s.setLink p l).under = s.under := rfl
@[simp] theorem State.setLink_away (p : Nat) (l : Link) : (s.setLink p l).away = s.away := rfl
@[simp] theorem State.setLink_cnt (p : Nat) (l : Link) : (s.setLink p l).cnt = s.cnt := rfl
@[simp] theorem State.setLink_spad (p : Nat) (l : Link) : (s.setLink p l).spad = s.spad := rfl
@[simp] theorem State.setLink_spcnt (p : Nat) (l : Link) : (s.setLink p l).spcnt = s.spcnt := rfl
@[simp] theorem State.setLink_tok (p : Nat) (l : Link) : (s.setLink p l).tok = s.tok := rfl
@[simp] theorem State.setLink_poison (p : Nat) (l : Link) : (s.setLink p l).poison = s.poison := rfl
@[simp] theorem State.setLink_spoison (p : Nat) (l : Link) : (s.setLink p l).spoison = s.spoison := rfl
@[simp] theorem State.setLink_pins (p : Nat) (l : Link) : (s.setLink p l).pins = s.pins := rfl
@[simp] theorem State.setLink_tlb (p : Nat) (l : Link) : (s.setLink p l).tlb = s.tlb := rfl
@[simp] theorem State.setLink_walks (p : Nat) (l : Link) : (s.setLink p l).walks = s.walks := rfl
@[simp] theorem State.setLink_lineup (p : Nat) (l : Link) : (s.setLink p l).lineup = s.lineup := rfl
@[simp] theorem State.setLink_icache (p : Nat) (l : Link) : (s.setLink p l).icache = s.icache := rfl
@[simp] theorem State.setLink_asidtab (p : Nat) (l : Link) : (s.setLink p l).asidtab = s.asidtab := rfl
@[simp] theorem State.setLink_partcfg (p : Nat) (l : Link) : (s.setLink p l).partcfg = s.partcfg := rfl
@[simp] theorem State.setLink_qctl (p : Nat) (l : Link) : (s.setLink p l).qctl = s.qctl := rfl
@[simp] theorem State.setLink_parts (p : Nat) (l : Link) : (s.setLink p l).parts = s.parts := rfl
@[simp] theorem State.setLink_recs (p : Nat) (l : Link) : (s.setLink p l).recs = s.recs := rfl
@[simp] theorem State.setLink_groups (p : Nat) (l : Link) : (s.setLink p l).groups = s.groups := rfl
@[simp] theorem State.setLink_cmds (p : Nat) (l : Link) : (s.setLink p l).cmds = s.cmds := rfl
@[simp] theorem State.setLink_seq (p : Nat) (l : Link) : (s.setLink p l).seq = s.seq := rfl
@[simp] theorem State.setLink_remap (p : Nat) (l : Link) : (s.setLink p l).remap = s.remap := rfl
@[simp] theorem State.setLink_err (p : Nat) (l : Link) : (s.setLink p l).err = s.err := rfl
@[simp] theorem State.setLink_fp (p : Nat) (l : Link) : (s.setLink p l).fp = s.fp := rfl
@[simp] theorem State.setLink_host (p : Nat) (l : Link) : (s.setLink p l).host = s.host := rfl
@[simp] theorem State.setLink_code (p : Nat) (l : Link) : (s.setLink p l).code = s.code := rfl
@[simp] theorem State.setLink_links (p : Nat) (l : Link) : (s.setLink p l).links = assocPut Link.reset s.links p l := rfl
@[simp] theorem State.setLink_msix (p : Nat) (l : Link) : (s.setLink p l).msix = s.msix := rfl
@[simp] theorem State.setLink_out (p : Nat) (l : Link) : (s.setLink p l).out = s.out := rfl
@[simp] theorem State.setLink_reqs (p : Nat) (l : Link) : (s.setLink p l).reqs = s.reqs := rfl
@[simp] theorem State.setLink_halted (p : Nat) (l : Link) : (s.setLink p l).halted = s.halted := rfl
@[simp] theorem State.setLink_arith (p : Nat) (l : Link) : (s.setLink p l).arith = s.arith := rfl
@[simp] theorem State.setLink_fabric (p : Nat) (l : Link) : (s.setLink p l).fabric = s.fabric := rfl
@[simp] theorem State.setLink_app (p : Nat) (l : Link) : (s.setLink p l).app = s.app := rfl
@[simp] theorem State.setLink_harts (p : Nat) (l : Link) : (s.setLink p l).harts = s.harts := rfl
@[simp] theorem State.setLink_tails (p : Nat) (l : Link) : (s.setLink p l).tails = s.tails := rfl

/-! ## respond -/

@[simp] theorem State.respond_agenda (a : Nat) (d : List Byte) (k : OutKind) : (s.respond a d k).agenda = s.agenda := rfl
@[simp] theorem State.respond_cur (a : Nat) (d : List Byte) (k : OutKind) : (s.respond a d k).cur = s.cur := rfl
@[simp] theorem State.respond_ir (a : Nat) (d : List Byte) (k : OutKind) : (s.respond a d k).ir = s.ir := rfl
@[simp] theorem State.respond_eager (a : Nat) (d : List Byte) (k : OutKind) : (s.respond a d k).eager = s.eager := rfl
@[simp] theorem State.respond_tick (a : Nat) (d : List Byte) (k : OutKind) : (s.respond a d k).tick = s.tick := rfl
@[simp] theorem State.respond_free (a : Nat) (d : List Byte) (k : OutKind) : (s.respond a d k).free = s.free := rfl
@[simp] theorem State.respond_mem (a : Nat) (d : List Byte) (k : OutKind) : (s.respond a d k).mem = s.mem := rfl
@[simp] theorem State.respond_under (a : Nat) (d : List Byte) (k : OutKind) : (s.respond a d k).under = s.under := rfl
@[simp] theorem State.respond_away (a : Nat) (d : List Byte) (k : OutKind) : (s.respond a d k).away = s.away := rfl
@[simp] theorem State.respond_cnt (a : Nat) (d : List Byte) (k : OutKind) : (s.respond a d k).cnt = s.cnt := rfl
@[simp] theorem State.respond_spad (a : Nat) (d : List Byte) (k : OutKind) : (s.respond a d k).spad = s.spad := rfl
@[simp] theorem State.respond_spcnt (a : Nat) (d : List Byte) (k : OutKind) : (s.respond a d k).spcnt = s.spcnt := rfl
@[simp] theorem State.respond_tok (a : Nat) (d : List Byte) (k : OutKind) : (s.respond a d k).tok = s.tok := rfl
@[simp] theorem State.respond_poison (a : Nat) (d : List Byte) (k : OutKind) : (s.respond a d k).poison = s.poison := rfl
@[simp] theorem State.respond_spoison (a : Nat) (d : List Byte) (k : OutKind) : (s.respond a d k).spoison = s.spoison := rfl
@[simp] theorem State.respond_pins (a : Nat) (d : List Byte) (k : OutKind) : (s.respond a d k).pins = s.pins := rfl
@[simp] theorem State.respond_tlb (a : Nat) (d : List Byte) (k : OutKind) : (s.respond a d k).tlb = s.tlb := rfl
@[simp] theorem State.respond_walks (a : Nat) (d : List Byte) (k : OutKind) : (s.respond a d k).walks = s.walks := rfl
@[simp] theorem State.respond_lineup (a : Nat) (d : List Byte) (k : OutKind) : (s.respond a d k).lineup = s.lineup := rfl
@[simp] theorem State.respond_icache (a : Nat) (d : List Byte) (k : OutKind) : (s.respond a d k).icache = s.icache := rfl
@[simp] theorem State.respond_asidtab (a : Nat) (d : List Byte) (k : OutKind) : (s.respond a d k).asidtab = s.asidtab := rfl
@[simp] theorem State.respond_partcfg (a : Nat) (d : List Byte) (k : OutKind) : (s.respond a d k).partcfg = s.partcfg := rfl
@[simp] theorem State.respond_qctl (a : Nat) (d : List Byte) (k : OutKind) : (s.respond a d k).qctl = s.qctl := rfl
@[simp] theorem State.respond_parts (a : Nat) (d : List Byte) (k : OutKind) : (s.respond a d k).parts = s.parts := rfl
@[simp] theorem State.respond_recs (a : Nat) (d : List Byte) (k : OutKind) : (s.respond a d k).recs = s.recs := rfl
@[simp] theorem State.respond_groups (a : Nat) (d : List Byte) (k : OutKind) : (s.respond a d k).groups = s.groups := rfl
@[simp] theorem State.respond_cmds (a : Nat) (d : List Byte) (k : OutKind) : (s.respond a d k).cmds = s.cmds := rfl
@[simp] theorem State.respond_seq (a : Nat) (d : List Byte) (k : OutKind) : (s.respond a d k).seq = s.seq := rfl
@[simp] theorem State.respond_remap (a : Nat) (d : List Byte) (k : OutKind) : (s.respond a d k).remap = s.remap := rfl
@[simp] theorem State.respond_err (a : Nat) (d : List Byte) (k : OutKind) : (s.respond a d k).err = s.err := rfl
@[simp] theorem State.respond_fp (a : Nat) (d : List Byte) (k : OutKind) : (s.respond a d k).fp = s.fp := rfl
@[simp] theorem State.respond_host (a : Nat) (d : List Byte) (k : OutKind) : (s.respond a d k).host = s.host := rfl
@[simp] theorem State.respond_code (a : Nat) (d : List Byte) (k : OutKind) : (s.respond a d k).code = s.code := rfl
@[simp] theorem State.respond_links (a : Nat) (d : List Byte) (k : OutKind) : (s.respond a d k).links = s.links := rfl
@[simp] theorem State.respond_msix (a : Nat) (d : List Byte) (k : OutKind) : (s.respond a d k).msix = s.msix := rfl
@[simp] theorem State.respond_out (a : Nat) (d : List Byte) (k : OutKind) : (s.respond a d k).out = s.out ++ [⟨a, d, k⟩] := rfl
@[simp] theorem State.respond_reqs (a : Nat) (d : List Byte) (k : OutKind) : (s.respond a d k).reqs = s.reqs := rfl
@[simp] theorem State.respond_halted (a : Nat) (d : List Byte) (k : OutKind) : (s.respond a d k).halted = s.halted := rfl
@[simp] theorem State.respond_arith (a : Nat) (d : List Byte) (k : OutKind) : (s.respond a d k).arith = s.arith := rfl
@[simp] theorem State.respond_fabric (a : Nat) (d : List Byte) (k : OutKind) : (s.respond a d k).fabric = s.fabric := rfl
@[simp] theorem State.respond_app (a : Nat) (d : List Byte) (k : OutKind) : (s.respond a d k).app = s.app := rfl
@[simp] theorem State.respond_harts (a : Nat) (d : List Byte) (k : OutKind) : (s.respond a d k).harts = s.harts := rfl
@[simp] theorem State.respond_tails (a : Nat) (d : List Byte) (k : OutKind) : (s.respond a d k).tails = s.tails := rfl

/-! ## linkOut -/

@[simp] theorem State.linkOut_agenda (p : Nat) (k : OutKind) (q : List Nat) : (s.linkOut p k q).agenda = s.agenda := rfl
@[simp] theorem State.linkOut_cur (p : Nat) (k : OutKind) (q : List Nat) : (s.linkOut p k q).cur = s.cur := rfl
@[simp] theorem State.linkOut_ir (p : Nat) (k : OutKind) (q : List Nat) : (s.linkOut p k q).ir = s.ir := rfl
@[simp] theorem State.linkOut_eager (p : Nat) (k : OutKind) (q : List Nat) : (s.linkOut p k q).eager = s.eager := rfl
@[simp] theorem State.linkOut_tick (p : Nat) (k : OutKind) (q : List Nat) : (s.linkOut p k q).tick = s.tick := rfl
@[simp] theorem State.linkOut_free (p : Nat) (k : OutKind) (q : List Nat) : (s.linkOut p k q).free = s.free := rfl
@[simp] theorem State.linkOut_mem (p : Nat) (k : OutKind) (q : List Nat) : (s.linkOut p k q).mem = s.mem := rfl
@[simp] theorem State.linkOut_under (p : Nat) (k : OutKind) (q : List Nat) : (s.linkOut p k q).under = s.under := rfl
@[simp] theorem State.linkOut_away (p : Nat) (k : OutKind) (q : List Nat) : (s.linkOut p k q).away = s.away := rfl
@[simp] theorem State.linkOut_cnt (p : Nat) (k : OutKind) (q : List Nat) : (s.linkOut p k q).cnt = s.cnt := rfl
@[simp] theorem State.linkOut_spad (p : Nat) (k : OutKind) (q : List Nat) : (s.linkOut p k q).spad = s.spad := rfl
@[simp] theorem State.linkOut_spcnt (p : Nat) (k : OutKind) (q : List Nat) : (s.linkOut p k q).spcnt = s.spcnt := rfl
@[simp] theorem State.linkOut_tok (p : Nat) (k : OutKind) (q : List Nat) : (s.linkOut p k q).tok = s.tok := rfl
@[simp] theorem State.linkOut_poison (p : Nat) (k : OutKind) (q : List Nat) : (s.linkOut p k q).poison = s.poison := rfl
@[simp] theorem State.linkOut_spoison (p : Nat) (k : OutKind) (q : List Nat) : (s.linkOut p k q).spoison = s.spoison := rfl
@[simp] theorem State.linkOut_pins (p : Nat) (k : OutKind) (q : List Nat) : (s.linkOut p k q).pins = s.pins := rfl
@[simp] theorem State.linkOut_tlb (p : Nat) (k : OutKind) (q : List Nat) : (s.linkOut p k q).tlb = s.tlb := rfl
@[simp] theorem State.linkOut_walks (p : Nat) (k : OutKind) (q : List Nat) : (s.linkOut p k q).walks = s.walks := rfl
@[simp] theorem State.linkOut_lineup (p : Nat) (k : OutKind) (q : List Nat) : (s.linkOut p k q).lineup = s.lineup := rfl
@[simp] theorem State.linkOut_icache (p : Nat) (k : OutKind) (q : List Nat) : (s.linkOut p k q).icache = s.icache := rfl
@[simp] theorem State.linkOut_asidtab (p : Nat) (k : OutKind) (q : List Nat) : (s.linkOut p k q).asidtab = s.asidtab := rfl
@[simp] theorem State.linkOut_partcfg (p : Nat) (k : OutKind) (q : List Nat) : (s.linkOut p k q).partcfg = s.partcfg := rfl
@[simp] theorem State.linkOut_qctl (p : Nat) (k : OutKind) (q : List Nat) : (s.linkOut p k q).qctl = s.qctl := rfl
@[simp] theorem State.linkOut_parts (p : Nat) (k : OutKind) (q : List Nat) : (s.linkOut p k q).parts = s.parts := rfl
@[simp] theorem State.linkOut_recs (p : Nat) (k : OutKind) (q : List Nat) : (s.linkOut p k q).recs = s.recs := rfl
@[simp] theorem State.linkOut_groups (p : Nat) (k : OutKind) (q : List Nat) : (s.linkOut p k q).groups = s.groups := rfl
@[simp] theorem State.linkOut_cmds (p : Nat) (k : OutKind) (q : List Nat) : (s.linkOut p k q).cmds = s.cmds := rfl
@[simp] theorem State.linkOut_seq (p : Nat) (k : OutKind) (q : List Nat) : (s.linkOut p k q).seq = s.seq := rfl
@[simp] theorem State.linkOut_remap (p : Nat) (k : OutKind) (q : List Nat) : (s.linkOut p k q).remap = s.remap := rfl
@[simp] theorem State.linkOut_err (p : Nat) (k : OutKind) (q : List Nat) : (s.linkOut p k q).err = s.err := rfl
@[simp] theorem State.linkOut_fp (p : Nat) (k : OutKind) (q : List Nat) : (s.linkOut p k q).fp = s.fp := rfl
@[simp] theorem State.linkOut_host (p : Nat) (k : OutKind) (q : List Nat) : (s.linkOut p k q).host = s.host := rfl
@[simp] theorem State.linkOut_code (p : Nat) (k : OutKind) (q : List Nat) : (s.linkOut p k q).code = s.code := rfl
@[simp] theorem State.linkOut_links (p : Nat) (k : OutKind) (q : List Nat) : (s.linkOut p k q).links = s.links := rfl
@[simp] theorem State.linkOut_msix (p : Nat) (k : OutKind) (q : List Nat) : (s.linkOut p k q).msix = s.msix := rfl
@[simp] theorem State.linkOut_reqs (p : Nat) (k : OutKind) (q : List Nat) : (s.linkOut p k q).reqs = s.reqs := rfl
@[simp] theorem State.linkOut_halted (p : Nat) (k : OutKind) (q : List Nat) : (s.linkOut p k q).halted = s.halted := rfl
@[simp] theorem State.linkOut_arith (p : Nat) (k : OutKind) (q : List Nat) : (s.linkOut p k q).arith = s.arith := rfl
@[simp] theorem State.linkOut_fabric (p : Nat) (k : OutKind) (q : List Nat) : (s.linkOut p k q).fabric = s.fabric := rfl
@[simp] theorem State.linkOut_app (p : Nat) (k : OutKind) (q : List Nat) : (s.linkOut p k q).app = s.app := rfl
@[simp] theorem State.linkOut_harts (p : Nat) (k : OutKind) (q : List Nat) : (s.linkOut p k q).harts = s.harts := rfl
@[simp] theorem State.linkOut_tails (p : Nat) (k : OutKind) (q : List Nat) : (s.linkOut p k q).tails = s.tails := rfl

/-! ## fetched -/

@[simp] theorem State.fetched_agenda (l : Nat) : (s.fetched l).agenda = s.agenda := rfl
@[simp] theorem State.fetched_cur (l : Nat) : (s.fetched l).cur = s.cur := rfl
@[simp] theorem State.fetched_ir (l : Nat) : (s.fetched l).ir = s.ir := rfl
@[simp] theorem State.fetched_eager (l : Nat) : (s.fetched l).eager = s.eager := rfl
@[simp] theorem State.fetched_tick (l : Nat) : (s.fetched l).tick = s.tick := rfl
@[simp] theorem State.fetched_free (l : Nat) : (s.fetched l).free = s.free := rfl
@[simp] theorem State.fetched_mem (l : Nat) : (s.fetched l).mem = s.mem := rfl
@[simp] theorem State.fetched_under (l : Nat) : (s.fetched l).under = s.under := rfl
@[simp] theorem State.fetched_cnt (l : Nat) : (s.fetched l).cnt = s.cnt := rfl
@[simp] theorem State.fetched_spad (l : Nat) : (s.fetched l).spad = s.spad := rfl
@[simp] theorem State.fetched_spcnt (l : Nat) : (s.fetched l).spcnt = s.spcnt := rfl
@[simp] theorem State.fetched_tok (l : Nat) : (s.fetched l).tok = s.tok := rfl
@[simp] theorem State.fetched_poison (l : Nat) : (s.fetched l).poison = s.poison := rfl
@[simp] theorem State.fetched_spoison (l : Nat) : (s.fetched l).spoison = s.spoison := rfl
@[simp] theorem State.fetched_pins (l : Nat) : (s.fetched l).pins = s.pins := rfl
@[simp] theorem State.fetched_tlb (l : Nat) : (s.fetched l).tlb = s.tlb := rfl
@[simp] theorem State.fetched_walks (l : Nat) : (s.fetched l).walks = s.walks := rfl
@[simp] theorem State.fetched_lineup (l : Nat) : (s.fetched l).lineup = s.lineup := rfl
@[simp] theorem State.fetched_icache (l : Nat) : (s.fetched l).icache = s.icache := rfl
@[simp] theorem State.fetched_asidtab (l : Nat) : (s.fetched l).asidtab = s.asidtab := rfl
@[simp] theorem State.fetched_partcfg (l : Nat) : (s.fetched l).partcfg = s.partcfg := rfl
@[simp] theorem State.fetched_qctl (l : Nat) : (s.fetched l).qctl = s.qctl := rfl
@[simp] theorem State.fetched_parts (l : Nat) : (s.fetched l).parts = s.parts := rfl
@[simp] theorem State.fetched_recs (l : Nat) : (s.fetched l).recs = s.recs := rfl
@[simp] theorem State.fetched_groups (l : Nat) : (s.fetched l).groups = s.groups := rfl
@[simp] theorem State.fetched_cmds (l : Nat) : (s.fetched l).cmds = s.cmds := rfl
@[simp] theorem State.fetched_seq (l : Nat) : (s.fetched l).seq = s.seq := rfl
@[simp] theorem State.fetched_remap (l : Nat) : (s.fetched l).remap = s.remap := rfl
@[simp] theorem State.fetched_err (l : Nat) : (s.fetched l).err = s.err := rfl
@[simp] theorem State.fetched_fp (l : Nat) : (s.fetched l).fp = s.fp := rfl
@[simp] theorem State.fetched_host (l : Nat) : (s.fetched l).host = s.host := rfl
@[simp] theorem State.fetched_code (l : Nat) : (s.fetched l).code = s.code := rfl
@[simp] theorem State.fetched_links (l : Nat) : (s.fetched l).links = s.links := rfl
@[simp] theorem State.fetched_msix (l : Nat) : (s.fetched l).msix = s.msix := rfl
@[simp] theorem State.fetched_out (l : Nat) : (s.fetched l).out = s.out := rfl
@[simp] theorem State.fetched_reqs (l : Nat) : (s.fetched l).reqs = s.reqs := rfl
@[simp] theorem State.fetched_halted (l : Nat) : (s.fetched l).halted = s.halted := rfl
@[simp] theorem State.fetched_arith (l : Nat) : (s.fetched l).arith = s.arith := rfl
@[simp] theorem State.fetched_fabric (l : Nat) : (s.fetched l).fabric = s.fabric := rfl
@[simp] theorem State.fetched_app (l : Nat) : (s.fetched l).app = s.app := rfl
@[simp] theorem State.fetched_harts (l : Nat) : (s.fetched l).harts = s.harts := rfl
@[simp] theorem State.fetched_tails (l : Nat) : (s.fetched l).tails = s.tails := rfl

/-! ## setTail -/

@[simp] theorem State.setTail_agenda (k : Nat) (h : Hart) (r : List Hart) : (s.setTail k h r).agenda = s.agenda := rfl
@[simp] theorem State.setTail_cur (k : Nat) (h : Hart) (r : List Hart) : (s.setTail k h r).cur = s.cur := rfl
@[simp] theorem State.setTail_ir (k : Nat) (h : Hart) (r : List Hart) : (s.setTail k h r).ir = s.ir := rfl
@[simp] theorem State.setTail_eager (k : Nat) (h : Hart) (r : List Hart) : (s.setTail k h r).eager = s.eager := rfl
@[simp] theorem State.setTail_tick (k : Nat) (h : Hart) (r : List Hart) : (s.setTail k h r).tick = s.tick := rfl
@[simp] theorem State.setTail_free (k : Nat) (h : Hart) (r : List Hart) : (s.setTail k h r).free = s.free := rfl
@[simp] theorem State.setTail_mem (k : Nat) (h : Hart) (r : List Hart) : (s.setTail k h r).mem = s.mem := rfl
@[simp] theorem State.setTail_under (k : Nat) (h : Hart) (r : List Hart) : (s.setTail k h r).under = s.under := rfl
@[simp] theorem State.setTail_away (k : Nat) (h : Hart) (r : List Hart) : (s.setTail k h r).away = s.away := rfl
@[simp] theorem State.setTail_cnt (k : Nat) (h : Hart) (r : List Hart) : (s.setTail k h r).cnt = s.cnt := rfl
@[simp] theorem State.setTail_spad (k : Nat) (h : Hart) (r : List Hart) : (s.setTail k h r).spad = s.spad := rfl
@[simp] theorem State.setTail_spcnt (k : Nat) (h : Hart) (r : List Hart) : (s.setTail k h r).spcnt = s.spcnt := rfl
@[simp] theorem State.setTail_tok (k : Nat) (h : Hart) (r : List Hart) : (s.setTail k h r).tok = s.tok := rfl
@[simp] theorem State.setTail_poison (k : Nat) (h : Hart) (r : List Hart) : (s.setTail k h r).poison = s.poison := rfl
@[simp] theorem State.setTail_spoison (k : Nat) (h : Hart) (r : List Hart) : (s.setTail k h r).spoison = s.spoison := rfl
@[simp] theorem State.setTail_pins (k : Nat) (h : Hart) (r : List Hart) : (s.setTail k h r).pins = s.pins := rfl
@[simp] theorem State.setTail_tlb (k : Nat) (h : Hart) (r : List Hart) : (s.setTail k h r).tlb = s.tlb := rfl
@[simp] theorem State.setTail_walks (k : Nat) (h : Hart) (r : List Hart) : (s.setTail k h r).walks = s.walks := rfl
@[simp] theorem State.setTail_lineup (k : Nat) (h : Hart) (r : List Hart) : (s.setTail k h r).lineup = s.lineup := rfl
@[simp] theorem State.setTail_icache (k : Nat) (h : Hart) (r : List Hart) : (s.setTail k h r).icache = s.icache := rfl
@[simp] theorem State.setTail_asidtab (k : Nat) (h : Hart) (r : List Hart) : (s.setTail k h r).asidtab = s.asidtab := rfl
@[simp] theorem State.setTail_partcfg (k : Nat) (h : Hart) (r : List Hart) : (s.setTail k h r).partcfg = s.partcfg := rfl
@[simp] theorem State.setTail_qctl (k : Nat) (h : Hart) (r : List Hart) : (s.setTail k h r).qctl = s.qctl := rfl
@[simp] theorem State.setTail_parts (k : Nat) (h : Hart) (r : List Hart) : (s.setTail k h r).parts = s.parts := rfl
@[simp] theorem State.setTail_recs (k : Nat) (h : Hart) (r : List Hart) : (s.setTail k h r).recs = s.recs := rfl
@[simp] theorem State.setTail_groups (k : Nat) (h : Hart) (r : List Hart) : (s.setTail k h r).groups = s.groups := rfl
@[simp] theorem State.setTail_cmds (k : Nat) (h : Hart) (r : List Hart) : (s.setTail k h r).cmds = s.cmds := rfl
@[simp] theorem State.setTail_seq (k : Nat) (h : Hart) (r : List Hart) : (s.setTail k h r).seq = s.seq := rfl
@[simp] theorem State.setTail_remap (k : Nat) (h : Hart) (r : List Hart) : (s.setTail k h r).remap = s.remap := rfl
@[simp] theorem State.setTail_err (k : Nat) (h : Hart) (r : List Hart) : (s.setTail k h r).err = s.err := rfl
@[simp] theorem State.setTail_fp (k : Nat) (h : Hart) (r : List Hart) : (s.setTail k h r).fp = s.fp := rfl
@[simp] theorem State.setTail_host (k : Nat) (h : Hart) (r : List Hart) : (s.setTail k h r).host = s.host := rfl
@[simp] theorem State.setTail_code (k : Nat) (h : Hart) (r : List Hart) : (s.setTail k h r).code = s.code := rfl
@[simp] theorem State.setTail_links (k : Nat) (h : Hart) (r : List Hart) : (s.setTail k h r).links = s.links := rfl
@[simp] theorem State.setTail_msix (k : Nat) (h : Hart) (r : List Hart) : (s.setTail k h r).msix = s.msix := rfl
@[simp] theorem State.setTail_out (k : Nat) (h : Hart) (r : List Hart) : (s.setTail k h r).out = s.out := rfl
@[simp] theorem State.setTail_reqs (k : Nat) (h : Hart) (r : List Hart) : (s.setTail k h r).reqs = s.reqs := rfl
@[simp] theorem State.setTail_halted (k : Nat) (h : Hart) (r : List Hart) : (s.setTail k h r).halted = s.halted := rfl
@[simp] theorem State.setTail_arith (k : Nat) (h : Hart) (r : List Hart) : (s.setTail k h r).arith = s.arith := rfl
@[simp] theorem State.setTail_fabric (k : Nat) (h : Hart) (r : List Hart) : (s.setTail k h r).fabric = s.fabric := rfl
@[simp] theorem State.setTail_app (k : Nat) (h : Hart) (r : List Hart) : (s.setTail k h r).app = s.app := rfl
@[simp] theorem State.setTail_harts (k : Nat) (h : Hart) (r : List Hart) : (s.setTail k h r).harts = s.harts := rfl

/-! ## unrefuse -/

@[simp] theorem State.unrefuse_agenda (w : Nat) : (s.unrefuse w).agenda = s.agenda := rfl
@[simp] theorem State.unrefuse_cur (w : Nat) : (s.unrefuse w).cur = s.cur := rfl
@[simp] theorem State.unrefuse_ir (w : Nat) : (s.unrefuse w).ir = s.ir := rfl
@[simp] theorem State.unrefuse_eager (w : Nat) : (s.unrefuse w).eager = s.eager := rfl
@[simp] theorem State.unrefuse_tick (w : Nat) : (s.unrefuse w).tick = s.tick := rfl
@[simp] theorem State.unrefuse_free (w : Nat) : (s.unrefuse w).free = s.free := rfl
@[simp] theorem State.unrefuse_mem (w : Nat) : (s.unrefuse w).mem = s.mem := rfl
@[simp] theorem State.unrefuse_under (w : Nat) : (s.unrefuse w).under = s.under := rfl
@[simp] theorem State.unrefuse_away (w : Nat) : (s.unrefuse w).away = s.away := rfl
@[simp] theorem State.unrefuse_cnt (w : Nat) : (s.unrefuse w).cnt = s.cnt := rfl
@[simp] theorem State.unrefuse_spad (w : Nat) : (s.unrefuse w).spad = s.spad := rfl
@[simp] theorem State.unrefuse_spcnt (w : Nat) : (s.unrefuse w).spcnt = s.spcnt := rfl
@[simp] theorem State.unrefuse_tok (w : Nat) : (s.unrefuse w).tok = s.tok := rfl
@[simp] theorem State.unrefuse_poison (w : Nat) : (s.unrefuse w).poison = s.poison := rfl
@[simp] theorem State.unrefuse_spoison (w : Nat) : (s.unrefuse w).spoison = s.spoison := rfl
@[simp] theorem State.unrefuse_tlb (w : Nat) : (s.unrefuse w).tlb = s.tlb := rfl
@[simp] theorem State.unrefuse_walks (w : Nat) : (s.unrefuse w).walks = s.walks := rfl
@[simp] theorem State.unrefuse_lineup (w : Nat) : (s.unrefuse w).lineup = s.lineup := rfl
@[simp] theorem State.unrefuse_icache (w : Nat) : (s.unrefuse w).icache = s.icache := rfl
@[simp] theorem State.unrefuse_asidtab (w : Nat) : (s.unrefuse w).asidtab = s.asidtab := rfl
@[simp] theorem State.unrefuse_partcfg (w : Nat) : (s.unrefuse w).partcfg = s.partcfg := rfl
@[simp] theorem State.unrefuse_qctl (w : Nat) : (s.unrefuse w).qctl = s.qctl := rfl
@[simp] theorem State.unrefuse_parts (w : Nat) : (s.unrefuse w).parts = s.parts := rfl
@[simp] theorem State.unrefuse_recs (w : Nat) : (s.unrefuse w).recs = s.recs := rfl
@[simp] theorem State.unrefuse_groups (w : Nat) : (s.unrefuse w).groups = s.groups := rfl
@[simp] theorem State.unrefuse_cmds (w : Nat) : (s.unrefuse w).cmds = s.cmds := rfl
@[simp] theorem State.unrefuse_seq (w : Nat) : (s.unrefuse w).seq = s.seq := rfl
@[simp] theorem State.unrefuse_remap (w : Nat) : (s.unrefuse w).remap = s.remap := rfl
@[simp] theorem State.unrefuse_err (w : Nat) : (s.unrefuse w).err = s.err := rfl
@[simp] theorem State.unrefuse_fp (w : Nat) : (s.unrefuse w).fp = s.fp := rfl
@[simp] theorem State.unrefuse_host (w : Nat) : (s.unrefuse w).host = s.host := rfl
@[simp] theorem State.unrefuse_code (w : Nat) : (s.unrefuse w).code = s.code := rfl
@[simp] theorem State.unrefuse_links (w : Nat) : (s.unrefuse w).links = s.links := rfl
@[simp] theorem State.unrefuse_msix (w : Nat) : (s.unrefuse w).msix = s.msix := rfl
@[simp] theorem State.unrefuse_out (w : Nat) : (s.unrefuse w).out = s.out := rfl
@[simp] theorem State.unrefuse_reqs (w : Nat) : (s.unrefuse w).reqs = s.reqs := rfl
@[simp] theorem State.unrefuse_halted (w : Nat) : (s.unrefuse w).halted = s.halted := rfl
@[simp] theorem State.unrefuse_arith (w : Nat) : (s.unrefuse w).arith = s.arith := rfl
@[simp] theorem State.unrefuse_fabric (w : Nat) : (s.unrefuse w).fabric = s.fabric := rfl
@[simp] theorem State.unrefuse_app (w : Nat) : (s.unrefuse w).app = s.app := rfl
@[simp] theorem State.unrefuse_harts (w : Nat) : (s.unrefuse w).harts = s.harts := rfl
@[simp] theorem State.unrefuse_tails (w : Nat) : (s.unrefuse w).tails = s.tails := rfl

/-! ## endPins -/

@[simp] theorem State.endPins_agenda (f : Pin → Bool) : (s.endPins f).agenda = s.agenda := rfl
@[simp] theorem State.endPins_cur (f : Pin → Bool) : (s.endPins f).cur = s.cur := rfl
@[simp] theorem State.endPins_ir (f : Pin → Bool) : (s.endPins f).ir = s.ir := rfl
@[simp] theorem State.endPins_eager (f : Pin → Bool) : (s.endPins f).eager = s.eager := rfl
@[simp] theorem State.endPins_tick (f : Pin → Bool) : (s.endPins f).tick = s.tick := rfl
@[simp] theorem State.endPins_free (f : Pin → Bool) : (s.endPins f).free = s.free := rfl
@[simp] theorem State.endPins_mem (f : Pin → Bool) : (s.endPins f).mem = s.mem := rfl
@[simp] theorem State.endPins_under (f : Pin → Bool) : (s.endPins f).under = s.under := rfl
@[simp] theorem State.endPins_away (f : Pin → Bool) : (s.endPins f).away = s.away := rfl
@[simp] theorem State.endPins_cnt (f : Pin → Bool) : (s.endPins f).cnt = s.cnt := rfl
@[simp] theorem State.endPins_spad (f : Pin → Bool) : (s.endPins f).spad = s.spad := rfl
@[simp] theorem State.endPins_spcnt (f : Pin → Bool) : (s.endPins f).spcnt = s.spcnt := rfl
@[simp] theorem State.endPins_tok (f : Pin → Bool) : (s.endPins f).tok = s.tok := rfl
@[simp] theorem State.endPins_poison (f : Pin → Bool) : (s.endPins f).poison = s.poison := rfl
@[simp] theorem State.endPins_spoison (f : Pin → Bool) : (s.endPins f).spoison = s.spoison := rfl
@[simp] theorem State.endPins_tlb (f : Pin → Bool) : (s.endPins f).tlb = s.tlb := rfl
@[simp] theorem State.endPins_walks (f : Pin → Bool) : (s.endPins f).walks = s.walks := rfl
@[simp] theorem State.endPins_lineup (f : Pin → Bool) : (s.endPins f).lineup = s.lineup := rfl
@[simp] theorem State.endPins_icache (f : Pin → Bool) : (s.endPins f).icache = s.icache := rfl
@[simp] theorem State.endPins_asidtab (f : Pin → Bool) : (s.endPins f).asidtab = s.asidtab := rfl
@[simp] theorem State.endPins_partcfg (f : Pin → Bool) : (s.endPins f).partcfg = s.partcfg := rfl
@[simp] theorem State.endPins_qctl (f : Pin → Bool) : (s.endPins f).qctl = s.qctl := rfl
@[simp] theorem State.endPins_parts (f : Pin → Bool) : (s.endPins f).parts = s.parts := rfl
@[simp] theorem State.endPins_recs (f : Pin → Bool) : (s.endPins f).recs = s.recs := rfl
@[simp] theorem State.endPins_groups (f : Pin → Bool) : (s.endPins f).groups = s.groups := rfl
@[simp] theorem State.endPins_cmds (f : Pin → Bool) : (s.endPins f).cmds = s.cmds := rfl
@[simp] theorem State.endPins_seq (f : Pin → Bool) : (s.endPins f).seq = s.seq := rfl
@[simp] theorem State.endPins_remap (f : Pin → Bool) : (s.endPins f).remap = s.remap := rfl
@[simp] theorem State.endPins_err (f : Pin → Bool) : (s.endPins f).err = s.err := rfl
@[simp] theorem State.endPins_fp (f : Pin → Bool) : (s.endPins f).fp = s.fp := rfl
@[simp] theorem State.endPins_host (f : Pin → Bool) : (s.endPins f).host = s.host := rfl
@[simp] theorem State.endPins_code (f : Pin → Bool) : (s.endPins f).code = s.code := rfl
@[simp] theorem State.endPins_links (f : Pin → Bool) : (s.endPins f).links = s.links := rfl
@[simp] theorem State.endPins_msix (f : Pin → Bool) : (s.endPins f).msix = s.msix := rfl
@[simp] theorem State.endPins_out (f : Pin → Bool) : (s.endPins f).out = s.out := rfl
@[simp] theorem State.endPins_reqs (f : Pin → Bool) : (s.endPins f).reqs = s.reqs := rfl
@[simp] theorem State.endPins_halted (f : Pin → Bool) : (s.endPins f).halted = s.halted := rfl
@[simp] theorem State.endPins_arith (f : Pin → Bool) : (s.endPins f).arith = s.arith := rfl
@[simp] theorem State.endPins_fabric (f : Pin → Bool) : (s.endPins f).fabric = s.fabric := rfl
@[simp] theorem State.endPins_app (f : Pin → Bool) : (s.endPins f).app = s.app := rfl
@[simp] theorem State.endPins_harts (f : Pin → Bool) : (s.endPins f).harts = s.harts := rfl
@[simp] theorem State.endPins_tails (f : Pin → Bool) : (s.endPins f).tails = s.tails := rfl

/-! ## served -/

@[simp] theorem State.served_agenda (w l : Nat) : (s.served w l).agenda = s.agenda := rfl
@[simp] theorem State.served_cur (w l : Nat) : (s.served w l).cur = s.cur := rfl
@[simp] theorem State.served_ir (w l : Nat) : (s.served w l).ir = s.ir := rfl
@[simp] theorem State.served_eager (w l : Nat) : (s.served w l).eager = s.eager := rfl
@[simp] theorem State.served_tick (w l : Nat) : (s.served w l).tick = s.tick := rfl
@[simp] theorem State.served_free (w l : Nat) : (s.served w l).free = s.free := rfl
@[simp] theorem State.served_mem (w l : Nat) : (s.served w l).mem = s.mem := rfl
@[simp] theorem State.served_under (w l : Nat) : (s.served w l).under = s.under := rfl
@[simp] theorem State.served_away (w l : Nat) : (s.served w l).away = s.away := rfl
@[simp] theorem State.served_cnt (w l : Nat) : (s.served w l).cnt = s.cnt := rfl
@[simp] theorem State.served_spad (w l : Nat) : (s.served w l).spad = s.spad := rfl
@[simp] theorem State.served_spcnt (w l : Nat) : (s.served w l).spcnt = s.spcnt := rfl
@[simp] theorem State.served_tok (w l : Nat) : (s.served w l).tok = s.tok := rfl
@[simp] theorem State.served_poison (w l : Nat) : (s.served w l).poison = s.poison := rfl
@[simp] theorem State.served_spoison (w l : Nat) : (s.served w l).spoison = s.spoison := rfl
@[simp] theorem State.served_tlb (w l : Nat) : (s.served w l).tlb = s.tlb := rfl
@[simp] theorem State.served_walks (w l : Nat) : (s.served w l).walks = s.walks := rfl
@[simp] theorem State.served_lineup (w l : Nat) : (s.served w l).lineup = s.lineup := rfl
@[simp] theorem State.served_icache (w l : Nat) : (s.served w l).icache = s.icache := rfl
@[simp] theorem State.served_asidtab (w l : Nat) : (s.served w l).asidtab = s.asidtab := rfl
@[simp] theorem State.served_partcfg (w l : Nat) : (s.served w l).partcfg = s.partcfg := rfl
@[simp] theorem State.served_qctl (w l : Nat) : (s.served w l).qctl = s.qctl := rfl
@[simp] theorem State.served_parts (w l : Nat) : (s.served w l).parts = s.parts := rfl
@[simp] theorem State.served_recs (w l : Nat) : (s.served w l).recs = s.recs := rfl
@[simp] theorem State.served_groups (w l : Nat) : (s.served w l).groups = s.groups := rfl
@[simp] theorem State.served_cmds (w l : Nat) : (s.served w l).cmds = s.cmds := rfl
@[simp] theorem State.served_seq (w l : Nat) : (s.served w l).seq = s.seq := rfl
@[simp] theorem State.served_remap (w l : Nat) : (s.served w l).remap = s.remap := rfl
@[simp] theorem State.served_err (w l : Nat) : (s.served w l).err = s.err := rfl
@[simp] theorem State.served_fp (w l : Nat) : (s.served w l).fp = s.fp := rfl
@[simp] theorem State.served_host (w l : Nat) : (s.served w l).host = s.host := rfl
@[simp] theorem State.served_code (w l : Nat) : (s.served w l).code = s.code := rfl
@[simp] theorem State.served_links (w l : Nat) : (s.served w l).links = s.links := rfl
@[simp] theorem State.served_msix (w l : Nat) : (s.served w l).msix = s.msix := rfl
@[simp] theorem State.served_out (w l : Nat) : (s.served w l).out = s.out := rfl
@[simp] theorem State.served_reqs (w l : Nat) : (s.served w l).reqs = s.reqs := rfl
@[simp] theorem State.served_halted (w l : Nat) : (s.served w l).halted = s.halted := rfl
@[simp] theorem State.served_arith (w l : Nat) : (s.served w l).arith = s.arith := rfl
@[simp] theorem State.served_fabric (w l : Nat) : (s.served w l).fabric = s.fabric := rfl
@[simp] theorem State.served_app (w l : Nat) : (s.served w l).app = s.app := rfl
@[simp] theorem State.served_harts (w l : Nat) : (s.served w l).harts = s.harts := rfl
@[simp] theorem State.served_tails (w l : Nat) : (s.served w l).tails = s.tails := rfl

/-! ## refuse -/

@[simp] theorem State.refuse_agenda (w l : Nat) : (s.refuse w l).agenda = s.agenda := rfl
@[simp] theorem State.refuse_cur (w l : Nat) : (s.refuse w l).cur = s.cur := rfl
@[simp] theorem State.refuse_ir (w l : Nat) : (s.refuse w l).ir = s.ir := rfl
@[simp] theorem State.refuse_eager (w l : Nat) : (s.refuse w l).eager = s.eager := rfl
@[simp] theorem State.refuse_tick (w l : Nat) : (s.refuse w l).tick = s.tick := rfl
@[simp] theorem State.refuse_free (w l : Nat) : (s.refuse w l).free = s.free := rfl
@[simp] theorem State.refuse_mem (w l : Nat) : (s.refuse w l).mem = s.mem := rfl
@[simp] theorem State.refuse_under (w l : Nat) : (s.refuse w l).under = s.under := rfl
@[simp] theorem State.refuse_away (w l : Nat) : (s.refuse w l).away = s.away := rfl
@[simp] theorem State.refuse_cnt (w l : Nat) : (s.refuse w l).cnt = s.cnt := rfl
@[simp] theorem State.refuse_spad (w l : Nat) : (s.refuse w l).spad = s.spad := rfl
@[simp] theorem State.refuse_spcnt (w l : Nat) : (s.refuse w l).spcnt = s.spcnt := rfl
@[simp] theorem State.refuse_tok (w l : Nat) : (s.refuse w l).tok = s.tok := rfl
@[simp] theorem State.refuse_poison (w l : Nat) : (s.refuse w l).poison = s.poison := rfl
@[simp] theorem State.refuse_spoison (w l : Nat) : (s.refuse w l).spoison = s.spoison := rfl
@[simp] theorem State.refuse_tlb (w l : Nat) : (s.refuse w l).tlb = s.tlb := rfl
@[simp] theorem State.refuse_walks (w l : Nat) : (s.refuse w l).walks = s.walks := rfl
@[simp] theorem State.refuse_icache (w l : Nat) : (s.refuse w l).icache = s.icache := rfl
@[simp] theorem State.refuse_asidtab (w l : Nat) : (s.refuse w l).asidtab = s.asidtab := rfl
@[simp] theorem State.refuse_partcfg (w l : Nat) : (s.refuse w l).partcfg = s.partcfg := rfl
@[simp] theorem State.refuse_qctl (w l : Nat) : (s.refuse w l).qctl = s.qctl := rfl
@[simp] theorem State.refuse_parts (w l : Nat) : (s.refuse w l).parts = s.parts := rfl
@[simp] theorem State.refuse_recs (w l : Nat) : (s.refuse w l).recs = s.recs := rfl
@[simp] theorem State.refuse_groups (w l : Nat) : (s.refuse w l).groups = s.groups := rfl
@[simp] theorem State.refuse_cmds (w l : Nat) : (s.refuse w l).cmds = s.cmds := rfl
@[simp] theorem State.refuse_seq (w l : Nat) : (s.refuse w l).seq = s.seq := rfl
@[simp] theorem State.refuse_remap (w l : Nat) : (s.refuse w l).remap = s.remap := rfl
@[simp] theorem State.refuse_err (w l : Nat) : (s.refuse w l).err = s.err := rfl
@[simp] theorem State.refuse_fp (w l : Nat) : (s.refuse w l).fp = s.fp := rfl
@[simp] theorem State.refuse_host (w l : Nat) : (s.refuse w l).host = s.host := rfl
@[simp] theorem State.refuse_code (w l : Nat) : (s.refuse w l).code = s.code := rfl
@[simp] theorem State.refuse_links (w l : Nat) : (s.refuse w l).links = s.links := rfl
@[simp] theorem State.refuse_msix (w l : Nat) : (s.refuse w l).msix = s.msix := rfl
@[simp] theorem State.refuse_out (w l : Nat) : (s.refuse w l).out = s.out := rfl
@[simp] theorem State.refuse_reqs (w l : Nat) : (s.refuse w l).reqs = s.reqs := rfl
@[simp] theorem State.refuse_halted (w l : Nat) : (s.refuse w l).halted = s.halted := rfl
@[simp] theorem State.refuse_arith (w l : Nat) : (s.refuse w l).arith = s.arith := rfl
@[simp] theorem State.refuse_fabric (w l : Nat) : (s.refuse w l).fabric = s.fabric := rfl
@[simp] theorem State.refuse_app (w l : Nat) : (s.refuse w l).app = s.app := rfl
@[simp] theorem State.refuse_harts (w l : Nat) : (s.refuse w l).harts = s.harts := rfl
@[simp] theorem State.refuse_tails (w l : Nat) : (s.refuse w l).tails = s.tails := rfl

/-! ## tickOn -/

@[simp] theorem State.tickOn_agenda : (s.tickOn).agenda = s.agenda := rfl
@[simp] theorem State.tickOn_cur : (s.tickOn).cur = s.cur := rfl
@[simp] theorem State.tickOn_ir : (s.tickOn).ir = s.ir := rfl
@[simp] theorem State.tickOn_eager : (s.tickOn).eager = s.eager := rfl
@[simp] theorem State.tickOn_tick : (s.tickOn).tick = s.tick + 1 := rfl
@[simp] theorem State.tickOn_free : (s.tickOn).free = s.free := rfl
@[simp] theorem State.tickOn_mem : (s.tickOn).mem = s.mem := rfl
@[simp] theorem State.tickOn_under : (s.tickOn).under = s.under := rfl
@[simp] theorem State.tickOn_away : (s.tickOn).away = s.away := rfl
@[simp] theorem State.tickOn_cnt : (s.tickOn).cnt = s.cnt := rfl
@[simp] theorem State.tickOn_spad : (s.tickOn).spad = s.spad := rfl
@[simp] theorem State.tickOn_spcnt : (s.tickOn).spcnt = s.spcnt := rfl
@[simp] theorem State.tickOn_tok : (s.tickOn).tok = s.tok := rfl
@[simp] theorem State.tickOn_poison : (s.tickOn).poison = s.poison := rfl
@[simp] theorem State.tickOn_spoison : (s.tickOn).spoison = s.spoison := rfl
@[simp] theorem State.tickOn_pins : (s.tickOn).pins = s.pins := rfl
@[simp] theorem State.tickOn_tlb : (s.tickOn).tlb = s.tlb := rfl
@[simp] theorem State.tickOn_walks : (s.tickOn).walks = s.walks := rfl
@[simp] theorem State.tickOn_lineup : (s.tickOn).lineup = s.lineup := rfl
@[simp] theorem State.tickOn_icache : (s.tickOn).icache = s.icache := rfl
@[simp] theorem State.tickOn_asidtab : (s.tickOn).asidtab = s.asidtab := rfl
@[simp] theorem State.tickOn_partcfg : (s.tickOn).partcfg = s.partcfg := rfl
@[simp] theorem State.tickOn_qctl : (s.tickOn).qctl = s.qctl := rfl
@[simp] theorem State.tickOn_parts : (s.tickOn).parts = s.parts := rfl
@[simp] theorem State.tickOn_recs : (s.tickOn).recs = s.recs := rfl
@[simp] theorem State.tickOn_groups : (s.tickOn).groups = s.groups := rfl
@[simp] theorem State.tickOn_cmds : (s.tickOn).cmds = s.cmds := rfl
@[simp] theorem State.tickOn_seq : (s.tickOn).seq = s.seq := rfl
@[simp] theorem State.tickOn_remap : (s.tickOn).remap = s.remap := rfl
@[simp] theorem State.tickOn_err : (s.tickOn).err = s.err := rfl
@[simp] theorem State.tickOn_fp : (s.tickOn).fp = s.fp := rfl
@[simp] theorem State.tickOn_host : (s.tickOn).host = s.host := rfl
@[simp] theorem State.tickOn_code : (s.tickOn).code = s.code := rfl
@[simp] theorem State.tickOn_links : (s.tickOn).links = s.links := rfl
@[simp] theorem State.tickOn_msix : (s.tickOn).msix = s.msix := rfl
@[simp] theorem State.tickOn_out : (s.tickOn).out = s.out := rfl
@[simp] theorem State.tickOn_reqs : (s.tickOn).reqs = s.reqs := rfl
@[simp] theorem State.tickOn_halted : (s.tickOn).halted = s.halted := rfl
@[simp] theorem State.tickOn_harts : (s.tickOn).harts = s.harts := rfl
@[simp] theorem State.tickOn_tails : (s.tickOn).tails = s.tails := rfl

/-! ## pinLine -/

/-- A pinned line changes the pins alone. -/
theorem State.pinLine_eq (w l c : Nat) : s.pinLine w l c = { s with pins := (s.pinLine w l c).pins } := by
  unfold State.pinLine
  dsimp only
  split
  · split <;> rfl
  · rfl

@[simp] theorem State.pinLine_agenda (w l c : Nat) : (s.pinLine w l c).agenda = s.agenda := by rw [State.pinLine_eq]
@[simp] theorem State.pinLine_cur (w l c : Nat) : (s.pinLine w l c).cur = s.cur := by rw [State.pinLine_eq]
@[simp] theorem State.pinLine_ir (w l c : Nat) : (s.pinLine w l c).ir = s.ir := by rw [State.pinLine_eq]
@[simp] theorem State.pinLine_eager (w l c : Nat) : (s.pinLine w l c).eager = s.eager := by rw [State.pinLine_eq]
@[simp] theorem State.pinLine_tick (w l c : Nat) : (s.pinLine w l c).tick = s.tick := by rw [State.pinLine_eq]
@[simp] theorem State.pinLine_free (w l c : Nat) : (s.pinLine w l c).free = s.free := by rw [State.pinLine_eq]
@[simp] theorem State.pinLine_mem (w l c : Nat) : (s.pinLine w l c).mem = s.mem := by rw [State.pinLine_eq]
@[simp] theorem State.pinLine_under (w l c : Nat) : (s.pinLine w l c).under = s.under := by rw [State.pinLine_eq]
@[simp] theorem State.pinLine_away (w l c : Nat) : (s.pinLine w l c).away = s.away := by rw [State.pinLine_eq]
@[simp] theorem State.pinLine_cnt (w l c : Nat) : (s.pinLine w l c).cnt = s.cnt := by rw [State.pinLine_eq]
@[simp] theorem State.pinLine_spad (w l c : Nat) : (s.pinLine w l c).spad = s.spad := by rw [State.pinLine_eq]
@[simp] theorem State.pinLine_spcnt (w l c : Nat) : (s.pinLine w l c).spcnt = s.spcnt := by rw [State.pinLine_eq]
@[simp] theorem State.pinLine_tok (w l c : Nat) : (s.pinLine w l c).tok = s.tok := by rw [State.pinLine_eq]
@[simp] theorem State.pinLine_poison (w l c : Nat) : (s.pinLine w l c).poison = s.poison := by rw [State.pinLine_eq]
@[simp] theorem State.pinLine_spoison (w l c : Nat) : (s.pinLine w l c).spoison = s.spoison := by rw [State.pinLine_eq]
@[simp] theorem State.pinLine_tlb (w l c : Nat) : (s.pinLine w l c).tlb = s.tlb := by rw [State.pinLine_eq]
@[simp] theorem State.pinLine_walks (w l c : Nat) : (s.pinLine w l c).walks = s.walks := by rw [State.pinLine_eq]
@[simp] theorem State.pinLine_lineup (w l c : Nat) : (s.pinLine w l c).lineup = s.lineup := by rw [State.pinLine_eq]
@[simp] theorem State.pinLine_icache (w l c : Nat) : (s.pinLine w l c).icache = s.icache := by rw [State.pinLine_eq]
@[simp] theorem State.pinLine_asidtab (w l c : Nat) : (s.pinLine w l c).asidtab = s.asidtab := by rw [State.pinLine_eq]
@[simp] theorem State.pinLine_partcfg (w l c : Nat) : (s.pinLine w l c).partcfg = s.partcfg := by rw [State.pinLine_eq]
@[simp] theorem State.pinLine_qctl (w l c : Nat) : (s.pinLine w l c).qctl = s.qctl := by rw [State.pinLine_eq]
@[simp] theorem State.pinLine_parts (w l c : Nat) : (s.pinLine w l c).parts = s.parts := by rw [State.pinLine_eq]
@[simp] theorem State.pinLine_recs (w l c : Nat) : (s.pinLine w l c).recs = s.recs := by rw [State.pinLine_eq]
@[simp] theorem State.pinLine_groups (w l c : Nat) : (s.pinLine w l c).groups = s.groups := by rw [State.pinLine_eq]
@[simp] theorem State.pinLine_cmds (w l c : Nat) : (s.pinLine w l c).cmds = s.cmds := by rw [State.pinLine_eq]
@[simp] theorem State.pinLine_seq (w l c : Nat) : (s.pinLine w l c).seq = s.seq := by rw [State.pinLine_eq]
@[simp] theorem State.pinLine_remap (w l c : Nat) : (s.pinLine w l c).remap = s.remap := by rw [State.pinLine_eq]
@[simp] theorem State.pinLine_err (w l c : Nat) : (s.pinLine w l c).err = s.err := by rw [State.pinLine_eq]
@[simp] theorem State.pinLine_fp (w l c : Nat) : (s.pinLine w l c).fp = s.fp := by rw [State.pinLine_eq]
@[simp] theorem State.pinLine_host (w l c : Nat) : (s.pinLine w l c).host = s.host := by rw [State.pinLine_eq]
@[simp] theorem State.pinLine_code (w l c : Nat) : (s.pinLine w l c).code = s.code := by rw [State.pinLine_eq]
@[simp] theorem State.pinLine_links (w l c : Nat) : (s.pinLine w l c).links = s.links := by rw [State.pinLine_eq]
@[simp] theorem State.pinLine_msix (w l c : Nat) : (s.pinLine w l c).msix = s.msix := by rw [State.pinLine_eq]
@[simp] theorem State.pinLine_out (w l c : Nat) : (s.pinLine w l c).out = s.out := by rw [State.pinLine_eq]
@[simp] theorem State.pinLine_reqs (w l c : Nat) : (s.pinLine w l c).reqs = s.reqs := by rw [State.pinLine_eq]
@[simp] theorem State.pinLine_halted (w l c : Nat) : (s.pinLine w l c).halted = s.halted := by rw [State.pinLine_eq]
@[simp] theorem State.pinLine_arith (w l c : Nat) : (s.pinLine w l c).arith = s.arith := by rw [State.pinLine_eq]
@[simp] theorem State.pinLine_fabric (w l c : Nat) : (s.pinLine w l c).fabric = s.fabric := by rw [State.pinLine_eq]
@[simp] theorem State.pinLine_app (w l c : Nat) : (s.pinLine w l c).app = s.app := by rw [State.pinLine_eq]
@[simp] theorem State.pinLine_harts (w l c : Nat) : (s.pinLine w l c).harts = s.harts := by rw [State.pinLine_eq]
@[simp] theorem State.pinLine_tails (w l c : Nat) : (s.pinLine w l c).tails = s.tails := by rw [State.pinLine_eq]

/-! ## Agents -/

variable (h : Hart)

/-- A write of a g register changes g alone. -/
theorem Hart.setG_eq (d : Reg) (v : Word) : h.setG d v = { h with g := (h.setG d v).g } := by
  unfold Hart.setG
  split <;> rfl

@[simp] theorem Hart.setG_status (d : Reg) (v : Word) : (h.setG d v).status = h.status := by rw [Hart.setG_eq]
@[simp] theorem Hart.setG_pc (d : Reg) (v : Word) : (h.setG d v).pc = h.pc := by rw [Hart.setG_eq]
@[simp] theorem Hart.setG_fcsr (d : Reg) (v : Word) : (h.setG d v).fcsr = h.fcsr := by rw [Hart.setG_eq]
@[simp] theorem Hart.setG_instret (d : Reg) (v : Word) : (h.setG d v).instret = h.instret := by rw [Hart.setG_eq]
@[simp] theorem Hart.setG_fstall (d : Reg) (v : Word) : (h.setG d v).fstall = h.fstall := by rw [Hart.setG_eq]
@[simp] theorem Hart.setG_ostall (d : Reg) (v : Word) : (h.setG d v).ostall = h.ostall := by rw [Hart.setG_eq]
@[simp] theorem Hart.setG_part (d : Reg) (v : Word) : (h.setG d v).part = h.part := by rw [Hart.setG_eq]
@[simp] theorem Hart.setG_launch (d : Reg) (v : Word) : (h.setG d v).launch = h.launch := by rw [Hart.setG_eq]
@[simp] theorem Hart.setG_logical (d : Reg) (v : Word) : (h.setG d v).logical = h.logical := by rw [Hart.setG_eq]
@[simp] theorem Hart.setG_asid (d : Reg) (v : Word) : (h.setG d v).asid = h.asid := by rw [Hart.setG_eq]
@[simp] theorem Hart.setG_share (d : Reg) (v : Word) : (h.setG d v).share = h.share := by rw [Hart.setG_eq]
@[simp] theorem Hart.setG_vtype (d : Reg) (v : Word) : (h.setG d v).vtype = h.vtype := by rw [Hart.setG_eq]
@[simp] theorem Hart.setG_vstat (d : Reg) (v : Word) : (h.setG d v).vstat = h.vstat := by rw [Hart.setG_eq]
@[simp] theorem Hart.setG_nest (d : Reg) (v : Word) : (h.setG d v).nest = h.nest := by rw [Hart.setG_eq]
@[simp] theorem Hart.setG_loopPos (d : Reg) (v : Word) : (h.setG d v).loopPos = h.loopPos := by rw [Hart.setG_eq]
@[simp] theorem Hart.setG_vec (d : Reg) (v : Word) : (h.setG d v).vec = h.vec := by rw [Hart.setG_eq]
@[simp] theorem Hart.setG_mx (d : Reg) (v : Word) : (h.setG d v).mx = h.mx := by rw [Hart.setG_eq]
@[simp] theorem Hart.setG_app (d : Reg) (v : Word) : (h.setG d v).app = h.app := by rw [Hart.setG_eq]
@[simp] theorem Hart.setG_stop (d : Reg) (v : Word) : (h.setG d v).stop = h.stop := by rw [Hart.setG_eq]
@[simp] theorem Hart.setG_preempt (d : Reg) (v : Word) : (h.setG d v).preempt = h.preempt := by rw [Hart.setG_eq]

@[simp] theorem Hart.retire_status (n : Nat) : (h.retire n).status = .running := rfl
@[simp] theorem Hart.retire_pc (n : Nat) : (h.retire n).pc = h.pc + word n := rfl
@[simp] theorem Hart.retire_g (n : Nat) : (h.retire n).g = h.g := rfl
@[simp] theorem Hart.retire_fcsr (n : Nat) : (h.retire n).fcsr = h.fcsr := rfl
@[simp] theorem Hart.retire_instret (n : Nat) : (h.retire n).instret = h.instret + 1 := rfl
@[simp] theorem Hart.retire_fstall (n : Nat) : (h.retire n).fstall = h.fstall := rfl
@[simp] theorem Hart.retire_ostall (n : Nat) : (h.retire n).ostall = h.ostall := rfl
@[simp] theorem Hart.retire_part (n : Nat) : (h.retire n).part = h.part := rfl
@[simp] theorem Hart.retire_launch (n : Nat) : (h.retire n).launch = h.launch := rfl
@[simp] theorem Hart.retire_logical (n : Nat) : (h.retire n).logical = h.logical := rfl
@[simp] theorem Hart.retire_asid (n : Nat) : (h.retire n).asid = h.asid := rfl
@[simp] theorem Hart.retire_share (n : Nat) : (h.retire n).share = h.share := rfl
@[simp] theorem Hart.retire_vtype (n : Nat) : (h.retire n).vtype = h.vtype := rfl
@[simp] theorem Hart.retire_vstat (n : Nat) : (h.retire n).vstat = h.vstat := rfl
@[simp] theorem Hart.retire_nest (n : Nat) : (h.retire n).nest = h.nest := rfl
@[simp] theorem Hart.retire_loopPos (n : Nat) : (h.retire n).loopPos = h.loopPos := rfl
@[simp] theorem Hart.retire_vec (n : Nat) : (h.retire n).vec = h.vec := rfl
@[simp] theorem Hart.retire_mx (n : Nat) : (h.retire n).mx = h.mx := rfl
@[simp] theorem Hart.retire_app (n : Nat) : (h.retire n).app = h.app := rfl
@[simp] theorem Hart.retire_stop (n : Nat) : (h.retire n).stop = h.stop := rfl
@[simp] theorem Hart.retire_preempt (n : Nat) : (h.retire n).preempt = h.preempt := rfl

@[simp] theorem Hart.retireTo_status (p : Word) : (h.retireTo p).status = .running := rfl
@[simp] theorem Hart.retireTo_pc (p : Word) : (h.retireTo p).pc = p := rfl
@[simp] theorem Hart.retireTo_g (p : Word) : (h.retireTo p).g = h.g := rfl
@[simp] theorem Hart.retireTo_fcsr (p : Word) : (h.retireTo p).fcsr = h.fcsr := rfl
@[simp] theorem Hart.retireTo_instret (p : Word) : (h.retireTo p).instret = h.instret + 1 := rfl
@[simp] theorem Hart.retireTo_fstall (p : Word) : (h.retireTo p).fstall = h.fstall := rfl
@[simp] theorem Hart.retireTo_ostall (p : Word) : (h.retireTo p).ostall = h.ostall := rfl
@[simp] theorem Hart.retireTo_part (p : Word) : (h.retireTo p).part = h.part := rfl
@[simp] theorem Hart.retireTo_launch (p : Word) : (h.retireTo p).launch = h.launch := rfl
@[simp] theorem Hart.retireTo_logical (p : Word) : (h.retireTo p).logical = h.logical := rfl
@[simp] theorem Hart.retireTo_asid (p : Word) : (h.retireTo p).asid = h.asid := rfl
@[simp] theorem Hart.retireTo_share (p : Word) : (h.retireTo p).share = h.share := rfl
@[simp] theorem Hart.retireTo_vtype (p : Word) : (h.retireTo p).vtype = h.vtype := rfl
@[simp] theorem Hart.retireTo_vstat (p : Word) : (h.retireTo p).vstat = h.vstat := rfl
@[simp] theorem Hart.retireTo_nest (p : Word) : (h.retireTo p).nest = h.nest := rfl
@[simp] theorem Hart.retireTo_loopPos (p : Word) : (h.retireTo p).loopPos = h.loopPos := rfl
@[simp] theorem Hart.retireTo_vec (p : Word) : (h.retireTo p).vec = h.vec := rfl
@[simp] theorem Hart.retireTo_mx (p : Word) : (h.retireTo p).mx = h.mx := rfl
@[simp] theorem Hart.retireTo_app (p : Word) : (h.retireTo p).app = h.app := rfl
@[simp] theorem Hart.retireTo_stop (p : Word) : (h.retireTo p).stop = h.stop := rfl
@[simp] theorem Hart.retireTo_preempt (p : Word) : (h.retireTo p).preempt = h.preempt := rfl

@[simp] theorem Hart.accrue_status (fl : Flags) : (h.accrue fl).status = h.status := rfl
@[simp] theorem Hart.accrue_pc (fl : Flags) : (h.accrue fl).pc = h.pc := rfl
@[simp] theorem Hart.accrue_g (fl : Flags) : (h.accrue fl).g = h.g := rfl
@[simp] theorem Hart.accrue_instret (fl : Flags) : (h.accrue fl).instret = h.instret := rfl
@[simp] theorem Hart.accrue_fstall (fl : Flags) : (h.accrue fl).fstall = h.fstall := rfl
@[simp] theorem Hart.accrue_ostall (fl : Flags) : (h.accrue fl).ostall = h.ostall := rfl
@[simp] theorem Hart.accrue_part (fl : Flags) : (h.accrue fl).part = h.part := rfl
@[simp] theorem Hart.accrue_launch (fl : Flags) : (h.accrue fl).launch = h.launch := rfl
@[simp] theorem Hart.accrue_logical (fl : Flags) : (h.accrue fl).logical = h.logical := rfl
@[simp] theorem Hart.accrue_asid (fl : Flags) : (h.accrue fl).asid = h.asid := rfl
@[simp] theorem Hart.accrue_share (fl : Flags) : (h.accrue fl).share = h.share := rfl
@[simp] theorem Hart.accrue_vtype (fl : Flags) : (h.accrue fl).vtype = h.vtype := rfl
@[simp] theorem Hart.accrue_vstat (fl : Flags) : (h.accrue fl).vstat = h.vstat := rfl
@[simp] theorem Hart.accrue_nest (fl : Flags) : (h.accrue fl).nest = h.nest := rfl
@[simp] theorem Hart.accrue_loopPos (fl : Flags) : (h.accrue fl).loopPos = h.loopPos := rfl
@[simp] theorem Hart.accrue_vec (fl : Flags) : (h.accrue fl).vec = h.vec := rfl
@[simp] theorem Hart.accrue_mx (fl : Flags) : (h.accrue fl).mx = h.mx := rfl
@[simp] theorem Hart.accrue_app (fl : Flags) : (h.accrue fl).app = h.app := rfl
@[simp] theorem Hart.accrue_stop (fl : Flags) : (h.accrue fl).stop = h.stop := rfl
@[simp] theorem Hart.accrue_preempt (fl : Flags) : (h.accrue fl).preempt = h.preempt := rfl

@[simp] theorem Hart.updVec_status (f : Vec → Vec) : (h.updVec f).status = h.status := rfl
@[simp] theorem Hart.updVec_pc (f : Vec → Vec) : (h.updVec f).pc = h.pc := rfl
@[simp] theorem Hart.updVec_g (f : Vec → Vec) : (h.updVec f).g = h.g := rfl
@[simp] theorem Hart.updVec_fcsr (f : Vec → Vec) : (h.updVec f).fcsr = h.fcsr := rfl
@[simp] theorem Hart.updVec_instret (f : Vec → Vec) : (h.updVec f).instret = h.instret := rfl
@[simp] theorem Hart.updVec_fstall (f : Vec → Vec) : (h.updVec f).fstall = h.fstall := rfl
@[simp] theorem Hart.updVec_ostall (f : Vec → Vec) : (h.updVec f).ostall = h.ostall := rfl
@[simp] theorem Hart.updVec_part (f : Vec → Vec) : (h.updVec f).part = h.part := rfl
@[simp] theorem Hart.updVec_launch (f : Vec → Vec) : (h.updVec f).launch = h.launch := rfl
@[simp] theorem Hart.updVec_logical (f : Vec → Vec) : (h.updVec f).logical = h.logical := rfl
@[simp] theorem Hart.updVec_asid (f : Vec → Vec) : (h.updVec f).asid = h.asid := rfl
@[simp] theorem Hart.updVec_share (f : Vec → Vec) : (h.updVec f).share = h.share := rfl
@[simp] theorem Hart.updVec_vtype (f : Vec → Vec) : (h.updVec f).vtype = h.vtype := rfl
@[simp] theorem Hart.updVec_vstat (f : Vec → Vec) : (h.updVec f).vstat = h.vstat := rfl
@[simp] theorem Hart.updVec_nest (f : Vec → Vec) : (h.updVec f).nest = h.nest := rfl
@[simp] theorem Hart.updVec_loopPos (f : Vec → Vec) : (h.updVec f).loopPos = h.loopPos := rfl
@[simp] theorem Hart.updVec_vec (f : Vec → Vec) : (h.updVec f).vec = f h.vec := rfl
@[simp] theorem Hart.updVec_mx (f : Vec → Vec) : (h.updVec f).mx = h.mx := rfl
@[simp] theorem Hart.updVec_app (f : Vec → Vec) : (h.updVec f).app = h.app := rfl
@[simp] theorem Hart.updVec_stop (f : Vec → Vec) : (h.updVec f).stop = h.stop := rfl
@[simp] theorem Hart.updVec_preempt (f : Vec → Vec) : (h.updVec f).preempt = h.preempt := rfl

@[simp] theorem Hart.updMx_status (f : Mx → Mx) : (h.updMx f).status = h.status := rfl
@[simp] theorem Hart.updMx_pc (f : Mx → Mx) : (h.updMx f).pc = h.pc := rfl
@[simp] theorem Hart.updMx_g (f : Mx → Mx) : (h.updMx f).g = h.g := rfl
@[simp] theorem Hart.updMx_fcsr (f : Mx → Mx) : (h.updMx f).fcsr = h.fcsr := rfl
@[simp] theorem Hart.updMx_instret (f : Mx → Mx) : (h.updMx f).instret = h.instret := rfl
@[simp] theorem Hart.updMx_fstall (f : Mx → Mx) : (h.updMx f).fstall = h.fstall := rfl
@[simp] theorem Hart.updMx_ostall (f : Mx → Mx) : (h.updMx f).ostall = h.ostall := rfl
@[simp] theorem Hart.updMx_part (f : Mx → Mx) : (h.updMx f).part = h.part := rfl
@[simp] theorem Hart.updMx_launch (f : Mx → Mx) : (h.updMx f).launch = h.launch := rfl
@[simp] theorem Hart.updMx_logical (f : Mx → Mx) : (h.updMx f).logical = h.logical := rfl
@[simp] theorem Hart.updMx_asid (f : Mx → Mx) : (h.updMx f).asid = h.asid := rfl
@[simp] theorem Hart.updMx_share (f : Mx → Mx) : (h.updMx f).share = h.share := rfl
@[simp] theorem Hart.updMx_vtype (f : Mx → Mx) : (h.updMx f).vtype = h.vtype := rfl
@[simp] theorem Hart.updMx_vstat (f : Mx → Mx) : (h.updMx f).vstat = h.vstat := rfl
@[simp] theorem Hart.updMx_nest (f : Mx → Mx) : (h.updMx f).nest = h.nest := rfl
@[simp] theorem Hart.updMx_loopPos (f : Mx → Mx) : (h.updMx f).loopPos = h.loopPos := rfl
@[simp] theorem Hart.updMx_vec (f : Mx → Mx) : (h.updMx f).vec = h.vec := rfl
@[simp] theorem Hart.updMx_mx (f : Mx → Mx) : (h.updMx f).mx = f h.mx := rfl
@[simp] theorem Hart.updMx_app (f : Mx → Mx) : (h.updMx f).app = h.app := rfl
@[simp] theorem Hart.updMx_stop (f : Mx → Mx) : (h.updMx f).stop = h.stop := rfl
@[simp] theorem Hart.updMx_preempt (f : Mx → Mx) : (h.updMx f).preempt = h.preempt := rfl

@[simp] theorem Hart.updApp_status (f : AppCore → AppCore) : (h.updApp f).status = h.status := rfl
@[simp] theorem Hart.updApp_pc (f : AppCore → AppCore) : (h.updApp f).pc = h.pc := rfl
@[simp] theorem Hart.updApp_g (f : AppCore → AppCore) : (h.updApp f).g = h.g := rfl
@[simp] theorem Hart.updApp_fcsr (f : AppCore → AppCore) : (h.updApp f).fcsr = h.fcsr := rfl
@[simp] theorem Hart.updApp_instret (f : AppCore → AppCore) : (h.updApp f).instret = h.instret := rfl
@[simp] theorem Hart.updApp_fstall (f : AppCore → AppCore) : (h.updApp f).fstall = h.fstall := rfl
@[simp] theorem Hart.updApp_ostall (f : AppCore → AppCore) : (h.updApp f).ostall = h.ostall := rfl
@[simp] theorem Hart.updApp_part (f : AppCore → AppCore) : (h.updApp f).part = h.part := rfl
@[simp] theorem Hart.updApp_launch (f : AppCore → AppCore) : (h.updApp f).launch = h.launch := rfl
@[simp] theorem Hart.updApp_logical (f : AppCore → AppCore) : (h.updApp f).logical = h.logical := rfl
@[simp] theorem Hart.updApp_asid (f : AppCore → AppCore) : (h.updApp f).asid = h.asid := rfl
@[simp] theorem Hart.updApp_share (f : AppCore → AppCore) : (h.updApp f).share = h.share := rfl
@[simp] theorem Hart.updApp_vtype (f : AppCore → AppCore) : (h.updApp f).vtype = h.vtype := rfl
@[simp] theorem Hart.updApp_vstat (f : AppCore → AppCore) : (h.updApp f).vstat = h.vstat := rfl
@[simp] theorem Hart.updApp_nest (f : AppCore → AppCore) : (h.updApp f).nest = h.nest := rfl
@[simp] theorem Hart.updApp_loopPos (f : AppCore → AppCore) : (h.updApp f).loopPos = h.loopPos := rfl
@[simp] theorem Hart.updApp_vec (f : AppCore → AppCore) : (h.updApp f).vec = h.vec := rfl
@[simp] theorem Hart.updApp_mx (f : AppCore → AppCore) : (h.updApp f).mx = h.mx := rfl
@[simp] theorem Hart.updApp_app (f : AppCore → AppCore) : (h.updApp f).app = f h.app := rfl
@[simp] theorem Hart.updApp_stop (f : AppCore → AppCore) : (h.updApp f).stop = h.stop := rfl
@[simp] theorem Hart.updApp_preempt (f : AppCore → AppCore) : (h.updApp f).preempt = h.preempt := rfl

@[simp] theorem Hart.enter_status (i : Bool) (c : Nat) (v p : Word) : (h.enter i c v p).status = .running := rfl
@[simp] theorem Hart.enter_g (i : Bool) (c : Nat) (v p : Word) : (h.enter i c v p).g = h.g := rfl
@[simp] theorem Hart.enter_fcsr (i : Bool) (c : Nat) (v p : Word) : (h.enter i c v p).fcsr = h.fcsr := rfl
@[simp] theorem Hart.enter_instret (i : Bool) (c : Nat) (v p : Word) : (h.enter i c v p).instret = h.instret := rfl
@[simp] theorem Hart.enter_fstall (i : Bool) (c : Nat) (v p : Word) : (h.enter i c v p).fstall = h.fstall := rfl
@[simp] theorem Hart.enter_ostall (i : Bool) (c : Nat) (v p : Word) : (h.enter i c v p).ostall = h.ostall := rfl
@[simp] theorem Hart.enter_part (i : Bool) (c : Nat) (v p : Word) : (h.enter i c v p).part = h.part := rfl
@[simp] theorem Hart.enter_launch (i : Bool) (c : Nat) (v p : Word) : (h.enter i c v p).launch = h.launch := rfl
@[simp] theorem Hart.enter_logical (i : Bool) (c : Nat) (v p : Word) : (h.enter i c v p).logical = h.logical := rfl
@[simp] theorem Hart.enter_asid (i : Bool) (c : Nat) (v p : Word) : (h.enter i c v p).asid = h.asid := rfl
@[simp] theorem Hart.enter_share (i : Bool) (c : Nat) (v p : Word) : (h.enter i c v p).share = h.share := rfl
@[simp] theorem Hart.enter_vtype (i : Bool) (c : Nat) (v p : Word) : (h.enter i c v p).vtype = h.vtype := rfl
@[simp] theorem Hart.enter_vstat (i : Bool) (c : Nat) (v p : Word) : (h.enter i c v p).vstat = h.vstat := rfl
@[simp] theorem Hart.enter_nest (i : Bool) (c : Nat) (v p : Word) : (h.enter i c v p).nest = h.nest := rfl
@[simp] theorem Hart.enter_loopPos (i : Bool) (c : Nat) (v p : Word) : (h.enter i c v p).loopPos = h.loopPos := rfl
@[simp] theorem Hart.enter_vec (i : Bool) (c : Nat) (v p : Word) : (h.enter i c v p).vec = h.vec := rfl
@[simp] theorem Hart.enter_mx (i : Bool) (c : Nat) (v p : Word) : (h.enter i c v p).mx = h.mx := rfl
@[simp] theorem Hart.enter_stop (i : Bool) (c : Nat) (v p : Word) : (h.enter i c v p).stop = h.stop := rfl
@[simp] theorem Hart.enter_preempt (i : Bool) (c : Nat) (v p : Word) : (h.enter i c v p).preempt = h.preempt := rfl

@[simp] theorem Hart.leave_status : (h.leave).status = h.status := rfl
@[simp] theorem Hart.leave_pc : (h.leave).pc = h.app.xepc := rfl
@[simp] theorem Hart.leave_g : (h.leave).g = h.g := rfl
@[simp] theorem Hart.leave_fcsr : (h.leave).fcsr = h.fcsr := rfl
@[simp] theorem Hart.leave_instret : (h.leave).instret = h.instret := rfl
@[simp] theorem Hart.leave_fstall : (h.leave).fstall = h.fstall := rfl
@[simp] theorem Hart.leave_ostall : (h.leave).ostall = h.ostall := rfl
@[simp] theorem Hart.leave_part : (h.leave).part = h.part := rfl
@[simp] theorem Hart.leave_launch : (h.leave).launch = h.launch := rfl
@[simp] theorem Hart.leave_logical : (h.leave).logical = h.logical := rfl
@[simp] theorem Hart.leave_asid : (h.leave).asid = h.asid := rfl
@[simp] theorem Hart.leave_share : (h.leave).share = h.share := rfl
@[simp] theorem Hart.leave_vtype : (h.leave).vtype = h.vtype := rfl
@[simp] theorem Hart.leave_vstat : (h.leave).vstat = h.vstat := rfl
@[simp] theorem Hart.leave_nest : (h.leave).nest = h.nest := rfl
@[simp] theorem Hart.leave_loopPos : (h.leave).loopPos = h.loopPos := rfl
@[simp] theorem Hart.leave_vec : (h.leave).vec = h.vec := rfl
@[simp] theorem Hart.leave_mx : (h.leave).mx = h.mx := rfl
@[simp] theorem Hart.leave_stop : (h.leave).stop = h.stop := rfl
@[simp] theorem Hart.leave_preempt : (h.leave).preempt = h.preempt := rfl

@[simp] theorem Hart.stopAt_status (c : Cause) (v : Word) (t : Nat) (p : Word) : (h.stopAt c v t p).status = .stopping := rfl
@[simp] theorem Hart.stopAt_pc (c : Cause) (v : Word) (t : Nat) (p : Word) : (h.stopAt c v t p).pc = p := rfl
@[simp] theorem Hart.stopAt_g (c : Cause) (v : Word) (t : Nat) (p : Word) : (h.stopAt c v t p).g = h.g := rfl
@[simp] theorem Hart.stopAt_fcsr (c : Cause) (v : Word) (t : Nat) (p : Word) : (h.stopAt c v t p).fcsr = h.fcsr := rfl
@[simp] theorem Hart.stopAt_instret (c : Cause) (v : Word) (t : Nat) (p : Word) : (h.stopAt c v t p).instret = h.instret := rfl
@[simp] theorem Hart.stopAt_fstall (c : Cause) (v : Word) (t : Nat) (p : Word) : (h.stopAt c v t p).fstall = h.fstall := rfl
@[simp] theorem Hart.stopAt_ostall (c : Cause) (v : Word) (t : Nat) (p : Word) : (h.stopAt c v t p).ostall = h.ostall := rfl
@[simp] theorem Hart.stopAt_part (c : Cause) (v : Word) (t : Nat) (p : Word) : (h.stopAt c v t p).part = h.part := rfl
@[simp] theorem Hart.stopAt_launch (c : Cause) (v : Word) (t : Nat) (p : Word) : (h.stopAt c v t p).launch = h.launch := rfl
@[simp] theorem Hart.stopAt_logical (c : Cause) (v : Word) (t : Nat) (p : Word) : (h.stopAt c v t p).logical = h.logical := rfl
@[simp] theorem Hart.stopAt_asid (c : Cause) (v : Word) (t : Nat) (p : Word) : (h.stopAt c v t p).asid = h.asid := rfl
@[simp] theorem Hart.stopAt_share (c : Cause) (v : Word) (t : Nat) (p : Word) : (h.stopAt c v t p).share = h.share := rfl
@[simp] theorem Hart.stopAt_vtype (c : Cause) (v : Word) (t : Nat) (p : Word) : (h.stopAt c v t p).vtype = h.vtype := rfl
@[simp] theorem Hart.stopAt_vstat (c : Cause) (v : Word) (t : Nat) (p : Word) : (h.stopAt c v t p).vstat = h.vstat := rfl
@[simp] theorem Hart.stopAt_nest (c : Cause) (v : Word) (t : Nat) (p : Word) : (h.stopAt c v t p).nest = h.nest := rfl
@[simp] theorem Hart.stopAt_loopPos (c : Cause) (v : Word) (t : Nat) (p : Word) : (h.stopAt c v t p).loopPos = h.loopPos := rfl
@[simp] theorem Hart.stopAt_vec (c : Cause) (v : Word) (t : Nat) (p : Word) : (h.stopAt c v t p).vec = { h.vec with queue := [], vstart := t } := rfl
@[simp] theorem Hart.stopAt_mx (c : Cause) (v : Word) (t : Nat) (p : Word) : (h.stopAt c v t p).mx = h.mx := rfl
@[simp] theorem Hart.stopAt_app (c : Cause) (v : Word) (t : Nat) (p : Word) : (h.stopAt c v t p).app = h.app := rfl
@[simp] theorem Hart.stopAt_stop (c : Cause) (v : Word) (t : Nat) (p : Word) : (h.stopAt c v t p).stop = some ⟨c, v, t, p⟩ := rfl
@[simp] theorem Hart.stopAt_preempt (c : Cause) (v : Word) (t : Nat) (p : Word) : (h.stopAt c v t p).preempt = h.preempt := rfl

@[simp] theorem Hart.push_status (e : QEntry) : (h.push e).status = .running := rfl
@[simp] theorem Hart.push_pc (e : QEntry) : (h.push e).pc = h.pc + 8 := rfl
@[simp] theorem Hart.push_g (e : QEntry) : (h.push e).g = h.g := rfl
@[simp] theorem Hart.push_fcsr (e : QEntry) : (h.push e).fcsr = h.fcsr := rfl
@[simp] theorem Hart.push_instret (e : QEntry) : (h.push e).instret = h.instret := rfl
@[simp] theorem Hart.push_fstall (e : QEntry) : (h.push e).fstall = h.fstall := rfl
@[simp] theorem Hart.push_ostall (e : QEntry) : (h.push e).ostall = h.ostall := rfl
@[simp] theorem Hart.push_part (e : QEntry) : (h.push e).part = h.part := rfl
@[simp] theorem Hart.push_launch (e : QEntry) : (h.push e).launch = h.launch := rfl
@[simp] theorem Hart.push_logical (e : QEntry) : (h.push e).logical = h.logical := rfl
@[simp] theorem Hart.push_asid (e : QEntry) : (h.push e).asid = h.asid := rfl
@[simp] theorem Hart.push_share (e : QEntry) : (h.push e).share = h.share := rfl
@[simp] theorem Hart.push_vtype (e : QEntry) : (h.push e).vtype = h.vtype := rfl
@[simp] theorem Hart.push_vstat (e : QEntry) : (h.push e).vstat = h.vstat := rfl
@[simp] theorem Hart.push_nest (e : QEntry) : (h.push e).nest = h.nest := rfl
@[simp] theorem Hart.push_loopPos (e : QEntry) : (h.push e).loopPos = h.loopPos := rfl
@[simp] theorem Hart.push_vec (e : QEntry) : (h.push e).vec = { h.vec with queue := h.vec.queue ++ [e], vstart := 0 } := rfl
@[simp] theorem Hart.push_mx (e : QEntry) : (h.push e).mx = h.mx := rfl
@[simp] theorem Hart.push_app (e : QEntry) : (h.push e).app = h.app := rfl
@[simp] theorem Hart.push_stop (e : QEntry) : (h.push e).stop = h.stop := rfl
@[simp] theorem Hart.push_preempt (e : QEntry) : (h.push e).preempt = h.preempt := rfl

@[simp] theorem Hart.setVReg_status (r n v : Nat) : (h.setVReg r n v).status = h.status := rfl
@[simp] theorem Hart.setVReg_pc (r n v : Nat) : (h.setVReg r n v).pc = h.pc := rfl
@[simp] theorem Hart.setVReg_g (r n v : Nat) : (h.setVReg r n v).g = h.g := rfl
@[simp] theorem Hart.setVReg_fcsr (r n v : Nat) : (h.setVReg r n v).fcsr = h.fcsr := rfl
@[simp] theorem Hart.setVReg_instret (r n v : Nat) : (h.setVReg r n v).instret = h.instret := rfl
@[simp] theorem Hart.setVReg_fstall (r n v : Nat) : (h.setVReg r n v).fstall = h.fstall := rfl
@[simp] theorem Hart.setVReg_ostall (r n v : Nat) : (h.setVReg r n v).ostall = h.ostall := rfl
@[simp] theorem Hart.setVReg_part (r n v : Nat) : (h.setVReg r n v).part = h.part := rfl
@[simp] theorem Hart.setVReg_launch (r n v : Nat) : (h.setVReg r n v).launch = h.launch := rfl
@[simp] theorem Hart.setVReg_logical (r n v : Nat) : (h.setVReg r n v).logical = h.logical := rfl
@[simp] theorem Hart.setVReg_asid (r n v : Nat) : (h.setVReg r n v).asid = h.asid := rfl
@[simp] theorem Hart.setVReg_share (r n v : Nat) : (h.setVReg r n v).share = h.share := rfl
@[simp] theorem Hart.setVReg_vtype (r n v : Nat) : (h.setVReg r n v).vtype = h.vtype := rfl
@[simp] theorem Hart.setVReg_vstat (r n v : Nat) : (h.setVReg r n v).vstat = h.vstat := rfl
@[simp] theorem Hart.setVReg_nest (r n v : Nat) : (h.setVReg r n v).nest = h.nest := rfl
@[simp] theorem Hart.setVReg_loopPos (r n v : Nat) : (h.setVReg r n v).loopPos = h.loopPos := rfl
@[simp] theorem Hart.setVReg_mx (r n v : Nat) : (h.setVReg r n v).mx = h.mx := rfl
@[simp] theorem Hart.setVReg_app (r n v : Nat) : (h.setVReg r n v).app = h.app := rfl
@[simp] theorem Hart.setVReg_stop (r n v : Nat) : (h.setVReg r n v).stop = h.stop := rfl
@[simp] theorem Hart.setVReg_preempt (r n v : Nat) : (h.setVReg r n v).preempt = h.preempt := rfl

@[simp] theorem Hart.setMReg_status (r v : Nat) : (h.setMReg r v).status = h.status := rfl
@[simp] theorem Hart.setMReg_pc (r v : Nat) : (h.setMReg r v).pc = h.pc := rfl
@[simp] theorem Hart.setMReg_g (r v : Nat) : (h.setMReg r v).g = h.g := rfl
@[simp] theorem Hart.setMReg_fcsr (r v : Nat) : (h.setMReg r v).fcsr = h.fcsr := rfl
@[simp] theorem Hart.setMReg_instret (r v : Nat) : (h.setMReg r v).instret = h.instret := rfl
@[simp] theorem Hart.setMReg_fstall (r v : Nat) : (h.setMReg r v).fstall = h.fstall := rfl
@[simp] theorem Hart.setMReg_ostall (r v : Nat) : (h.setMReg r v).ostall = h.ostall := rfl
@[simp] theorem Hart.setMReg_part (r v : Nat) : (h.setMReg r v).part = h.part := rfl
@[simp] theorem Hart.setMReg_launch (r v : Nat) : (h.setMReg r v).launch = h.launch := rfl
@[simp] theorem Hart.setMReg_logical (r v : Nat) : (h.setMReg r v).logical = h.logical := rfl
@[simp] theorem Hart.setMReg_asid (r v : Nat) : (h.setMReg r v).asid = h.asid := rfl
@[simp] theorem Hart.setMReg_share (r v : Nat) : (h.setMReg r v).share = h.share := rfl
@[simp] theorem Hart.setMReg_vtype (r v : Nat) : (h.setMReg r v).vtype = h.vtype := rfl
@[simp] theorem Hart.setMReg_vstat (r v : Nat) : (h.setMReg r v).vstat = h.vstat := rfl
@[simp] theorem Hart.setMReg_nest (r v : Nat) : (h.setMReg r v).nest = h.nest := rfl
@[simp] theorem Hart.setMReg_loopPos (r v : Nat) : (h.setMReg r v).loopPos = h.loopPos := rfl
@[simp] theorem Hart.setMReg_mx (r v : Nat) : (h.setMReg r v).mx = h.mx := rfl
@[simp] theorem Hart.setMReg_app (r v : Nat) : (h.setMReg r v).app = h.app := rfl
@[simp] theorem Hart.setMReg_stop (r v : Nat) : (h.setMReg r v).stop = h.stop := rfl
@[simp] theorem Hart.setMReg_preempt (r v : Nat) : (h.setMReg r v).preempt = h.preempt := rfl

/-! ## Registers (R155) -/

@[simp] theorem Hart.getG_zero : h.getG 0 = 0 := rfl
@[simp] theorem Hart.setG_zero (v : Word) : h.setG 0 v = h := rfl
theorem Hart.getG_setG_same {d : Reg} (v : Word) (hd : d ≠ 0) : (h.setG d v).getG d = v := by
  rw [Hart.getG, Hart.setG, if_neg hd, if_neg hd]
  exact assocGet_put_same
theorem Hart.getG_setG_ne {d r : Reg} (v : Word) (hr : r ≠ d) : (h.setG d v).getG r = h.getG r := by
  unfold Hart.getG Hart.setG
  split
  · rfl
  · split
    · rfl
    · exact assocGet_put_ne fun e => hr (BitVec.eq_of_toNat_eq e)

/-! ## Agents of the state -/

@[simp] theorem State.hart_setHart_same (k : Nat) (x : Hart) : (s.setHart k x).hart k = x := by simp [State.hart]
theorem State.hart_setHart_ne {j k : Nat} (x : Hart) (hj : j ≠ k) : (s.setHart k x).hart j = s.hart j := by
  simp [State.hart, assocGet_set_ne hj]
@[simp] theorem State.me_setMe (x : Hart) : (s.setMe x).me = x := State.hart_setHart_same ..
@[simp] theorem State.cur_setMe (x : Hart) : (s.setMe x).cur = s.cur := rfl
@[simp] theorem State.setHart_setHart (k : Nat) (x y : Hart) : (s.setHart k x).setHart k y = s.setHart k y := by
  simp [State.setHart]
@[simp] theorem State.setMe_setMe (x y : Hart) : (s.setMe x).setMe y = s.setMe y := State.setHart_setHart ..
@[simp] theorem State.me_wrBytes (a : Nat) (b : List Byte) : (s.wrBytes a b).me = s.me := rfl
@[simp] theorem State.me_dropPins (w : Nat) : (s.dropPins w).me = s.me := rfl
@[simp] theorem State.me_pinLine (w l c : Nat) : (s.pinLine w l c).me = s.me := by rw [State.pinLine_eq]; rfl

/-! ## Partitions -/

@[simp] theorem State.part_updPart_same (p : Nat) (f : Part → Part) : (s.updPart p f).part p = f (s.part p) := by
  simp [State.part, State.updPart]
theorem State.part_updPart_ne {p q : Nat} (f : Part → Part) (hq : q ≠ p) : (s.updPart p f).part q = s.part q := by
  simp [State.part, State.updPart, assocGet_set_ne hq]

end Sys2Proof.Machine
end

