-- ==== Sys2Proof/Laws/Memory.lean ====
section
/-! SUPPORT. Reading after writing, and that every memory operation keeps the canonical form (Machine/Memory.lean,
Machine/LoadStore.lean). -/

namespace Sys2Proof.Machine

variable (s : State)

/-! ## Bytes -/

theorem bytesOfNat_length (n v : Nat) : (bytesOfNat n v).length = n := by
  induction n generalizing v with
  | zero => rfl
  | succ n ih => simp [bytesOfNat, ih]

/-- The number that some bytes spell is below 256 to the number of bytes. -/
theorem natOfBytes_lt (bs : List Byte) : natOfBytes bs < 256 ^ bs.length := by
  induction bs with
  | nil => exact Nat.one_pos
  | cons b r ih =>
    have := b.isLt
    simp only [natOfBytes, List.length_cons, Nat.pow_succ]
    omega

/-- The bytes of a number spell it, modulo 256 to their number. -/
theorem natOfBytes_bytesOfNat (n v : Nat) : natOfBytes (bytesOfNat n v) = v % 256 ^ n := by
  induction n generalizing v with
  | zero => simp [bytesOfNat, natOfBytes, Nat.mod_one]
  | succ n ih =>
    have e : 256 ^ (n + 1) = 256 * 256 ^ n := by rw [Nat.pow_succ, Nat.mul_comm]
    rw [bytesOfNat, natOfBytes, ih, BitVec.toNat_ofNat, e, Nat.mod_mul]

/-- A byte that was just written. -/
theorem State.rd8_wrBytes_in (a : Nat) (bs : List Byte) (i : Nat) (h : i < bs.length) :
    (s.wrBytes a bs).rd8 (a + i) = bs[i] := assocGet_putBytes_in s.mem a bs i h
/-- A byte elsewhere. -/
theorem State.rd8_wrBytes_out (a : Nat) (bs : List Byte) (b : Nat) (h : b < a ∨ a + bs.length ≤ b) :
    (s.wrBytes a bs).rd8 b = s.rd8 b := assocGet_putBytes_out s.mem a bs b h
/-- The bytes that were just written. -/
theorem State.rdBytes_wrBytes (a : Nat) (bs : List Byte) : (s.wrBytes a bs).rdBytes a bs.length = bs := by
  unfold State.rdBytes
  apply List.ext_getElem
  · simp
  · intro i h1 h2
    simp [s.rd8_wrBytes_in a bs i h2]
/-- The word that was just written. -/
theorem State.rd64_wr64 (a : Nat) (w : Word) : (s.wr64 a w).rd64 a = w := by
  have := s.rdBytes_wrBytes a (bytesOfNat 8 w.toNat)
  rw [bytesOfNat_length] at this
  rw [State.wr64, State.rd64, this, natOfBytes_bytesOfNat]
  apply BitVec.eq_of_toNat_eq
  have := w.isLt
  rw [BitVec.toNat_ofNat]
  omega
/-- A word that a write of a word elsewhere leaves. -/
theorem State.rd64_wr64_apart (a b : Nat) (w : Word) (h : b + 8 ≤ a ∨ a + 8 ≤ b) : (s.wr64 a w).rd64 b = s.rd64 b := by
  unfold State.rd64 State.rdBytes State.wr64
  congr 2
  refine List.map_congr_left fun i hi => ?_
  have : i < 8 := List.mem_range.1 hi
  exact s.rd8_wrBytes_out a _ (b + i) (by rw [bytesOfNat_length]; omega)

/-! ## The canonical form -/

theorem State.wf_wrBytes (a : Nat) (bs : List Byte) (w : Memory.wf s.mem) : Memory.wf (s.wrBytes a bs).mem :=
  Memory.wf_putBytes a bs w
theorem State.wf_wr8 (a : Nat) (b : Byte) (w : Memory.wf s.mem) : Memory.wf (s.wr8 a b).mem := Memory.wf_putBytes a [b] w
theorem State.wf_wr64 (a : Nat) (v : Word) (w : Memory.wf s.mem) : Memory.wf (s.wr64 a v).mem := s.wf_wrBytes a _ w
theorem State.wf_segWrite (gs : List Seg) (bs : List Byte) (w : Memory.wf s.mem) : Memory.wf (s.segWrite gs bs).mem := by
  induction gs generalizing s bs with
  | nil => exact w
  | cons g r ih => exact ih _ _ (s.wf_wrBytes g.leaf.pa _ w)
theorem State.mem_lineEvent (l : Nat) (f : Part → Part) : (s.lineEvent l f).mem = s.mem := by
  unfold State.lineEvent
  split
  · split <;> rfl
  · rfl
theorem State.mem_setCount (l n : Nat) : (s.setCount l n).mem = s.mem := by
  unfold State.setCount
  dsimp only
  split
  · rfl
  · split <;> rfl
theorem State.mem_rcSet (l n : Nat) : (s.rcSet l n).mem = s.mem := by
  unfold State.rcSet
  dsimp only
  rw [State.mem_setCount]
  split
  · exact s.mem_lineEvent ..
  · rfl
theorem State.wf_dropLine (l : Nat) (w : Memory.wf s.mem) : Memory.wf (s.dropLine l).mem := by
  unfold State.dropLine
  dsimp only
  split
  · exact w
  · exact Memory.wf_putBytes _ _ w
theorem State.wf_rdDec (l : Nat) (w : Memory.wf s.mem) : Memory.wf (s.rdDec l).mem := by
  unfold State.rdDec
  split
  · exact s.wf_dropLine l w
  · exact w
theorem State.wf_rcClose (l : Nat) (w : Memory.wf s.mem) : Memory.wf (s.rcClose l).mem := by
  unfold State.rcClose
  split
  · exact w
  · exact State.wf_dropLine _ l (by rw [State.mem_lineEvent]; exact w)
theorem State.wf_spWrite (c o : Nat) (bs : List Byte) (w : Memory.wf s.spad) : Memory.wf (s.spWrite c o bs).spad :=
  Memory.wf_putBytes _ bs w
/-- The memory after reset. -/
theorem Memory.wf_reset : Memory.wf State.reset.mem = true ∧ Memory.wf State.reset.spad = true := ⟨rfl, rfl⟩

/-! ## Runs -/

/-- Writing located runs is writing them in the memory, and nothing else. -/
theorem State.segWrite_eq (gs : List Seg) (bs : List Byte) : s.segWrite gs bs = { s with mem := putRuns s.mem gs bs } := by
  induction gs generalizing s bs with
  | nil => rfl
  | cons g r ih => rw [State.segWrite, ih]; rfl
/-- A byte outside the runs stays. -/
theorem putRuns_out (gs : List Seg) (m : List Host.Cell) (bs : List Byte) (a : Nat) (h : ¬ inRuns gs a) :
    assocGet 0 (putRuns m gs bs) a = assocGet 0 m a := by
  induction gs generalizing m bs with
  | nil => rfl
  | cons g r ih =>
    have hg : ¬ (g.leaf.pa ≤ a ∧ a < g.leaf.pa + g.len) := fun c => h ⟨g, List.mem_cons_self .., c.1, c.2⟩
    rw [putRuns, ih _ _ fun ⟨x, hx, c⟩ => h ⟨x, List.mem_cons_of_mem _ hx, c⟩, assocGet_putBytes_out]
    have : (bs.take g.len).length ≤ g.len := List.length_take_le ..
    omega

/-! ## Counts -/

@[simp] theorem State.tokens_setTokens_same (c k n : Nat) : (s.setTokens c k n).tokens c k = n := by simp [State.tokens]
@[simp] theorem State.spCount_setSpCount_same (c b n : Nat) : (s.setSpCount c b n).spCount c b = n := by simp [State.spCount]
theorem State.cnt_setCount (l n : Nat) : (s.setCount l n).cnt = assocPut 0 s.cnt l n := by
  unfold State.setCount
  dsimp only
  split
  · rfl
  · split <;> rfl
@[simp] theorem State.count_setCount_same (l n : Nat) : (s.setCount l n).count l = n := by
  simp [State.count, State.cnt_setCount]
theorem State.count_setCount_ne {l k : Nat} (n : Nat) (h : k ≠ l) : (s.setCount l n).count k = s.count k := by
  simp [State.count, State.cnt_setCount, assocGet_put_ne h]

end Sys2Proof.Machine
end

