-- ==== Sys2Proof/Laws/Ops.lean ====
section
/-! SUPPORT. What each shared operation answers, once: agents and traps (Machine/Ops.lean), the scalar forms
(Machine/Scalar.lean, ScalarFp.lean, Control.lean), accesses in a calm state (Machine/LoadStore.lean), entering the vector
queue (Machine/VecIssue.lean), and the body of a LOOPB (Machine/Engine.lean). -/

namespace Sys2Proof.Machine

variable {s : State}

/-! ## Agents and traps -/

theorem allowed_all (h : s.agent) : allowed true true true s.cur = true := by
  unfold State.agent at h
  unfold allowed
  split <;> simp_all
theorem allowed_vector (h : kindOf s.cur = .vector) (q a : Bool) : allowed true q a s.cur = true := by
  simp [allowed, h]
theorem allowed_sequencer (h : kindOf s.cur = .sequencer) (v a : Bool) : allowed v true a s.cur = true := by
  simp [allowed, h]
/-- On an agent that has the instruction `onAgents` is its meaning. -/
theorem onAgents_allowed {v q a : Bool} {k : Out} (h : allowed v q a s.cur = true) : onAgents v q a s k = k := if_pos h
/-- On any other agent it is the illegal-instruction trap. -/
theorem onAgents_foreign {v q a : Bool} {k : Out} (h : allowed v q a s.cur = false) : onAgents v q a s k = illegal s :=
  if_neg (by simp [h])
/-- With nothing queued a trap is taken. -/
theorem raise_eq (c : Cause) (v : Word) (hq : s.me.vec.queue = []) : raise c v s = .next (s.traps c v) := by
  unfold raise trapAt State.traps
  dsimp only
  split
  · rfl
  · rw [if_neg (by simp [hq])]
    rfl
theorem illegal_eq (hq : s.me.vec.queue = []) : illegal s = .next (s.traps .illegal s.ir) := raise_eq _ _ hq
@[simp] theorem onOk_ok {α : Type} (a : α) (k : α → Out) : onOk s (.ok a) k = k a := rfl
/-- An access that faults traps with its cause. -/
theorem onOk_trap {α : Type} (c : Cause) (v : Word) (k : α → Out) (hq : s.me.vec.queue = []) :
    onOk s (.error (.trap c v)) k = .next (s.traps c v) := raise_eq c v hq
/-- An access that is held waits. -/
@[simp] theorem onOk_wait {α : Type} (k : α → Out) : onOk s (.error (.wait none)) k = .next s.waitMe := rfl

/-! ## Completing -/

theorem State.retire_setG (d : Reg) (v : Hart → Word) : (s.retire 8 fun h => h.setG d (v h)) = s.writes d (v s.me) := by
  simp [State.retire, State.writes, State.completes, Hart.retire, word]
theorem State.retire_id (n : Nat) : s.retire n id = s.completes s.me (s.me.pc + word n) := rfl
theorem State.retireTo_id (p : Word) : s.retireTo p id = s.completes s.me p := rfl
theorem word_stmtLen (pfx : Bool) : word (stmtLen pfx) = lenOf pfx := by cases pfx <;> rfl

/-! ## The scalar forms -/

theorem regForm_eq (x : AArgs) (v : Word → Word → Word) (h : s.agent) :
    regForm x s v = .next (s.writes x.d (v (s.me.getG x.a) (s.me.getG x.b))) := by
  rw [regForm, onAgents_allowed (allowed_all h)]
  exact congrArg _ (State.retire_setG x.d fun h => v (h.getG x.a) (h.getG x.b))
theorem immForm_eq (x : IArgs) (v : Word → Word → Word) (h : s.agent) :
    immForm x s v =
      .next (s.completes (s.me.setG x.d (v (s.me.getG x.a) x.imm)) (s.me.pc + lenOf x.pfx)) := by
  rw [immForm, onAgents_allowed (allowed_all h)]
  simp [State.retire, State.completes, Hart.retire, word_stmtLen]
theorem fpForm_eq (x : FArgs) (v : Hart → Nat × Flags) (h : s.agent) :
    fpForm x s v = .next (s.completes (s.me.floats x.d (v s.me)) (s.me.pc + 8)) := by
  rw [fpForm, onAgents_allowed (allowed_all h)]
  simp [State.retire, State.completes, Hart.retire, Hart.putFp, Hart.floats, Hart.accrue, accrueWord, word]
theorem branch_eq (x : BArgs) (p : Word → Word → Bool) (h : s.agent) :
    branch x s p = .next (s.completes s.me
      (if p (s.me.getG x.a) (s.me.getG x.b) then branchTarget s.me.pc x.off x.pfx else s.me.pc + lenOf x.pfx)) := by
  rw [branch, onAgents_allowed (allowed_all h)]
  split
  · rfl
  · rw [State.retire_id, word_stmtLen]
theorem jump_aligned (x : AArgs) (f : Hart → Hart) (h : s.agent) (ha : bitsOf (s.me.getG x.a) 2 0 = 0) :
    jump x s f = .next (s.retireTo (s.me.getG x.a) f) := by
  rw [jump, onAgents_allowed (allowed_all h)]
  exact if_neg (by simp [ha])
theorem jump_misaligned (x : AArgs) (f : Hart → Hart) (h : s.agent) (ha : bitsOf (s.me.getG x.a) 2 0 ≠ 0)
    (hq : s.me.vec.queue = []) : jump x s f = .next (s.traps .misaligned (s.me.getG x.a)) := by
  rw [jump, onAgents_allowed (allowed_all h), ← raise_eq _ _ hq]
  exact if_pos ha

/-! ## Accesses in a calm state -/

theorem State.calm.inMotion (h : s.calm) (l : Nat) : s.inMotion l = false := by
  obtain ⟨hc, -, -, h⟩ := h
  have hs : s.swapsOn = [] := by
    unfold State.swapsOn
    rw [hc, List.filterMap_nil, List.append_nil, List.filterMap_eq_nil_iff]
    exact h
  rw [State.inMotion, hs, List.any_nil]
theorem forM_ok {α : Type} (l : List α) (f : α → Except Stop Unit) (h : ∀ a ∈ l, f a = .ok ()) : l.forM f = .ok () := by
  induction l with
  | nil => rfl
  | cons a r ih =>
    have ha := h a (List.mem_cons_self ..)
    have hr := ih fun b hb => h b (List.mem_cons_of_mem _ hb)
    simp only [List.forM_eq_forM, List.forM_cons] at hr ⊢
    rw [ha]
    exact hr
theorem State.calm.gateLine (h : s.calm) (who l : Nat) : s.gateLine who l = .ok () := by
  simp [State.gateLine, State.refusedAt, h.1, h.2.1, h.inMotion]
theorem State.calm.gate (h : s.calm) (who pa n : Nat) : s.gate who pa n = .ok () :=
  forM_ok _ _ fun l _ => h.gateLine who l
theorem State.calm.clean (h : s.calm) (pa n : Nat) : s.clean pa n = .ok () :=
  forM_ok _ _ fun l _ => by simp [State.poisoned, h.2.2.1, assocGet]
theorem State.calm.gateSegs (h : s.calm) (who : Nat) (gs : List Seg) : s.gateSegs who gs = .ok () :=
  forM_ok _ _ fun _ _ => h.gate who ..
theorem State.calm.cleanSegs (h : s.calm) (gs : List Seg) : s.cleanSegs gs = .ok () := forM_ok _ _ fun _ _ => h.clean ..
theorem State.calm.pinReady (h : s.calm) (who : Nat) (gs : List Seg) (sync : Option Nat) : s.pinReady who gs sync = .ok () := by
  unfold State.pinReady
  split
  · rw [if_neg]
    simp [State.pinBlocked, h.2.1]
  · rfl
theorem State.calm.servedSegs (h : s.calm) (who : Nat) (gs : List Seg) : s.servedSegs who gs = s := by
  simp [State.servedSegs, h.2.1]
/-- A calm state is calm whatever bytes it holds. -/
theorem State.calm.mem (h : s.calm) (m : List Host.Cell) : ({ s with mem := m } : State).calm := h
/-- In a calm state a load off the device pages reads its bytes and pins its line. -/
theorem scalarLoad_calm {va : Word} {n : Nat} {sync : Option Nat} {gs : List Seg} (h : s.calm)
    (hl : s.scalarLocate .r (fun _ => true) va n sync.isSome = .ok gs) (hd : onDevice gs = false) :
    s.scalarLoad va n sync = .ok (s.segBytes gs, s.pinSegs s.cur gs sync) := by
  unfold State.scalarLoad
  rw [hl]
  simp [Except.bind, bind, hd, h.gateSegs, h.pinReady, h.cleanSegs, h.servedSegs]

/-! ## Engines and the vector queue -/

theorem assocGet_default_or_mem {α : Type} (d : α) (m : List (Nat × α)) (a : Nat) :
    assocGet d m a = d ∨ (a, assocGet d m a) ∈ m := by
  induction m with
  | nil => exact .inl rfl
  | cons e r ih =>
    obtain ⟨k, v⟩ := e
    by_cases hk : k = a
    · subst hk; simp [assocGet]
    · simp only [assocGet, hk, if_false, List.mem_cons]
      rcases ih with ih | ih
      · exact .inl ih
      · exact .inr (.inr ih)
/-- No agent of a quiet state has a matrix command queued. -/
theorem State.quiet.queue (h : s.quiet) (k : Nat) : (s.hart k).mx.queue = [] := by
  rcases assocGet_default_or_mem Hart.free s.harts k with e | e
  · rw [State.hart, e]; rfl
  · exact h.2.2.1 _ e
/-- Nor has an ended hart that the matrix engine of a cluster would serve. -/
theorem State.quiet.engineHart (h : s.quiet) (c : Nat) : (s.engineHart c).mx.queue = [] := by
  unfold State.engineHart
  rcases assocGet_default_or_mem [] s.tails (seqBase + c) with e | e
  · rw [e]; exact h.queue _
  · cases ht : assocGet [] s.tails (seqBase + c) with
    | nil => exact h.queue _
    | cons x r =>
      rw [ht] at e
      exact h.2.2.2 _ e x (List.mem_cons_self ..)
/-- In a quiet state no engine has anything to do. -/
theorem State.quiet.settleEngines (h : s.quiet) : s.settleEngines = s := by
  have hs : s.engineStep = none := by
    unfold State.engineStep
    rw [h.2.1, List.findSome?_nil]
    dsimp only
    rw [List.findSome?_eq_none_iff]
    intro e _
    split
    · unfold State.matrixStep
      simp [h.engineHart]
    · rfl
  have hr : ∀ n, s.engineRun n = s := fun n => by
    cases n with
    | zero => rfl
    | succ n => simp [State.engineRun, hs]
  rw [State.settleEngines, if_pos h.1, hr]

/-- A queue that goes on once, and no further. -/
theorem queueRun_once {hid : Nat} {t u : State} (n : Nat) (h : t.queueStep hid = some (.next u)) (hu : u.queueStep hid = none) :
    queueRun hid (n + 1) t = .next u := by
  rw [queueRun, h]
  dsimp only
  cases n with
  | zero => rfl
  | succ n => rw [queueRun, hu]
/-- A quiet state is quiet after a change of the executing hart that leaves its matrix queue empty. -/
theorem State.quiet.setMe (h : s.quiet) {x : Hart} (hx : x.mx.queue = []) : (s.setMe x).quiet := by
  refine ⟨h.1, h.2.1, ?_, h.2.2.2⟩
  intro e he
  have key : ∀ (m : List (Nat × Hart)), (∀ e ∈ m, e.2.mx.queue = []) → ∀ e ∈ assocIns m s.cur x, e.2.mx.queue = [] := by
    intro m
    induction m with
    | nil => intro _ e he; simp [assocIns] at he; subst he; exact hx
    | cons f r ih =>
      intro hm e he
      obtain ⟨k, v⟩ := f
      by_cases hl : s.cur < k
      · simp only [assocIns, hl, if_true, List.mem_cons] at he
        rcases he with rfl | rfl | he
        · exact hx
        · exact hm (k, v) (List.mem_cons_self ..)
        · exact hm e (List.mem_cons_of_mem _ he)
      · simp only [assocIns, hl, if_false, List.mem_cons] at he
        rcases he with rfl | he
        · exact hm (k, v) (List.mem_cons_self ..)
        · exact ih (fun e he => hm e (List.mem_cons_of_mem _ he)) e he
  have del : ∀ (m : List (Nat × Hart)) e, e ∈ assocDel m s.cur → e ∈ m := by
    intro m
    induction m with
    | nil => intro e he; cases he
    | cons f r ih =>
      intro e he
      obtain ⟨k, v⟩ := f
      by_cases hk : k = s.cur
      · exact List.mem_cons_of_mem _ (ih e (by simpa [assocDel, hk] using he))
      · simp only [assocDel, hk, if_false, List.mem_cons] at he
        rcases he with rfl | he
        · exact List.mem_cons_self ..
        · exact List.mem_cons_of_mem _ (ih e he)
  exact key _ (fun e he => h.2.2.1 e (del _ e he)) e he
/-- A hart that keeps its share and lanes keeps clear of the queues of ended harts (R80). -/
theorem State.tailsFor_setMe (h0 : s.me.status ≠ .free) (ht : s.tailsFor s.cur = []) {x : Hart} (hs : x.share = s.me.share)
    (hl : x.vec.lanes = s.me.vec.lanes) : (s.setMe x).tailsFor s.cur = [] := by
  have hm : ∀ b k, lanesMeet s.cur x b k = lanesMeet s.cur s.me b k := fun b k => by simp [lanesMeet, hs, hl]
  unfold State.tailsFor at ht ⊢
  rw [show (s.setMe x).tails = s.tails from rfl, show (s.setMe x).hart s.cur = x from State.hart_setHart_same ..]
  rw [List.filter_eq_nil_iff] at ht ⊢
  intro e he hp
  refine ht e he ?_
  rw [show s.hart s.cur = s.me from rfl]
  simp only [Bool.or_eq_true, Bool.and_eq_true, hm] at hp ⊢
  refine ⟨hp.1, ?_⟩
  rcases hp.2 with hp | hp
  · exact .inl hp
  · exact .inr ⟨by simp [h0], hp.2⟩
/-- The state in which a vector instruction has entered the queue. -/
def State.pushed (s : State) (q : QEntry) : State := s.setMe (s.me.push q)
theorem State.tailsFor_pushed (h0 : s.me.status ≠ .free) (ht : s.tailsFor s.cur = []) (q : QEntry) :
    (s.pushed q).tailsFor s.cur = [] := State.tailsFor_setMe h0 ht (x := s.me.push q) rfl rfl
theorem State.pushed_hart (q : QEntry) : (s.pushed q).hart s.cur = s.me.push q := State.hart_setHart_same ..
/-- What runs on a vector hart that is ready is the entry alone. -/
theorem vecIssue_run (h : s.vecReady) (i : Instr) (a b c d : Reg) :
    ∃ n, vecIssue i a b c d s = queueRun s.cur (n + 1) (s.pushed (entryOf i a b c d s.me s.ir)) := by
  obtain ⟨hk, hq, -, -, hv, -⟩ := h
  rw [vecIssue, onAgents_allowed (allowed_vector hk ..), queueUp, if_neg (by simp [hv]), State.settleQueue,
    if_pos (show (s.setMe (s.me.push (entryOf i a b c d s.me s.ir))).eager = true from hq.1)]
  have : 1 ≤ (s.pushed (entryOf i a b c d s.me s.ir)).queued s.cur := by
    unfold State.queued
    rw [State.pushed_hart]
    simp
    omega
  refine ⟨2 * (s.pushed (entryOf i a b c d s.me s.ir)).queued s.cur + s.pins.length - 1, ?_⟩
  congr 1
  simp only [State.pushed, State.setMe, State.setHart_pins] at this ⊢
  omega
/-- An entry that holds no translations of its own runs as it is. -/
theorem runHeld_own {hid : Nat} {q : QEntry} (hx : q.xl = []) (h : Hart) (t : State) : runHeld hid q h t = runEntry hid q h t := by
  unfold runHeld
  rw [if_pos (by rw [hx]; rfl)]
@[simp] theorem entryOf_xl (i : Instr) (a b c d : Reg) (h : Hart) (ir : Word) : (entryOf i a b c d h ir).xl = [] := rfl
/-- The head of a queue that no ended hart holds back. -/
theorem queueStep_head {hid : Nat} {t : State} (ht : t.tailsFor hid = []) (hw : (t.hart hid).vec.vwait = false) :
    t.queueStep hid = t.headStep hid := by
  unfold State.queueStep
  rw [ht]
  simp [hw]
/-- A queue that is empty goes no further. -/
theorem headStep_nil {hid : Nat} {t : State} (h : (t.hart hid).vec.queue = []) : t.headStep hid = none := by
  unfold State.headStep
  simp only [h]
/-- A head that is no LOOPB, or one that has not begun, is no place to stop. -/
theorem loopStops_fresh {hid : Nat} {t : State} {q : QEntry} {qs : List QEntry} (h : (t.hart hid).vec.queue = q :: qs)
    (hq : q.loop = none) : t.loopStops hid = false := by
  have hb : q.betweenTurns = false := by simp [QEntry.betweenTurns, QEntry.pos, hq]
  unfold State.loopStops
  simp only [h, hb, Bool.and_false]
@[simp] theorem entryOf_loop (i : Instr) (a b c d : Reg) (h : Hart) (ir : Word) : (entryOf i a b c d h ir).loop = none := rfl
/-- The entry of a vector instruction that a ready hart has queued is no place to stop. -/
theorem pushed_stops (hv : s.me.vec.queue = []) (i : Instr) (a b c d : Reg) :
    (s.pushed (entryOf i a b c d s.me s.ir)).loopStops s.cur = false :=
  loopStops_fresh (q := entryOf i a b c d s.me s.ir) (qs := []) (by rw [State.pushed_hart, Hart.push_vec, hv]; rfl) rfl
/-- A vector unit that is refused nowhere changes no pin when it has completed. -/
theorem State.unitServed_none {t : State} {hid : Nat} (x : Hart) (h : ∀ p ∈ t.pins, vectorUnit hid ∉ p.refused) :
    t.unitServed hid x = t := by
  unfold State.unitServed
  rw [if_pos]
  simpa using h
/-- A vector instruction whose entry changes its hart alone completes (R79, R165). -/
theorem vecIssue_pure (h : s.vecReady) {i : Instr} {a b c d : Reg} {h1 : Hart}
    (hr : runEntry s.cur (entryOf i a b c d s.me s.ir) (s.me.push (entryOf i a b c d s.me s.ir))
      (s.pushed (entryOf i a b c d s.me s.ir)) = .done h1 (s.pushed (entryOf i a b c d s.me s.ir)))
    (hm : h1.mx.queue = []) (hs : h1.status = .running) (hh : h1.share = s.me.share) (hl : h1.vec.lanes = s.me.vec.lanes)
    (hv1 : h1.vec.vwait = false) (hp : h1.vec.passed = true → s.me.vec.passed = true) :
    vecIssue i a b c d s = .next (s.setMe (h1.popEntry [])) := by
  obtain ⟨n, e⟩ := vecIssue_run h i a b c d
  obtain ⟨hk, hq, h0, ht, hv, hw, hpin⟩ := h
  have hserved : ∀ x, (s.pushed (entryOf i a b c d s.me s.ir)).unitServed s.cur x = s.pushed (entryOf i a b c d s.me s.ir) :=
    fun x => State.unitServed_none x hpin
  have hdone : (s.setMe (h1.popEntry [])).queueDone s.cur s.me.vec.passed = s.setMe (h1.popEntry []) := by
    unfold State.queueDone
    rw [show (s.setMe (h1.popEntry [])).hart s.cur = h1.popEntry [] from State.hart_setHart_same ..]
    rw [if_neg (show ¬ (h1.popEntry []).status = .ending by rw [show (h1.popEntry []).status = h1.status from rfl, hs]; decide),
      if_neg]
    rintro ⟨-, -, c | ⟨c, d⟩⟩
    · rw [show (h1.popEntry []).status = h1.status from rfl, hs] at c
      exact absurd c (by decide)
    · rw [hp c] at d
      exact absurd d (by decide)
  rw [e]
  refine queueRun_once n ?_ ?_
  · rw [queueStep_head (State.tailsFor_pushed h0 ht _) (by rw [State.pushed_hart]; exact hw)]
    unfold State.headStep
    rw [State.pushed_hart, pushed_stops hv]
    dsimp only
    rw [Hart.push_vec, hv]
    dsimp only [List.nil_append]
    rw [if_neg Bool.false_ne_true, runHeld_own (entryOf_xl ..), hr]
    dsimp only
    rw [hserved, State.pushed, State.setMe, State.setHart_setHart]
    rw [show (s.setHart s.cur (h1.popEntry [])).settleEngines = s.setHart s.cur (h1.popEntry []) from
      (State.quiet.setMe hq (x := h1.popEntry []) hm).settleEngines]
    exact congrArg _ (congrArg _ hdone)
  · rw [queueStep_head (State.tailsFor_setMe h0 ht (x := h1.popEntry []) hh hl) (by
      rw [show (s.setMe (h1.popEntry [])).hart s.cur = h1.popEntry [] from State.hart_setHart_same ..]; exact hv1)]
    exact headStep_nil (by rw [show (s.setMe (h1.popEntry [])).hart s.cur = h1.popEntry [] from State.hart_setHart_same ..]; rfl)
/-- Where one entry is queued that is no LOOPB and wrote nothing from the front end, and the hart has its N and vb, nothing is undone
(R344). -/
theorem Hart.unwind_self {h : Hart} {q : QEntry} (hq : h.vec.queue = [q]) (hp : q.loop = none) (hg : q.gWritten = none) (hn : h.vec.n = q.n)
    (hb : h.vec.vb = q.vb) : h.unwind q = h := by
  unfold Hart.unwind
  rw [show h.vec.queue.reverse.foldl Hart.regain h = h by simp [hq, Hart.regain, hg], ← hn, ← hb, hp]
  rfl
/-- A vector instruction whose entry stops is taken as its trap (R344). -/
theorem vecIssue_trap (h : s.vecReady) {i : Instr} {a b c d : Reg} {h1 : Hart} {k : Cause} {v : Word} {t : Nat}
    (hr : runEntry s.cur (entryOf i a b c d s.me s.ir) (s.me.push (entryOf i a b c d s.me s.ir))
      (s.pushed (entryOf i a b c d s.me s.ir)) = .trap k v t h1 (s.pushed (entryOf i a b c d s.me s.ir)))
    (hh : h1.share = s.me.share) (hl : h1.vec.lanes = s.me.vec.lanes) (hv1 : h1.vec.vwait = false)
    (hn : h1.unwind (entryOf i a b c d s.me s.ir) = h1) :
    vecIssue i a b c d s =
      .next ((((s.pushed (entryOf i a b c d s.me s.ir)).dropPins s.cur).unrefuse (vectorUnit s.cur)).setMe
        (h1.stopAt k v t s.me.pc)) := by
  obtain ⟨n, e⟩ := vecIssue_run h i a b c d
  obtain ⟨hk, hq, h0, ht, hv, hw, -⟩ := h
  rw [e]
  refine queueRun_once n ?_ ?_
  · rw [queueStep_head (State.tailsFor_pushed h0 ht _) (by rw [State.pushed_hart]; exact hw)]
    unfold State.headStep
    rw [State.pushed_hart, pushed_stops hv]
    dsimp only
    rw [Hart.push_vec, hv]
    dsimp only [List.nil_append]
    rw [if_neg Bool.false_ne_true, runHeld_own (entryOf_xl ..), hr]
    dsimp only
    rw [hn]
    rfl
  · have hu : ((((s.pushed (entryOf i a b c d s.me s.ir)).dropPins s.cur).unrefuse (vectorUnit s.cur)).setMe
        (h1.stopAt k v t s.me.pc)).hart s.cur = h1.stopAt k v t s.me.pc := State.hart_setHart_same ..
    rw [queueStep_head ?_ (by rw [hu]; exact hv1)]
    · exact headStep_nil (by rw [hu]; rfl)
    · have := State.tailsFor_setMe h0 ht (x := h1.stopAt k v t s.me.pc) hh hl
      unfold State.tailsFor at this ⊢
      rw [hu]
      rw [show (s.setMe (h1.stopAt k v t s.me.pc)).hart s.cur = h1.stopAt k v t s.me.pc from State.hart_setHart_same ..] at this
      exact this
/-- A register-only meaning whose checks pass is its change of the hart. -/
theorem pureV_ok (q : QEntry) (h : Hart) (s : State) (f : Hart → Hart) : pureV q h s true f = .done (f h) s := rfl
/-- One whose checks fail is the illegal-instruction trap. -/
theorem pureV_illegal (q : QEntry) (h : Hart) (s : State) (f : Hart → Hart) :
    pureV q h s false f = .trap .illegal q.ir q.vstart h s := rfl

/-! ## LOOPB bodies (Machine/Engine.lean) -/

/-- After a token the tokens alone have changed. -/
theorem popThen_frame {hid : Nat} {x : XArgs} {f : State → Issue} {u : Hart × State} (h : popThen hid x s f = .ok u) :
    ∃ v, f { s with tok := v } = .ok u := by
  unfold popThen at h
  dsimp only at h
  split at h
  · split at h
    · cases h
    · exact ⟨_, h⟩
  · exact ⟨s.tok, h⟩
/-- A command that is issued changes the tokens, the list of commands and its counter. -/
theorem addCmd_frame {hid : Nat} {x : XArgs} {o : XOps} {h : Hart} {kd : CmdKind} {xl : List (Nat × Nat)} {b : Option BObj}
    {u : Hart × State} (e : addCmd hid x o h s kd xl b = .ok u) :
    u.1 = h ∧ u.2 = { s with cmds := u.2.cmds, tok := u.2.tok, seq := u.2.seq } := by
  obtain ⟨v, hv⟩ := popThen_frame e
  cases hv
  exact ⟨rfl, rfl⟩
/-- A body statement of a vector hart's LOOPB (R272) changes the tokens, the list of commands and its counter. -/
theorem issueBody_frame {hid : Nat} {w : Word} {i : Instr} {n : Nest} {q k : Nat} {h : Hart} {u : Hart × State}
    (hv : kindOf hid = .vector) (e : issueBody hid w i n q k h s = .ok u) :
    u.1 = h ∧ u.2 = { s with cmds := u.2.cmds, tok := u.2.tok, seq := u.2.seq } := by
  have hb : (kindOf hid == .sequencer) = false := by rw [hv]; rfl
  have copy : ∀ {out : Bool} {x : XArgs} {o : XOps}, cpyNST x = false → issueCpy out hid x o h s = .ok u →
      u.1 = h ∧ u.2 = { s with cmds := u.2.cmds, tok := u.2.tok, seq := u.2.seq } := by
    intro out x o hx e
    unfold issueCpy at e
    simp only [bind, Except.bind, hx, Bool.false_eq_true, if_false] at e
    repeat' split at e
    all_goals first | exact addCmd_frame e | cases e
  unfold issueBody at e
  rw [hb] at e
  cases i <;> simp only [bodyIssue, scaleBlock, Bool.false_eq_true, if_false, reduceCtorEq] at e
  case cpyin x =>
    by_cases hx : cpyNST x
    · simp [hx] at e
    · simp only [hx] at e; exact copy (by simpa using hx) e
  case cpyout x =>
    by_cases hx : cpyNST x
    · simp [hx] at e
    · simp only [hx] at e; exact copy (by simpa using hx) e
  case tokpost x =>
    unfold issueTokpost at e
    repeat' split at e
    all_goals cases e
    exact ⟨rfl, rfl⟩
  case tokwait x =>
    obtain ⟨v, hv⟩ := popThen_frame e
    cases hv
    exact ⟨rfl, rfl⟩

end Sys2Proof.Machine
end

