-- ==== Sys2Proof/Laws/PerInstr.lean ====
section
/-! SUPPORT. What holds of every instruction as syntax, one lemma per constructor. -/

namespace Sys2Proof.Laws.Shape

/-- An encoded instruction has one word or the two of a pair (R143, R151); an event of the device has none. -/
def Statement (i : Instr) : Prop :=
  (i.encoded = true → (encode i).length = 1 ∨ (encode i).length = 2) ∧ (i.encoded = false → encode i = [])

/-- One word. -/
theorem one {i : Instr} (h : i.encoded = true) {w : Word} (e : encode i = [w]) : Statement i :=
  ⟨fun _ => .inl (by rw [e]; rfl), fun c => by rw [h] at c; exact absurd c (by decide)⟩
/-- One word, or a pair. -/
theorem pair {i : Instr} (h : i.encoded = true) {p : Bool} {v w : Word} (e : encode i = withPair p v w) : Statement i :=
  ⟨fun _ => by rw [e]; cases p <;> simp [withPair], fun c => by rw [h] at c; exact absurd c (by decide)⟩
/-- No word. -/
theorem none {i : Instr} (h : i.encoded = false) (e : encode i = []) : Statement i :=
  ⟨fun c => by rw [h] at c; exact absurd c (by decide), fun _ => e⟩

theorem add (x : AArgs) : Statement (.add x) := one rfl rfl
theorem sub (x : AArgs) : Statement (.sub x) := one rfl rfl
theorem and (x : AArgs) : Statement (.and x) := one rfl rfl
theorem or (x : AArgs) : Statement (.or x) := one rfl rfl
theorem xor (x : AArgs) : Statement (.xor x) := one rfl rfl
theorem andn (x : AArgs) : Statement (.andn x) := one rfl rfl
theorem sll (x : AArgs) : Statement (.sll x) := one rfl rfl
theorem srl (x : AArgs) : Statement (.srl x) := one rfl rfl
theorem sra (x : AArgs) : Statement (.sra x) := one rfl rfl
theorem rol (x : AArgs) : Statement (.rol x) := one rfl rfl
theorem ror (x : AArgs) : Statement (.ror x) := one rfl rfl
theorem slt (x : AArgs) : Statement (.slt x) := one rfl rfl
theorem sltu (x : AArgs) : Statement (.sltu x) := one rfl rfl
theorem min (x : AArgs) : Statement (.min x) := one rfl rfl
theorem max (x : AArgs) : Statement (.max x) := one rfl rfl
theorem minu (x : AArgs) : Statement (.minu x) := one rfl rfl
theorem maxu (x : AArgs) : Statement (.maxu x) := one rfl rfl
theorem mul (x : AArgs) : Statement (.mul x) := one rfl rfl
theorem mulh (x : AArgs) : Statement (.mulh x) := one rfl rfl
theorem mulhu (x : AArgs) : Statement (.mulhu x) := one rfl rfl
theorem div (x : AArgs) : Statement (.div x) := one rfl rfl
theorem divu (x : AArgs) : Statement (.divu x) := one rfl rfl
theorem rem (x : AArgs) : Statement (.rem x) := one rfl rfl
theorem remu (x : AArgs) : Statement (.remu x) := one rfl rfl
theorem clz (x : AArgs) : Statement (.clz x) := one rfl rfl
theorem ctz (x : AArgs) : Statement (.ctz x) := one rfl rfl
theorem popc (x : AArgs) : Statement (.popc x) := one rfl rfl
theorem bswap (x : AArgs) : Statement (.bswap x) := one rfl rfl
theorem sel (x : AArgs) : Statement (.sel x) := one rfl rfl
theorem addi (x : IArgs) : Statement (.addi x) := pair rfl rfl
theorem andi (x : IArgs) : Statement (.andi x) := pair rfl rfl
theorem ori (x : IArgs) : Statement (.ori x) := pair rfl rfl
theorem xori (x : IArgs) : Statement (.xori x) := pair rfl rfl
theorem slli (x : IArgs) : Statement (.slli x) := pair rfl rfl
theorem srli (x : IArgs) : Statement (.srli x) := pair rfl rfl
theorem srai (x : IArgs) : Statement (.srai x) := pair rfl rfl
theorem slti (x : IArgs) : Statement (.slti x) := pair rfl rfl
theorem sltiu (x : IArgs) : Statement (.sltiu x) := pair rfl rfl
theorem addpc (x : IArgs) : Statement (.addpc x) := pair rfl rfl
theorem fadd (x : FArgs) : Statement (.fadd x) := one rfl rfl
theorem fsub (x : FArgs) : Statement (.fsub x) := one rfl rfl
theorem fmul (x : FArgs) : Statement (.fmul x) := one rfl rfl
theorem fdiv (x : FArgs) : Statement (.fdiv x) := one rfl rfl
theorem fsqrt (x : FArgs) : Statement (.fsqrt x) := one rfl rfl
theorem fmin (x : FArgs) : Statement (.fmin x) := one rfl rfl
theorem fmax (x : FArgs) : Statement (.fmax x) := one rfl rfl
theorem fmadd (x : FArgs) : Statement (.fmadd x) := one rfl rfl
theorem fmsub (x : FArgs) : Statement (.fmsub x) := one rfl rfl
theorem feq (x : FArgs) : Statement (.feq x) := one rfl rfl
theorem flt (x : FArgs) : Statement (.flt x) := one rfl rfl
theorem fle (x : FArgs) : Statement (.fle x) := one rfl rfl
theorem fcvt (x : FArgs) : Statement (.fcvt x) := one rfl rfl
theorem fclass (x : FArgs) : Statement (.fclass x) := one rfl rfl
theorem beq (x : BArgs) : Statement (.beq x) := pair rfl rfl
theorem bne (x : BArgs) : Statement (.bne x) := pair rfl rfl
theorem blt (x : BArgs) : Statement (.blt x) := pair rfl rfl
theorem bge (x : BArgs) : Statement (.bge x) := pair rfl rfl
theorem bltu (x : BArgs) : Statement (.bltu x) := pair rfl rfl
theorem bgeu (x : BArgs) : Statement (.bgeu x) := pair rfl rfl
theorem j (x : BArgs) : Statement (.j x) := pair rfl rfl
theorem call (x : BArgs) : Statement (.call x) := pair rfl rfl
theorem jr (x : AArgs) : Statement (.jr x) := one rfl rfl
theorem callr (x : AArgs) : Statement (.callr x) := one rfl rfl
theorem ld (x : MArgs) : Statement (.ld x) := one rfl rfl
theorem ldu (x : MArgs) : Statement (.ldu x) := one rfl rfl
theorem st (x : MArgs) : Statement (.st x) := one rfl rfl
theorem ldRd (x : MArgs) : Statement (.ldRd x) := one rfl rfl
theorem lduRd (x : MArgs) : Statement (.lduRd x) := one rfl rfl
theorem stRc (x : MArgs) : Statement (.stRc x) := one rfl rfl
theorem ipref (x : PArgs) : Statement (.ipref x) := pair rfl rfl
theorem isync (x : MArgs) : Statement (.isync x) := one rfl rfl
theorem amoswap (x : AmoArgs) : Statement (.amoswap x) := one rfl rfl
theorem amoadd (x : AmoArgs) : Statement (.amoadd x) := one rfl rfl
theorem amoand (x : AmoArgs) : Statement (.amoand x) := one rfl rfl
theorem amoor (x : AmoArgs) : Statement (.amoor x) := one rfl rfl
theorem amoxor (x : AmoArgs) : Statement (.amoxor x) := one rfl rfl
theorem amomin (x : AmoArgs) : Statement (.amomin x) := one rfl rfl
theorem amomax (x : AmoArgs) : Statement (.amomax x) := one rfl rfl
theorem amominu (x : AmoArgs) : Statement (.amominu x) := one rfl rfl
theorem amomaxu (x : AmoArgs) : Statement (.amomaxu x) := one rfl rfl
theorem amocas (x : AmoArgs) : Statement (.amocas x) := one rfl rfl
theorem amofadd (x : AmoArgs) : Statement (.amofadd x) := one rfl rfl
theorem fence (x : MArgs) : Statement (.fence x) := one rfl rfl
theorem arrive (x : MArgs) : Statement (.arrive x) := one rfl rfl
theorem arriveRel (x : MArgs) : Statement (.arriveRel x) := one rfl rfl
theorem expect (x : MArgs) : Statement (.expect x) := one rfl rfl
theorem waitb (x : MArgs) : Statement (.waitb x) := one rfl rfl
theorem join (x : AArgs) : Statement (.join x) := one rfl rfl
theorem leave (x : AArgs) : Statement (.leave x) := one rfl rfl
theorem gbar (x : AArgs) : Statement (.gbar x) := one rfl rfl
theorem spawn (x : AArgs) : Statement (.spawn x) := one rfl rfl
theorem idone (x : AArgs) : Statement (.idone x) := one rfl rfl
theorem claim (x : MArgs) : Statement (.claim x) := one rfl rfl
theorem clwait (x : AArgs) : Statement (.clwait x) := one rfl rfl
theorem vdrain (x : MArgs) : Statement (.vdrain x) := one rfl rfl
theorem csrr (x : CsrArgs) : Statement (.csrr x) := one rfl rfl
theorem csrw (x : CsrArgs) : Statement (.csrw x) := one rfl rfl
theorem csrs (x : CsrArgs) : Statement (.csrs x) := one rfl rfl
theorem csrc (x : CsrArgs) : Statement (.csrc x) := one rfl rfl
theorem syscall (x : NArgs) : Statement (.syscall x) := one rfl rfl
theorem brk (x : NArgs) : Statement (.brk x) := one rfl rfl
theorem xret (x : AArgs) : Statement (.xret x) := one rfl rfl
theorem xwait (x : AArgs) : Statement (.xwait x) := one rfl rfl
theorem xinvt (x : AArgs) : Statement (.xinvt x) := one rfl rfl
theorem xinvta (x : AArgs) : Statement (.xinvta x) := one rfl rfl
theorem xinvtd (x : AArgs) : Statement (.xinvtd x) := one rfl rfl
theorem vconf (x : GArgs) : Statement (.vconf x) := one rfl rfl
theorem vsetb (x : VArgs) : Statement (.vsetb x) := one rfl rfl
theorem vsete (x : VArgs) : Statement (.vsete x) := one rfl rfl
theorem vsetf (x : VArgs) : Statement (.vsetf x) := one rfl rfl
theorem vadd (x : VArgs) : Statement (.vadd x) := one rfl rfl
theorem vsub (x : VArgs) : Statement (.vsub x) := one rfl rfl
theorem vmul (x : VArgs) : Statement (.vmul x) := one rfl rfl
theorem vmulh (x : VArgs) : Statement (.vmulh x) := one rfl rfl
theorem vmulhu (x : VArgs) : Statement (.vmulhu x) := one rfl rfl
theorem vmin (x : VArgs) : Statement (.vmin x) := one rfl rfl
theorem vmax (x : VArgs) : Statement (.vmax x) := one rfl rfl
theorem vminu (x : VArgs) : Statement (.vminu x) := one rfl rfl
theorem vmaxu (x : VArgs) : Statement (.vmaxu x) := one rfl rfl
theorem vand (x : VArgs) : Statement (.vand x) := one rfl rfl
theorem vor (x : VArgs) : Statement (.vor x) := one rfl rfl
theorem vxor (x : VArgs) : Statement (.vxor x) := one rfl rfl
theorem vsll (x : VArgs) : Statement (.vsll x) := one rfl rfl
theorem vsrl (x : VArgs) : Statement (.vsrl x) := one rfl rfl
theorem vsra (x : VArgs) : Statement (.vsra x) := one rfl rfl
theorem vsadd (x : VArgs) : Statement (.vsadd x) := one rfl rfl
theorem vssub (x : VArgs) : Statement (.vssub x) := one rfl rfl
theorem vsaddu (x : VArgs) : Statement (.vsaddu x) := one rfl rfl
theorem vssubu (x : VArgs) : Statement (.vssubu x) := one rfl rfl
theorem vmadd (x : VArgs) : Statement (.vmadd x) := one rfl rfl
theorem vmv (x : VArgs) : Statement (.vmv x) := one rfl rfl
theorem vfadd (x : VArgs) : Statement (.vfadd x) := one rfl rfl
theorem vfsub (x : VArgs) : Statement (.vfsub x) := one rfl rfl
theorem vfmul (x : VArgs) : Statement (.vfmul x) := one rfl rfl
theorem vfdiv (x : VArgs) : Statement (.vfdiv x) := one rfl rfl
theorem vfsqrt (x : VArgs) : Statement (.vfsqrt x) := one rfl rfl
theorem vfmin (x : VArgs) : Statement (.vfmin x) := one rfl rfl
theorem vfmax (x : VArgs) : Statement (.vfmax x) := one rfl rfl
theorem vfma (x : VArgs) : Statement (.vfma x) := one rfl rfl
theorem vfms (x : VArgs) : Statement (.vfms x) := one rfl rfl
theorem vfnma (x : VArgs) : Statement (.vfnma x) := one rfl rfl
theorem vfabs (x : VArgs) : Statement (.vfabs x) := one rfl rfl
theorem vfneg (x : VArgs) : Statement (.vfneg x) := one rfl rfl
theorem vfexp2 (x : VArgs) : Statement (.vfexp2 x) := one rfl rfl
theorem vflog2 (x : VArgs) : Statement (.vflog2 x) := one rfl rfl
theorem vrsqe (x : VArgs) : Statement (.vrsqe x) := one rfl rfl
theorem vceq (x : VArgs) : Statement (.vceq x) := one rfl rfl
theorem vcne (x : VArgs) : Statement (.vcne x) := one rfl rfl
theorem vclt (x : VArgs) : Statement (.vclt x) := one rfl rfl
theorem vcle (x : VArgs) : Statement (.vcle x) := one rfl rfl
theorem vcltu (x : VArgs) : Statement (.vcltu x) := one rfl rfl
theorem vcleu (x : VArgs) : Statement (.vcleu x) := one rfl rfl
theorem vfceq (x : VArgs) : Statement (.vfceq x) := one rfl rfl
theorem vfclt (x : VArgs) : Statement (.vfclt x) := one rfl rfl
theorem vfcle (x : VArgs) : Statement (.vfcle x) := one rfl rfl
theorem vfcun (x : VArgs) : Statement (.vfcun x) := one rfl rfl
theorem cvt (x : VArgs) : Statement (.cvt x) := one rfl rfl
theorem cvtSr (x : VArgs) : Statement (.cvtSr x) := one rfl rfl
theorem vqmx (x : VArgs) : Statement (.vqmx x) := one rfl rfl
theorem vdqmx (x : VArgs) : Statement (.vdqmx x) := one rfl rfl
theorem vexpand4 (x : VArgs) : Statement (.vexpand4 x) := one rfl rfl
theorem vexpand6 (x : VArgs) : Statement (.vexpand6 x) := one rfl rfl
theorem vrng (x : VArgs) : Statement (.vrng x) := one rfl rfl
theorem vclass (x : VArgs) : Statement (.vclass x) := one rfl rfl
theorem vslup (x : VArgs) : Statement (.vslup x) := one rfl rfl
theorem vsldn (x : VArgs) : Statement (.vsldn x) := one rfl rfl
theorem vbcast (x : VArgs) : Statement (.vbcast x) := one rfl rfl
theorem vperm (x : VArgs) : Statement (.vperm x) := one rfl rfl
theorem vcompress (x : VArgs) : Statement (.vcompress x) := one rfl rfl
theorem vxpand (x : VArgs) : Statement (.vxpand x) := one rfl rfl
theorem vtrans (x : VArgs) : Statement (.vtrans x) := one rfl rfl
theorem vzip (x : VArgs) : Statement (.vzip x) := one rfl rfl
theorem vunzip (x : VArgs) : Statement (.vunzip x) := one rfl rfl
theorem vxch (x : VArgs) : Statement (.vxch x) := one rfl rfl
theorem vmand (x : VArgs) : Statement (.vmand x) := one rfl rfl
theorem vmor (x : VArgs) : Statement (.vmor x) := one rfl rfl
theorem vmxor (x : VArgs) : Statement (.vmxor x) := one rfl rfl
theorem vmandn (x : VArgs) : Statement (.vmandn x) := one rfl rfl
theorem vmnot (x : VArgs) : Statement (.vmnot x) := one rfl rfl
theorem vmpopc (x : VArgs) : Statement (.vmpopc x) := one rfl rfl
theorem vmfirst (x : VArgs) : Statement (.vmfirst x) := one rfl rfl
theorem vmset (x : VArgs) : Statement (.vmset x) := one rfl rfl
theorem vredsum (x : VArgs) : Statement (.vredsum x) := one rfl rfl
theorem vfredsum (x : VArgs) : Statement (.vfredsum x) := one rfl rfl
theorem vredmin (x : VArgs) : Statement (.vredmin x) := one rfl rfl
theorem vredmax (x : VArgs) : Statement (.vredmax x) := one rfl rfl
theorem vscan (x : VArgs) : Statement (.vscan x) := one rfl rfl
theorem vfscan (x : VArgs) : Statement (.vfscan x) := one rfl rfl
theorem vld (x : MArgs) : Statement (.vld x) := one rfl rfl
theorem vlds (x : MArgs) : Statement (.vlds x) := one rfl rfl
theorem vldx (x : MArgs) : Statement (.vldx x) := one rfl rfl
theorem vst (x : MArgs) : Statement (.vst x) := one rfl rfl
theorem vsts (x : MArgs) : Statement (.vsts x) := one rfl rfl
theorem vstx (x : MArgs) : Statement (.vstx x) := one rfl rfl
theorem vstxa (x : MArgs) : Statement (.vstxa x) := one rfl rfl
theorem vldsp (x : SArgs) : Statement (.vldsp x) := one rfl rfl
theorem vstsp (x : SArgs) : Statement (.vstsp x) := one rfl rfl
theorem vconfl (x : VArgs) : Statement (.vconfl x) := one rfl rfl
theorem vldRd (x : MArgs) : Statement (.vldRd x) := one rfl rfl
theorem vstRc (x : MArgs) : Statement (.vstRc x) := one rfl rfl
theorem vldspRd (x : SArgs) : Statement (.vldspRd x) := one rfl rfl
theorem vstspRc (x : SArgs) : Statement (.vstspRc x) := one rfl rfl
theorem vldxRd (x : MArgs) : Statement (.vldxRd x) := one rfl rfl
theorem vfence (x : MArgs) : Statement (.vfence x) := one rfl rfl
theorem vcld (x : MArgs) : Statement (.vcld x) := one rfl rfl
theorem vcst (x : MArgs) : Statement (.vcst x) := one rfl rfl
theorem vcpos (x : VArgs) : Statement (.vcpos x) := one rfl rfl
theorem vclen (x : VArgs) : Statement (.vclen x) := one rfl rfl
theorem vcdec (x : VArgs) : Statement (.vcdec x) := one rfl rfl
theorem vcenc (x : VArgs) : Statement (.vcenc x) := one rfl rfl
theorem vcadd (x : VArgs) : Statement (.vcadd x) := one rfl rfl
theorem vcsub (x : VArgs) : Statement (.vcsub x) := one rfl rfl
theorem vcskip (x : VArgs) : Statement (.vcskip x) := one rfl rfl
theorem vccat (x : VArgs) : Statement (.vccat x) := one rfl rfl
theorem gdesc (x : MArgs) : Statement (.gdesc x) := one rfl rfl
theorem gload (x : VArgs) : Statement (.gload x) := one rfl rfl
theorem gscat (x : VArgs) : Statement (.gscat x) := one rfl rfl
theorem gsync (x : VArgs) : Statement (.gsync x) := one rfl rfl
theorem rcclose (x : AArgs) : Statement (.rcclose x) := one rfl rfl
theorem rcclosesp (x : AArgs) : Statement (.rcclosesp x) := one rfl rfl
theorem rcquery (x : AArgs) : Statement (.rcquery x) := one rfl rfl
theorem rcquerysp (x : AArgs) : Statement (.rcquerysp x) := one rfl rfl
theorem mcfg (x : XArgs) : Statement (.mcfg x) := one rfl rfl
theorem msettl (x : XArgs) : Statement (.msettl x) := one rfl rfl
theorem mlda (x : XArgs) : Statement (.mlda x) := one rfl rfl
theorem mldb (x : XArgs) : Statement (.mldb x) := one rfl rfl
theorem mma (x : XArgs) : Statement (.mma x) := one rfl rfl
theorem mopa (x : XArgs) : Statement (.mopa x) := one rfl rfl
theorem mzero (x : XArgs) : Statement (.mzero x) := one rfl rfl
theorem mld (x : XArgs) : Statement (.mld x) := one rfl rfl
theorem mst (x : XArgs) : Statement (.mst x) := one rfl rfl
theorem cpyin (x : XArgs) : Statement (.cpyin x) := one rfl rfl
theorem cpyout (x : XArgs) : Statement (.cpyout x) := one rfl rfl
theorem nest (x : XArgs) : Statement (.nest x) := one rfl rfl
theorem loopb (x : XArgs) : Statement (.loopb x) := one rfl rfl
theorem scank (x : XArgs) : Statement (.scank x) := one rfl rfl
theorem pftier (x : XArgs) : Statement (.pftier x) := one rfl rfl
theorem evtier (x : XArgs) : Statement (.evtier x) := one rfl rfl
theorem tokpost (x : XArgs) : Statement (.tokpost x) := one rfl rfl
theorem tokwait (x : XArgs) : Statement (.tokwait x) := one rfl rfl
theorem efence (x : XArgs) : Statement (.efence x) := one rfl rfl
theorem waveForm (p : Nat) (launch : Nat) : Statement (.waveForm p launch) := none rfl rfl
theorem copyComplete (id : Nat) : Statement (.copyComplete id) := none rfl rfl
theorem scanSegmentWritten (id : Nat) (ch : Nat) : Statement (.scanSegmentWritten id ch) := none rfl rfl
theorem tierGranuleReport (id : Nat) : Statement (.tierGranuleReport id) := none rfl rfl
theorem matrixCommandComplete (cid : Nat) : Statement (.matrixCommandComplete cid) := none rfl rfl
theorem recordSelect (p : Nat) : Statement (.recordSelect p) := none rfl rfl
theorem groupMembershipTake (p : Nat) : Statement (.groupMembershipTake p) := none rfl rfl
theorem priorityAging (p : Nat) (q : Nat) : Statement (.priorityAging p q) := none rfl rfl
theorem clusterGrant (p : Nat) : Statement (.clusterGrant p) := none rfl rfl
theorem shutterLanesPass (core : Nat) : Statement (.shutterLanesPass core) := none rfl rfl
theorem shutterWindowExpiry (hid : Nat) : Statement (.shutterWindowExpiry hid) := none rfl rfl
theorem lanesRelease (hid : Nat) : Statement (.lanesRelease hid) := none rfl rfl
theorem recordComplete (p : Nat) (launch : Nat) : Statement (.recordComplete p launch) := none rfl rfl
theorem drainRound (p : Nat) (launch : Nat) : Statement (.drainRound p launch) := none rfl rfl
theorem pinWiden (line : Nat) : Statement (.pinWiden line) := none rfl rfl
theorem hartStop (hid : Nat) : Statement (.hartStop hid) := none rfl rfl
theorem trapEntry (hid : Nat) (cause : Nat) (tval : Word) : Statement (.trapEntry hid cause tval) := none rfl rfl
theorem interruptEntry (hid : Nat) : Statement (.interruptEntry hid) := none rfl rfl
theorem asidtabWrite (v : Word) : Statement (.asidtabWrite v) := none rfl rfl
theorem release (p : Nat) (area : Word) (target : Nat) : Statement (.release p area target) := none rfl rfl
theorem resume (p : Nat) (area : Word) (target : Nat) : Statement (.resume p area target) := none rfl rfl
theorem kill (p : Nat) (area : Word) (target : Nat) : Statement (.kill p area target) := none rfl rfl
theorem curasidWrite (hid : Nat) (v : Word) : Statement (.curasidWrite hid v) := none rfl rfl
theorem partcfgWrite (p : Nat) (v : Word) : Statement (.partcfgWrite p v) := none rfl rfl
theorem rcvalWrite (hid : Nat) (v : Word) : Statement (.rcvalWrite hid v) := none rfl rfl
theorem tokvalWrite (hid : Nat) (v : Word) : Statement (.tokvalWrite hid v) := none rfl rfl
theorem registerWrite (pa : Nat) (v : Word) : Statement (.registerWrite pa v) := none rfl rfl
theorem eseqRead : Statement (.eseqRead) := none rfl rfl
theorem ltailWrite (v : Word) : Statement (.ltailWrite v) := none rfl rfl
theorem patrolScrub (line : Nat) (res : ScrubResult) : Statement (.patrolScrub line res) := none rfl rfl
theorem flitReceive (port : Nat) (seq : Nat) (ack : Nat) (good : Bool) : Statement (.flitReceive port seq ack good) := none rfl rfl
theorem replayRequest (port : Nat) (seq : Nat) : Statement (.replayRequest port seq) := none rfl rfl
theorem linkRetrain (port : Nat) (gap : LinkGap) (core : Nat) : Statement (.linkRetrain port gap core) := none rfl rfl
theorem fingerprintGo : Statement (.fingerprintGo) := none rfl rfl
theorem fingerprintIntervalExpiry : Statement (.fingerprintIntervalExpiry) := none rfl rfl
theorem fingerprintPassEnd : Statement (.fingerprintPassEnd) := none rfl rfl
theorem heatHalving (p : Nat) : Statement (.heatHalving p) := none rfl rfl
theorem swapStart (p : Nat) : Statement (.swapStart p) := none rfl rfl
theorem swapComplete (g : Nat) : Statement (.swapComplete g) := none rfl rfl
theorem remapPinWrite (g : Nat) (v : Word) : Statement (.remapPinWrite g v) := none rfl rfl
theorem probe : Statement (.probe) := none rfl rfl
theorem inval : Statement (.inval) := none rfl rfl
theorem hirqWrite (v : Word) : Statement (.hirqWrite v) := none rfl rfl
theorem devnumWrite (v : Word) : Statement (.devnumWrite v) := none rfl rfl
theorem hostBar0Write (a : Nat) (data : List Byte) : Statement (.hostBar0Write a data) := none rfl rfl
theorem hostBar0Read (a : Nat) (n : Nat) : Statement (.hostBar0Read a n) := none rfl rfl
theorem inboundRequest (src : Nat) (a : Nat) (n : Nat) (op : OutsideOp) : Statement (.inboundRequest src a n op) := none rfl rfl
theorem powerLimitExceeded (core : Nat) : Statement (.powerLimitExceeded core) := none rfl rfl
theorem aerError (core : Nat) : Statement (.aerError core) := none rfl rfl
theorem rootPortInterrupt (r : Nat) (core : Nat) : Statement (.rootPortInterrupt r core) := none rfl rfl
theorem deviceReset (fail : Nat) : Statement (.deviceReset fail) := none rfl rfl
theorem functionLevelReset : Statement .functionLevelReset := none rfl rfl
theorem vectorInstructionComplete (hid : Nat) : Statement (.vectorInstructionComplete hid) := none rfl rfl
theorem pageTableWalk (space : CachedSpace) (va : Nat) : Statement (.pageTableWalk space va) := none rfl rfl
theorem codeRangeCommandComplete : Statement (.codeRangeCommandComplete) := none rfl rfl

end Sys2Proof.Laws.Shape
end

