-- ==== Sys2Proof/Tests/Slice0.lean ====
section
/-! SUPPORT. Tests: the words of the encodings of spec/, terms that no instruction admits, for each statement a state and
operands that meet its premises, and values of one instruction each. -/

open Sys2Proof Sys2Proof.Machine

namespace Sys2Proof.Tests

set_option Elab.async false

/-! ## Decoding (R143 to R164): words laid out by the field positions of 08 -/

/-- Every word decodes to its instruction. -/
def readsAs (l : List (Nat × Instr)) : Bool :=
  l.all fun p => match decodeOne (BitVec.ofNat 64 p.1) with
    | .ok i => i == p.2
    | .error _ => false

theorem test_words_integer : readsAs [
    (0x0000000003798501, .add ⟨5, 38, 55, 0⟩),
    (0x0000002003798501, .sub ⟨5, 38, 55, 0⟩),
    (0x0000004003798501, .and ⟨5, 38, 55, 0⟩),
    (0x0000006003798501, .or ⟨5, 38, 55, 0⟩),
    (0x0000008003798501, .xor ⟨5, 38, 55, 0⟩),
    (0x000000A003798501, .andn ⟨5, 38, 55, 0⟩),
    (0x000000C003798501, .sll ⟨5, 38, 55, 0⟩),
    (0x000000E003798501, .srl ⟨5, 38, 55, 0⟩),
    (0x0000010003798501, .sra ⟨5, 38, 55, 0⟩),
    (0x0000012003798501, .rol ⟨5, 38, 55, 0⟩),
    (0x0000014003798501, .ror ⟨5, 38, 55, 0⟩),
    (0x0000016003798501, .slt ⟨5, 38, 55, 0⟩),
    (0x0000018003798501, .sltu ⟨5, 38, 55, 0⟩),
    (0x000001A003798501, .min ⟨5, 38, 55, 0⟩),
    (0x000001C003798501, .max ⟨5, 38, 55, 0⟩),
    (0x000001E003798501, .minu ⟨5, 38, 55, 0⟩),
    (0x0000020003798501, .maxu ⟨5, 38, 55, 0⟩),
    (0x0000022003798501, .mul ⟨5, 38, 55, 0⟩),
    (0x0000024003798501, .mulh ⟨5, 38, 55, 0⟩),
    (0x0000026003798501, .mulhu ⟨5, 38, 55, 0⟩),
    (0x0000028003798501, .div ⟨5, 38, 55, 0⟩),
    (0x000002A003798501, .divu ⟨5, 38, 55, 0⟩),
    (0x000002C003798501, .rem ⟨5, 38, 55, 0⟩),
    (0x000002E003798501, .remu ⟨5, 38, 55, 0⟩),
    (0x0000030000098501, .clz ⟨5, 38, 0, 0⟩),
    (0x0000032000098501, .ctz ⟨5, 38, 0, 0⟩),
    (0x0000034000098501, .popc ⟨5, 38, 0, 0⟩),
    (0x0000036000098501, .bswap ⟨5, 38, 0, 0⟩),
    (0x0000038087798501, .sel ⟨5, 38, 55, 33⟩)] = true := by decide +kernel

theorem test_words_immediate : readsAs [
    (0x000FFFFFFFE98502, .addi ⟨5, 38, 0xfffffffffffffffe, false⟩),
    (0x0001234567898503, .andi ⟨5, 38, 0x12345678, false⟩),
    (0x000FFFFFFFE98504, .ori ⟨5, 38, 0xfffffffffffffffe, false⟩),
    (0x0001234567898505, .xori ⟨5, 38, 0x12345678, false⟩),
    (0x0000000003F98506, .slli ⟨5, 38, 0x3f, false⟩),
    (0x0000000003F98507, .srli ⟨5, 38, 0x3f, false⟩),
    (0x0000000003F98508, .srai ⟨5, 38, 0x3f, false⟩),
    (0x0001234567898509, .slti ⟨5, 38, 0x12345678, false⟩),
    (0x000FFFFFFFE9850A, .sltiu ⟨5, 38, 0xfffffffffffffffe, false⟩),
    (0x000123456780050B, .addpc ⟨5, 0, 0x12345678, false⟩)] = true := by decide +kernel

theorem test_words_floating : readsAs [
    (0x0000014003798510, .fadd ⟨10, 5, 38, 55, 0⟩),
    (0x0000036003798510, .fsub ⟨11, 5, 38, 55, 0⟩),
    (0x0000058003798510, .fmul ⟨12, 5, 38, 55, 0⟩),
    (0x000007A003798510, .fdiv ⟨13, 5, 38, 55, 0⟩),
    (0x0000094000098510, .fsqrt ⟨10, 5, 38, 0, 0⟩),
    (0x00000B6003798510, .fmin ⟨11, 5, 38, 55, 0⟩),
    (0x00000D8003798510, .fmax ⟨12, 5, 38, 55, 0⟩),
    (0x00000FA087798510, .fmadd ⟨13, 5, 38, 55, 33⟩),
    (0x0000114087798510, .fmsub ⟨10, 5, 38, 55, 33⟩),
    (0x0000136003798510, .feq ⟨11, 5, 38, 55, 0⟩),
    (0x0000158003798510, .flt ⟨12, 5, 38, 55, 0⟩),
    (0x000017A003798510, .fle ⟨13, 5, 38, 55, 0⟩),
    (0x0000188034098510, .fcvt ⟨4, 5, 38, 0, 13⟩),
    (0x00001B6000098510, .fclass ⟨11, 5, 38, 0, 0⟩)] = true := by decide +kernel

theorem test_words_control : readsAs [
    (0x007FFFFFFFDE6030, .beq ⟨38, 55, 0x7fffffff, false⟩),
    (0x00FFFFFFFDDE6130, .bne ⟨38, 55, 0xfffffffffffffffd, false⟩),
    (0x007FFFFFFFDE6230, .blt ⟨38, 55, 0x7fffffff, false⟩),
    (0x00FFFFFFFDDE6330, .bge ⟨38, 55, 0xfffffffffffffffd, false⟩),
    (0x007FFFFFFFDE6430, .bltu ⟨38, 55, 0x7fffffff, false⟩),
    (0x00FFFFFFFDDE6530, .bgeu ⟨38, 55, 0xfffffffffffffffd, false⟩),
    (0x007FFFFFFF000630, .j ⟨0, 0, 0x7fffffff, false⟩),
    (0x00FFFFFFFF000031, .call ⟨0, 0, 0xffffffffffffffff, false⟩),
    (0x0000000000098032, .jr ⟨0, 38, 0, 0⟩),
    (0x0000002000098032, .callr ⟨0, 38, 0, 0⟩),
    (0x0000000009000243, .ipref ⟨2, 0, 0, 9, false⟩),
    (0x0000000012300560, .csrr ⟨5, 0, 0x123⟩),
    (0x0000000001098061, .csrw ⟨0, 38, 0x010⟩),
    (0x0000000020098562, .csrs ⟨5, 38, 0x200⟩),
    (0x0000000000498563, .csrc ⟨5, 38, 4⟩),
    (0x00089ABCDEF00064, .syscall ⟨0x89ABCDEF⟩),
    (0x0000000004D00065, .brk ⟨77⟩),
    (0x0000000000000068, .xret ⟨0, 0, 0, 0⟩),
    (0x0000000000000069, .xwait ⟨0, 0, 0, 0⟩),
    (0x000000005955006A, .xinvt ⟨0, 20, 21, 22⟩),
    (0x000000200005006A, .xinvta ⟨0, 20, 0, 0⟩),
    (0x000000400000006A, .xinvtd ⟨0, 0, 0, 0⟩)] = true := by decide +kernel

theorem test_words_memory : readsAs [
    (0x07000206E7798540, .ld ⟨5, 38, 55, 9, 3, 3, false, 0, 32769, true, true⟩),
    (0x00FFFE0427798541, .ldu ⟨5, 38, 55, 9, 0, 2, false, 0, 32767, false, false⟩),
    (0x04000403A7798542, .st ⟨5, 38, 55, 9, 6, 1, false, 0, 2, false, true⟩),
    (0x0200060027798545, .ldRd ⟨5, 38, 55, 9, 0, 0, false, 0, 3, true, false⟩),
    (0x0400080327798546, .lduRd ⟨5, 38, 55, 9, 4, 1, false, 0, 4, false, true⟩),
    (0x06000A0627F98547, .stRc ⟨5, 38, 63, 9, 0, 3, false, 0, 5, true, true⟩),
    (0x0000000003798044, .isync ⟨0, 38, 55, 0, 0, 0, false, 0, 0, false, false⟩),
    (0x01FFFE0100000049, .fence ⟨0, 0, 0, 0, 4, 0, false, 0, 65535, false, false⟩),
    (0x000000008009804A, .arrive ⟨0, 38, 0, 0, 2, 0, false, 0, 0, false, false⟩),
    (0x040000004009804A, .arriveRel ⟨0, 38, 0, 0, 1, 0, false, 0, 0, false, true⟩),
    (0x000000000379804B, .expect ⟨0, 38, 55, 0, 0, 0, false, 0, 0, false, false⟩),
    (0x000000018379854C, .waitb ⟨5, 38, 55, 0, 6, 0, false, 0, 0, false, false⟩),
    (0x0100000000098052, .claim ⟨0, 38, 0, 0, 0, 0, false, 0, 32768, false, false⟩),
    (0x0000000140000054, .vdrain ⟨0, 0, 0, 0, 5, 0, false, 0, 0, false, false⟩),
    (0x0000000427798548, .amoswap ⟨5, 38, 55, 9, 0, 2, 0⟩),
    (0x0000220667798548, .amoadd ⟨5, 38, 55, 9, 1, 3, 1⟩),
    (0x00004404A7798548, .amoand ⟨5, 38, 55, 9, 2, 2, 2⟩),
    (0x00006606E7798548, .amoor ⟨5, 38, 55, 9, 3, 3, 3⟩),
    (0x0000080527798548, .amoxor ⟨5, 38, 55, 9, 4, 2, 0⟩),
    (0x00002A0767798548, .amomin ⟨5, 38, 55, 9, 5, 3, 1⟩),
    (0x00004C05A7798548, .amomax ⟨5, 38, 55, 9, 6, 2, 2⟩),
    (0x00006E0627798548, .amominu ⟨5, 38, 55, 9, 0, 3, 3⟩),
    (0x0000100467798548, .amomaxu ⟨5, 38, 55, 9, 1, 2, 0⟩),
    (0x00003206A7798548, .amocas ⟨5, 38, 55, 9, 2, 3, 1⟩),
    (0x00005404E7798548, .amofadd ⟨5, 38, 55, 9, 3, 2, 2⟩)] = true := by decide +kernel

theorem test_words_launch : readsAs [
    (0x000000000009854D, .join ⟨5, 38, 0, 0⟩),
    (0x000000200000054D, .leave ⟨5, 0, 0, 0⟩),
    (0x000000400000054D, .gbar ⟨5, 0, 0, 0⟩),
    (0x0000000003798550, .spawn ⟨5, 38, 55, 0⟩),
    (0x0000000000000051, .idone ⟨0, 0, 0, 0⟩),
    (0x0000000000000053, .clwait ⟨0, 0, 0, 0⟩),
    (0x00000000037985D4, .rcclose ⟨5, 38, 55, 0⟩),
    (0x00000020037985D4, .rcclosesp ⟨5, 38, 55, 0⟩),
    (0x00000000000985D5, .rcquery ⟨5, 38, 0, 0⟩),
    (0x00000020000985D5, .rcquerysp ⟨5, 38, 0, 0⟩),
    (0x0000000001000580, .vconf ⟨5, 16⟩)] = true := by decide +kernel

theorem test_words_vinteger : readsAs [
    (0x0000001B03798584, .vadd ⟨false, true, 11, 5, 38, 55, 0⟩),
    (0x0000803B03798584, .vsub ⟨true, true, 11, 5, 38, 55, 0⟩),
    (0x0000005B03798584, .vmul ⟨false, true, 11, 5, 38, 55, 0⟩),
    (0x0000007B03798584, .vmulh ⟨false, true, 11, 5, 38, 55, 0⟩),
    (0x0000009B03798584, .vmulhu ⟨false, true, 11, 5, 38, 55, 0⟩),
    (0x000000BB03798584, .vmin ⟨false, true, 11, 5, 38, 55, 0⟩),
    (0x000000DB03798584, .vmax ⟨false, true, 11, 5, 38, 55, 0⟩),
    (0x000000FB03798584, .vminu ⟨false, true, 11, 5, 38, 55, 0⟩),
    (0x0000011B03798584, .vmaxu ⟨false, true, 11, 5, 38, 55, 0⟩),
    (0x0000013B03798584, .vand ⟨false, true, 11, 5, 38, 55, 0⟩),
    (0x0000015B03798584, .vor ⟨false, true, 11, 5, 38, 55, 0⟩),
    (0x0000017B03798584, .vxor ⟨false, true, 11, 5, 38, 55, 0⟩),
    (0x0000019B03798584, .vsll ⟨false, true, 11, 5, 38, 55, 0⟩),
    (0x000001BB03798584, .vsrl ⟨false, true, 11, 5, 38, 55, 0⟩),
    (0x000001DB03798584, .vsra ⟨false, true, 11, 5, 38, 55, 0⟩),
    (0x000001FB03798584, .vsadd ⟨false, true, 11, 5, 38, 55, 0⟩),
    (0x0000021B03798584, .vssub ⟨false, true, 11, 5, 38, 55, 0⟩),
    (0x0000023B03798584, .vsaddu ⟨false, true, 11, 5, 38, 55, 0⟩),
    (0x0000025B03798584, .vssubu ⟨false, true, 11, 5, 38, 55, 0⟩),
    (0x0000827B87798584, .vmadd ⟨true, true, 11, 5, 38, 55, 33⟩),
    (0x0000029B00098584, .vmv ⟨false, true, 11, 5, 38, 0, 0⟩)] = true := by decide +kernel

theorem test_words_vfloat : readsAs [
    (0x0000001B03798585, .vfadd ⟨false, true, 11, 5, 38, 55, 0⟩),
    (0x0000003B03798585, .vfsub ⟨false, true, 11, 5, 38, 55, 0⟩),
    (0x0000005B03798585, .vfmul ⟨false, true, 11, 5, 38, 55, 0⟩),
    (0x0000807B03798585, .vfdiv ⟨true, true, 11, 5, 38, 55, 0⟩),
    (0x0000009B00098585, .vfsqrt ⟨false, true, 11, 5, 38, 0, 0⟩),
    (0x000000BB03798585, .vfmin ⟨false, true, 11, 5, 38, 55, 0⟩),
    (0x000000DB03798585, .vfmax ⟨false, true, 11, 5, 38, 55, 0⟩),
    (0x000000FB87798585, .vfma ⟨false, true, 11, 5, 38, 55, 33⟩),
    (0x0000811B87798585, .vfms ⟨true, true, 11, 5, 38, 55, 33⟩),
    (0x0000013B87798585, .vfnma ⟨false, true, 11, 5, 38, 55, 33⟩),
    (0x0000015B00098585, .vfabs ⟨false, true, 11, 5, 38, 0, 0⟩),
    (0x0000017B00098585, .vfneg ⟨false, true, 11, 5, 38, 0, 0⟩),
    (0x0000019B00098585, .vfexp2 ⟨false, true, 11, 5, 38, 0, 0⟩),
    (0x000001BB00098585, .vflog2 ⟨false, true, 11, 5, 38, 0, 0⟩),
    (0x000081DB03798585, .vrsqe ⟨true, true, 11, 5, 38, 55, 0⟩)] = true := by decide +kernel

theorem test_words_vcompare : readsAs [
    (0x0000001B03798F86, .vceq ⟨false, true, 11, 15, 38, 55, 0⟩),
    (0x0000003B03798F86, .vcne ⟨false, true, 11, 15, 38, 55, 0⟩),
    (0x0000805B03798F86, .vclt ⟨true, true, 11, 15, 38, 55, 0⟩),
    (0x0000007B03798F86, .vcle ⟨false, true, 11, 15, 38, 55, 0⟩),
    (0x0000009B03798F86, .vcltu ⟨false, true, 11, 15, 38, 55, 0⟩),
    (0x000000BB03798F86, .vcleu ⟨false, true, 11, 15, 38, 55, 0⟩),
    (0x000000DB03798F86, .vfceq ⟨false, true, 11, 15, 38, 55, 0⟩),
    (0x000000FB03798F86, .vfclt ⟨false, true, 11, 15, 38, 55, 0⟩),
    (0x0000011B03798F86, .vfcle ⟨false, true, 11, 15, 38, 55, 0⟩),
    (0x0000813B03798F86, .vfcun ⟨true, true, 11, 15, 38, 55, 0⟩),
    (0x0000001B34098587, .cvt ⟨false, true, 11, 5, 38, 0, 13⟩),
    (0x0000003B33798587, .cvtSr ⟨false, true, 11, 5, 38, 55, 12⟩),
    (0x0000004033798587, .vqmx ⟨false, false, 0, 5, 38, 55, 12⟩),
    (0x000000602B798587, .vdqmx ⟨false, false, 0, 5, 38, 55, 10⟩),
    (0x0000009B00098587, .vexpand4 ⟨false, true, 11, 5, 38, 0, 0⟩),
    (0x000000BB04098587, .vexpand6 ⟨false, true, 11, 5, 38, 0, 1⟩),
    (0x000000DB03798587, .vrng ⟨false, true, 11, 5, 38, 55, 0⟩),
    (0x000000FB00098587, .vclass ⟨false, true, 11, 5, 38, 0, 0⟩)] = true := by decide +kernel

theorem test_words_vpermute : readsAs [
    (0x0000001B0B798588, .vslup ⟨false, true, 11, 5, 38, 55, 2⟩),
    (0x0000003B07798588, .vsldn ⟨false, true, 11, 5, 38, 55, 1⟩),
    (0x0000005B00098588, .vbcast ⟨false, true, 11, 5, 38, 0, 0⟩),
    (0x0000007B03798588, .vperm ⟨false, true, 11, 5, 38, 55, 0⟩),
    (0x0000009B00098588, .vcompress ⟨false, true, 11, 5, 38, 0, 0⟩),
    (0x000000BB00098588, .vxpand ⟨false, true, 11, 5, 38, 0, 0⟩),
    (0x000000C000098888, .vtrans ⟨false, false, 0, 8, 38, 0, 0⟩),
    (0x000000E007798588, .vzip ⟨false, false, 0, 5, 38, 55, 1⟩),
    (0x0000010007798588, .vunzip ⟨false, false, 0, 5, 38, 55, 1⟩),
    (0x0000013B03798588, .vxch ⟨false, true, 11, 5, 38, 55, 0⟩),
    (0x0000000000D38F89, .vmand ⟨false, false, 0, 15, 14, 13, 0⟩),
    (0x0000002000D38F89, .vmor ⟨false, false, 0, 15, 14, 13, 0⟩),
    (0x0000004000D38F89, .vmxor ⟨false, false, 0, 15, 14, 13, 0⟩),
    (0x0000006000D38F89, .vmandn ⟨false, false, 0, 15, 14, 13, 0⟩),
    (0x0000008000038F89, .vmnot ⟨false, false, 0, 15, 14, 0, 0⟩),
    (0x000000BB0003A689, .vmpopc ⟨false, true, 11, 38, 14, 0, 0⟩),
    (0x000000DB0003A689, .vmfirst ⟨false, true, 11, 38, 14, 0, 0⟩),
    (0x000000E000098F89, .vmset ⟨false, false, 0, 15, 38, 0, 0⟩),
    (0x0000001B0379858A, .vredsum ⟨false, true, 11, 5, 38, 55, 0⟩),
    (0x0000003B0379858A, .vfredsum ⟨false, true, 11, 5, 38, 55, 0⟩),
    (0x0000005B1009858A, .vredmin ⟨false, true, 11, 5, 38, 0, 4⟩),
    (0x0000007B0379858A, .vredmax ⟨false, true, 11, 5, 38, 55, 0⟩),
    (0x0000009B0B79858A, .vscan ⟨false, true, 11, 5, 38, 55, 2⟩),
    (0x000000BB1409858A, .vfscan ⟨false, true, 11, 5, 38, 0, 5⟩)] = true := by decide +kernel

theorem test_words_vcoded : readsAs [
    (0x0000000000098581, .vsetb ⟨false, false, 0, 5, 38, 0, 0⟩),
    (0x0000000000098582, .vsete ⟨false, false, 0, 5, 38, 0, 0⟩),
    (0x0000000000098583, .vsetf ⟨false, false, 0, 5, 38, 0, 0⟩),
    (0x0000001B00098FB9, .vconfl ⟨false, true, 11, 15, 38, 0, 0⟩),
    (0x00000000000985C2, .vcpos ⟨false, false, 0, 5, 38, 0, 0⟩),
    (0x00000000000985C3, .vclen ⟨false, false, 0, 5, 38, 0, 0⟩),
    (0x00000000840985C4, .vcdec ⟨false, false, 0, 5, 38, 0, 33⟩),
    (0x00000000840985C5, .vcenc ⟨false, false, 0, 5, 38, 0, 33⟩),
    (0x00000000037985C6, .vcadd ⟨false, false, 0, 5, 38, 55, 0⟩),
    (0x00000000037985C7, .vcsub ⟨false, false, 0, 5, 38, 55, 0⟩),
    (0x00000000037980C8, .vcskip ⟨false, false, 0, 0, 38, 55, 0⟩),
    (0x00000000037985C9, .vccat ⟨false, false, 0, 5, 38, 55, 0⟩),
    (0x0000000084F985D1, .gload ⟨false, false, 0, 5, 38, 15, 33⟩),
    (0x0000000084F985D2, .gscat ⟨false, false, 0, 5, 38, 15, 33⟩),
    (0x0000000000F000D3, .gsync ⟨false, false, 0, 0, 0, 15, 0⟩)] = true := by decide +kernel

theorem test_words_vmemory : readsAs [
    (0x01FFE170240985B0, .vld ⟨5, 38, 0, 9, 0, 0, true, 11, 65520, false, false⟩),
    (0x01FFE170277985B1, .vlds ⟨5, 38, 55, 9, 0, 0, true, 11, 65520, false, false⟩),
    (0x03FFE170277985B2, .vldx ⟨5, 38, 55, 9, 0, 0, true, 11, 65520, true, false⟩),
    (0x01FFE170240985B3, .vst ⟨5, 38, 0, 9, 0, 0, true, 11, 65520, false, false⟩),
    (0x01FFE170277985B4, .vsts ⟨5, 38, 55, 9, 0, 0, true, 11, 65520, false, false⟩),
    (0x01FFE170277985B5, .vstx ⟨5, 38, 55, 9, 0, 0, true, 11, 65520, false, false⟩),
    (0x03FFE170277985B6, .vstxa ⟨5, 38, 55, 9, 0, 0, true, 11, 65520, true, false⟩),
    (0x01FFE170240985BA, .vldRd ⟨5, 38, 0, 9, 0, 0, true, 11, 65520, false, false⟩),
    (0x07FFE17027F985BB, .vstRc ⟨5, 38, 63, 9, 0, 0, true, 11, 65520, true, true⟩),
    (0x03FFE170277985BE, .vldxRd ⟨5, 38, 55, 9, 0, 0, true, 11, 65520, true, false⟩),
    (0x00004200800000BF, .vfence ⟨0, 0, 0, 0, 2, 0, false, 0, 33, false, false⟩),
    (0x00000000240985C0, .vcld ⟨5, 38, 0, 9, 0, 0, false, 0, 0, false, false⟩),
    (0x00000000240985C1, .vcst ⟨5, 38, 0, 9, 0, 0, false, 0, 0, false, false⟩),
    (0x0000800024098FD0, .gdesc ⟨15, 38, 0, 9, 0, 0, false, 0, 64, false, false⟩),
    (0x0000117B640985B7, .vldsp ⟨5, 38, 0, 9, 13, false, true, true, 11, 8, false, false⟩),
    (0x00001177A40985B8, .vstsp ⟨5, 38, 0, 9, 14, true, false, true, 11, 8, false, false⟩),
    (0x01FFF000240985BC, .vldspRd ⟨5, 38, 0, 9, 0, false, false, false, 0, 65528, false, false⟩),
    (0x06000004E7F985BD, .vstspRc ⟨5, 38, 63, 9, 3, true, false, false, 0, 0, true, true⟩)] = true := by decide +kernel

theorem test_words_engine : readsAs [
    (0x00000000037985D8, .mcfg ⟨0, false, false, 0, 0, 5, 38, 55, 0⟩),
    (0x00000000877985D9, .msettl ⟨0, false, false, 0, 0, 5, 38, 55, 33⟩),
    (0x000007A5037980DA, .mlda ⟨1, true, true, 10, 5, 0, 38, 55, 0⟩),
    (0x000003A5840980DB, .mldb ⟨0, true, true, 10, 5, 0, 38, 0, 33⟩),
    (0x000003A5000007DC, .mma ⟨0, true, true, 10, 5, 7, 0, 0, 0⟩),
    (0x000003A5000007DD, .mopa ⟨0, true, true, 10, 5, 7, 0, 0, 0⟩),
    (0x000003A5000007DE, .mzero ⟨0, true, true, 10, 5, 7, 0, 0, 0⟩),
    (0x000003A5000987DF, .mld ⟨0, true, true, 10, 5, 7, 38, 0, 0⟩),
    (0x0003ABA5877983E0, .mst ⟨234, true, true, 10, 5, 3, 38, 55, 33⟩),
    (0x000003A5877985E1, .cpyin ⟨0, true, true, 10, 5, 5, 38, 55, 33⟩),
    (0x000007A5877985E1, .cpyout ⟨1, true, true, 10, 5, 5, 38, 55, 33⟩),
    (0x00000000000980E2, .nest ⟨0, false, false, 0, 0, 0, 38, 0, 0⟩),
    (0x00001C00000000E3, .loopb ⟨7, false, false, 0, 0, 0, 0, 0, 0⟩),
    (0x000003A5000985E4, .scank ⟨0, true, true, 10, 5, 5, 38, 0, 0⟩),
    (0x000003A5037985E5, .pftier ⟨0, true, true, 10, 5, 5, 38, 55, 0⟩),
    (0x000003A5037985E6, .evtier ⟨0, true, true, 10, 5, 5, 38, 55, 0⟩),
    (0x00000105000000E7, .tokpost ⟨0, false, true, 0, 5, 0, 0, 0, 0⟩),
    (0x000002A0000000E8, .tokwait ⟨0, true, false, 10, 0, 0, 0, 0, 0⟩),
    (0x00003BA5000000E9, .efence ⟨14, true, true, 10, 5, 0, 0, 0, 0⟩)] = true := by decide +kernel

/-! ## WellFormed: a term for each check, which the check refuses -/

/-- The terms are ill formed. -/
def illFormed (l : List Instr) : Bool := l.all fun i => !i.ok
/-- Their words raise the illegal-instruction trap (R164). -/
def refusedWords (l : List Instr) : Bool :=
  l.all fun i => match decodeStmt (encode i) with
    | .error (.illegal _) => true
    | _ => false

/-- Register fields and register numbers. -/
def badRegs : List Instr :=
  [.add ⟨1, 2, 3, 4⟩, .clz ⟨1, 2, 3, 0⟩, .j ⟨1, 0, 8, false⟩, .jr ⟨1, 2, 0, 0⟩, .vceq ⟨false, false, 0, 16, 1, 2, 0⟩,
   .vmand ⟨false, false, 0, 1, 16, 2, 0⟩, .vmand ⟨false, false, 0, 1, 2, 16, 0⟩, .vtrans ⟨false, false, 0, 4, 0, 0, 0⟩,
   .msettl ⟨0, false, false, 0, 0, 0, 1, 2, 3⟩, .msettl ⟨0, false, false, 0, 0, 62, 1, 2, 3⟩, .mma ⟨0, false, false, 0, 0, 8, 0, 0, 0⟩]
/-- Limits of c and of function fields. -/
def badCodes : List Instr :=
  [.cvt ⟨false, false, 0, 1, 2, 0, 14⟩, .cvtSr ⟨false, false, 0, 1, 2, 3, 9⟩, .vqmx ⟨false, false, 0, 1, 2, 3, 13⟩,
   .vexpand6 ⟨false, false, 0, 1, 2, 0, 2⟩, .vslup ⟨false, false, 0, 1, 2, 3, 5⟩, .vredsum ⟨false, false, 0, 1, 2, 3, 4⟩,
   .vredsum ⟨false, false, 0, 1, 2, 0, 1⟩, .vscan ⟨false, false, 0, 1, 2, 0, 3⟩, .vscan ⟨false, false, 0, 1, 2, 3, 5⟩,
   .mma ⟨1, false, false, 0, 0, 0, 0, 0, 0⟩, .mlda ⟨2, false, false, 0, 0, 0, 1, 0, 0⟩, .mst ⟨256, false, false, 0, 0, 0, 1, 2, 3⟩,
   .cpyin ⟨2048, false, false, 0, 0, 0, 1, 2, 3⟩, .loopb ⟨8, false, false, 0, 0, 0, 0, 0, 0⟩,
   .efence ⟨16, false, false, 0, 0, 0, 0, 0, 0⟩, .fadd ⟨9, 1, 2, 3, 0⟩, .fadd ⟨14, 1, 2, 3, 0⟩, .fcvt ⟨12, 1, 2, 0, 12⟩,
   .fcvt ⟨8, 1, 2, 0, 12⟩, .fcvt ⟨12, 1, 2, 0, 9⟩, .fcvt ⟨4, 1, 2, 0, 6⟩, .vconf ⟨1, 12⟩, .ipref ⟨0, 0, 0, 1, false⟩,
   .ipref ⟨3, 0, 0, 1, false⟩]
/-- Sizes, scopes, classes, displacements, AR and SC. -/
def badAccesses : List Instr :=
  [.ld ⟨1, 2, 0, 0, 0, 4, false, 0, 0, false, false⟩, .ldu ⟨1, 2, 0, 0, 0, 3, false, 0, 0, false, false⟩,
   .ld ⟨1, 2, 0, 0, 1, 3, false, 0, 0, false, false⟩, .ld ⟨1, 2, 0, 0, 7, 3, false, 0, 0, false, true⟩,
   .ld ⟨1, 2, 0, 0, 0, 3, true, 0, 0, false, false⟩, .ld ⟨1, 2, 0, 0, 0, 3, false, 1, 0, false, false⟩,
   .stRc ⟨1, 2, 0, 0, 1, 3, false, 0, 0, false, false⟩, .isync ⟨0, 2, 3, 1, 0, 0, false, 0, 0, false, false⟩,
   .isync ⟨0, 2, 3, 0, 0, 1, false, 0, 0, false, false⟩, .isync ⟨0, 2, 3, 0, 0, 0, false, 0, 1, false, false⟩,
   .isync ⟨0, 2, 3, 0, 0, 0, false, 0, 0, true, false⟩, .isync ⟨0, 2, 3, 0, 0, 0, false, 0, 0, false, true⟩,
   .amoadd ⟨1, 2, 3, 0, 0, 1, 0⟩, .amoadd ⟨1, 2, 3, 0, 7, 2, 0⟩, .fence ⟨0, 0, 0, 0, 7, 0, false, 0, 1, false, false⟩,
   .vld ⟨1, 2, 0, 0, 0, 0, false, 3, 0, false, false⟩]
/-- S, masks and tokens. -/
def badFlags : List Instr :=
  [.vmv ⟨true, false, 0, 1, 2, 0, 0⟩, .vadd ⟨false, false, 1, 1, 2, 3, 0⟩, .vldsp ⟨1, 2, 0, 0, 3, true, true, false, 0, 0, false, false⟩,
   .vldsp ⟨1, 2, 0, 0, 3, false, false, false, 0, 0, false, false⟩, .mma ⟨0, false, false, 1, 0, 0, 0, 0, 0⟩,
   .mma ⟨0, false, false, 0, 1, 0, 0, 0, 0⟩, .nest ⟨0, true, false, 0, 0, 0, 1, 0, 0⟩, .nest ⟨0, false, true, 0, 0, 0, 1, 0, 0⟩,
   .tokpost ⟨0, false, false, 0, 0, 0, 0, 0, 0⟩, .tokwait ⟨0, false, false, 0, 0, 0, 0, 0, 0⟩]
/-- Terms that no word stands for: immediates and offsets that need a qualifying word, and forms that AR or bit 0 of the
function tells apart. -/
def badTerms : List Instr :=
  [.addi ⟨1, 2, 0x80000000, false⟩, .slli ⟨1, 2, 64, true⟩, .beq ⟨1, 2, 0x80000000, false⟩, .ipref ⟨1, 0, 0, 0x80000000, false⟩,
   .arriveRel ⟨0, 1, 0, 0, 0, 0, false, 0, 0, false, false⟩, .arrive ⟨0, 1, 0, 0, 0, 0, false, 0, 0, false, true⟩,
   .cpyin ⟨1, false, false, 0, 0, 0, 1, 2, 0⟩, .cpyout ⟨0, false, false, 0, 0, 0, 1, 2, 0⟩]
theorem test_ill_formed : illFormed (badRegs ++ badCodes ++ badAccesses ++ badFlags ++ badTerms) = true := by decide +kernel
theorem test_ill_formed_words : refusedWords (badRegs ++ badCodes ++ badAccesses ++ badFlags) = true := by decide +kernel

/-- HINT, bits 63:60, is ignored (R153); MU raises the must-understand trap first (R154); opcode 0 is illegal. -/
theorem test_hint_and_mu :
    readsAs [(0xF000000000386601, .add ⟨38, 33, 3, 0⟩)] = true ∧
    (match decodeOne 0x0800000000386600 with | .error (.mustUnderstand w) => w == 0x0800000000386600 | _ => false) = true ∧
    (match decodeOne 0 with | .error (.illegal w) => w == 0 | _ => false) = true := by decide +kernel
/-- A pair carries 64 bits (R151): ADDI, and a CALL whose offset counts from its own word. -/
theorem test_pairs :
    (match decodePair 0x0001234567800070 0x0009ABCDEF098502 with
      | .ok i => i == .addi ⟨5, 38, 0x123456789ABCDEF0, true⟩ | .error _ => false) = true ∧
    (match decodePair 0x000FFFFFFFF00070 0x00FFFFFFFE000031 with
      | .ok i => i == .call ⟨0, 0, 0xFFFFFFFFFFFFFFFE, true⟩ | .error _ => false) = true ∧
    (match decodePair 0x0001234567800070 0x0000000000386601 with
      | .error (.illegal w) => w == 0x0000000000386601 | _ => false) = true := by decide +kernel
/-- The worked encodings of 12 and 18. -/
theorem test_words_worked : readsAs [
    (0x00000200000780DB, .mldb ⟨0, true, false, 0, 0, 0, 30, 0, 0⟩), (0xDC, .mma ⟨0, false, false, 0, 0, 0, 0, 0, 0⟩),
    (0x000001010007C0E0, .mst ⟨0, false, true, 0, 1, 0, 31, 0, 0⟩), (0x0003AC00A687C3E0, .mst ⟨0xEB, false, false, 0, 0, 3, 31, 40, 41⟩),
    (0x0000000059550AD9, .msettl ⟨0, false, false, 0, 0, 10, 20, 21, 22⟩),
    (0x00000000694798E1, .cpyin ⟨0, false, false, 0, 0, 24, 30, 20, 26⟩), (0x00005000694798E1, .cpyin ⟨20, false, false, 0, 0, 24, 30, 20, 26⟩),
    (0x00001902000000E9, .efence ⟨6, false, true, 0, 2, 0, 0, 0, 0⟩),
    (0x68, .xret ⟨0, 0, 0, 0⟩), (0x69, .xwait ⟨0, 0, 0, 0⟩), (0x000000200005006A, .xinvta ⟨0, 20, 0, 0⟩),
    (0x000000400000006A, .xinvtd ⟨0, 0, 0, 0⟩)] = true := by decide +kernel

/-! ## States of the tests -/

/-- Memory of the tests: tables of the address space `asid`, with at k TiB a page of 1 TiB over physical address 0: ordinary
(0 and 1), store-convert (2), grid (3), counted (4); the device window lies at 5 TiB. -/
def tables (asid : Nat) : List Host.Cell :=
  let t := 0x40010000
  let leaf (m : List Host.Cell) (k w : Nat) := putWord (putWord m (t + 16 * k) w) (t + 16 * k + 8) 0
  leaf (leaf (leaf (leaf (codeMemory [] asid 0x10000 0) 2 (leafWord + 4)) 3 (leafWord + 8)) 4 (leafWord + 12)) 5 (leafWord + 16 + 2 ^ 49)
/-- An agent at its statement, with g registers. -/
def at_ (hid : Nat) (gs : List (Nat × Word)) : State :=
  let s := State.reset.placeWord hid 0
  ({ s with mem := tables (s.asidOf hid) } : State).updHart hid fun h => { h with g := gs }
/-- Virtual address of physical address a on the page of class k, k = 2 to 5, and 0 for an ordinary page. -/
def on (k a : Nat) : Word := BitVec.ofNat 64 (k * 2 ^ 40 + a)
/-- The vector hart, sequencer and application core of the tests. -/
def vh : List (Nat × Word) → State := at_ 0
def sq : List (Nat × Word) → State := at_ 5120
def ac : List (Nat × Word) → State := at_ 5280
/-- The core at user level. -/
def user (s : State) : State := s.updHart 5280 fun h => { h with app := { h.app with xstatus := 0 } }
/-- A change of the executing hart. -/
def upd (s : State) (f : Hart → Hart) : State := s.setMe (f s.me)
/-- The answer of an access that performs, or a default. -/
def got {α : Type} (d : α) (e : Except Stop α) : α := match e with | .ok a => a | .error _ => d
/-- The runs of an access. -/
def segs (s : State) (need : Need) (ok : Nat → Bool) (va n : Nat) : List Seg := got [] (s.locate (s.ctx s.cur) need ok va n)
/-- The run of an access. -/
def seg (s : State) (need : Need) (ok : Nat → Bool) (va n : Nat) : Seg := (segs s need ok va n).headD ⟨0, 0, ⟨0, 0, 0, 0, 0⟩⟩
/-- A format-M operand: data, base and index register, displacement, size, SC and AR, scope. -/
def mm (d a b : Reg) (size : BitVec 3) (disp : BitVec 16 := 0) (sc : Bool := false) (ar : Bool := false) (scope : BitVec 3 := 0) :
    MArgs := ⟨d, a, b, 0, scope, size, false, 0, disp, sc, ar⟩
/-- The next state satisfies f. -/
def gives (o : Out) (f : State → Bool) : Bool := match o with | .next t => f t | _ => false
/-- Format-X operands: function, popping k3 or pushing on it, and registers. -/
def xx (fn : BitVec 14) (tc tp : Bool) (d a b c : Reg) : XArgs := ⟨fn, tc, tp, if tc then 3 else 0, if tp then 3 else 0, d, a, b, c⟩

/-! ## Witnesses: states and operands that meet the premises of the statements -/

theorem witness_DecodeInvertsEncode : (Instr.add ⟨1, 2, 3, 0⟩).encoded = true ∧ (Instr.add ⟨1, 2, 3, 0⟩).ok = true := by decide
theorem witness_EncodeInvertsDecode : decodeOne 0x0400100700018540 = .ok (.ld ⟨5, 6, 0, 0, 4, 3, false, 0, 8, false, true⟩) := by
  decide +kernel
/-- An agent of each kind at an ADD. -/
def fetched (s : State) : State := s.withFetchWord 48 0x000000386601
theorem witness_StepRunsDecoded : ∀ s ∈ [fetched State.reset, fetched (vh []), fetched (sq [])],
    s.agenda = [] ∧ s.halted = false ∧ (kindOf s.cur = .app → s.me.app.xwait = false ∧ s.me.interruptible = false) ∧
    (kindOf s.cur ≠ .app → (s.me.status = .running ∨ s.me.status = .waiting) ∧ s.me.preempt = false
      ∧ s.tailsFor s.cur = []) ∧
    s.agent ∧ s.me.vec.queue = [] ∧
    s.tickOn.stall.fetchStmt s.cur s.me.pc = .ok (0x000000386601, none) ∧
    decodeOf (0x000000386601, none) = .ok (.add ⟨38, 33, 3, 0⟩) := by
  simp only [State.agent]; decide +kernel
theorem witness_StatementsRejected :
    (ac []).agent ∧ (ac []).me.vec.queue = [] ∧ privilegedOp 0x68 = true ∧ (user (ac [])).privileged 5280 = false ∧
    (vectorOnly (.vadd ⟨false, false, 0, 1, 2, 3, 0⟩) = true ∧ kindOf (ac []).cur ≠ .vector) ∧
    (sequencerOnly (.mma ⟨0, false, false, 0, 0, 0, 0, 0, 0⟩) = true ∧ kindOf (vh []).cur ≠ .sequencer ∧ (vh []).agent) ∧
    hartsOnly (.idone ⟨0, 0, 0, 0⟩) = true ∧ kindOf (ac []).cur = .app := by
  simp only [State.agent]; decide +kernel
theorem witness_RegisterForms : (5 : Reg) ≠ 0 ∧ (6 : Reg) ≠ 5 ∧ (vh []).agent ∧ (sq []).agent ∧ (ac []).agent ∧
    ((fun x => Instr.add x, fun a b => a + b) : (AArgs → Instr) × (Word → Word → Word)) ∈ regForms := by
  simp only [State.agent]
  exact ⟨by decide, by decide, by decide, by decide, by decide, List.mem_cons_self ..⟩
theorem witness_FloatForms : (vh []).agent ∧ (∀ f ∈ [10, 11, 12, 13], (fmtOf f).isSome) := by
  simp only [State.agent]; decide
theorem witness_FloatExact :
    (FVal.fin false 3 0).finite ∧ (FVal.fin true 1 (-1)).rat ≠ 0 ∧ 0 < (FVal.fin false 3 0).rat := by
  refine ⟨rfl, ?_, ?_⟩ <;> norm_num [FVal.rat]
/-- NaN operands, infinities of either sign, zeros, and a product of a zero and an infinity. -/
theorem witness_FloatExact_special :
    let inf := FVal.inf false
    let minf := FVal.inf true
    let zero := FVal.fin true 0 0
    let three := FVal.fin true 3 0
    (FVal.nan true).isNan = true ∧ inf.isInf = true ∧ zero.isZero = true ∧ three.isZero = false ∧ three.finite = true ∧
    three.isInf = false ∧ inf.isNan = false ∧ three.isNan = false ∧ minf.neg = (minf.neg != inf.neg) ∧ inf.neg ≠ (minf.neg != inf.neg) ∧
    minf.neg ≠ inf.neg ∧ three.neg = true ∧ (operand fp16 1 0x3C00).finite = true := by decide +kernel
/-- Exact operands 3 and, between integers of its scale, a little more than 2^25. -/
theorem witness_RoundNearest :
    (⟨false, 3, 0, false⟩ : Ex).standsFor 3 ∧ (⟨false, 2 ^ 25, 0, true⟩ : Ex).standsFor (2 ^ 25 + 1 / 2) ∧
    2 ^ (fp32.fbits + 2) ≤ 2 ^ 25 ∧ (unpack fp32 (roundFin fp32 0 0 ⟨false, 3, 0, false⟩).1).finite = true ∧
    (unpack fp32 (roundFin fp32 0 0 ⟨false, 2 ^ 25, 0, true⟩).1).finite = true ∧ (unpack fp32 0).finite = true := by
  refine ⟨?_, ?_, by decide, by decide +kernel, by decide +kernel, by decide +kernel⟩
  · norm_num [Ex.standsFor]
  · refine ⟨fun _ => by norm_num, ?_⟩
    norm_num [abs_of_pos]
/-- A tie that goes to the even significand, an overflow, and a result below every normal number. -/
theorem witness_RoundNearest_fates :
    ((⟨false, 2 ^ 24 + 1, 0, false⟩ : Ex).standsFor (2 ^ 24 + 1) ∧ roundsOn 0 (2 ^ 24 + 1) 1 (2 ^ 24) ∧
      (2 : ℚ) ^ ((1 : ℤ) + fp32.fbits) ≤ |2 ^ 24 + 1| ∧ |(2 ^ 24 + 1 : ℚ)| < 2 ^ ((1 : ℤ) + fp32.fbits + 1) ∧
      |(2 ^ 24 : ℚ)| ≤ fp32.maxM * 2 ^ fp32.maxE ∧ (2 : ℚ) ^ (fp32.emin + fp32.fbits) ≤ |2 ^ 24|) ∧
    ((⟨false, 1, 128, false⟩ : Ex).standsFor (2 ^ 128) ∧ (∀ mode ∈ [0, 1, 2, 3, 4], roundsOn mode (2 ^ 128) 105 (2 ^ 128)) ∧
      (fp32.maxM : ℚ) * 2 ^ fp32.maxE < |2 ^ 128|) ∧
    ((⟨true, 1, -150, false⟩ : Ex).standsFor (-1 / 2 ^ 150) ∧ roundsOn 1 (-1 / 2 ^ 150) (-173) (-1 / 2 ^ 150) ∧
      |(-1 / 2 ^ 150 : ℚ)| < 2 ^ (fp32.emin + fp32.fbits) ∧ roundsOn 1 (-1 / 2 ^ 150) fp32.emin 0) := by
  refine ⟨⟨?_, ⟨2 ^ 23, ?_⟩, ?_, ?_, ?_, ?_⟩, ⟨?_, ?_, ?_⟩, ?_, ⟨-2 ^ 23, ?_⟩, ?_, ⟨0, ?_⟩⟩
  case refine_8 =>
    intro mode hm
    refine ⟨2 ^ 23, by norm_num, ?_⟩
    fin_cases hm <;> norm_num
  all_goals norm_num [Ex.standsFor, fp32, Fmt.maxM, Fmt.maxE, Fmt.emin, abs_of_neg, abs_of_pos]
theorem witness_ControlTransfers :
    (vh [(5, 0x20000)]).agent ∧ (vh [(5, 0x20000)]).me.getG 5 &&& 7 = 0 ∧ (vh [(5, 0x20004)]).me.vec.queue = [] ∧
    (vh [(5, 0x20004)]).me.getG 5 &&& 7 ≠ 0 := by
  simp only [State.agent]; decide +kernel
/-- Translation by the tables of the tests, under address spaces 1 (there), 2 (no entry); the entry at 6 TiB is invalid. -/
theorem witness_Translation :
    let s := vh []
    let dw (pa : Nat) := s.devWord s.cur (on 2 0).toNat pa
    let e := got 0 (dw (s.asidtab.toNat + 16))
    s.tlb = [] ∧ dw (s.asidtab.toNat + 16) = .ok e ∧ dw (s.asidtab.toNat + 24) = .ok 0 ∧ e.getLsbD 63 = true ∧
    bitsOf e 15 0 = 0 ∧ dw (s.asidtab.toNat + 32) = .ok 0 ∧
    dw (bitsOf e 49 0 + 16 * 6) = .ok 0 ∧ dw (bitsOf e 49 0 + 16 * 6 + 8) = .ok 0 ∧
    dw (bitsOf e 49 0 + 16 * 2) = .ok 0x1E7 ∧ dw (bitsOf e 49 0 + 16 * 2 + 8) = .ok 0 ∧
    s.leafOk 1 (bitsOf e 62 61) 1 0x1E7 0 = true ∧ permitted 0x1E7 .rw true = true ∧ permitted 0x27 .w true = false := by
  decide +kernel
theorem witness_Loads :
    let s := vh [(1, 0x100), (2, on 5 0x1000), (3, 0x101), (4, on 6 0)]
    let dev := seg s .r (fun _ => true) (on 5 0x1000).toNat 8
    s.agent ∧ s.calm ∧ s.me.vec.queue = [] ∧
    s.locate (s.ctx s.cur) .r (fun _ => true) 0x101 8 = .ok (segs s .r (fun _ => true) 0x101 8) ∧
    (∀ g ∈ segs s .r (fun _ => true) 0x101 8, g.leaf.cls ≠ clsDevice) ∧ 0x100 % 8 = 0 ∧ 0x101 % 8 ≠ 0 ∧
    s.locate (s.ctx s.cur) .r (fun _ => true) (on 5 0x1000).toNat 8 = .ok [dev] ∧ dev.leaf.cls = clsDevice ∧
    s.locate (s.ctx s.cur) .r (fun _ => true) (on 6 0).toNat 8 = .error (.trap (.translation 1) (on 6 0)) := by
  simp only [State.agent, State.calm]; decide +kernel
theorem witness_Stores :
    let s := vh [(1, 0x10FFFD), (2, on 5 0x1000), (4, on 6 0)]
    let dev := seg s .w (fun _ => true) (on 5 0x1000).toNat 8
    s.agent ∧ s.calm ∧ s.me.vec.queue = [] ∧
    s.locate (s.ctx s.cur) .w (fun _ => true) 0x10FFFD 8 = .ok (segs s .w (fun _ => true) 0x10FFFD 8) ∧
    (segs s .w (fun _ => true) 0x10FFFD 8).length = 2 ∧ (∀ g ∈ segs s .w (fun _ => true) 0x10FFFD 8, g.leaf.cls ≠ clsDevice) ∧
    s.locate (s.ctx s.cur) .w (fun _ => true) 0x100 8 = .ok [seg s .w (fun _ => true) 0x100 8] ∧
    s.locate (s.ctx s.cur) .w (fun _ => true) (on 5 0x1000).toNat 8 = .ok [dev] ∧ dev.leaf.cls = clsDevice ∧
    s.locate (s.ctx s.cur) .w (fun _ => true) (on 6 0).toNat 8 = .error (.trap (.translation 1) (on 6 0)) := by
  simp only [State.agent, State.calm]; decide +kernel
/-- Granules 2 and 3 are counted, once and 255 times; granule 4 is not. -/
def counted : State := { vh [(1, on 4 0x100), (2, on 4 0x180), (3, on 4 0x200)] with cnt := [(2, 1), (3, 255)] }
theorem witness_CountedAccesses :
    counted.agent ∧ counted.calm ∧ counted.me.vec.queue = [] ∧ counted.under = [] ∧
    (∀ a ∈ [0x100, 0x180, 0x200], (on 4 a).toNat % 8 = 0 ∧
      counted.locate (counted.ctx counted.cur) .rw (· == clsCounted) (on 4 a).toNat 8 =
        .ok [seg counted .rw (· == clsCounted) (on 4 a).toNat 8] ∧
      counted.locate (counted.ctx counted.cur) .w (· == clsCounted) (on 4 a).toNat 8 =
        .ok [seg counted .w (· == clsCounted) (on 4 a).toNat 8] ∧
      (seg counted .rw (· == clsCounted) (on 4 a).toNat 8).leaf.pa = a) ∧
    counted.count 2 = 1 ∧ counted.count 3 = 255 ∧ counted.count 4 = 0 := by
  simp only [State.agent, State.calm]; decide +kernel
theorem witness_Atomics :
    let s := vh [(1, 0x100), (2, 0x102)]
    s.agent ∧ s.calm ∧ s.me.vec.queue = [] ∧
    s.locate (s.ctx s.cur) .rw (· != clsDevice) 0x100 8 = .ok [seg s .rw (· != clsDevice) 0x100 8] ∧
    s.locate (s.ctx s.cur) .rw (· != clsDevice) 0x100 4 = .ok [seg s .rw (· != clsDevice) 0x100 4] ∧
    (s.me.getG 2).toNat % 2 ^ (2 : BitVec 3).toNat ≠ 0 := by
  simp only [State.agent, State.calm]; decide +kernel
/-- A GLOAD of slot 3 in the queue. -/
def gathering : State :=
  upd (vh []) fun h => h.push (entryOf (.gload ⟨false, false, 0, 1, 2, 3, 4⟩) 2 3 4 1 h 0)
theorem witness_Fences :
    (vh []).agent ∧ kindOf (vh []).cur = .vector ∧ (vh []).me.vec.queue = [] ∧ gathering.me.vec.queue ≠ [] ∧
    (∀ q ∈ gathering.me.vec.queue, q.ins = .gload ⟨false, false, 0, 1, 2, 3, 4⟩ ∧ (3 : Reg) ≠ 4) ∧
    (vh []).vecReady ∧ (vh []).undeferred := by
  simp only [State.agent, State.vecReady, State.quiet, State.undeferred]; decide +kernel
/-- A statement that does not decode, and a pc that no page maps. -/
theorem witness_StepRunsDecoded_stops :
    (State.reset.withFetchWord 8 0xFF).tickOn.stall.fetchStmt 5280 (State.reset.withFetchWord 8 0xFF).me.pc = .ok (0xFF, none) ∧
    decodeOf (0xFF, none) = .error (.illegal 0xFF) ∧
    ((ac []).updHart 5280 fun h => { h with pc := on 7 0 }).tickOn.stall.fetchStmt 5280 (on 7 0) =
      .error (.trap (.translation 1) (on 7 0)) := by decide +kernel
/-- The tables of the tests with pointers from 8 TiB on: a leaf of 256 MiB there, and one of 64 KiB at 256 MiB above it. -/
def deep : State :=
  let s := vh []
  let put (m : List Host.Cell) (a w : Nat) := putWord m a w
  { s with mem := put (put (put (put s.mem 0x40010080 0x40020001) 0x40020000 0x1E3) 0x40020010 0x40030001) 0x40030000 0x1E3 }
theorem witness_Translation_levels :
    let dw (pa : Nat) := deep.devWord deep.cur (on 8 0).toNat pa
    dw 0x40010080 = .ok 0x40020001 ∧ dw 0x40010088 = .ok 0 ∧ dw 0x40020000 = .ok 0x1E3 ∧ dw 0x40020008 = .ok 0 ∧
    dw 0x40020010 = .ok 0x40030001 ∧ dw 0x40030000 = .ok 0x1E3 ∧ deep.goodPointer (0x40020001, 0) ∧
    deep.goodPointer (0x40030001, 0) ∧ deep.goodLeaf 1 0 (2 ^ 28) (0x1E3, 0) ∧ deep.goodLeaf 1 0 (2 ^ 16) (0x1E3, 0) ∧
    ¬ deep.goodLeaf 1 0 (2 ^ 28) (0x10001E3, 0) := by
  simp only [State.goodPointer, State.goodLeaf]
  and_intros <;> decide +kernel
theorem witness_ImmediateForms : (vh []).agent ∧ (sq []).agent ∧ (ac []).agent ∧
    ((.addi, fun a i _ => a + i) : (IArgs → Instr) × (Word → Word → Word → Word)) ∈ immForms := by
  simp only [State.agent]
  exact ⟨by decide, by decide, by decide, List.mem_cons_self ..⟩
/-- A barrier object at 0x2000: words of PHASE, EXPECTED, ARRIVED, BEXP, BARR, and the control word. -/
def object (s : State) (phase expd arrived bexp barr ctl : Word) : State :=
  (((((s.wr64 0x2000 phase).wr64 0x2008 expd).wr64 0x2010 arrived).wr64 0x2018 bexp).wr64 0x2020 barr).wr64 0x2028 ctl
theorem witness_BarrierActs :
    let e := object (vh []) 7 2 1 0 0 0x200
    let u := object (vh []) (2 ^ 40) 2 1 0 0 0
    let z := object (vh []) 7 0 0 0 0 0
    let g := object (vh []) 7 2 1 0 0 1
    ((2 ^ 63 - 1 : Word)).toNat < 2 ^ 63 ∧ (e.barrier 0x2000).err ≠ 0 ∧ (u.barrier 0x2000).err = 0 ∧ ¬ u.barrierClean 0x2000 ∧
    (z.barrier 0x2000).err = 0 ∧ (z.barrier 0x2000).expd = 0 ∧ (z.barrier 0x2000).bc = false ∧
    (g.barrier 0x2000).err = 0 ∧ g.barrierClean 0x2000 ∧ ¬ ((g.barrier 0x2000).expd = 0 ∧ (g.barrier 0x2000).bc = false) := by
  simp only [State.barrierClean]; decide +kernel
theorem witness_BarrierInstructions :
    let s := object (vh [(1, 0x2000), (2, 7)]) 8 2 1 0 0 1
    let bad := vh [(1, 0x2004), (2, on 6 0)]
    s.agent ∧ s.calm ∧ (s.me.getG 1).toNat % 64 = 0 ∧
    s.locate (s.ctx s.cur) .rw (· == clsOrdinary) 0x2000 64 = .ok [seg s .rw (· == clsOrdinary) 0x2000 64] ∧
    (∀ p ∈ [(8, 0, 0), (8, 0x300, 3), (7, 0, 0), (0x80000006, 0, 0), (0x80000007, 0, 0)],
      bobjErr (object (vh [(1, 0x2000), (2, 7)]) (BitVec.ofNat 64 p.1) 2 1 0 0 (BitVec.ofNat 64 p.2.1)) 0x2000 = p.2.2) ∧
    (8 + 2 ^ 32 - 7) % 2 ^ 32 = 1 ∧ (0x80000006 + 2 ^ 32 - 7) % 2 ^ 32 = 2 ^ 31 - 1 ∧ (0x80000007 + 2 ^ 32 - 7) % 2 ^ 32 = 2 ^ 31 ∧
    bad.agent ∧ bad.me.vec.queue = [] ∧ (bad.me.getG 1).toNat % 64 ≠ 0 ∧ (bad.me.getG 2).toNat % 64 = 0 ∧
    bad.locate (bad.ctx bad.cur) .rw (· == clsOrdinary) (on 6 0).toNat 64 = .error (.trap (.translation 1) (on 6 0)) ∧
    2 ^ 63 ≤ ((2 ^ 63 : Word)).toNat := by
  simp only [State.agent, State.calm]; decide +kernel
/-- The hart of the tests as (launch 0, logical 0), alone in group 5, or with a member that has not arrived. -/
def grouped (others : List (Nat × Nat)) : State :=
  { vh [(1, 5)] with eager := false, groups := [⟨0, 5, 3, (0, 0) :: others, []⟩] }
/-- The partition's groups are at their limit of 4,096. -/
def groupsFull : List Grp := (List.range 4096).map fun i => ⟨0, i + 10, 0, [(i + 9, 0)], []⟩
theorem witness_Groups :
    let g : Grp := ⟨0, 5, 3, [(0, 0)], []⟩
    let g2 : Grp := ⟨0, 5, 3, [(0, 0), (0, 1)], []⟩
    let s := grouped []
    let w := grouped [(0, 1)]
    kindOf s.cur = .vector ∧ s.grpOf 0 0 0 = some g ∧ s.grp 0 5 = some g ∧ s.pins = [] ∧
    (∃ r ∈ s.myRec s.cur, r.sr.det = false ∧ (r.lhart s.me.logical).gwait = none) ∧
    (∀ m ∈ g.members, m = s.myName ∨ m ∈ g.arrived) ∧ (∀ m ∈ g.members, s.drainedAll 0 m = true) ∧
    w.grpOf 0 0 0 = some g2 ∧ w.grp 0 5 = some g2 ∧ (0, 1) ∈ g2.members ∧ (0, 1) ≠ w.myName ∧ (0, 1) ∉ g2.arrived ∧
    (vh [(1, 5)]).grpOf 0 0 0 = none ∧ (vh [(1, 5)]).grp 0 5 = none ∧ (vh []).grpCount 0 < 4096 ∧
    bitsOf ((vh []).me.getG 1) 15 0 = 0 ∧ bitsOf ((vh [(1, 0x10005)]).me.getG 1) 63 16 ≠ 0 := by
  decide +kernel
theorem witness_Groups_leave : ∀ s ∈ [grouped [], grouped [(0, 1)]],
    (s.groups.map fun z => (z.part, z.id)).Nodup ∧ (s.grpOf 0 0 0).isSome ∧
    ∀ z ∈ s.groups, z.part = 0 → z.id ≠ 5 → s.myName ∉ z.members ∧ s.myName ∉ z.arrived := by decide +kernel
theorem witness_Groups_full :
    let s : State := { vh [(1, 5)] with groups := groupsFull }
    s.grpOf 0 0 0 = none ∧ s.grp 0 5 = none ∧ 4096 ≤ s.grpCount 0 := by
  decide +kernel
/-- A start record at 0x3000 that one sequencer of cluster 0 runs: entry, CTL and CMASK. -/
def startable (gs : List (Nat × Word)) : State :=
  (((vh ((1, 0x3000) :: gs)).wr64 0x3000 0x10000).wr64 0x3010 0x2000001).wr64 0x3020 1
/-- As `startable`, with a queue that admits it. -/
def spawning (gs : List (Nat × Word)) : State := { startable gs with qctl := [(0, 0xC00007FF00000000)] }
theorem witness_Spawn :
    let s := spawning [(2, 0)]
    let g := seg s .r (fun _ => true) 0x3000 128
    let bs := (List.range g.len).map fun i => s.rd8 (g.leaf.pa + i)
    let e := got (0, 0) (s.entry ⟨s.cur, 1, false⟩ 0 0 0 (s.asidtab.toNat + 16))
    s.agent ∧ s.calm ∧ s.me.vec.queue = [] ∧ (s.myLhart s.cur).held = [] ∧ (s.me.getG 1).toNat % 128 = 0 ∧
    s.locate (s.ctx s.cur) .r (fun _ => true) 0x3000 128 = .ok [g] ∧ g.leaf.cls ≠ clsDevice ∧ s.asidOf s.cur = 1 ∧
    s.partEnabled (s.partOf s.cur) = true ∧
    (assocGet 0 s.qctl 0 : Word).getLsbD 63 = true ∧ (assocGet 0 s.qctl 0 : Word).getLsbD 62 = true ∧
    bitsOf (BitVec.ofNat 64 (natOfBytes ((bs.drop 0x10).take 8))) 10 0 = 1 ∧
    s.entry ⟨s.cur, 1, false⟩ 0 0 0 (s.asidtab.toNat + 16) = .ok e ∧ e.1.getLsbD 63 = true ∧ bitsOf e.1 62 61 = 0 ∧
    (natOfBytes ((bs.drop 0x20).take 20)) = 1 ∧ s.ownsCluster 0 0 = true ∧
    BitVec.ofNat 64 (natOfBytes ((bs.drop 0x38).take 8)) = 0 ∧ ((s.part 0).queue 0).recs = [] ∧
    (assocGet 0 (startable []).qctl 0 : Word).getLsbD 63 = false ∧ ({ s with partcfg := [] } : State).partEnabled 0 = false := by
  simp only [State.agent, State.calm]
  and_intros <;> decide +kernel
/-- The record of the witness is well formed; with a Zero field set, or no dimension of a nest, it is not. -/
theorem witness_Spawn_records :
    let rec0 (ctl : Nat) : List Byte := bytesOfNat 16 0x10000 ++ bytesOfNat 16 ctl ++ bytesOfNat 96 1
    badStart (rec0 (1 + 2 ^ 11)) ∧ badStart (rec0 (1 + 2 ^ 18)) ∧ ¬ badStart (rec0 0x2000001) := by
  refine ⟨.inr (.inr (.inr (.inr (.inl (by decide +kernel))))), ?_, ?_⟩
  · exact .inr (.inr (.inr (.inr (.inr (.inr (.inr (.inr (.inr (.inl (by decide +kernel))))))))))
  · have hd : bitsOf (BitVec.ofNat 64 (natOfBytes (((bytesOfNat 16 0x10000 ++ bytesOfNat 16 0x2000001 ++ bytesOfNat 96 1 : List Byte).drop
      0x10).take 8))) 24 22 = 0 := by decide +kernel
    simp only [badStart, hd]
    decide +kernel
theorem witness_PartitionConfig_spawn :
    let s := ac [(1, 0x3000)]
    let g := seg s .r (fun _ => true) 0x3000 128
    s.agent ∧ s.calm ∧ s.me.vec.queue = [] ∧ (s.myLhart s.cur).held = [] ∧ (s.me.getG 1).toNat % 128 = 0 ∧
    s.locate (s.ctx s.cur) .r (fun _ => true) 0x3000 128 = .ok [g] ∧ g.leaf.cls ≠ clsDevice ∧ s.partEnabled (s.partOf s.cur) = false ∧
    (s.me.getG 2).toNat ≤ 63 := by
  simp only [State.agent, State.calm]; decide +kernel
/-- The record of the placed hart with another CTL, bounds and next item, and its logical hart 0. -/
def recorded (s : State) (ctl : Word) (bounds : List Nat) (next : Nat) (f : LHart → LHart) : State :=
  { s with eager := false, recs := s.recs.map fun r =>
    { r with sr := { r.sr with ctl := ctl, bounds := bounds }, nextItem := next, lh := r.lh.map fun e => (e.1, f e.2) } }
/-- The group of the tests in deterministic mode: the hart's first drain point is the arrival, and no round has drained. -/
theorem witness_Groups_rounds :
    let s := { recorded (grouped []) 0x20001 [] 0 id with eager := false }
    (∃ r, s.myRec s.cur = some r ∧ r.sr.det = true ∧ r.sr.rsv = false ∧ r.ending = none ∧ r.drained ≤ (r.lhart s.me.logical).drains ∧
      (r.lhart s.me.logical).gwait = none) ∧ s.grpOf 0 0 0 = some ⟨0, 5, 3, [(0, 0)], []⟩ ∧ (grouped []).groupsApart 0 ∧
    ({ grouped [] with groups := [⟨0, 5, 3, [(0, 0)], []⟩, ⟨0, 6, 0, [(0, 2)], []⟩] } : State).groupsApart 0 := by
  simp only [State.groupsApart]
  and_intros <;> decide +kernel
/-- A reserving item under way, with n claims made. -/
def reserving (adm : Admission) (n : Nat) : State :=
  recorded (vh []) 0x4C0001 [3] 1 fun l => { l with item := some 0, adm := adm, nclaims := n }
theorem witness_ItemsEnd :
    let s := recorded (vh []) 1 [] 0 id
    let t := recorded (vh []) 0x440001 [3] 2 id
    kindOf s.cur = .vector ∧ s.eager = false ∧ s.me.vec.queue = [] ∧
    (∃ r ∈ s.myRec s.cur, r.sr.det = false ∧ r.sr.rsv = false ∧ r.sr.nest = false) ∧
    (s.coreHarts (coreOf s.cur) fun h => h.status == .parked) = [] ∧
    (∃ r ∈ t.myRec t.cur, r.sr.det = false ∧ r.sr.rsv = false ∧ r.sr.nest = true ∧ r.nextItem < r.sr.items) ∧
    t.me.vec.victim = false ∧ t.me.vec.guest = false ∧
    (let a := (reserving .admitted 0)
     (∃ r ∈ a.myRec a.cur, r.sr.nest = true ∧ r.sr.rsv = true ∧ (r.lhart a.me.logical).adm = .admitted ∧
       (r.lhart a.me.logical).held = [] ∧ r.nextItem < r.sr.items) ∧
     ∃ r ∈ (reserving .none 0).myRec 0, r.sr.rsv = true ∧ (r.lhart 0).adm ≠ .admitted) ∧
    (∀ order < 4, itemIndices order [2, 3] 5 ≠ itemIndices order [2, 3] 4) ∧ kindOf (sq []).cur = .sequencer ∧
    (∃ v : VArgs, Instr.vmpopc v = .vmpopc ⟨false, false, 0, 7, 0, 0, 0⟩ ∧ 1 ≤ v.d.toNat ∧ v.d.toNat ≤ 7) := by
  and_intros <;> first | decide +kernel | exact ⟨⟨false, false, 0, 7, 0, 0, 0⟩, by decide⟩
theorem witness_Claims :
    (∀ s ∈ [reserving .none 0, reserving .pending 15, reserving .admitted 0, reserving .none 16],
      kindOf s.cur = .vector ∧ s.eager = false ∧ s.me.vec.queue = [] ∧
      ∃ r ∈ s.myRec s.cur, r.sr.rsv = true ∧ (r.lhart s.me.logical).item.isSome = true) ∧
    ((reserving .pending 15).myLhart 0).adm ≠ .admitted ∧ ((reserving .pending 15).myLhart 0).nclaims < 16 ∧
    ((reserving .admitted 0).myLhart 0).adm = .admitted ∧ 16 ≤ ((reserving .none 16).myLhart 0).nclaims ∧
    ¬ (∃ r ∈ (recorded (vh []) 1 [] 0 id).myRec 0, r.sr.rsv = true) := by
  decide +kernel
theorem witness_UserCsrs :
    (∀ s ∈ [vh [(1, 1)], sq [], ac [], user (ac [])], kindOf s.cur ≠ .none ∧ s.me.vec.queue = [] ∧ s.me.mx.queue = []) ∧
    0 ∈ userCsrs .vector ∧ 0x00B ∈ userCsrs .vector ∧ 4 ∈ userCsrs .sequencer ∧ 0x032 ∈ userCsrs .app ∧ 6 ∉ userCsrs .vector ∧
    0xFF ∉ userCsrs .app ∧ vtypeOk 17 = false ∧ vtypeOk 16 = true ∧ vtypeOk (0 ||| 1) = true ∧ vtypeOk (1 &&& ~~~1) = true ∧
    (vh []).privileged 0 = false ∧ (user (ac [])).privileged 5280 = false := by
  decide +kernel
theorem witness_PrivilegedCsrs :
    let s := upd (ac [(1, 33)]) fun h => { h with app := { h.app with rcaddr := 0x100, tokaddr := 0xF9F } }
    s.privileged s.cur = true ∧ s.me.app.rcaddr.getLsbD 63 = false ∧ bitsOf s.me.app.rcaddr 49 7 * 128 < localEnd ∧
    s.canon (bitsOf s.me.app.rcaddr 49 7 * 128) = bitsOf s.me.app.rcaddr 49 7 * 128 ∧ bitsOf s.me.app.tokaddr 7 0 = 159 ∧
    (∀ c ∈ coreCsrs, 0x100 ≤ c.1 ∧ c.1 < 0x200) ∧ (∀ c ∈ coreCsrs, 0x124 ≠ c.1) ∧ 0x124 ∉ [0x110, 0x151, 0x153] ∧
    s.calm ∧ s.countName 0x8000000000000080 = .block 0 1 ∧
    s.countName 0x80000000A0000000 = .nothing ∧ 159 < bitsOf (0xA0 : Word) 7 0 := by
  simp only [State.calm]; and_intros <;> decide +kernel
/-- Two partitions enabled: one quadrant and 1,024 groups each. -/
def parted : State := { State.reset with partcfg := [(0, 0x8100800000000000), (1, 0x8200800000080000 + 0x1F80000)] }
theorem witness_PartitionConfig :
    badPartcfg 0x8000800000000000 ∧ partsMeet 0x8100800000000000 0x8100800000000000 ∧ ¬ badPartcfg 0x8400002002000000 ∧
    (parted.partcfgOf 0).getLsbD 63 = true ∧ bitsOf (parted.partcfgOf 0) 59 19 ≠ bitsOf 0x8200800000000000 59 19 ∧
    (vh []).partInUse 0 ∧ ((vh []).partcfgOf 0).getLsbD 63 = true ∧ (parted.partcfgOf 2).getLsbD 63 = false ∧
    (parted.partcfgOf 0).getLsbD 60 = false ∧
    (¬ badPartcfg 0x8F40000000000000 ∧ (∀ q < 4, (State.reset.partcfgOf q).getLsbD 63 = false)) := by
  refine ⟨?_, ?_, ?_, by decide +kernel, by decide +kernel, ?_, by decide +kernel, by decide +kernel, by decide +kernel, ?_, by decide +kernel⟩
  · unfold badPartcfg; decide
  · exact .inl ⟨0, by decide, by decide, by decide⟩
  · unfold badPartcfg; decide
  · exact .inr ⟨(0, (vh []).hart 0), by decide +kernel⟩
  · unfold badPartcfg; decide
/-- A leaf of 64 KiB at address 0 of address space 1, in the caches of core 0. -/
def cachedLeaf : TlbEntry := ⟨0, 1, 3, 0, 0x1E7, 0, false⟩
/-- A copy of the hart is outstanding. -/
def copying : State :=
  { vh [] with cmds := [⟨4, 0, 0, 0, 0, 0, 0, .copyOut 0 0x4000 [(0, 0)] 64, [(0, 0)], [cachedLeaf], 1, none, none, false⟩], eager := false }
theorem witness_SystemCalls :
    (∀ s ∈ [vh [], sq [], ac []], kindOf s.cur ≠ .none ∧ s.me.vec.queue = [] ∧ s.me.mx.queue = [] ∧ s.cmds = []) ∧
    ((∃ c ∈ copying.cmds, c.part = copying.me.part ∧ c.launch = copying.me.launch ∧ c.logical = copying.me.logical) ∧
      kindOf copying.cur ≠ .app) ∧ gathering.me.vec.queue ≠ [] := by
  decide +kernel
/-- Interrupts 3 and 12 are pending and enabled. -/
def interrupted : State := upd (ac []) fun h => { h with app := { h.app with xstatus := 5, pending := 0x1008, xvec := 0x8000 } }
theorem witness_TrapEntry :
    (16 : Nat) < 2 ^ 16 ∧ kindOf 5280 = .app ∧ 1 ≤ 1 ∧ 16 ≤ 16 ∧ (interrupted.hart 5280).app.xstatus.getLsbD 2 = true ∧
    (interrupted.hart 5280).app.xwait = false ∧ (interrupted.hart 5280).app.pending.testBit 3 = true ∧
    (∀ k < 3, (interrupted.hart 5280).app.pending.testBit k = false) := by
  decide +kernel
theorem witness_PrivilegedInstructions :
    (ac []).privileged 5280 = true ∧ interrupted.me.app.pending ≠ 0 ∧ (ac []).me.app.pending = 0 ∧
    (user (ac [])).privileged 5280 = false ∧ (user (ac [])).me.vec.queue = [] ∧ (ac [(1, 2048)]).me.getG 1 = 2048 ∧
    2047 < (2048 : Word).toNat ∧ (2047 : Word).toNat ≤ 2047 ∧
    (¬ (ac []).holdsEntry fun _ => true) ∧ ({ ac [] with cmds := copying.cmds } : State).holdsEntry fun e => e.asid == 1 := by
  have held : ({ ac [] with cmds := copying.cmds } : State).holdsEntry fun e => e.asid == 1 :=
    ⟨cachedLeaf, rfl, .inl ⟨_, List.mem_singleton.mpr rfl, List.mem_singleton.mpr rfl⟩⟩
  have rest : (ac []).privileged 5280 = true ∧ interrupted.me.app.pending ≠ 0 ∧ (ac []).me.app.pending = 0 ∧
      (user (ac [])).privileged 5280 = false ∧ (user (ac [])).me.vec.queue = [] ∧ (ac [(1, 2048)]).me.getG 1 = 2048 := by decide +kernel
  refine ⟨rest.1, rest.2.1, rest.2.2.1, rest.2.2.2.1, rest.2.2.2.2.1, rest.2.2.2.2.2, by decide, by decide, ?_, held⟩
  rintro ⟨e, -, ⟨c, hc, -⟩ | ⟨h, hh, q, hq, -⟩ | ⟨x, hx, -⟩ | ⟨r, hr, l, hl, he⟩⟩
  · exact absurd hc (by rw [show (ac []).cmds = [] by decide +kernel]; simp)
  · have : ∀ h ∈ (ac []).harts, h.2.vec.queue = [] := by decide +kernel
    rw [this h hh] at hq; simp at hq
  · exact absurd hx (by rw [show (ac []).tails = [] by decide +kernel]; simp)
  · exact absurd hr (by rw [show (ac []).recs = [] by decide +kernel]; simp)
/-- A vector hart with a format, a budget, registers, masks and vstart. -/
def lanes (vtype : Word) (vb vstart : Nat) (v : List (Nat × VReg)) (m : List (Nat × Nat)) : State :=
  upd (vh [(1, 5), (2, 0x200), (3, 4)]) fun h =>
    { h with vtype := vtype, vec := { h.vec with vb := vb, vstart := vstart, v := v, m := m } }
theorem witness_VectorConfiguration :
    let s := lanes 4 256 0 [(1, ⟨256, 7⟩), (2, ⟨64, 9⟩)] []
    let t := lanes 16 256 0 [] []
    s.vecReady ∧ t.vecReady ∧ s.me.vec.victim = false ∧ (s.me.vec.v.map (·.1)).Nodup ∧
    s.me.ef ≠ 16 ∧ t.me.ef = 16 ∧ s.me.has [1] = true := by
  simp only [State.vecReady, State.quiet]; decide +kernel
/-- A hart whose queue holds an access that waits for a token: VCONF and VSETB go on behind it. -/
theorem witness_VectorConfiguration_queued :
    let s : State := { upd (lanes 4 256 0 [] []) fun h => h.push (entryOf (.vldsp ⟨1, 1, 0, 3, 0, false, true, false, 0, 0, false, false⟩) 2 2 0 1 h 0)
      with eager := false }
    kindOf s.cur = .vector ∧ s.eager = false ∧ s.me.vec.queue.length = 1 := by decide +kernel
/-- A victim whose lanes have not passed, and a guest beside it that waits for them. -/
def shuttered (q : List QEntry) : State :=
  ((lanes 4 256 0 [(1, ⟨256, 7⟩)] []).updHart 1 fun h => { h with status := .running, vec := { h.vec with guest := true, vwait := true } }).updHart 0
    fun h => { h with vec := { h.vec with victim := true, queue := q } }
theorem witness_VectorConfiguration_victim :
    let s := shuttered []
    let w := shuttered gathering.me.vec.queue
    s.vecReady ∧ s.me.vec.victim = true ∧ s.me.vec.passed = false ∧ (s.hart 1).vec.vwait = true ∧ s.tails = [] ∧
    (∀ k < 8, k ≠ s.cur → (s.hart k).vec.victim = false) ∧
    kindOf w.cur = .vector ∧ w.me.vec.queue ≠ [] ∧ w.me.vec.victim = true ∧ w.me.vec.passed = false := by
  simp only [State.vecReady, State.quiet]; decide +kernel
/-- A queued VADD, left to its event. -/
def pending (d : Reg) : State :=
  let s := lanes 4 128 0 [(2, ⟨128, 7⟩)] []
  { upd s fun h => h.push (entryOf (.vadd ⟨false, false, 0, d, 2, 2, 0⟩) 2 2 0 d h 0) with eager := false }
theorem witness_VectorsComplete :
    let s := lanes 4 128 0 [] []
    registerOnly (.vadd ⟨false, false, 0, 1, 2, 3, 0⟩) = true ∧ s.vecReady ∧
    s.me.legal (.vadd ⟨false, false, 0, 1, 2, 31, 0⟩) = true ∧ s.me.legal (.vadd ⟨false, false, 0, 1, 2, 32, 0⟩) = false ∧
    (∀ p ∈ [pending 1, pending 32], p.tailsFor 0 = [] ∧ (p.hart 0).status ≠ .ending ∧ (p.hart 0).vec.queue.length = 1 ∧ (p.hart 0).vec.vwait = false ∧
      p.eager = false) ∧ ((vh []).hart 0).vec.queue = [] := by
  simp only [State.vecReady, State.quiet]; decide +kernel
/-- A word of each vector format of the tests: fp32, masked by m1, elements 1 and 3 of four active. -/
def va (c : Reg := 0) (s : Bool := false) : VArgs := ⟨s, true, 1, 4, 5, 6, c⟩
/-- As `lanes`, with v4 to v7 and m1 filled. -/
def filled (vtype : Word) (vstart : Nat := 0) : State :=
  lanes vtype 256 vstart [(4, ⟨256, 0x7FC00000⟩), (5, ⟨256, 2⟩), (6, ⟨256, 0x300000001⟩), (7, ⟨256, 5⟩)] [(1, 0xA)]
theorem witness_VectorIntegers :
    (filled 4 1).vecReady ∧ (∀ p ∈ vecInts, (filled 4 1).me.legal (p.1 (va 0)) = true ∧ (filled 4 1).me.legal (p.1 (va 0 true)) = true) ∧
    (filled 4).me.legal (.vmadd (va 7)) = true ∧ (filled 4).me.legal (.vmv (va 0)) = true := by
  simp only [State.vecReady, State.quiet]; decide +kernel
theorem witness_VectorFloats : (filled 12 1).vecReady ∧ (∀ v ∈ vecFloats, (filled 12 1).me.legal (v.ctor (va 7)) = true) ∧
    fmtOf (filled 12 1).me.ef = some fp32 ∧ fmtOf (filled 11).me.ef = some bf16 := by
  simp only [State.vecReady, State.quiet]; decide +kernel
/-- Patterns of fp32 for the rows of R40 and R208: NaN, infinities, zero, an integer and a power of 2, neither of them, a number below
0, and a square with an ε that its root cancels, or does not. -/
theorem witness_VectorFloats_special :
    let x := operand fp32 0
    x 0x7F800001 = .nan true ∧ x 0x7F800000 = .inf false ∧ x 0xFF800000 = .inf true ∧ (x 0x80000000).isZero = true ∧
    (x 0x40000000).rat = (2 : ℤ) ∧ (x 0x40000000).rat = 2 ^ (1 : ℤ) ∧ (∀ k : ℤ, (x 0x3FC00000).rat ≠ k) ∧ (x 0xBF800000).neg = true ∧
    (x 0xBF800000).rat ≤ 0 ∧ (x 0x40800000).rat = 2 ^ 2 ∧ 2 + (x 0xC0000000).rat = 0 ∧ (2 : ℚ) + (x 0x3F800000).rat ≠ 0 := by
  have e2 : operand fp32 0 0x40000000 = .fin false (2 ^ 23) (-22) := by decide +kernel
  have e3 : operand fp32 0 0x3FC00000 = .fin false (3 * 2 ^ 22) (-23) := by decide +kernel
  have em : operand fp32 0 0xBF800000 = .fin true (2 ^ 23) (-23) := by decide +kernel
  have e4 : operand fp32 0 0x40800000 = .fin false (2 ^ 23) (-21) := by decide +kernel
  have en : operand fp32 0 0xC0000000 = .fin true (2 ^ 23) (-22) := by decide +kernel
  have e1 : operand fp32 0 0x3F800000 = .fin false (2 ^ 23) (-23) := by decide +kernel
  simp only [e2, e3, em, e4, en, e1]
  refine ⟨by decide +kernel, by decide +kernel, by decide +kernel, by decide +kernel, ?_, ?_, ?_, rfl, ?_, ?_, ?_, ?_⟩
  case refine_3 =>
    intro k hk
    have h : (3 : ℚ) = (2 * k : ℤ) := by push_cast; rw [← hk]; norm_num [FVal.rat]
    have : (3 : ℤ) = 2 * k := by exact_mod_cast h
    omega
  all_goals norm_num [FVal.rat]
theorem witness_VectorCompares : (filled 4 1).vecReady ∧ (filled 12 1).vecReady ∧
    (∀ p ∈ vecCompares, (filled 4 1).me.legal (p.1 (va 0)) = true) ∧
    (∀ p ∈ vecFCompares, (filled 12 1).me.legal (p.1 (va 0)) = true) ∧ fmtOf (filled 12).me.ef = some fp32 := by
  simp only [State.vecReady, State.quiet]; decide +kernel
theorem witness_VectorConversions :
    (∀ s ∈ [filled 4, filled 8, filled 9, filled 10, filled 12, filled 14], s.vecReady) ∧ (filled 4).me.legal (.cvt (va 12)) = true ∧ (filled 10).me.legal (.cvtSr (va 12)) = true ∧
    (filled 8).me.legal (.vexpand4 (va 0)) = true ∧ (filled 9).me.legal (.vexpand6 (va 0)) = true ∧
    (filled 8).me.legal (.vexpand6 (va 1)) = true ∧ (filled 4).me.legal (.vrng (va 0)) = true ∧
    (filled 12).me.legal (.vclass (va 0)) = true ∧ (filled 14).me.legal (.vdqmx (va 12)) = true ∧
    (filled 14).me.legal (.vqmx (va 12)) = true ∧ fmtOf 12 = some fp32 ∧ fmtOf (filled 10).me.ef = some fp16 := by
  simp only [State.vecReady, State.quiet]; decide +kernel
theorem witness_VectorPermutations :
    (filled 4).vecReady ∧ (filled 12).vecReady ∧ (∀ p ∈ vecPermutes, (filled 4).me.legal (p.1 (va 1)) = true) ∧
    (filled 4).me.legal (.vcompress (va 0)) = true ∧ (filled 4).me.lively (va 0) = [1, 3] ∧
    (filled 4).me.legal (.vtrans ⟨false, false, 0, 8, 0, 0, 0⟩) = true ∧
    (let s := lanes 14 1024 0 [(8, ⟨1024, 7⟩), (5, ⟨64, 2⟩)] []
     s.vecReady ∧ s.me.legal (.vtrans ⟨false, false, 0, 8, 5, 0, 0⟩) = true) := by
  simp only [State.vecReady, State.quiet]; decide +kernel
theorem witness_VectorMasks :
    (filled 4).vecReady ∧ (∀ p ∈ maskForms, (filled 4).me.legal (p.1 ⟨false, false, 0, 2, 1, 1, 0⟩) = true) ∧
    (∀ i ∈ [Instr.vmpopc ⟨false, true, 1, 4, 1, 0, 0⟩, .vmfirst ⟨false, false, 0, 4, 1, 0, 0⟩, .vmset ⟨false, false, 0, 2, 1, 0, 0⟩,
      .vconfl ⟨false, true, 1, 2, 5, 0, 0⟩], (filled 4).me.legal i = true) := by
  simp only [State.vecReady, State.quiet]; decide +kernel
theorem witness_VectorReductions :
    (filled 4).vecReady ∧ (filled 12).vecReady ∧
    (∀ i ∈ [Instr.vredsum (va 0), .vredmin (va 4), .vredmax (va 0), .vscan (va 0), .vscan (va 6)], (filled 4).me.legal i = true) ∧
    (∀ i ∈ [Instr.vfredsum (va 0), .vredmin (va 0), .vredmax (va 4), .vfscan (va 5)], (filled 12).me.legal i = true) ∧
    (filled 4).me.ef ≤ 7 ∧ (filled 4).me.lively (va 4) ≠ [] := by
  simp only [State.vecReady, State.quiet]; decide +kernel
/-- Accesses of the tests: base g[r], v4, index or stride register b, mask m1. -/
def vm (r b : Reg) (sc : Bool := false) : MArgs := ⟨4, r, b, 0, 0, 0, true, 1, 0, sc, false⟩
/-- fp32 elements at 0x2000, an address whose third element lies where nothing is mapped, and index and stride registers. -/
def moving (base : Word) : State := upd (filled 12) fun h => { h with g := [(1, base), (2, 0x40), (3, 4)] }
/-- Where the elements of an access lie. -/
def placed (s : State) (need : Need) (ok : Nat → Bool) (x : MArgs) (form e : Nat) : List Seg :=
  segs s need ok (s.me.place x form e).1 (bytesAt (s.me.place x form e).2 s.me.w)
theorem witness_VectorLoads :
    let s := moving (on 0 0x2000)
    s.vecReady ∧ s.calm ∧ s.undeferred ∧
    (∀ k < 3, s.me.memLegal (vm 1 6) k = true ∧ ∀ e ∈ s.me.doing true 1 (s.me.many k),
      s.locate ⟨s.cur, s.me.asid, true⟩ .r (· != clsDevice) (s.me.place (vm 1 6) k e).1 (bytesAt (s.me.place (vm 1 6) k e).2 s.me.w)
        = .ok (placed s .r (· != clsDevice) (vm 1 6) k e)) ∧
    s.me.doing true 1 (s.me.many 0) = [1, 3] := by
  simp only [State.vecReady, State.quiet, State.calm, State.undeferred]; decide +kernel
/-- Element 1 lies at the end of page 4, element 3 on the device page after it. -/
theorem witness_VectorLoads_fault :
    let s := moving (on 4 (2 ^ 40 - 8))
    s.vecReady ∧ s.calm ∧ s.undeferred ∧ s.me.memLegal (vm 1 6) 0 = true ∧ s.me.doing true 1 (s.me.many 0) = [1, 3] ∧
    s.locate ⟨s.cur, s.me.asid, true⟩ .r (· != clsDevice) (s.me.place (vm 1 6) 0 1).1 4 =
      .ok (placed s .r (· != clsDevice) (vm 1 6) 0 1) ∧
    s.locate ⟨s.cur, s.me.asid, true⟩ .r (· != clsDevice) (s.me.place (vm 1 6) 0 3).1 4 = .error (.trap .pageClass (on 5 4)) := by
  simp only [State.vecReady, State.quiet, State.calm, State.undeferred]; decide +kernel
/-- The record of the hart in deterministic mode. -/
def determined (s : State) : State := { recorded s 0x20001 [] 0 id with eager := true }
theorem witness_VectorStores :
    let s := moving (on 0 0x2000)
    let f := moving (on 4 (2 ^ 40 - 8))
    let at_ (s : State) (k e : Nat) := s.locate ⟨s.cur, s.me.asid, true⟩ .w (· != clsDevice) (s.me.place (vm 1 6) k e).1
      (bytesAt (s.me.place (vm 1 6) k e).2 s.me.w)
    s.vecReady ∧ s.calm ∧ s.undeferred ∧ s.me.ef = 12 ∧ s.me.firstActive (vm 1 6) = some 1 ∧
    (∀ k < 3, s.me.memLegal (vm 1 6) k = true ∧ ∀ e ∈ s.me.doing true 1 (s.me.many k),
      at_ s k e = .ok (placed s .w (· != clsDevice) (vm 1 6) k e)) ∧
    at_ f 0 1 = .ok (placed f .w (· != clsDevice) (vm 1 6) 0 1) ∧ at_ f 0 3 = .error (.trap .pageClass (on 5 4)) := by
  simp only [State.vecReady, State.quiet, State.calm, State.undeferred]; decide +kernel
/-- The first active element lies on an ordinary page, whatever size a converted element would have. -/
theorem witness_VectorStores_raw :
    let s := moving (on 0 0x2000)
    ∀ sb, ¬ ∃ l, s.convertsAt ⟨s.cur, s.me.asid, true⟩ (on 0 0x2000) 1 sb l := by
  rintro s sb ⟨l, h1, h2, h3⟩
  have h3 : sb = 2 ∨ sb = 1 := by split at h3 <;> simp [h3]
  have two : s.translate ⟨s.cur, s.me.asid, true⟩ .w (((on 0 0x2000).toNat + 1 * 2) % 2 ^ 64) = .ok ⟨0x2002, 0, 0, 0, 0⟩ := by
    decide +kernel
  have one : s.translate ⟨s.cur, s.me.asid, true⟩ .w (((on 0 0x2000).toNat + 1 * 1) % 2 ^ 64) = .ok ⟨0x2001, 0, 0, 0, 0⟩ := by
    decide +kernel
  obtain rfl | rfl := h3
  · rw [two] at h1; exact absurd (Except.ok.inj h1 ▸ h2) (by decide)
  · rw [one] at h1; exact absurd (Except.ok.inj h1 ▸ h2) (by decide)
theorem witness_VectorStores_convert :
    let v := moving (on 2 0x2000)
    v.vecReady ∧ v.calm ∧ v.undeferred ∧ v.me.ef = 12 ∧ v.me.memLegal (vm 1 6) 0 = true ∧ v.me.firstActive (vm 1 6) = some 1 ∧
    v.convertsAt ⟨v.cur, v.me.asid, true⟩ (on 2 0x2000) 1 2 ⟨0x2002, clsConvert, 0, 0, 0⟩ ∧
    (∀ e ∈ v.me.doing true 1 v.me.count, (∃ g ∈ segs v .w (fun _ => true) ((on 2 0x2000).toNat + 2 * e) 2,
      segs v .w (fun _ => true) ((on 2 0x2000).toNat + 2 * e) 2 = [g] ∧ g.leaf.cls = clsConvert ∧ g.leaf.sf = 0 ∧ g.leaf.srm = 0)) := by
  simp only [State.vecReady, State.quiet, State.calm, State.undeferred, State.convertsAt]; decide +kernel
theorem witness_VectorStores_held :
    let s := determined (moving (on 0 0x2000))
    let u := upd s fun h => { h with vec := { h.vec with v := [(4, ⟨256, 1⟩), (6, ⟨256, 0x300000001⟩)] } }
    s.vecReady ∧ s.calm ∧ (∃ r ∈ s.recOf s.me.part s.me.launch, r.sr.det = true) ∧ s.me.firstActive (vm 1 6) = some 1 ∧
    u.vecReady ∧ (∃ r ∈ u.recOf u.me.part u.me.launch, r.sr.det = true) ∧ u.me.ef = 12 ∧ u.me.has [4, 6] = true ∧
    (∀ e ∈ u.me.doing true 1 u.me.count32, (u.me.place (vm 1 6 true) 2 e).1 % 4 = 0 ∧
      u.locate ⟨u.cur, u.me.asid, true⟩ .rw (fun c => c == clsOrdinary || c == clsGrid) (u.me.place (vm 1 6 true) 2 e).1 4 =
        .ok [seg u .rw (fun c => c == clsOrdinary || c == clsGrid) (u.me.place (vm 1 6 true) 2 e).1 4]) := by
  simp only [State.vecReady, State.quiet, State.calm]; decide +kernel
theorem witness_VectorStores_add :
    let s := upd (moving (on 0 0x2000)) fun h => { h with vec := { h.vec with v := [(4, ⟨256, 1⟩), (6, ⟨256, 0x300000001⟩)] } }
    let g := moving (on 3 0x2000)
    let f := moving (on 0 0x2002)
    s.vecReady ∧ s.calm ∧ s.undeferred ∧ s.me.ef = 12 ∧ s.me.has [4, 6] = true ∧
    (∀ e ∈ s.me.doing true 1 s.me.count32, (s.me.place (vm 1 6 true) 2 e).1 % 4 = 0 ∧
      ∀ u ∈ [s, g], segs u .rw (fun c => c == clsOrdinary || c == clsGrid) (u.me.place (vm 1 6 true) 2 e).1 4 =
        [seg u .rw (fun c => c == clsOrdinary || c == clsGrid) (u.me.place (vm 1 6 true) 2 e).1 4]) ∧
    (f.me.doing true 1 f.me.count32).head? = some 1 ∧ (f.me.place (vm 1 6 true) 2 1).1 % 4 ≠ 0 := by
  simp only [State.vecReady, State.quiet, State.calm, State.undeferred]; decide +kernel
/-- A load that stopped before its third element has touched granule 64, which another page maps too, and meets 65 alone. -/
theorem witness_VectorCounted_resumed :
    let s : State := { moving (on 4 0x2078) with cnt := [(64, 1), (65, 255)] }
    let r := upd s fun h => { h with vec := { h.vec with vstart := 2 } }
    let x := vm 1 6
    r.vecReady ∧ r.me.done true 1 (r.me.many 0) = [1] ∧ r.metBefore .rw x 0 = List.replicate 4 64 ∧
    r.meetsGranules .rw x 0 (placed s .rw (· == clsCounted) x 0) = List.replicate 4 65 ∧ r.me.doing true 1 (r.me.many 0) = [3] := by
  simp only [State.vecReady, State.quiet]; decide +kernel
theorem witness_VectorCounted_under (l : Nat) : (assocGet [] (moving (on 4 0x2078)).under l).length ≤ 128 := by
  rw [show (moving (on 4 0x2078)).under = [] by decide +kernel]
  simp [assocGet]
/-- Formats and operands of the additions: integers, fp32, and fp16 features of a grid. -/
theorem witness_VectorStores_addAt : fmtOf 12 = some fp32 ∧ fmtOf 10 = some fp16 ∧ fp16 ∈ arithFmts ∧ (4 : Nat) ≤ 7 ∧ fmtOf 9 = some fp8e5m2 ∧
    (unpack fp16 0x7C00).isInf = true ∧ (unpack fp32 0xFF800000).isInf = true ∧ (unpack fp16 0x7C00).neg ≠ (unpack fp32 0xFF800000).neg := by
  decide +kernel
/-- Scratchpad accesses of the tests at the last 16 bytes but one element, with a token taken from k3 or given to it. -/
def sm (tc tp : Bool) : SArgs := ⟨4, 1, 0, 0, 3, tp, tc, true, 1, 0, false, false⟩
/-- Scratchpad offset in g1, n tokens in k3 of cluster 0. -/
def scratching (off : Word) (n : Nat) : State := { moving off with tok := [(3, n)] }
theorem witness_ScratchpadAccesses :
    let s := scratching 0xFFFFF0 1
    s.vecReady ∧ s.spoison = [] ∧ s.me.ef ≤ 15 ∧ s.me.has [4] = true ∧ s.me.doing true 1 s.me.count = [1, 3] ∧ s.me.vec.popped = false ∧
    (∀ e ∈ [1, 3], (s.me.spPlace (sm true false) e).1 % 4 = 0 ∧ (s.me.spPlace (sm true false) e).1 + 4 ≤ 2 ^ 24) ∧
    0 < s.tokens (clusterOf s.cur) 3 ∧ (scratching 0 31).tokens 0 3 < 32 := by
  simp only [State.vecReady, State.quiet]; decide +kernel
theorem witness_VectorCounted :
    let s : State := { moving (on 4 0x2078) with cnt := [(64, 1), (65, 255)], spcnt := [(64, 1), (65, 255)] }
    let p : State := { s with mem := s.mem, tok := [(3, 1)] }
    let x := vm 1 6
    s.vecReady ∧ s.calm ∧ s.undeferred ∧ s.under = [] ∧
    (∀ k ∈ [0, 2], s.me.memLegal x k = true ∧ ∀ e ∈ s.me.doing true 1 (s.me.many k),
      s.locate ⟨s.cur, s.me.asid, true⟩ .rw (· == clsCounted) (s.me.place x k e).1 (bytesAt (s.me.place x k e).2 s.me.w)
        = .ok (placed s .rw (· == clsCounted) x k e)) ∧
    s.meetsGranules .rw x 0 (placed s .rw (· == clsCounted) x 0) = List.replicate 4 64 ++ List.replicate 4 65 ∧
    (∀ e ∈ s.me.doing true 1 s.me.count, s.locate ⟨s.cur, s.me.asid, true⟩ .w (· == clsCounted) (s.me.place x 0 e).1
      (bytesAt (s.me.place x 0 e).2 s.me.w) = .ok (placed s .w (· == clsCounted) x 0 e)) ∧
    (∀ l ∈ [64, 65], 0 < s.count l ∧ 0 < p.spCount 0 l) := by
  simp only [State.vecReady, State.quiet, State.calm, State.undeferred]; decide +kernel
theorem witness_CodesRoundTrip : (7 : Nat) ≤ 7 ∧ ∀ v ∈ ([0, -1, 2 ^ 31 - 1, -2 ^ 31] : List Int), -2 ^ 31 ≤ v ∧ v < 2 ^ 31 := by decide
/-- Codes of order 0 in v5 and v6: 1 and −1, and 1. -/
def coded (vtype : Word) (vb : Nat) : State :=
  lanes vtype vb 0 [(5, ⟨(joinCodes 0 [1, -1]).2, (joinCodes 0 [1, -1]).1⟩), (6, ⟨(joinCodes 0 [1]).2, (joinCodes 0 [1]).1⟩)] []
theorem witness_CodedInstructions :
    let v (c : Reg) : VArgs := ⟨false, false, 0, 4, 5, 6, c⟩
    let s := coded 16 64
    let t := coded 4 64
    s.vecReady ∧ t.vecReady ∧ s.me.vec.vstart = 0 ∧
    (∀ i ∈ [Instr.vcpos (v 0), .vclen (v 0), .vcskip (v 0), .vcadd (v 0), .vcsub (v 0), .vccat (v 0)],
      codedOnly i = true ∧ s.me.codedLegal i = true) ∧
    t.me.codedLegal (.vcdec (v 0)) = true ∧ t.me.codedLegal (.vcenc (v 0)) = true ∧
    (coded 12 64).me.codedLegal (.vcenc (v 7)) = true ∧ s.me.codedLegal (.vcdec (v 0)) = false ∧
    s.me.vec.vb ≤ 65536 ∧ s.me.vfill 5 ≤ 65536 ∧ s.me.vfill 6 ≤ 65536 ∧ (s.me.codes 5 0).why = 0 ∧ (s.me.codes 5 0).vals = [1, -1] ∧
    intOf t.me.ef = some (32, true) := by
  simp only [State.vecReady, State.quiet]; decide +kernel
theorem witness_CodedMemory :
    let s := upd (coded 16 9) fun h => { h with g := [(1, 0x10003)], vec := { h.vec with vstart := 2, v := [(4, ⟨7, 0x55⟩)] } }
    let at_ (need : Need) (j : Nat) := s.locate ⟨s.cur, s.me.asid, true⟩ need (· != clsDevice) ((s.me.getG 1 + BitVec.ofNat 64 j).toNat / 8) 1
    s.vecReady ∧ s.calm ∧ s.undeferred ∧ s.me.has [4] = true ∧ s.me.vec.vb ≤ 65536 ∧ s.me.vfill 4 ≤ 65536 ∧
    (∀ j < 9, at_ .r j = .ok [seg s .r (· != clsDevice) ((s.me.getG 1 + BitVec.ofNat 64 j).toNat / 8) 1]) ∧
    (∀ j < 7, at_ .w j = .ok [seg s .w (· != clsDevice) ((s.me.getG 1 + BitVec.ofNat 64 j).toNat / 8) 1]) := by
  simp only [State.vecReady, State.quiet, State.calm, State.undeferred]; decide +kernel
/-- A grid descriptor: one dimension, one level of 16 entries of two fp32 features at 3 TiB + 64 KiB, resolution 3. -/
def gridDesc : Nat := 3 * 2 ^ 40 + 0x10000 + 2 ^ 64 * (1 + 4 * 2 ^ 8 + 2 ^ 13 + 2 * 2 ^ 15 + 3 * 2 ^ 32) + 2 ^ 128 * 65536
/-- Slot 6 holds the descriptor; g3 asks for four points. -/
def grids : State := upd (filled 12) fun h => { h with vec := { h.vec with gd := [(6, ⟨gridDesc, 0, true⟩)] } }
theorem witness_GridInstructions :
    let s := (moving (on 0 0x2000)).wrBytes 0x2000 (bytesOfNat 64 gridDesc)
    let z := moving (on 0 0x2001)
    descOk gridDesc = true ∧ descOk 0 = false ∧ [0x3F000000].length = gD gridDesc ∧ gridEntries gridDesc [0x3F000000] ≠ [] ∧
    s.vecReady ∧ s.calm ∧ s.undeferred ∧ (s.me.getG 1).toNat % 64 = 0 ∧ (z.me.getG 1).toNat % 64 ≠ 0 ∧
    s.locate ⟨s.cur, s.me.asid, true⟩ .r (· != clsDevice) 0x2000 64 = .ok [seg s .r (· != clsDevice) 0x2000 64] ∧
    (seg s .r (· != clsDevice) 0x2000 64).len = 64 ∧
    natOfBytes ((List.range 64).map fun i => s.rd8 ((seg s .r (· != clsDevice) 0x2000 64).leaf.pa + i)) = gridDesc := by
  simp only [State.vecReady, State.quiet, State.calm, State.undeferred]; decide +kernel
/-- Coordinates of every range, and two indices of an entry. -/
theorem witness_GridInstructions_coords :
    let v := unpack fp32
    (v 0x7FC00000).isNan = true ∧ v 0xFF800000 = .inf true ∧ v 0x7F800000 = .inf false ∧ (v 0x3F000000).finite = true ∧
    (v 0x3F000000).neg = false ∧ 0 < (v 0x3F000000).rat ∧ (v 0x3F000000).rat ≤ 1 ∧ (1 : ℚ) < (v 0x40000000).rat ∧
    (v 0xBF800000).rat ≤ 0 ∧ [1, 2].length ≤ 7 ∧ 3 ^ [1, 2].length ≤ 2 ^ 4 ∧ ¬ 5 ^ [1, 2].length ≤ 2 ^ 4 := by
  have eh : unpack fp32 0x3F000000 = .fin false (2 ^ 23) (-24) := by decide +kernel
  have e2 : unpack fp32 0x40000000 = .fin false (2 ^ 23) (-22) := by decide +kernel
  have em : unpack fp32 0xBF800000 = .fin true (2 ^ 23) (-23) := by decide +kernel
  simp only [eh, e2, em]
  refine ⟨by decide +kernel, by decide +kernel, by decide +kernel, rfl, rfl, ?_, ?_, ?_, ?_, by decide, by decide, by decide⟩ <;>
    norm_num [FVal.rat]
theorem witness_GridInstructions_points :
    let x : VArgs := va 3
    let d := gridDesc
    let cap (n : Nat) := min (min (grids.me.getG 3).toNat (grids.me.vfill 5 / (32 * gD d))) (n / (32 * (gL d * gF d)))
    let es (pt : Nat) := gridEntries d ((List.range (gD d)).map fun i => (coord (grids.me.el x.a 32 (pt * gD d + i))).1)
    grids.vecReady ∧ grids.calm ∧ grids.undeferred ∧ grids.me.ef = 12 ∧ grids.me.has [4, 5] = true ∧ (filled 4).me.ef ≠ 12 ∧
    (assocGet GSlot.zero grids.me.vec.gd 6).valid = true ∧ (assocGet GSlot.zero (filled 12).me.vec.gd 6).valid = false ∧
    cap grids.me.vec.vb = 4 ∧ cap (grids.me.vfill 4) = 4 ∧
    (∀ pt < 4, ∀ e ∈ es pt, segs grids .r (· == clsGrid) e.2.1 8 = [seg grids .r (· == clsGrid) e.2.1 8] ∧
      segs grids .rw (· == clsGrid) e.2.1 8 = [seg grids .rw (· == clsGrid) e.2.1 8]) := by
  simp only [State.vecReady, State.quiet, State.calm, State.undeferred]; decide +kernel
theorem witness_ReaderCounts :
    let s : State := { vh [(1, on 4 0x100), (2, 256), (3, on 6 0), (4, 0x1000001)] with cnt := [(2, 1), (3, 255)] }
    kindOf s.cur = .vector ∧ s.me.vec.queue = [] ∧ s.calm ∧ s.under = [] ∧
    s.locate (s.ctx s.cur) .rw (· == clsCounted) (on 4 0x100).toNat 256 = .ok (segs s .rw (· == clsCounted) (on 4 0x100).toNat 256) ∧
    s.locate (s.ctx s.cur) .r (· == clsCounted) (on 4 0x100).toNat 1 = .ok [seg s .r (· == clsCounted) (on 4 0x100).toNat 1] ∧
    s.locate (s.ctx s.cur) .r (· == clsCounted) (on 6 0).toNat 1 = .error (.trap (.translation 1) (on 6 0)) ∧
    s.translate (s.ctx s.cur) .rw (on 6 0).toNat = .error (.trap (.translation 1) (on 6 0)) ∧
    s.translate (s.ctx s.cur) .rw (on 4 (2 ^ 40 - 65536)).toNat = .ok ⟨2 ^ 40 - 65536, clsCounted, 0, 0, 0⟩ ∧
    s.translate (s.ctx s.cur) .rw (on 5 0).toNat = .ok ⟨2 ^ 49, clsDevice, 0, 0, 0⟩ ∧ (on 5 0).toNat % 65536 = 0 ∧
    (on 4 0x100).toNat + 2 ^ 32 ≤ 2 ^ 64 ∧ 2 ^ 32 < (2 ^ 32 + 1 : Word).toNat ∧ 2 ^ 64 < (2 ^ 64 - 1 : Word).toNat + 2 ∧
    2 ^ 24 < (s.me.getG 4).toNat + 1 ∧ 0xFFFF00 + 256 ≤ 2 ^ 24 := by
  simp only [State.calm]; decide +kernel
/-- A sequencer with formats, pitches, grants, latches and a tile base in g1 and g2; k3 holds n tokens. -/
def engineAt (vtype fmt : Word) (tm tn tk : Nat) (la lb : Option Latch) (n : Nat := 0) : State :=
  let s := upd (sq [(1, 0x1000), (2, 0x2000), (3, 0x3000)]) fun h =>
    { h with vtype := vtype, mx := { h.mx with fmt := fmt, pitch := 0x2000020000200, tm := tm, tn := tn, tk := tk, la := la, lb := lb } }
  { s with tok := [(3, n)] }
theorem witness_MatrixLoads :
    let s := engineAt 0 0xA0A 2 2 2 none none 1
    let q := engineAt 0 0xE0E 2 2 64 none none 0
    s.seqReady ∧ q.seqReady ∧ s.unspoiled ∧ q.unspoiled ∧ s.xTokens (xx 0 true false 1 1 0 0) ∧ s.xTokens (xx 0 false true 1 1 0 0) ∧
    (engineAt 0 0xA0A 2 2 2 none none 32).tokens 0 3 = 32 ∧ s.me.tileFits ∧ (engineAt 0 0xD0D 128 64 32 none none).me.tileFits ∧
    mstOk (xx 0x2B false false 1 1 0 0) 0xA0A = true ∧ mstOk (xx 0xEB false false 1 1 2 3) 0xA0A = true ∧ mstOk (xx 0 false false 1 1 0 0) 0 = true ∧
    slOk 0 0xA0A = true ∧ slOk 0 0xE0E = true ∧ 0x1000 % 4 = 0 ∧ (∀ i < 2, 0x1000 + i * 0x2000 + 2 * 4 ≤ 2 ^ 24) ∧
    bitsOf s.me.mx.pitch 19 0 * 16 = 0x2000 ∧ 0x2000 % (32 / 2) = 0 ∧ bitsOf (0xA0A : Word) 63 13 = 0 ∧
    (10, 10) ∈ [(0, 0), (0, 1), (1, 0), (1, 1), (8, 8), (8, 9), (9, 8), (9, 9), (10, 10), (11, 11), (12, 12), (13, 13), (14, 14)] := by
  simp only [State.seqReady, State.quiet, State.xTokens, Hart.tileFits, State.unspoiled, Hart.sound]; decide +kernel
/-- A latch of ones in fp16 or int8, under grants of 2 × 2 × 2. -/
def latchOf (fmt : Word) (row : Nat) (kr : Bool) : Latch := ⟨[row, row], [], 2, 2, 2, fmt, kr, 0, false⟩
theorem witness_MatrixProducts :
    (∀ kr : Bool,
      let a := latchOf 0xA0A 0x3C003C00 kr
      let s := engineAt 0 0xA0A 2 2 2 (some a) (some a) 1
      s.xTokens (xx 0 true true 1 0 0 0) ∧ s.me.tileFits ∧ s.unspoiled ∧ slOk s.me.vtype s.me.mx.fmt = true ∧ s.me.mx.la = some a ∧ s.me.mx.lb = some a ∧
      some a.stamp = some (s.me.mx.tm, s.me.mx.tn, s.me.mx.tk, s.me.mx.fmt, kr) ∧
      s.me.mx.la.map Latch.stamp ≠ some (s.me.mx.tm, s.me.mx.tn, s.me.mx.tk, s.me.mx.fmt, !kr)) ∧
    slOk 0x2000 0xD0D = false ∧ accKind 0 = .int ∧ (engineAt 0 0xA0A 2 2 2 none none 1).seqReady := by
  simp only [State.seqReady, State.quiet, State.xTokens, Hart.tileFits, State.unspoiled, Hart.sound]
  refine ⟨fun kr => ?_, by decide, by decide, by decide +kernel⟩
  cases kr <;> refine ⟨?_, ?_, ?_, ?_, ?_, ?_, ?_, ?_⟩ <;> decide +kernel
theorem witness_MatrixProducts_exact : (FVal.fin false 3 0).finite ∧ (∀ p ∈ [FVal.fin true 1 1], p.finite) ∧
    (FVal.fin false 3 0).rat + ([FVal.fin true 1 1].map FVal.rat).sum ≠ 0 := by
  refine ⟨rfl, by decide, ?_⟩
  norm_num [FVal.rat]
/-- Products of a NaN, of infinities and of zeros; values that share an exponent or are all 0; infinite terms of a sum. -/
theorem witness_MatrixProducts_values :
    let inf := FVal.inf false
    let zero := FVal.fin false 0 0
    let one := FVal.fin false 1 0
    (FVal.nan false).isNan = true ∧ inf.isInf = true ∧ zero.isZero = true ∧ one.isZero = false ∧ inf.isZero = false ∧ one.isNan = false ∧
    zero.rat = 0 ∧ one.rat ≠ 0 ∧ ([one, .nan true].any FVal.isNan) = true ∧ ([one, inf].any FVal.isNan) = false ∧ FVal.inf true ∉ [one, inf] ∧
    FVal.inf true ∈ [inf, .inf true] ∧ fp32 ∈ [fp32, fp64] ∧ (0xFE : Nat) ≠ 0xFF := by
  refine ⟨rfl, rfl, rfl, rfl, rfl, rfl, ?_, ?_, ?_⟩
  · norm_num [FVal.rat]
  · norm_num [FVal.rat]
  · decide
/-- The sequencer of the tests with memory at 0x2000 and 0x3000: a nest descriptor (one dimension of two steps, a run of 64)
and a scan descriptor (two fp32 elements at 0x4000, segments of 64 bytes from 0x5000 on). -/
def engines (gs : List (Nat × Word)) : State :=
  let s := (((sq gs).wr64 0x2000 2).wr64 0x2018 (1 + 64 * 2 ^ 32)).wr64 0x2020 64
  (((((s.wr64 0x2050 64).wr64 0x3000 0x4000).wr64 0x3008 2).wr64 0x3018 12).wr64 0x3020 0x5000).wr64 0x3028 64
/-- The nest of that descriptor. -/
def nest2 : Nest := ⟨[2], 64, [64], [64]⟩
theorem witness_EngineCommands_copies :
    let s := engines [(1, 0x1000), (2, 0x2000), (3, 64), (4, 0x6000)]
    let n := upd s fun h => { h with nest := some nest2 }
    let plain := xx 0 false true 0 1 2 3
    let nested := xx 0x16 false false 4 1 2 0
    s.bobjIssue ⟨5120, 1, true⟩ 0 = .ok none ∧
    n.bobjIssue ⟨5120, 1, true⟩ 0x6000 = .ok (some ⟨0x6000, 0x6000⟩) ∧
    cpyOk true plain (opsOf plain s.me s.ir) = true ∧ cpySteps plain (opsOf plain s.me s.ir) s.me = some ([(0, 0)], 64) ∧
    s.holdPages ⟨5120, 1, true⟩ .w notDevice [((stepAddr 0x2000 0), 64)] = .ok [(0, 0)] ∧
    cpyOk false nested (opsOf nested n.me n.ir) = true ∧
    cpySteps nested (opsOf nested n.me n.ir) n.me = some ([(0, 0), (64, 64)], 64) ∧
    n.holdPages ⟨5120, 1, true⟩ .r notDevice [(stepAddr 0x2000 0, 64), (stepAddr 0x2000 64, 64)] = .ok [(0, 0)] ∧
    stepOff 0x1000 64 + 64 ≤ 2 ^ 24 ∧ cpyOk true (xx 0xC false false 0 1 2 3) (opsOf plain s.me s.ir) = false ∧
    cpyOk false (xx 8 false false 0 1 2 3) (opsOf plain s.me s.ir) = false ∧
    cpyOk true (xx 2 false false 0 1 2 0) (opsOf plain s.me s.ir) = true ∧ s.me.nest = none := by
  decide +kernel
theorem witness_EngineCommands_ready : (∀ gs, (engines gs).xReady) ∧ (∀ gs, (upd (engines gs) fun h => { h with nest := some nest2 }).xReady) ∧
    (vh []).xReady := by
  refine ⟨fun gs => .inl ⟨rfl, rfl⟩, fun gs => .inl ⟨rfl, rfl⟩, .inr ⟨?_, rfl⟩⟩
  simp only [State.vecReady, State.quiet]; decide +kernel
theorem witness_EngineCommands_reads :
    let s := engines [(1, 0x2000), (2, 2), (3, 2 ^ 21), (4, 0x3000)]
    let k : Ctx := ⟨5120, 1, true⟩
    let bs := s.segBytes (segs s .r notDevice 0x2000 128)
    let ds := s.segBytes (segs s .r notDevice 0x3000 64)
    s.calm ∧ s.locate k .r notDevice 0x2000 128 = .ok (segs s .r notDevice 0x2000 128) ∧ parseNest bs = some nest2 ∧
    s.locate k .r notDevice 0x3000 64 = .ok (segs s .r notDevice 0x3000 64) ∧ parseNest (s.segBytes (segs s .r notDevice 0x3000 128)) = none ∧
    scanDescOk ds = true ∧ s.holdPages k .r notDevice [((wordAt ds 0).toNat, (wordAt ds 8).toNat * scanWidth (wordAt ds 0x18).toNat)] = .ok [(0, 0)] ∧
    s.holdPages k .w (· == clsOrdinary) [((wordAt ds 0x20).toNat, 256 * (wordAt ds 0x28).toNat)] = .ok [(0, 0)] ∧
    (∀ j < 2, s.translate k .r (0x2000 + BitVec.ofNat 64 (j * 2 ^ 21) : Word).toNat = .ok ⟨0x2000 + j * 2 ^ 21, (got ⟨0, 0, 0, 0, 0⟩ (s.translate k .r 0x2000)).cls, 0, 0, 0⟩) := by
  simp only [State.calm]; decide +kernel
/-- The sequencer of the tests with n tokens in k3. -/
def tokened (n : Nat) : State := { sq [] with tok := [(3, n)] }
/-- An engine command of cluster 0 on ordinary memory at 0x2000 and the scratchpad. -/
def command (owner : Nat) (kind : CmdKind) (b : Option BObj := none) : Cmd :=
  { id := 7, pc := 0, owner := owner, launch := 0, logical := 0, part := 0, cluster := 0, kind := kind, xl := [(0, 0)], held := [],
    asid := 1, bobj := b, push := none, retiring := false }
/-- Two steps of 64 bytes that meet. -/
def copyIn2 : CmdKind := .copyIn 0x1000 0x2000 [(0, 0), (32, 64)] 64 (some 3)
theorem witness_Tokens :
    let s := tokened 1
    let e : State := { tokened 1 with cmds := [command 5120 copyIn2] }
    s.xReady ∧ (tokened 32).xReady ∧ e.xReady ∧ s.me.mx.queue = [] ∧ s.me.vec.popped = false ∧ s.tokens 0 3 = 1 ∧ (tokened 32).tokens 0 3 = 32 ∧
    s.xTokens (xx 0xF true true 0 0 0 0) ∧ s.cmds = [] ∧ (tokened 0).tokens 0 3 = 0 ∧ (2 : BitVec 14).getLsbD 1 = true ∧
    (∃ k ∈ e.cmds, k.part = e.me.part ∧ k.launch = e.me.launch ∧ k.logical = e.me.logical) := by
  refine ⟨.inl ⟨rfl, rfl⟩, .inl ⟨rfl, rfl⟩, .inl ⟨rfl, rfl⟩, ?_⟩
  simp only [State.xTokens]; decide +kernel
/-- A loop at the sequencer's pc whose body is the instruction i. -/
def looping (i : Instr) (nest : Option Nest) (pos : Option LoopPos) : State :=
  upd ((sq [(1, 0x1000), (2, 0x2000), (3, 64)]).wr64 0x10008 ((encode i).headD 0)) fun h => { h with nest := nest, loopPos := pos }
theorem witness_Loops :
    let cp : Instr := .cpyin (xx 0 false false 0 1 2 3)
    let s := looping cp (some nest2) none
    let z := looping cp (some nest2) (some ⟨1, 0, []⟩)
    let words (s : State) := s.bodyWords s.cur s.cur s.me.pc 1
    let b := got [] (words s)
    let bad := looping (.add ⟨0, 1, 1, 1⟩) (some nest2) none
    words s = .ok b ∧ kindOf s.cur = .sequencer ∧ bodyOf true b = .ok [(b.headD 0, cp)] ∧ (looping cp none none).me.nest = none ∧
    bodyOf true (got [] (words bad)) = .error ((encode (.add ⟨0, 1, 1, 1⟩)).headD 0) ∧ words bad = .ok (got [] (words bad)) ∧
    (issueBody s.cur (b.headD 0) cp nest2 0 0 s.me s).toBool = true ∧
    (issueBody z.cur (b.headD 0) cp nest2 1 0 z.me z).toBool = true ∧
    (0 + 1 < nest2.size) ∧ ¬ (0 + 1 < 1 ∨ 1 + 1 < nest2.size) := by
  decide +kernel
/-- A vector hart that meets a LOOPB whose body is the instruction i, or has it at the head of its queue at a position. -/
def queuing (i : Instr) (nest : Option Nest) (pos : Option LoopPos) : State :=
  let s := upd ((vh [(1, 0x1000), (2, 0x2000), (3, 64)]).wr64 0x10008 ((encode i).headD 0)) fun h => { h with nest := nest }
  let e (h : Hart) : QEntry := { entryOf (.loopb (xx 0 false false 0 0 0 0)) 0 0 0 0 h 0 with loop := pos, regs := h.g }
  { (if pos.isSome then upd s fun h => { h with vec := { h.vec with queue := [e h] } } else s) with eager := false }
theorem witness_Loops_vector :
    let cp : Instr := .cpyin (xx 0 false false 0 1 2 3)
    let add : Instr := .add ⟨0, 1, 1, 1⟩
    let words (s : State) := s.bodyWords s.cur (vectorUnit s.cur) s.me.pc 1
    let f := queuing cp none none
    let b := got [] (words f)
    let s := queuing cp (some nest2) (some ⟨0, 0, 0 :: b⟩)
    kindOf f.cur = .vector ∧ f.eager = false ∧ f.me.vec.queue.length < 16 ∧ f.bodyWords f.cur f.cur f.me.pc 1 = .ok b ∧
    (∀ w ∈ b, ∀ i, decodeOne w = .ok i → f.gPending f.cur i = false) ∧
    (∃ q, s.me.vec.queue = [q] ∧ q.ins = .loopb (xx 0 false false 0 0 0 0) ∧ q.xl = [] ∧ q.vstart = 0 ∧
      (issueBody s.cur (b.headD 0) cp nest2 0 0 { s.me with g := q.regs, pc := q.pc, vtype := q.vtype } s).toBool = true ∧
      (issueBody s.cur (b.headD 0) cp nest2 1 0 { s.me with g := q.regs, pc := q.pc, vtype := q.vtype } s).toBool = true) ∧
    s.tailsFor s.cur = [] ∧ s.me.vec.vwait = false ∧ s.me.preempt = false ∧ s.me.status ≠ .ending ∧ s.pins = [] ∧
    bodyOf false b = .ok [(b.headD 0, cp)] ∧ (queuing cp none (some ⟨0, 0, 0 :: b⟩)).me.nest = none ∧
    bodyOf false (got [] (words (queuing add none none))) = .error ((encode add).headD 0) ∧ (0 + 1 < nest2.size) := by
  and_intros <;> first
    | decide +kernel
    | exact fun _ _ i _ => congrArg (List.any · _) (by decide +kernel :
        ((queuing (.cpyin (xx 0 false false 0 1 2 3)) none none).hart 0).vec.queue = [])
    | exact ⟨_, rfl, by and_intros <;> decide +kernel⟩
/-- One engine command alone, of the partition of the tests. -/
def alone (kind : CmdKind) (b : Option BObj := none) : State := { vh [] with eager := false, cmds := [command 0 kind b] }
/-- A scan of two fp32 elements at 0x2000 whose channels are all still to be scanned. -/
def scan2 : CmdKind := .scan 0x2000 2 0 12 0x3000 64 [0, 64]
theorem witness_EngineEvents :
    (∀ b, (alone copyIn2 b).lone (command 0 copyIn2 b)) ∧ (∀ k, (alone k).lone (command 0 k)) ∧
    (∀ d ∈ [((0 : Int), (0 : Int)), (32, 64)], stepOff 0x1000 d.1 + 64 ≤ 2 ^ 24) ∧
    64 ∈ [0, 64] ∧ (((alone (.tier false [1, 2] true .ready)).part 0).swap = none) ∧
    (vh []).cmds = [] ∧ ((vh []).engineHart 7).mx.queue = [] := by
  refine ⟨fun b => ?_, fun k => ?_, ?_⟩
  · exact ⟨rfl, rfl, rfl, rfl, rfl, (by decide +kernel : ∀ p ∈ (vh []).parts, p.2.swap = none), rfl, rfl⟩
  · exact ⟨rfl, rfl, rfl, rfl, rfl, (by decide +kernel : ∀ p ∈ (vh []).parts, p.2.swap = none), rfl, rfl⟩
  · decide +kernel
theorem witness_MatrixCommandComplete :
    let m : MCmd := ⟨0, .mzero (xx 0 false true 1 0 0 0), 0, 0, 0, 0, 0, 0xA0A, 0, 2, 2, 2, 0, [], false⟩
    let s := (sq []).updHart 5120 fun h => { h with mx := { h.mx with queue := [m] } }
    let e : State := { sq [] with eager := false, tails := [(seqBase, [{ Hart.free with mx := { Hart.free.mx with queue := [m] } }])] }
    (s.engineHart 0).mx.queue = [m] ∧ assocGet [] s.tails (seqBase + 0) = [] ∧ (s.engineHart 0).status ≠ .ending ∧ s.spoison = [] ∧
    (s.engineHart 0).sound ∧ s.mHeld 0 m = false ∧ s.pushRoom 0 (pushOf m.ins) = true ∧
    (e.engineHart 0).mx.queue = [m] ∧ assocGet [] e.tails (seqBase + 0) ≠ [] ∧ e.eager = false ∧ (e.engineHart 0).sound ∧
    e.mHeld 0 m = false := by
  simp only [Hart.sound]; decide +kernel
/-- A granule that moves, and one that a reader count keeps; a swap under way; a command that waits for room to push. -/
theorem witness_EngineEvents_tier :
    let s := alone (.tier false [1, 2] true .ready)
    let b : State := { s with cnt := [(16384, 1)] }
    let m : MCmd := ⟨0, .mzero (xx 0 false true 1 0 0 0), 0, 0, 0, 0, 0, 0xA0A, 0, 2, 2, 2, 0, [], true⟩
    (s.remapOf 0).locOf 1 ≠ 0 ∧ s.swapBarred 0 1 (s.remapOf 0).fast = false ∧ b.swapBarred 0 1 (b.remapOf 0).fast = true ∧
    (s.part 0).swap = none ∧ m.retiring = true ∧ (tokened 31).pushRoom 0 (pushOf m.ins) = true := by decide +kernel
theorem witness_EngineEvents_motion : ∀ b g, (alone (.tier false [1, 2] true g) b).lone (command 0 (.tier false [1, 2] true g) b) :=
  fun _ _ => ⟨rfl, rfl, rfl, rfl, rfl, (by decide +kernel : ∀ p ∈ (vh []).parts, p.2.swap = none), rfl, rfl⟩
/-- A start record of launch 5 for cluster 1 with CTL, group, DONE and bounds. -/
def start5 (ctl : Word) (group : Nat) (done : Word := 0) : StartRec :=
  { launch := 5, entry := 0x10000, arg := 9, ctl := ctl, group := group, cmask := 2, done := done, bounds := [] }
/-- Launch 5 selected, or placing, with its logical harts. -/
def rec5 (sr : StartRec) (selected : Bool) (lh : List (Nat × LHart)) : Rec :=
  { part := 0, sr := sr, selected := selected, granted := 0, nextItem := 0, aged := 0, wave := 0, drained := 0, ending := none, lh := lh }
/-- Partition 0 with that record beside the hart of the tests, placing it or not. -/
def scheduling (r : Rec) (placing : Bool) : State :=
  let s : State := { vh [] with eager := false }
  ({ s with recs := s.recs ++ [r] } : State).updPart 0 fun p => { p with placing := if placing then some 5 else none }
theorem witness_SchedulerEvents_selection :
    let q := (scheduling (rec5 (start5 1 0) false []) false).updPart 0 fun p => p.setQueue 3 ⟨[{ start5 1 0 with launch := 6 }], 0⟩
    let g := start5 1 5
    let sel := rec5 g true []
    let take := rec5 g false []
    q.eager = false ∧ (q.part 0).placing = none ∧ q.candidates 0 ≠ [] ∧ (∀ c ∈ q.candidates 0, q.recOf 0 c.2.1.launch = none) ∧
    ((q.part 0).queue 3).recs ≠ [] ∧
    (scheduling sel true).placingRec 0 = some sel ∧ (scheduling take true).placingRec 0 = some take ∧ g.group ≠ 0 ∧ g.nest = false ∧
    (scheduling take true).grpCount 0 < 4096 ∧
    (scheduling (rec5 (start5 1 0) true []) true).placingRec 0 = some (rec5 (start5 1 0) true []) ∧
    (∀ c ∈ g.clusters, (scheduling sel true).withheld 0 c = false ∧ (scheduling sel true).clusterFree c g.seq = true) := by
  decide +kernel
theorem witness_GroupMembershipTake_full :
    let s : State := { scheduling (rec5 (start5 1 5) false []) true with groups := groupsFull }
    s.placingRec 0 = some (rec5 (start5 1 5) false []) ∧ s.grp 0 5 = none ∧ 4096 ≤ s.grpCount 0 := by
  decide +kernel
/-- A logical hart whose item claims c and waits for admission. -/
def claiming (c : Nat) : LHart := { LHart.start with place := .placed 32, item := some 0, claims := [c], nclaims := 1, adm := .pending }
theorem witness_SchedulerEvents_places :
    let w := rec5 (start5 0xC0001 0) true [(0, claiming 4), (1, claiming 4), (2, claiming 6)]
    let idle := scheduling w false
    let victim := idle.updHart 0 fun h => { h with vec := { h.vec with victim := true } }
    let tail : State := { idle with tails := [(8, [Hart.free])] }
    let busy : State := { idle with tails := [(8, [{ Hart.free with vec := { Hart.free.vec with queue :=
      [⟨.vadd ⟨false, false, 0, 1, 2, 3, 0⟩, 0, 0, 0, 0, 0, 32, 0, 0, 0, 0, 0, false, [], none, []⟩] } }])] }
    idle.recOf 0 5 = some w ∧ w.sr.rsv = true ∧ w.waveReady = true ∧ (w.lh.map (·.1)).Nodup ∧
    (∀ k < 8, (idle.hart k).vec.victim = false) ∧ idle.tails = [] ∧ (idle.harts.map (·.1)).Nodup ∧ (idle.hart 0).status ≠ .free ∧
    (victim.hart 0).status = .running ∧ (idle.myLhart 0).adm ≠ .admitted ∧
    ((victim.hart 0).vec.victim = true ∧ (victim.hart 0).vec.passed = false) ∧ (idle.hart 0).vec.victim = false ∧
    assocGet [] tail.tails 8 = [Hart.free] ∧ Hart.free.vec.queue = [] ∧ Hart.free.mx.queue = [] ∧ assocGet [] busy.tails 8 ≠ [] ∧
    (∀ h ∈ assocGet [] busy.tails 8, h.vec.queue ≠ []) ∧ busy.eager = false := by
  decide +kernel
theorem witness_SchedulerEvents_ends :
    let ended : LHart := { LHart.start with place := .ended }
    let seq (d : Word) (lh : LHart) := rec5 (start5 0x2000001 0 d) true [(0, lh)]
    let r := rec5 (start5 0x2020001 0) true
      [(0, { LHart.start with place := .ended, drains := 1, held := [.byte 1 0 0x2000 0xFF 7 true, .add 2 0x2004 12 0x3F800000 false] })]
    let z := rec5 (start5 0x2020001 0) true [(0, LHart.start)]
    (scheduling (seq 0 LHart.start) false).recDone (seq 0 LHart.start) = false ∧
    (scheduling (seq 0 ended) false).recOf 0 5 = some (seq 0 ended) ∧ (scheduling (seq 0 ended) false).recDone (seq 0 ended) = true ∧
    (scheduling (seq 0x2000 ended) false).recOf 0 5 = some (seq 0x2000 ended) ∧
    (scheduling (seq 0x2000 ended) false).recDone (seq 0x2000 ended) = true ∧
    (let s := scheduling (seq 0x2000 ended) false
     s.bobjLocate ⟨outsider, 1, true⟩ 0x2000 = .ok 0x2000 ∧ (seq 0x2000 ended).ending = none ∧
     s.bobjLocate ⟨outsider, 1, true⟩ (on 6 0) = .error (.trap (.translation 1) (on 6 0)) ∧
     ((s.part 0).trap.tqhead - (s.part 0).trap.tqtail).toNat < (s.part 0).trap.len) ∧ (seq 0x2000 ended).sr.asid = 1 ∧
    (scheduling r false).recOf 0 5 = some r ∧ r.sr.det = true ∧ r.sr.rsv = false ∧ r.sr.group = 0 ∧ (scheduling r false).groups = [] ∧
    (scheduling r false).roundReady r 1 = true ∧ (scheduling z false).roundReady z 1 = false ∧ (scheduling z false).recOf 0 5 = some z := by
  decide +kernel
/-- A victim whose window expires behind a queued VSETB; a round that a pin of another cluster keeps. -/
theorem witness_SchedulerEvents_held :
    let r := rec5 (start5 0x2020001 0) true
      [(0, { LHart.start with place := .placed 32, drains := 1, held := [.byte 1 0 0x2000 0xFF 7 true] })]
    let s := scheduling r false
    let p : State := { s with pins := [⟨64, true, 0, [0], false, []⟩] }
    let v := (scheduling r false).updHart 0 fun h => { h with vec := { h.vec with victim := true, passed := false, queue :=
      [{ entryOf (.vsetb ⟨false, false, 0, 1, 2, 0, 0⟩) 0 0 0 1 h 0 with gc := 2 }, entryOf (.vadd ⟨false, false, 0, 1, 2, 3, 0⟩) 0 0 0 1 h 0] } }
    p.recOf 0 5 = some r ∧ p.roundReady r 1 = false ∧ p.poison = [] ∧ (∀ e ∈ r.lh, e.2.reached 1 = true) ∧
    (∃ q ∈ p.pins, q.line = 0x2000 / 128 ∧ q.ended = false ∧ ∀ e ∈ r.lh, q.within (e.2.who 0 5 e.1) = false) ∧
    s.roundReady r 1 = true ∧ s.pins = [] ∧
    (v.hart 0).vec.victim = true ∧ (v.hart 0).vec.passed = false ∧ (v.hart 0).vec.queue.length = 2 ∧ (v.myLhart 0).adm ≠ .admitted ∧
    (∃ q ∈ (v.hart 0).vec.queue, q.gc = 2) ∧
    (let w := v.updHart 0 fun h => { h with vec := { h.vec with queue := h.vec.queue.drop 1 } }
     ∀ q ∈ (w.hart 0).vec.queue, q.ins = .vadd ⟨false, false, 0, 1, 2, 3, 0⟩) := by
  and_intros <;> decide +kernel
theorem witness_SchedulerEvents_calm (r : Rec) : (scheduling r false).calm := by
  refine ⟨rfl, rfl, rfl, ?_⟩
  exact (by decide +kernel : ∀ p ∈ ((vh []).updPart 0 fun p => { p with placing := none }).parts, p.2.swap = none)
/-- The hart of the tests stopped on a breakpoint, with a trap queue at 0x50000000, save areas from 0x60000000 on, and `n` records
waiting in a queue of two. -/
def stopped (n : Word) : State :=
  let s := ({ vh [] with eager := false } : State).updHart 0 fun h => { h with status := .stopping, stop := some ⟨.breakpoint, 0, 0, h.pc⟩ }
  s.updPart 0 fun p => { p with trap := { p.trap with tqbase := 0x50000000, tqctl := 1, tqhead := n, sabase := 0x60000000 } }
theorem witness_ContextEvents_stop :
    let s := stopped 1
    let f := stopped 2
    let h := (s.hart 0).giveLanes
    h.status = .stopping ∧ h.stop = some ⟨.breakpoint, 0, 0, h.pc⟩ ∧ s.eager = false ∧ (s.part h.part).trap.full = false ∧
    (f.part 0).trap.full = true ∧ ((f.hart 0).giveLanes).status = .stopping ∧
    h.mx.queue = [] ∧ s.canon 0x60000000 + 2 ^ 20 ≤ localEnd ∧ s.trapMemOk 0 ∧ s.canon (0x50000000 + 64 * 1) = 0x50000040 ∧
    apart 0x60000000 (2 ^ 20) 0x50000040 64 ∧ apart 0x60000000 (2 ^ 20) (s.trapBlockPA 0 + 16) 8 ∧
    apart 0x50000040 64 (s.trapBlockPA 0 + 16) 8 ∧ h.share ∈ [1, 2, 4, 8] ∧ h.vec.n ∈ [8, 16, 32, 64] ∧
    (s.recOf 0 h.launch).isSome ∧ bitsOf (s.part 0).trap.tqctl 12 8 < 24 := by
  simp only [apart, State.trapMemOk]; decide +kernel
/-- A save area at 0x60000000 of a hart of N = 32, share 1, launch 0, logical index 0 and ASID 1, which the TLB holds; its record
waits for it. -/
@[irreducible] def saved : State :=
  let s := vh []
  let t : State := { s with tlb := [⟨824, 1, 0, 0, 2 ^ 63, 0, true⟩], mem := [],
                            recs := s.recs.map fun r => { r with lh := [(0, { LHart.start with place := .suspended, layout := some 0x50 })] } }
  (((t.setHart 0 Hart.free).wr64 0x60000008 0x61FF0).wr64 0x60000010 0x50).wr64 0x60000020 1
/-- The same area with CHECK v. -/
def savedWith (v : Word) : State := saved.wr64 0x60000000 v
theorem savedWith_rd64 (v : Word) (b : Nat) (h : 0x60000008 ≤ b) : (savedWith v).rd64 b = saved.rd64 b :=
  State.rd64_wr64_apart saved _ _ v (.inr h)
theorem savedWith_check (v : Word) (n : Nat) : (savedWith v).checkOf 0x60000000 n = saved.checkOf 0x60000000 n := by
  have e (i : Nat) : (savedWith v).rd64 (0x60000000 + 0x10 + 8 * i) = saved.rd64 (0x60000000 + 0x10 + 8 * i) :=
    savedWith_rd64 v _ (by omega)
  simp only [State.checkOf, e]
theorem saved_premises (v : Word) :
    let s := savedWith v
    let k := s.rd64 (0x60000000 + 0x10)
    s.canon 0x60000000 = 0x60000000 ∧ s.targetFree 0x60000000 0 8 = true ∧ s.areaOk 0x60000000 0 8 = true ∧ s.poison = [] ∧
    (s.recs.find? fun r => r.part == 0 && r.ending.isNone && r.sr.launch == bitsOf (s.rd64 (0x60000000 + 0xB0)) 55 0
      && r.sr.asid == bitsOf (s.rd64 (0x60000000 + 0x20)) 10 0) = saved.recs[0]? ∧
    ∀ r, saved.recs[0]? = some r → s.targetOk 0x60000000 r 8 = true ∧
      (r.lhart (s.rd64 (0x60000000 + 0x18)).toNat).layout = some k := by
  have e8 := savedWith_rd64 v (0x60000000 + 8) (by decide)
  have e10 := savedWith_rd64 v (0x60000000 + 0x10) (by decide)
  have e18 := savedWith_rd64 v (0x60000000 + 0x18) (by decide)
  have e20 := savedWith_rd64 v (0x60000000 + 0x20) (by decide)
  have eB0 := savedWith_rd64 v (0x60000000 + 0xB0) (by decide)
  have t : (savedWith v).tlb = [⟨824, 1, 0, 0, 2 ^ 63, 0, true⟩] := by
    show saved.tlb = _
    decide +kernel
  have u : (savedWith v).asidUsable outsider 0 1 = .ok true := by
    have g (n : Nat) : (savedWith v).entry ⟨outsider, 1, false⟩ 0 0 0 n = .ok (2 ^ 63, 0) := by
      have f : (⟨824, 1, 0, 0, 2 ^ 63, 0, true⟩ : TlbEntry).serves (tlbPath outsider) 1 0 0 = true := by decide +kernel
      simp only [State.entry, t, List.find?, f]
    rw [State.asidUsable, g]
    decide +kernel
  have a : bitsOf (saved.rd64 (0x60000000 + 0x20)) 10 0 = 1 := by decide +kernel
  have hk : (savedWith v).keptAt 0x60000000 0 8 = none := by
    simp only [State.keptAt, State.areaRec, e18, e20, eB0]
    show saved.keptAt 0x60000000 0 8 = none
    decide +kernel
  simp only [State.areaOk, State.targetOk, State.targetFree, hk, e8, e10, e18, e20, eB0, a, u]
  refine ⟨?_, ?_, ?_, ?_, ?_, ?_⟩
  · show saved.canon _ = _
    decide +kernel
  · show (((saved.hart 8).status == .free || (saved.hart 8).status == .held) && (kindOf 8 != .vector ||
      (saved.coreHarts (coreOf 8) fun _ => true).all fun x =>
        x == 8 || (saved.hart x).share == 2 ^ bitsOf (saved.rd64 (0x60000000 + 0x10)) 11 8 ||
          (false && (saved.hart x).vec.guest) || (false && (saved.hart x).vec.victim))) = true
    decide +kernel
  · decide +kernel
  · show saved.poison = _
    decide +kernel
  · show saved.recs.find? _ = _
    decide +kernel
  · show ∀ r, saved.recs[0]? = some r → (nbit r.sr.cmask (clusterOf 8) && (!(saved.rd64 (0x60000000 + 0x10)).getLsbD 12 || _)) = true ∧
      (r.lhart (saved.rd64 (0x60000000 + 0x18)).toNat).layout = some (saved.rd64 (0x60000000 + 0x10))
    intro r h
    have g : saved.recs[0]?.all (fun r => nbit r.sr.cmask (clusterOf 8) && !(saved.rd64 (0x60000000 + 0x10)).getLsbD 12
      && (r.lhart (saved.rd64 (0x60000000 + 0x18)).toNat).layout == some (saved.rd64 (0x60000000 + 0x10))) = true := by decide +kernel
    rw [h] at g
    simp only [Option.all_some, Bool.and_eq_true, beq_iff_eq] at g
    exact ⟨by simp only [g.1.1, g.1.2, Bool.true_or, Bool.and_self], g.2⟩
/-- Both outcomes of RESUME: an area whose CHECK is right, and one whose CHECK is not. -/
theorem witness_Resume :
    (∃ v, (savedWith v).rd64 0x60000000 = (savedWith v).checkOf 0x60000000 ((savedWith v).rd64 (0x60000000 + 8)).toNat) ∧
    ∃ v, (savedWith v).rd64 0x60000000 ≠ (savedWith v).checkOf 0x60000000 ((savedWith v).rd64 (0x60000000 + 8)).toNat := by
  have e (v : Word) : (savedWith v).rd64 (0x60000000 + 8) = saved.rd64 (0x60000000 + 8) := State.rd64_wr64_apart saved _ _ v (.inr (by decide))
  simp only [savedWith_check, e]
  refine ⟨⟨saved.checkOf 0x60000000 (saved.rd64 (0x60000000 + 8)).toNat, by rw [savedWith, State.rd64_wr64]⟩, ⟨saved.checkOf 0x60000000 (saved.rd64 (0x60000000 + 8)).toNat + 1, ?_⟩⟩
  rw [savedWith, State.rd64_wr64]
  simp
theorem witness_ContextEvents_others :
    let held := (vh []).updHart 8 fun h => { h with status := .held }
    let s := vh []
    let u : State := { s with asidtab := 0x40000000 &&& 0x3FFFFFFFF0000 }
    let c (a : Word) := (ac []).countName a
    (held.hart 8).status = .held ∧ (s.hart 8).status ≠ .held ∧ (held.coreHarts (coreOf 8) fun h => h.status == .parked) = [] ∧
    s.targetFree 0x60000000 0 0 = false ∧ s.areaOk 0x60000000 0 8 = false ∧
    (s.recs.find? fun r => r.part == 0 && r.ending.isNone && r.sr.launch == bitsOf (s.rd64 0x600000B0) 55 0 && r.sr.asid == bitsOf (s.rd64 0x60000020) 10 0) = none ∧
    (∀ b ∈ [u.canon u.asidtab.toNat, u.canon (u.asidtab.toNat + 0xFFFF)], b < localEnd) ∧
    region (u.canon u.asidtab.toNat) = .ours ∧ region (u.canon 0x2000000000000) = .window ∧ region (u.canon 0x1FFFFFFFF0000) = .hole ∧
    (∀ p < 4, (u.readTrap p).rlhead = (u.readTrap p).rltail ∧ (s.part p).placing = none ∧ (s.part p).queues = []) ∧
    c 0x80 = .granule 1 ∧ c (0x8000000001000080) = .block 1 1 ∧ c (0x80000000A0000000) = .nothing := by
  decide +kernel
/-- A record that an area names, with nothing issued outstanding; and a save area in no memory, or in the device window. -/
theorem witness_ContextEvents_ends :
    let s := (vh []).wr64 0x60000020 1
    s.idleRec 0 0 ∧ (s.recs.find? fun r => r.part == 0 && r.ending.isNone && r.sr.launch == bitsOf (s.rd64 0x600000B0) 55 0
      && r.sr.asid == bitsOf (s.rd64 0x60000020) 10 0).isSome ∧ (∀ r ∈ s.recs, r.sr.done = 0) ∧ ((s.part 0).trap.room 1) = true ∧
    (∀ a ∈ [(0x2000000000000, Region.window), (0x1FFFFFFFF0000, .hole)],
      let t := (stopped 1).updPart 0 fun p => { p with trap := { p.trap with sabase := a.1 } }
      region (t.canon ((t.part 0).trap.sabase.toNat + 0 * 2 ^ 20)) = a.2) ∧ ((stopped 1).hart 0).giveLanes.sound := by
  simp only [State.idleRec, Hart.sound]; decide +kernel
/-- Nothing holds a line of the tests: no pin, no command and no swap; no record ends; another layout word than the stop's. -/
theorem witness_ContextEvents_still :
    (stopped 1).still = true ∧ saved.still = true ∧ (vh []).still = true ∧ (∀ y ∈ (vh []).recs, y.ending = none) ∧
    (∀ r, saved.recs[0]? = some r → (r.lhart 0).layout ≠ some 0x150) := by
  refine ⟨by decide +kernel, by decide +kernel, by decide +kernel, by decide +kernel, fun r h => ?_⟩
  have g : saved.recs[0]?.all (fun r => (r.lhart 0).layout == some 0x50) = true := by decide +kernel
  rw [h] at g
  simp only [Option.all_some, beq_iff_eq] at g
  rw [g]; decide
/-- A granule of lines that a swap moves. -/
theorem witness_ContextEvents_motion :
    let s := (ac []).updPart 0 fun p => { p with swap := some (0, 1, 0) }
    (upd s fun h => { h with app := { h.app with rcaddr := 0x80 } }).countName 0x80 = .granule 1 ∧ s.inMotion 1 = true := by
  decide +kernel
theorem witness_ErrorsAndLinks :
    let s := State.reset
    let f : State := { s with err := { s.err with lhead := 20, ltail := 4 } }
    let p : State := { s with poison := [(5, true)], links := [(2, ⟨9, [7, 8], 3, false⟩)] }
    s.err.ectl.getLsbD 8 = false ∧ (s.err.lhead - s.err.ltail).toNat < 16 ∧ 16 ≤ (f.err.lhead - f.err.ltail).toNat ∧
    assocGet false s.spoison (blockKey 159 131071) = false ∧ (p.link 2).asked = false ∧ region (s.canon (2 ^ 48 + 3 * 2 ^ 41)) = .peer ∧
    (s.hart (appBase + 0)).status = .running ∧ 5 < localEnd / 128 ∧ p.poisoned 5 = true ∧ s.poisoned 5 = false ∧ 11 < 12 ∧ 23 < 24 ∧ 7 < 8 ∧
    (4 : Nat) ≠ (p.link 2).expect ∧ 8 ∈ (p.link 2).held ∧ 9 ∉ (p.link 2).held ∧ 9 = (p.link 2).next ∧ 5 ∉ (p.link 2).held ∧
    5 ≠ (p.link 2).next ∧ f.err.ltail ≤ 4 ∧ (20 : Word) ≤ f.err.lhead ∧ (3 : Word) < f.err.ltail ∧ f.err.lhead < 21 := by
  decide +kernel
/-- Error interrupts enabled for core 23, and finders of an upset. -/
theorem witness_ErrorsAndLinks_interrupt :
    let e : ErrBlk := { State.reset.err with ectl := 0x117 }
    e.ectl.getLsbD 8 = true ∧ bitsOf e.ectl 4 0 < 24 ∧ State.reset.poisoned 5 = false ∧ blockKey 159 131071 = blockKey 159 131071 ∧
    Upset.line true 5 (some (.agent 0)) ≠ .line false 5 (some (.logical 0 5 0)) := by decide +kernel
/-- Partition 0 in swap mode with a hot name 2 in group 1, the next candidate `c`. -/
def tracking (c : Nat) : State :=
  ({ vh [] with remap := [(1, { Remap.reset with heat := [0, 3, 200, 17] })] } : State).updPart 0 fun p => { p with cand := [(1, c)] }
theorem witness_TrackerEvents :
    let s := tracking 2
    let sched : State := { s with partcfg := [(0, 0x9F40000000000000)] }
    let barred : State := { s with cnt := [(6 * 2 ^ 14, 1)] }
    let moving := s.updPart 0 fun p => { p with swap := some (1, 2, 0) }
    s.scheduledMode 0 = false ∧ sched.scheduledMode 0 = true ∧ (s.remap.map (·.1)).Nodup ∧ (s.part 0).swap = none ∧
    s.tierPending 0 = false ∧ (s.part 0).cand = [(1, 2)] ∧ (s.remapOf 1).fast = 0 ∧ (tracking 0).tierPending 0 = false ∧
    (tracking 0).scheduledMode 0 = false ∧ ((tracking 0).part 0).swap = none ∧ ((tracking 0).part 0).cand = [(1, 0)] ∧
    s.swapBarred 1 2 0 = false ∧ barred.swapBarred 1 2 0 = true ∧
    (moving.part 0).swap = some (1, 2, 0) ∧ Remap.reset.loc < 256 ∧ 2 ^ 18 - 1 < 2 ^ 18 ∧ bitsOf (0xF000000000000000 : Word) 58 40 = 0 ∧
    bitsOf (2 ^ 40 : Word) 58 40 ≠ 0 ∧ ({ s.fp with int := 1 } : FpBlk).int ≠ 0 ∧ s.fp.int = 0 ∧ s.fp.busy = false := by
  decide +kernel
/-- A swap of a group that an enabled partition owns, and of one that none owns. -/
theorem witness_TrackerEvents_owner :
    let s : State := { (tracking 2).updPart 0 fun p => { p with swap := some (1, 2, 0) } with
      partcfg := [(0, 2 ^ 63 + 4 * 2 ^ 37)] }
    s.partOfGroup 1 = some 0 ∧ s.ownsGroup 0 1 = true ∧ s.partOfGroup 4 = none ∧ (s.part 0).swap = some (1, 2, 0) ∧ (∀ q < 0, ∀ x, (s.part q).swap = some x → x.1 ≠ 1) ∧ 1 < 2 ^ 18 := by decide +kernel
theorem witness_FingerprintPassEnd : ∀ fp : FpBlk, ({ State.reset with fp := { fp with busy := true } } : State).fp.busy = true ∧
    ({ State.reset with fp := { fp with busy := true } } : State).calm := by
  intro fp
  refine ⟨rfl, rfl, rfl, rfl, ?_⟩
  exact (by decide +kernel : ∀ p ∈ State.reset.parts, p.2.swap = none)
theorem witness_HostEvents :
    let s := State.reset
    let up : State := { s with host := { s.host with hstat := 0x701 } }
    let set : State := { s with host := { s.host with devnumSet := true } }
    let w (k : Nat) : Word := assocGet 0 [((6 : Nat), (0x1000 : Word)), (7, 0x2000), (8, 0x8000000000000101)] (3 * 2 + k)
    region (errBase + 8) = .window ∧ (errBase + 8) % 8 = 0 ∧ region 8 ≠ .window ∧ (errBase + 9) % 8 ≠ 0 ∧
    (15 : Word).toNat < 16 ∧ 16 ≤ (16 : Word).toNat ∧ bitsOf (63 : Word) 63 6 = 0 ∧ bitsOf (64 : Word) 63 6 ≠ 0 ∧
    s.host.devnumSet = false ∧ set.host.devnumSet = true ∧ up.host.hstat.getLsbD 0 = true ∧ s.host.hstat.getLsbD 0 = false ∧
    0x2000 + 8 ≤ 2 ^ 41 ∧ (w 2).getLsbD 63 = true ∧ (w 2).getLsbD 0 = true ∧ (w 2).getLsbD 8 = true ∧ (w 2).getLsbD 1 = false ∧
    bitsOf (w 0) 49 12 * 4096 ≤ 0x1000 ∧ 0x2FF8 + 8 ≤ bitsOf (w 1) 49 12 * 4096 + 4096 ∧ s.code.cmd = none ∧
    ({ s.code with cmd := some 1 } : CodeBlk).cmd.isSome ∧ region (codeBase + 0x18) = .window ∧ (codeBase + 0x18) % 8 = 0 := by
  decide +kernel
/-- A peer's counted access over two granules, both open or the second closed; and a code command that runs, of either order. -/
theorem witness_HostEvents_counts :
    let o : State := { State.reset with cnt := [(64, 1), (65, 255)], host := { State.reset.host with
      inwin := [(0, 0x2000), (1, 0x2000), (2, 0x8000000000000100)] } }
    let c : State := { o with cnt := [(64, 1)] }
    let w (k : Nat) : Word := assocGet 0 o.host.inwin k
    linesOf 0x2078 16 = [64, 65] ∧ (∀ l ∈ linesOf 0x2078 16, 0 < o.count l) ∧ (∃ l ∈ linesOf 0x2078 16, c.count l = 0) ∧
    (w 2).getLsbD 63 = true ∧ (w 2).getLsbD 8 = true ∧ bitsOf (w 0) 49 12 * 4096 ≤ 0x2078 ∧ 0x2078 + 16 ≤ bitsOf (w 1) 49 12 * 4096 + 4096 ∧
    o.reqs = [] ∧ (∀ e : Bool, ({ o with eager := e } : State).code.cmd = none) ∧ o.under = [] := by
  decide +kernel
theorem witness_HostEvents_calm : ∀ host : HostBlk, ({ State.reset with host := host } : State).calm := by
  intro host
  refine ⟨rfl, rfl, rfl, ?_⟩
  exact (by decide +kernel : ∀ p ∈ State.reset.parts, p.2.swap = none)
/-- The application cores are the 24 with numbers from appBase on (R7). -/
theorem app_number {k : Nat} (h : kindOf k = .app) : ∃ i < 24, k = appBase + i := by
  unfold kindOf at h
  refine ⟨k - appBase, ?_⟩
  split at h
  · simp at h
  · split at h
    · simp at h
    · split at h
      · simp only [hartEnd, appBase] at *; omega
      · simp at h
/-- The invariant of a state that counts, holds and commands nothing. -/
theorem inv_of (s : State) (hm : Memory.wf s.mem = true) (hs : Memory.wf s.spad = true) (hc : s.cnt = []) (hp : s.spcnt = [])
    (ht : s.tok = []) (hk : s.cmds = [])
    (hh : ∀ i < 24, ((s.hart (appBase + i)).status = .running ∨ (s.hart (appBase + i)).status = .waiting) ∧
      (s.hart (appBase + i)).preempt = false ∧ (s.hart (appBase + i)).vec.victim = false ∧ (s.hart (appBase + i)).vec.queue = []) :
    s.Inv := by
  refine ⟨hm, hs, fun l => ?_, fun b => ?_, fun j => ?_, fun c hc => ?_, fun k hk => ?_⟩
  · simp [State.count, hc, assocGet]
  · simp [hp, assocGet]
  · simp [ht, assocGet]
  · simp [hk] at hc
  · obtain ⟨i, hi, rfl⟩ := app_number hk
    exact hh i hi
theorem witness_InvariantKept : State.reset.Inv ∧ (gives (step State.reset) fun _ => true) = true ∧
    (gives (exec (.add ⟨0, 1, 0, 0⟩) State.reset) fun _ => true) = true := by
  refine ⟨inv_of _ rfl rfl rfl rfl rfl rfl ?_, ?_, ?_⟩ <;> decide +kernel
/-- A core at user level that executes SYSCALL. -/
theorem witness_PrivilegeKept :
    let s := user (ac [])
    (Instr.syscall ⟨5⟩).encoded = true ∧ s.Inv ∧ s.privileged s.cur = false ∧
    (gives (exec (.syscall ⟨5⟩) s) fun t => (t.hart 5280).app.xstatus != 0) = true := by
  refine ⟨by decide, inv_of _ ?_ ?_ rfl rfl rfl rfl ?_, ?_, ?_⟩ <;> decide +kernel

/-! ## Values -/

/-- The instruction on g1 and g2 leaves v in g3 and moves one word on. -/
def leaves (i : Instr) (a b v : Word) : Bool :=
  gives (exec i (ac [(1, a), (2, b)])) fun t => t.me.getG 3 == v && t.me.pc == 0x10008
/-- The arguments d = 3, a = 1, b = 2. -/
def r3 : AArgs := ⟨3, 1, 2, 0⟩
/-! R167: shifts take their amount modulo 64; MULH and MULHU are bits 127:64 of the product. -/
theorem test_sub_wraps : leaves (.sub r3) 3 5 0xFFFFFFFFFFFFFFFE = true := by decide +kernel
theorem test_andn : leaves (.andn r3) 0xFF 0x0F 0xF0 = true := by decide +kernel
theorem test_sll_64 : leaves (.sll r3) 3 65 6 = true := by decide +kernel
theorem test_sra : leaves (.sra r3) 0x8000000000000000 4 0xF800000000000000 = true := by decide +kernel
theorem test_rol : leaves (.rol r3) 0x8000000000000001 1 3 = true := by decide +kernel
theorem test_ror : leaves (.ror r3) 3 1 0x8000000000000001 = true := by decide +kernel
theorem test_slt : leaves (.slt r3) 0xFFFFFFFFFFFFFFFF 1 1 = true := by decide +kernel
theorem test_sltu : leaves (.sltu r3) 0xFFFFFFFFFFFFFFFF 1 0 = true := by decide +kernel
theorem test_min : leaves (.min r3) 0xFFFFFFFFFFFFFFFF 1 0xFFFFFFFFFFFFFFFF = true := by decide +kernel
theorem test_minu : leaves (.minu r3) 0xFFFFFFFFFFFFFFFF 1 1 = true := by decide +kernel
theorem test_mulh : leaves (.mulh r3) 0xFFFFFFFFFFFFFFFF 2 0xFFFFFFFFFFFFFFFF = true := by decide +kernel
theorem test_mulhu : leaves (.mulhu r3) 0xFFFFFFFFFFFFFFFF 2 1 = true := by decide +kernel
theorem test_clz : leaves (.clz r3) 0 0 64 = true := by decide +kernel
theorem test_ctz : leaves (.ctz r3) 8 0 3 = true := by decide +kernel
theorem test_popc : leaves (.popc r3) 0xF0F 0 8 = true := by decide +kernel
theorem test_bswap : leaves (.bswap r3) 0x0102030405060708 0 0x0807060504030201 = true := by decide +kernel
theorem test_sel_takes_b : leaves (.sel r3) 7 9 9 = true := by decide +kernel
/-! R168: division by zero, and the most negative number by −1. -/
theorem test_div_zero : leaves (.div r3) 7 0 0xFFFFFFFFFFFFFFFF = true := by decide +kernel
theorem test_div_overflow : leaves (.div r3) 0x8000000000000000 0xFFFFFFFFFFFFFFFF 0x8000000000000000 = true := by decide +kernel
theorem test_rem_zero : leaves (.rem r3) 7 0 7 = true := by decide +kernel
theorem test_rem_sign : leaves (.rem r3) 0xFFFFFFFFFFFFFFF9 2 0xFFFFFFFFFFFFFFFF = true := by decide +kernel
theorem test_rem_overflow : leaves (.rem r3) 0x8000000000000000 0xFFFFFFFFFFFFFFFF 0 = true := by decide +kernel
theorem test_divu_zero : leaves (.divu r3) 7 0 0xFFFFFFFFFFFFFFFF = true := by decide +kernel
theorem test_remu_zero : leaves (.remu r3) 7 0 7 = true := by decide +kernel
/-! R169, R173 to R175: immediates, ADDPC from the statement's own address, transfers. -/
theorem test_addi : leaves (.addi ⟨3, 1, 0xFFFFFFFFFFFFFFFF, false⟩) 5 0 4 = true := by decide +kernel
theorem test_addpc : leaves (.addpc ⟨3, 0, 16, false⟩) 0 0 0x10010 = true := by decide +kernel
theorem test_addi_pair : (gives (exec (.addi ⟨3, 1, 0x123456789ABCDEF0, true⟩) (ac [])) fun t =>
    t.me.getG 3 == 0x123456789ABCDEF0 && t.me.pc == 0x10010) = true := by decide +kernel
theorem test_blt_taken : (gives (exec (.blt ⟨1, 2, 0xFFFFFFFFFFFFFFFF, false⟩) (ac [(1, 0xFFFFFFFFFFFFFFFF)])) fun t =>
    t.me.pc == 0xFFF8) = true := by decide +kernel
theorem test_call : (gives (exec (.call ⟨0, 0, 4, false⟩) (ac [])) fun t => t.me.pc == 0x10020 && t.me.getG 63 == 0x10008) = true := by
  decide +kernel
/-! R170 to R172, in fp32 (12): 1 + 2; 1 ÷ 0 is infinity with DZ; 0 × ∞ is the quiet NaN with NV; √4. -/
theorem test_fadd : leaves (.fadd ⟨12, 3, 1, 2, 0⟩) 0x3F800000 0x40000000 0x40400000 = true := by decide +kernel
theorem test_fmul_fp64 : leaves (.fmul ⟨13, 3, 1, 2, 0⟩) 0x3FF8000000000000 0xC000000000000000 0xC008000000000000 = true := by decide +kernel
theorem test_fmadd_fp16 : leaves (.fmadd ⟨10, 3, 1, 2, 2⟩) 0x4000 0x3C00 0x4200 = true := by decide +kernel
theorem test_fdiv_zero : leaves (.fdiv ⟨12, 3, 1, 2, 0⟩) 0x3F800000 0 0x7F800000 = true := by decide +kernel
theorem test_fsqrt : leaves (.fsqrt ⟨12, 3, 1, 2, 0⟩) 0x40800000 0 0x40000000 = true := by decide +kernel
theorem test_fclass_neg_zero : leaves (.fclass ⟨12, 3, 1, 0, 0⟩) 0x80000000 0 8 = true := by decide +kernel
theorem test_flt : leaves (.flt ⟨12, 3, 1, 2, 0⟩) 0xBF800000 0x3F800000 1 = true := by decide +kernel
/-! R176 to R185: a byte load sign-extends; a store leaves its neighbours; an atomic returns the old value. -/
/-- The bytes of 0x8877665544332211 at 0x2000. -/
def bytes (gs : List (Nat × Word)) : State := (ac ((1, 0x2000) :: gs)).wr64 0x2000 0x8877665544332211
theorem test_ld_signed : (gives (exec (.ld (mm 3 1 0 0 7)) (bytes [])) fun t => t.me.getG 3 == 0xFFFFFFFFFFFFFF88) = true := by
  decide +kernel
theorem test_ldu_half : (gives (exec (.ldu (mm 3 1 0 1 6)) (bytes [])) fun t => t.me.getG 3 == 0x8877) = true := by decide +kernel
theorem test_st_half : (gives (exec (.st (mm 3 1 0 1 2)) (bytes [(3, 0xABCDEF)])) fun t => t.rd64 0x2000 == 0x88776655CDEF2211) = true := by
  decide +kernel
theorem test_amoadd_word : (gives (exec (.amoadd ⟨3, 1, 2, 0, 0, 2, 0⟩) (bytes [(2, 0xFFFFFFFF)])) fun t =>
    t.me.getG 3 == 0x44332211 && t.rd64 0x2000 == 0x8877665544332210) = true := by decide +kernel
theorem test_amocas : (gives (exec (.amocas ⟨3, 1, 2, 0, 0, 3, 0⟩) (bytes [(2, 7), (3, 0x8877665544332211)])) fun t =>
    t.me.getG 3 == 0x8877665544332211 && t.rd64 0x2000 == 7) = true := by decide +kernel
theorem test_amominu : (gives (exec (.amominu ⟨3, 1, 2, 0, 0, 3, 0⟩) (bytes [(2, 7)])) fun t => t.rd64 0x2000 == 7) = true := by
  decide +kernel
/-! R305: a system call on a core saves the address of the next statement and enters at xvec at level 1. -/
theorem test_syscall : (gives (exec (.syscall ⟨5⟩) (user (ac []))) fun t =>
    t.me.app.xepc == 0x10008 && t.me.app.xcause == 12 && t.me.app.xtval == 5 && t.me.app.xstatus == 1) = true := by decide +kernel
/-! R41, R43: the codes of 5 and −1 at order 2 are the stream 0, 1, 1, 1, 0, 1, 0, 1. -/
theorem test_codes : joinCodes 2 [5, -1] = (0xAE, 8) := by decide +kernel
theorem test_code_bytes : bytesOfNat 2 (0xAE <<< 3) = [0x70, 0x05] := by decide +kernel
/-- The vector instruction on two words a1 a0 and b1 b0 of a format leaves r1 r0 in v4. -/
def makes (ef : Word) (i : VArgs → Instr) (a b r : Nat) (c : Nat := 0) : Bool :=
  gives (exec (i ⟨false, false, 0, 4, 5, 6, 7⟩) (lanes ef 64 0 [(5, ⟨64, a⟩), (6, ⟨64, b⟩), (7, ⟨64, c⟩)] [])) fun t =>
    t.me.vbits 4 == r && t.me.vfill 4 == 64
/-! R206, on int32 (4): wrapping, clamping, shifts modulo 32. -/
theorem test_vadd_wraps : makes 4 .vadd 0xFFFFFFFF00000001 0x0000000200000002 0x0000000100000003 = true := by decide +kernel
theorem test_vsadd_clamps : makes 4 .vsadd 0x7FFFFFFF80000000 0x00000001FFFFFFFF 0x7FFFFFFF80000000 = true := by decide +kernel
theorem test_vssubu_clamps : makes 4 .vssubu 0x0000000500000002 0x0000000300000003 0x0000000200000000 = true := by decide +kernel
theorem test_vmulh : makes 4 .vmulh 0x80000000FFFFFFFF 0x0000000200000002 0xFFFFFFFFFFFFFFFF = true := by decide +kernel
theorem test_vsra : makes 4 .vsra 0x8000000000000010 0x0000002100000004 0xC000000000000001 = true := by decide +kernel
/-! R207, on fp32 (12): 1 + 2 and −1 + 1; 2 × 3 + 4. -/
theorem test_vfadd : makes 12 .vfadd 0xBF8000003F800000 0x3F80000040000000 0x0000000040400000 = true := by decide +kernel
theorem test_vfma : makes 12 .vfma 0x4000000040000000 0x4040000040400000 0x4120000041200000 0x4080000040800000 = true := by decide +kernel
theorem test_vfneg : makes 12 .vfneg 0x000000003F800000 0 0x80000000BF800000 = true := by decide +kernel
/-! R209: a compare writes one mask bit for each element. -/
theorem test_vclt : (gives (exec (.vclt ⟨false, false, 0, 2, 5, 6, 0⟩)
    (lanes 4 64 0 [(5, ⟨64, 0xFFFFFFFF00000005⟩), (6, ⟨64, 0x0000000100000005⟩)] [])) fun t => t.me.mreg 2 == 2) = true := by decide +kernel
/-! R222: a sum goes into element 0, and the fill is one element. -/
theorem test_vredsum : (gives (exec (.vredsum ⟨false, false, 0, 4, 5, 0, 4⟩) (lanes 4 64 0 [(5, ⟨64, 0xFFFFFFFF00000003⟩)] [])) fun t =>
    t.me.vbits 4 == 2 && t.me.vfill 4 == 32) = true := by decide +kernel
/-! R267: 2 × 2 products of ones over two columns are 2, in fp32. -/
theorem test_mma : (gives (exec (.mma (xx 0 false false 1 0 0 0))
    (upd (engineAt 0 0xA0A 2 2 2 (some (latchOf 0xA0A 0x3C003C00 false)) (some (latchOf 0xA0A 0x3C003C00 false))) fun h =>
      { h with mx := { h.mx with acc := [(1, ⟨true, [], []⟩)] } }))
    fun t => t.me.mx.accPos 1 0 == 0x40000000 && t.me.mx.accPos 1 129 == 0x40000000 && t.me.mx.accPos 1 2 == 0) = true := by decide +kernel
/-! R271: CPYIN of 64 bytes. -/
theorem test_cpyin : (gives (exec (.cpyin (xx 0 false false 0 1 2 3)) (engines [(1, 0x1000), (2, 0x2000), (3, 64)])) fun t =>
    t.sp8 0 0x101C == 64 && t.sp8 0 0x1050 == 0) = true := by decide +kernel
/-! R276: TOKPOST pushes, TOKWAIT pops. -/
theorem test_tokpost : (gives (exec (.tokpost (xx 0 false true 0 0 0 0)) (tokened 1)) fun t => t.tokens 0 3 == 2) = true := by decide +kernel
theorem test_tokwait : (gives (exec (.tokwait (xx 0 true false 0 0 0 0)) (tokened 1)) fun t => t.tokens 0 3 == 0) = true := by decide +kernel
/-! R370: interrupt 13; R366: HIRQ. -/
theorem test_power : (gives (exec (.powerLimitExceeded 2) State.reset) fun t => (t.hart 5282).app.pending == 0x2000) = true := by
  decide +kernel
theorem test_hirq : (gives (exec (.hirqWrite 9) State.reset) fun t => t.msix == [9]) = true := by decide +kernel
/-! R309: the word that enables partition 1 over two quadrants, in scheduled mode. -/
theorem test_partcfg : (gives (exec (.partcfgWrite 1 0x9620001000000000) State.reset) fun t =>
    t.partEnabled 1 && t.scheduledMode 1 && t.gbase 1 == 131072 && t.gcount 1 == 65536 && t.ownsCluster 1 40 && !t.ownsCluster 1 0) = true := by
  decide +kernel
/-! R237, R239: the shorter list ends the sums; the grant is what was summed. -/
theorem test_vcadd_grants : (gives (exec (.vcadd ⟨false, false, 0, 4, 5, 6, 0⟩) (coded 16 64)) fun t =>
    t.me.vbits 4 == (joinCodes 0 [2]).1 && t.me.vfill 4 == (joinCodes 0 [2]).2 && t.me.vec.vgn == 1 &&
      t.me.vec.vgb == BitVec.ofNat 64 (joinCodes 0 [1]).2) = true := by decide +kernel
theorem test_vccat : (gives (exec (.vccat ⟨false, false, 0, 4, 5, 6, 0⟩) (coded 16 64)) fun t =>
    t.me.vbits 4 == (joinCodes 0 [1, -1, 1]).1 && t.me.vec.vgn == 3) = true := by decide +kernel
/-! R152, R164: a privileged word below executive level raises the privilege trap alone, and the illegal-instruction trap behind a
prefix. -/
theorem test_privileged_word : (gives (rejected false (.illegal 0xFF00000000000068) (user (ac []))) fun t => t.me.app.xcause == 3) = true := by
  decide +kernel
theorem test_privileged_pair : (gives (rejected true (.illegal 0x68) (user (ac []))) fun t => t.me.app.xcause == 1) = true := by
  decide +kernel

end Sys2Proof.Tests
end

section
/-! Accesses from outside (Machine/Events.lean), and the host's write of a granule in motion: O57. -/

open Sys2Proof Sys2Proof.Machine

namespace Sys2Proof.Machine

variable (s : State)

/-! ## Accesses that have arrived (R104, R366) -/

/-- An access whose source has none waiting performs, where it can, before those behind it. -/
theorem outsideRun_cons_performs {held : List Nat} {r : OutsideReq} {t : State} (rs : List OutsideReq)
    (hr : r.src ∉ held) (ht : s.outsideTry r = some t) : outsideRun held (r :: rs) s = outsideRun held rs t := by
  simp [outsideRun, hr, ht]

/-- Where no line is pinned, an access performs whose lines no command owns and no swap moves. -/
theorem State.outsideTry_open {r : OutsideReq} (hp : s.pins = []) (hc : s.cmds = [])
    (hm : ∀ l ∈ linesOf r.a (outsideSize r.op), s.inMotion l = false) :
    s.outsideTry r = some ((linesOf r.a (outsideSize r.op)).foldl
      (fun (s : State) l => s.served (sourceOf r.src) l) (s.outsidePerform r.a r.op)) := by
  have hg : s.gate (sourceOf r.src) r.a (outsideSize r.op) = .ok () :=
    forM_ok _ _ fun l hl => by simp [State.gateLine, State.refusedAt, hp, hc, hm l hl]
  rw [State.outsideTry, hg]

/-- After READY a write of the host joins the accesses that have arrived, and what can perform does (R366, R371). -/
theorem exec_hostBar0Write_ready {a : Nat} {data : List Byte} (hr : s.ready = true) (hl : a + data.length ≤ localEnd) :
    exec (.hostBar0Write a data) s = .next (outsideRun [] (s.reqs ++ [⟨9, a, .write data⟩]) { s with reqs := [] }) := by
  have h : s.asHostWrite 9 a data = s.arrives 9 a (.write data) := if_pos (by simp [hr, hl])
  exact congrArg Host.Outcome.next h

end Sys2Proof.Machine

namespace Sys2Proof.HostScope

/-! ## A partition listed twice

The clause of O57 on a granule in motion lets other accesses stand before the host's write. One of a peer can count an event
in a partition (R376), and `State.updPart` then rewrites the whole entry of that partition: it keeps the first one listed. The
clause speaks of every state, also of one whose `parts` lists a partition twice, as no canonical map does: no premise says that
the keys of `parts` are distinct. There the swap that only the second entry holds is gone before the host's write is tried. -/

/-- A peer's counted load of granule 0, whose count is 0: it overruns (R100). -/
def peerLoad : OutsideReq := ⟨8, 0, .loadRd 1⟩
/-- A write of the host to granule 2 ^ 16, which lies in name 0 of group 1. -/
def hostStore : OutsideReq := ⟨9, 2 ^ 23, .write [1]⟩
/-- READY is set, partition 0 owns group 0, and a peer's load waits; partition 0 is listed twice, and its second entry swaps the
names 0 and 1 of group 1. -/
def listedTwice : State :=
  { State.reset with
    host := { HostBlk.reset with hstat := 1 }
    partcfg := [(0, 2 ^ 63 + 2 ^ 37)]
    parts := [(0, Part.reset), (0, { Part.reset with swap := some (1, 0, 1) })]
    reqs := [peerLoad] }
/-- What the peer's load leaves: its overrun is counted, in the one entry that partition 0 has now, and answered. -/
def overrun : State :=
  { listedTwice with
    reqs := []
    parts := [(0, Part.reset.addOvrun)]
    out := [⟨0, [], .overrun⟩] }

theorem listedTwice_inMotion : listedTwice.inMotion (2 ^ 16) = true := by decide
theorem overrun_inMotion (l : Nat) : overrun.inMotion l = false := rfl
theorem hostStore_lines : linesOf hostStore.a (outsideSize hostStore.op) = [2 ^ 16] := by decide

/-- The peer's load performs, for granule 0 is not in motion. -/
theorem peerLoad_performs : ({ listedTwice with reqs := [] } : State).outsideTry peerLoad = some overrun := by
  rw [State.outsideTry_open _ rfl rfl (by decide)]
  decide +kernel

/-- The host's write performs after it, for nothing is in motion any more. -/
theorem hostStore_performs : ∃ t, overrun.outsideTry hostStore = some t ∧ t.reqs = [] :=
  ⟨_, State.outsideTry_open _ rfl rfl fun l _ => overrun_inMotion l, by rw [hostStore_lines]; rfl⟩

/-- The host's write performs although its granule is in motion when it arrives. -/
theorem hostStore_does_not_wait :
    ∃ t, exec (.hostBar0Write hostStore.a [1]) listedTwice = .next t ∧ t.reqs = [] := by
  obtain ⟨t, ht, hreqs⟩ := hostStore_performs
  refine ⟨t, ?_, hreqs⟩
  rw [exec_hostBar0Write_ready _ rfl (by decide)]
  refine congrArg Host.Outcome.next ?_
  calc outsideRun [] [peerLoad, hostStore] { listedTwice with reqs := [] }
      = outsideRun [] [hostStore] overrun := outsideRun_cons_performs _ _ (by simp) peerLoad_performs
    _ = t := outsideRun_cons_performs _ _ (by simp) ht

/-- Refutes O57: a write of the host to a granule in motion does not wait in `listedTwice`, where an access of a peer that
arrived before it counts its overrun, and by that drops the entry of `parts` that holds the swap. -/
theorem not_hostEvents : ¬ Obligations.HostEvents := by
  unfold Obligations.HostEvents
  rintro ⟨-, hostAccesses, -⟩
  obtain ⟨-, -, -, waits, -⟩ := hostAccesses listedTwice 0 hostStore.a 1 [1]
  obtain ⟨t, ht, hmem⟩ := waits (2 ^ 16) (by decide) rfl (by decide) (by decide) (by decide) listedTwice_inMotion (by decide)
  obtain ⟨u, hu, hreqs⟩ := hostStore_does_not_wait
  obtain rfl : u = t := Host.Outcome.next.inj (hu.symm.trans ht)
  simp [hreqs] at hmem

end Sys2Proof.HostScope
end

section
/-! The machine right after reset (R371): what its harts, memories and partitions hold, and the invariant of every run: O58. -/

namespace Sys2Proof.Machine

/-- The application cores are the hartids from `appBase` up to `hartEnd` (R7). -/
theorem kindOf_eq_app_iff {h : Nat} : kindOf h = .app ↔ appBase ≤ h ∧ h < hartEnd := by
  have hb : seqBase < appBase := by decide
  unfold kindOf
  split_ifs <;> simp <;> omega

/-- A map that lists n keys in a row, from b on, has the k-th value at key b + k, and the default elsewhere. -/
theorem assocGet_map_range {α : Type} (d : α) (b n : Nat) (f : Nat → α) (a : Nat) :
    assocGet d ((List.range n).map fun k => (b + k, f k)) a = if b ≤ a ∧ a < b + n then f (a - b) else d := by
  induction n with
  | zero => rw [if_neg (by omega)]; rfl
  | succ n ih =>
    rw [List.range_succ, List.map_append]
    by_cases ha : a = b + n
    · subst ha
      rw [assocGet_append_of_not_mem (by simp; omega)]
      simp [assocGet]
    · rw [assocGet_append_left (by simpa using Ne.symm ha), ih]
      simp only [show b ≤ a ∧ a < b + (n + 1) ↔ b ≤ a ∧ a < b + n by omega]

/-- An application core after reset runs or waits in XWAIT. -/
theorem Hart.appReset_status (k : Nat) : (Hart.appReset k).status = .running ∨ (Hart.appReset k).status = .waiting := by
  by_cases hk : k = 0
  · exact .inl (if_pos hk)
  · exact .inr (if_neg hk)

namespace State

/-! ## Harts (R7, R371) -/

theorem hart_reset (h : Nat) :
    reset.hart h = if appBase ≤ h ∧ h < hartEnd then Hart.appReset (h - appBase) else Hart.free :=
  assocGet_map_range ..
/-- Application core k after reset. -/
theorem hart_reset_app {k : Nat} (hk : k < 24) : reset.hart (appBase + k) = Hart.appReset k := by
  rw [hart_reset, if_pos ⟨Nat.le_add_right .., Nat.add_lt_add_left hk appBase⟩, Nat.add_sub_cancel_left]
/-- No vector hart and no sequencer is placed. -/
theorem hart_reset_free {h : Nat} (hh : h < appBase) : reset.hart h = Hart.free := by
  rw [hart_reset, if_neg (by omega)]

/-! ## Memories, counts, tokens and partitions (R96, R121, R308, R339) -/

@[simp] theorem rd8_reset (a : Nat) : reset.rd8 a = 0 := rfl
@[simp] theorem sp8_reset (c o : Nat) : reset.sp8 c o = 0 := rfl
@[simp] theorem count_reset (l : Nat) : reset.count l = 0 := rfl
@[simp] theorem spCount_reset (c b : Nat) : reset.spCount c b = 0 := rfl
@[simp] theorem tokens_reset (c k : Nat) : reset.tokens c k = 0 := rfl
@[simp] theorem remapOf_reset (g : Nat) : reset.remapOf g = Remap.reset := rfl
@[simp] theorem part_reset (p : Nat) : reset.part p = Part.reset := rfl
@[simp] theorem partcfgOf_reset (p : Nat) : reset.partcfgOf p = 0 := rfl
@[simp] theorem partEnabled_reset (p : Nat) : reset.partEnabled p = false := by simp [partEnabled]

/-! ## The invariant -/

/-- The invariant holds after reset: nothing is listed but the application cores, and no command is outstanding. -/
theorem inv_reset : reset.Inv := by
  obtain ⟨hmem, hspad⟩ := Memory.wf_reset
  refine ⟨hmem, hspad, fun l => by simp, fun _ => Nat.zero_le _, fun _ => Nat.zero_le _,
    fun _ hc => absurd hc List.not_mem_nil, fun h hh => ?_⟩
  obtain ⟨lo, hi⟩ := kindOf_eq_app_iff.1 hh
  rw [hart_reset, if_pos ⟨lo, hi⟩]
  exact ⟨Hart.appReset_status _, rfl, rfl, rfl⟩

end State

/-- Settles O58: the application cores are those of `Hart.appReset`, every other slot is free, and every map of the state
after reset lists nothing, so that what is read from it is its default. -/
theorem resetState : Obligations.ResetState := by
  unfold Obligations.ResetState
  intro s
  have cores : ∀ k < 24, (s.hart (appBase + k)).app.xstatus = 1 ∧ (s.hart (appBase + k)).pc = firmwareEntry ∧
      (s.hart (appBase + k)).app.xwait = decide (k ≠ 0) := by
    intro k hk
    rw [State.hart_reset_app hk]
    exact ⟨rfl, rfl, rfl⟩
  have slots : ∀ h < appBase, (s.hart h).status = .free := by
    intro h hh
    rw [State.hart_reset_free hh]
    rfl
  have locs : ∀ g, (s.remapOf g).loc = 0xE4 ∧ (s.remapOf g).pin = 0 := by
    intro g
    rw [State.remapOf_reset]
    exact ⟨rfl, rfl⟩
  have queues : ∀ p q, ((s.part p).queue q).recs = [] := by
    intro p q
    rw [State.part_reset]
    rfl
  exact ⟨cores, slots, rfl, State.rd8_reset, State.sp8_reset, State.count_reset, State.spCount_reset, State.tokens_reset, locs,
    rfl, rfl, rfl, rfl, State.partEnabled_reset, queues, rfl, rfl, rfl, rfl, rfl, rfl, rfl, rfl, rfl, State.inv_reset⟩

end Sys2Proof.Machine
end

section
/-! A matrix command behind an ended hart that has none left (Machine/Matrix.lean): O49. -/

open Sys2Proof Sys2Proof.Machine

namespace Sys2Proof.Machine

variable {s : State}

/-! ## Whose command the matrix engine of a cluster takes (R68, R257) -/

/-- An ended hart at the head of a sequencer's tail is the engine's, also where none of its commands is left. -/
theorem matrixStep_of_idle_tail {c : Nat} {h : Hart} {r : List Hart} (ht : assocGet [] s.tails (seqBase + c) = h :: r)
    (hq : h.mx.queue = []) : s.matrixStep c = none := by
  have he : s.engineHart c = h := by simp [State.engineHart, ht]
  simp only [State.matrixStep, he, hq]

/-- Where no engine command is outstanding and no matrix engine can go on, nothing settles. -/
theorem settleEngines_of_stuck (hc : s.cmds = []) (hm : ∀ e ∈ s.harts, kindOf e.1 = .sequencer → s.matrixStep (e.1 - seqBase) = none) :
    s.settleEngines = s := by
  have step : s.engineStep = none := by
    have harts : (s.harts.findSome? fun e => if kindOf e.1 = .sequencer then s.matrixStep (e.1 - seqBase) else none) = none := by
      rw [List.findSome?_eq_none_iff]
      intro e he
      split
      · next hk => exact hm e he hk
      · rfl
    simp only [State.engineStep, hc, List.findSome?_nil, harts]
  have run : ∀ n, s.engineRun n = s := by
    intro n
    cases n with
    | zero => rfl
    | succ n => simp only [State.engineRun, step]
  unfold State.settleEngines
  split
  · exact run _
  · rfl

end Sys2Proof.Machine

namespace Sys2Proof.IdleTail

/-! ## The state that refutes O49

`State.seqReady` asks that no matrix command is outstanding, of the sequencer or of an ended hart, and leaves open whether the tail
of the sequencer's slot lists a hart that has none. The engine takes the commands of the first hart of the tail before those of
the sequencer (`State.engineHart`), so there the MMA of the sequencer is queued and does not perform. -/

/-- A latch of one int8 element under grants of 1. -/
def oneElement : Latch := ⟨[1], [], 1, 1, 1, 0, false, 0, false⟩
/-- A sequencer with grants of 1, format word 0 and both latches loaded. -/
def loaded : Hart :=
  { Hart.free with
    status := .running
    mx := { Mx.start 0 with tm := 1, tn := 1, tk := 1, la := some oneElement, lb := some oneElement } }
/-- That sequencer alone on the device, but for an ended hart in the tail of its slot with nothing queued. -/
def behind : State := { State.reset with cur := seqBase, harts := [(seqBase, loaded)], tails := [(seqBase, [Hart.free])] }
/-- MMA into accumulator 0, without tokens. -/
def product : XArgs := ⟨0, false, false, 0, 0, 0, 0, 0, 0⟩
/-- The command as the sequencer queues it. -/
def command : MCmd := mcmdOf loaded behind (.mma product) (opsOf product loaded 0) []
/-- The sequencer past the MMA, which it has queued. -/
def issued : State :=
  { behind with seq := 1 }.setMe ((loaded.updMx fun m => { m with queue := [command] }).retire 8)

theorem behind_seqReady : behind.seqReady := by
  simp only [State.seqReady, State.quiet]; decide +kernel
theorem behind_unspoiled : behind.unspoiled := by
  simp only [State.unspoiled, Hart.sound]; decide +kernel
theorem behind_xTokens : behind.xTokens product := by
  simp only [State.xTokens]; decide +kernel
theorem behind_tileFits : behind.me.tileFits := by
  simp only [Hart.tileFits]; decide +kernel

/-- The command passes its checks and enters the queue. -/
theorem issueMma_behind :
    issueMma behind.cur product (opsOf product behind.me behind.ir) behind.me behind =
      .ok (loaded.updMx fun m => { m with queue := [command] }, { behind with seq := 1 }) := by
  decide +kernel

/-- The engine does not come to it. -/
theorem settleEngines_issued : issued.settleEngines = issued := by
  refine settleEngines_of_stuck rfl fun e he _ => ?_
  obtain rfl : e = _ := List.mem_singleton.1 he
  exact matrixStep_of_idle_tail (h := Hart.free) (r := []) (by decide +kernel) rfl

theorem exec_mma_behind : exec (.mma product) behind = .next issued := by
  have h : exec (.mma product) behind = issueNow product behind issueMma := rfl
  rw [h, issueNow, issueMma_behind]
  exact congrArg Host.Outcome.next settleEngines_issued

/-- Refutes O49: the MMA of `behind` meets every premise and stays queued, where the statement has it perform. -/
theorem not_matrixProducts : ¬ Obligations.MatrixProducts := by
  unfold Obligations.MatrixProducts
  rintro ⟨products, -⟩
  obtain ⟨performs, -⟩ := products product behind oneElement oneElement behind_seqReady behind_unspoiled behind_xTokens
    behind_tileFits (.mma product, false) (List.mem_cons_self ..)
  obtain ⟨t, ht, -, -, hme, -⟩ := performs rfl rfl rfl rfl rfl
  obtain rfl : issued = t := Host.Outcome.next.inj (exec_mma_behind.symm.trans ht)
  have hq : issued.me.mx.queue = behind.me.mx.queue := congrArg (fun h => h.mx.queue) hme
  exact absurd hq (by decide +kernel)

end Sys2Proof.IdleTail
end

section
/-! Magnitudes m × 2^e as rational numbers, and rounding to an integer in the modes of R27 (Machine/Float.lean). -/

open Sys2Proof Sys2Proof.Machine

namespace Sys2Proof.Machine

/-! ## Magnitudes -/

theorem cast_shl (m : ℕ) {k : ℤ} (hk : 0 ≤ k) : ((shl m k : ℕ) : ℚ) = m * 2 ^ k := by
  obtain ⟨n, rfl⟩ := Int.eq_ofNat_of_zero_le hk
  simp [shl]

/-- A magnitude in units of a lesser power of two. -/
theorem cast_shl_mul (m : ℕ) {u e : ℤ} (h : u ≤ e) : ((shl m (e - u) : ℕ) : ℚ) * 2 ^ u = m * 2 ^ e := by
  rw [cast_shl m (by omega), mul_assoc, ← zpow_add₀ two_ne_zero, sub_add_cancel]

theorem gtMag_iff {m m' : ℕ} {e e' : ℤ} : gtMag m e m' e' = true ↔ (m' : ℚ) * 2 ^ e' < m * 2 ^ e := by
  unfold gtMag
  split
  · next h => rw [decide_eq_true_iff, ← cast_shl_mul m h, mul_lt_mul_iff_left₀ (by positivity), Nat.cast_lt]
  · next h => rw [decide_eq_true_iff, ← cast_shl_mul m' (not_le.1 h).le, mul_lt_mul_iff_left₀ (by positivity), Nat.cast_lt]

theorem gtMag_eq_false_iff {m m' : ℕ} {e e' : ℤ} : gtMag m e m' e' = false ↔ (m : ℚ) * 2 ^ e ≤ m' * 2 ^ e' := by
  rw [← Bool.not_eq_true, gtMag_iff, not_lt]

/-- A number that is not 0 lies in the binade of its logarithm. -/
theorem log2_bounds {m : ℕ} (hm : m ≠ 0) : (2 : ℚ) ^ (m.log2 : ℤ) ≤ m ∧ (m : ℚ) + 1 ≤ 2 ^ ((m.log2 : ℤ) + 1) := by
  constructor
  · exact_mod_cast Nat.log2_self_le hm
  · exact_mod_cast (Nat.lt_log2_self : m < _)

/-- A number lies in one binade. -/
theorem binade_unique {a b : ℤ} {x : ℚ} (ha : 2 ^ a ≤ x) (ha' : x < 2 ^ (a + 1)) (hb : 2 ^ b ≤ x) (hb' : x < 2 ^ (b + 1)) :
    a = b := by
  have h1 := (zpow_lt_zpow_iff_right₀ (one_lt_two (α := ℚ))).1 (ha.trans_lt hb')
  have h2 := (zpow_lt_zpow_iff_right₀ (one_lt_two (α := ℚ))).1 (hb.trans_lt ha')
  omega

/-! ## Rounding to an integer (R27) -/

/-- The integer n is y rounded in a mode: `roundsOn` on the grid of the integers. -/
def Rounds (mode : ℕ) (y : ℚ) (n : ℤ) : Prop :=
  match mode with
  | 0 => 2 * |y - n| < 1 ∨ (2 * |y - n| = 1 ∧ n % 2 = 0)
  | 1 => |(n : ℚ)| ≤ |y| ∧ |y| < |(n : ℚ)| + 1 ∧ 0 ≤ n * y
  | 2 => n ≤ y ∧ y < n + 1
  | 3 => y ≤ n ∧ n < y + 1
  | _ => 2 * |y - n| < 1 ∨ (2 * |y - n| = 1 ∧ |y| < |(n : ℚ)|)

/-- Two integers within one half of a number are one, or the number is half way between them. -/
theorem eq_or_midway {y : ℚ} {a b : ℤ} (ha : 2 * |y - a| ≤ 1) (hb : 2 * |y - b| ≤ 1) :
    a = b ∨ (2 * |y - a| = 1 ∧ 2 * |y - b| = 1 ∧ ((a = b + 1 ∧ y = b + 1 / 2) ∨ (b = a + 1 ∧ y = a + 1 / 2))) := by
  obtain ⟨ha1, ha2⟩ := abs_le.1 (show |y - a| ≤ 1 / 2 by linarith)
  obtain ⟨hb1, hb2⟩ := abs_le.1 (show |y - b| ≤ 1 / 2 by linarith)
  have hab : a ≤ b + 1 := by exact_mod_cast (show (a : ℚ) ≤ b + 1 by linarith)
  have hba : b ≤ a + 1 := by exact_mod_cast (show (b : ℚ) ≤ a + 1 by linarith)
  have mid : ∀ x : ℚ, x = 1 / 2 ∨ x = -(1 / 2) → 2 * |x| = 1 := by
    rintro x (rfl | rfl) <;> norm_num [abs_of_pos]
  rcases lt_trichotomy a b with h | h | h
  · obtain rfl : b = a + 1 := by omega
    push_cast at hb1 hb2 ⊢
    have hy : y = a + 1 / 2 := by linarith
    exact .inr ⟨mid _ (.inl (by linarith)), mid _ (.inr (by linarith)), .inr ⟨rfl, hy⟩⟩
  · exact .inl h
  · obtain rfl : a = b + 1 := by omega
    push_cast at ha1 ha2 ⊢
    have hy : y = b + 1 / 2 := by linarith
    exact .inr ⟨mid _ (.inr (by linarith)), mid _ (.inl (by linarith)), .inl ⟨rfl, hy⟩⟩

/-- Half way between two integers, one of them is no farther from zero. -/
theorem not_both_outward (a : ℤ) (h : |(a : ℚ) + 1 / 2| < |(a : ℚ)|) : ¬ |(a : ℚ) + 1 / 2| < |((a + 1 : ℤ) : ℚ)| := by
  push_cast
  have hneg : (a : ℚ) < 0 := by
    by_contra hc
    rw [abs_of_nonneg (by linarith), abs_of_nonneg (by linarith)] at h
    linarith
  have : a + 1 ≤ 0 := by
    have : a < 0 := by exact_mod_cast hneg
    omega
  have : (a : ℚ) + 1 ≤ 0 := by exact_mod_cast this
  rw [abs_of_nonpos this, abs_of_nonpos (by linarith)]
  linarith

theorem Rounds.unique {mode : ℕ} {y : ℚ} {a b : ℤ} (ha : Rounds mode y a) (hb : Rounds mode y b) : a = b := by
  match mode with
  | 0 =>
    rcases eq_or_midway (ha.elim le_of_lt fun h => h.1.le) (hb.elim le_of_lt fun h => h.1.le) with h | ⟨h1, h2, h⟩
    · exact h
    · obtain ⟨-, hea⟩ := ha.resolve_left h1.not_lt
      obtain ⟨-, heb⟩ := hb.resolve_left h2.not_lt
      omega
  | 1 =>
    obtain ⟨a1, a2, a3⟩ := ha
    obtain ⟨b1, b2, b3⟩ := hb
    have hab : |a| ≤ |b| := Int.lt_add_one_iff.1 (by exact_mod_cast a1.trans_lt b2)
    have hba : |b| ≤ |a| := Int.lt_add_one_iff.1 (by exact_mod_cast b1.trans_lt a2)
    rcases abs_eq_abs.1 (hab.antisymm hba) with h | h
    · exact h
    · subst h
      push_cast at a1 a3
      have hz : (b : ℚ) * y = 0 := by linarith
      rcases mul_eq_zero.1 hz with hb0 | hy
      · simp_all
      · simp_all
  | 2 =>
    obtain ⟨a1, a2⟩ := ha
    obtain ⟨b1, b2⟩ := hb
    have hab : a < b + 1 := by exact_mod_cast a1.trans_lt b2
    have hba : b < a + 1 := by exact_mod_cast b1.trans_lt a2
    omega
  | 3 =>
    obtain ⟨a1, a2⟩ := ha
    obtain ⟨b1, b2⟩ := hb
    have hab : a < b + 1 := by exact_mod_cast (show (a : ℚ) < b + 1 by linarith)
    have hba : b < a + 1 := by exact_mod_cast (show (b : ℚ) < a + 1 by linarith)
    omega
  | n + 4 =>
    rcases eq_or_midway (ha.elim le_of_lt fun h => h.1.le) (hb.elim le_of_lt fun h => h.1.le) with h | ⟨h1, h2, h⟩
    · exact h
    · obtain ⟨-, hoa⟩ := ha.resolve_left h1.not_lt
      obtain ⟨-, hob⟩ := hb.resolve_left h2.not_lt
      rcases h with ⟨rfl, rfl⟩ | ⟨rfl, rfl⟩
      · exact absurd hoa (not_both_outward b hob)
      · exact absurd hob (not_both_outward a hoa)

/-- An integer rounds to itself. -/
theorem Rounds.self (mode : ℕ) (n : ℤ) : Rounds mode n n := by
  match mode with
  | 0 | 2 | 3 | _ + 4 => simp [Rounds]
  | 1 => exact ⟨le_rfl, lt_add_one _, mul_self_nonneg _⟩

theorem rounds_roundInt (mode : ℕ) (y : ℚ) : Rounds mode y (roundInt mode y) := by
  have lo := Int.floor_le y
  have hi := Int.lt_floor_add_one y
  match mode with
  | 0 =>
    simp only [roundInt]
    split_ifs with h1 h2 h3
    · exact .inl (by rwa [abs_of_nonneg (by linarith)])
    · refine .inl ?_
      push_cast
      rw [abs_of_nonpos (by linarith)]
      linarith
    · exact .inr ⟨by rw [abs_of_nonneg (by linarith)]; linarith, h3⟩
    · refine .inr ⟨?_, by omega⟩
      push_cast
      rw [abs_of_nonpos (by linarith)]
      linarith
  | 1 =>
    simp only [roundInt]
    split_ifs with h
    · have hf : (0 : ℚ) ≤ ⌊y⌋ := by exact_mod_cast Int.floor_nonneg.2 h
      refine ⟨?_, ?_, mul_nonneg hf h⟩
      · rwa [abs_of_nonneg hf, abs_of_nonneg h]
      · rwa [abs_of_nonneg hf, abs_of_nonneg h]
    · have hy : y ≤ 0 := (not_le.1 h).le
      have hc : (⌈y⌉ : ℚ) ≤ 0 := by exact_mod_cast Int.ceil_le.2 (by exact_mod_cast hy)
      have lo' := Int.le_ceil y
      have hi' := Int.ceil_lt_add_one y
      refine ⟨?_, ?_, mul_nonneg_of_nonpos_of_nonpos hc hy⟩ <;> rw [abs_of_nonpos hc, abs_of_nonpos hy] <;> linarith
  | 2 => exact ⟨lo, hi⟩
  | 3 => exact ⟨Int.le_ceil y, Int.ceil_lt_add_one y⟩
  | n + 4 =>
    simp only [roundInt]
    split_ifs with h
    · have lo' := Int.floor_le (y + 1 / 2)
      have hi' := Int.lt_floor_add_one (y + 1 / 2)
      rcases lo'.lt_or_eq with hl | hl
      · exact .inl (by have := abs_lt.2 (show -(1 / 2) < y - ⌊y + 1 / 2⌋ ∧ y - ⌊y + 1 / 2⌋ < 1 / 2 by constructor <;> linarith); linarith)
      · refine .inr ⟨?_, ?_⟩
        · rw [hl, abs_of_neg (by linarith)]; linarith
        · rw [hl, abs_of_nonneg h, abs_of_nonneg (by linarith)]; linarith
    · have hy : y ≤ 0 := (not_le.1 h).le
      have lo' := Int.le_ceil (y - 1 / 2)
      have hi' := Int.ceil_lt_add_one (y - 1 / 2)
      rcases lo'.lt_or_eq with hl | hl
      · exact .inl (by have := abs_lt.2 (show -(1 / 2) < y - ⌈y - 1 / 2⌉ ∧ y - ⌈y - 1 / 2⌉ < 1 / 2 by constructor <;> linarith); linarith)
      · refine .inr ⟨?_, ?_⟩
        · rw [← hl, abs_of_pos (by linarith)]; linarith
        · rw [← hl, abs_of_nonpos hy, abs_of_nonpos (by linarith)]; linarith

theorem roundInt_eq_iff {mode : ℕ} {y : ℚ} {n : ℤ} : roundInt mode y = n ↔ Rounds mode y n :=
  ⟨fun h => h ▸ rounds_roundInt mode y, (rounds_roundInt mode y).unique⟩

@[simp] theorem roundInt_intCast (mode : ℕ) (n : ℤ) : roundInt mode n = n := roundInt_eq_iff.2 (Rounds.self mode n)

/-- Rounding on a grid is rounding to an integer in its units. -/
theorem roundsOn_iff {mode : ℕ} (hm : mode ≤ 4) {q : ℚ} {u : ℤ} {r : ℚ} :
    roundsOn mode q u r ↔ r = roundInt mode (q / 2 ^ u) * 2 ^ u := by
  have hu : (0 : ℚ) < 2 ^ u := by positivity
  have scale : ∀ k : ℤ, Rounds mode (q / 2 ^ u) k ↔ match mode with
      | 1 => |(k * 2 ^ u : ℚ)| ≤ |q| ∧ |q| < |(k * 2 ^ u : ℚ)| + 2 ^ u ∧ 0 ≤ k * 2 ^ u * q
      | 2 => k * 2 ^ u ≤ q ∧ q < k * 2 ^ u + 2 ^ u
      | 3 => q ≤ k * 2 ^ u ∧ k * 2 ^ u < q + 2 ^ u
      | 4 => 2 * |q - k * 2 ^ u| < 2 ^ u ∨ (2 * |q - k * 2 ^ u| = 2 ^ u ∧ |q| < |(k * 2 ^ u : ℚ)|)
      | _ => 2 * |q - k * 2 ^ u| < 2 ^ u ∨ (2 * |q - k * 2 ^ u| = 2 ^ u ∧ k % 2 = 0) := by
    intro k
    obtain ⟨y, rfl⟩ : ∃ y, q = y * 2 ^ u := ⟨q / 2 ^ u, by field_simp⟩
    rw [mul_div_assoc, div_self hu.ne', mul_one, ← sub_mul]
    have lt1 : ∀ a : ℚ, a * 2 ^ u < 2 ^ u ↔ a < 1 := fun a => mul_lt_iff_lt_one_left hu
    have eq1 : ∀ a : ℚ, a * 2 ^ u = 2 ^ u ↔ a = 1 := fun a => mul_eq_right₀ hu.ne'
    have lt : ∀ a b : ℚ, a * 2 ^ u < b * 2 ^ u ↔ a < b := fun a b => mul_lt_mul_iff_left₀ hu
    have le : ∀ a b : ℚ, a * 2 ^ u ≤ b * 2 ^ u ↔ a ≤ b := fun a b => mul_le_mul_iff_left₀ hu
    have sign : (0 : ℚ) ≤ k * 2 ^ u * (y * 2 ^ u) ↔ 0 ≤ k * y := by
      rw [mul_mul_mul_comm, mul_nonneg_iff_of_pos_right (by positivity)]
    simp only [abs_mul, abs_of_pos hu, ← mul_assoc, ← add_one_mul, lt1, eq1, lt, le] at sign ⊢
    interval_cases mode <;> simp only [Rounds, sign]
  constructor
  · rintro ⟨k, rfl, hk⟩
    rw [roundInt_eq_iff.2 ((scale k).2 (by interval_cases mode <;> exact hk))]
  · intro h
    refine ⟨_, h, ?_⟩
    have := (scale _).1 (rounds_roundInt mode (q / 2 ^ u))
    rw [h]
    interval_cases mode <;> exact this

/-! ## What `roundAt` computes -/

/-- An exact operand in its own units: an integer and a rest below 1, which is 0 unless it is sticky. -/
theorem Ex.standsFor.frac {x : Ex} {q : ℚ} (h : x.standsFor q) :
    ∃ t : ℚ, 0 ≤ t ∧ t < 1 ∧ (t = 0 ↔ x.sticky = false) ∧ q = (if x.neg then -1 else 1) * ((x.m + t) * 2 ^ x.e) := by
  obtain ⟨hn, hm⟩ := h
  have he : (0 : ℚ) < 2 ^ x.e := by positivity
  have sign : q = (if x.neg then -1 else 1) * |q| := by
    by_cases hq : q = 0
    · simp [hq]
    · rw [hn hq]
      rcases lt_or_ge q 0 with h | h
      · simp [h, abs_of_neg h]
      · simp [h.not_gt, abs_of_nonneg h]
  cases hs : x.sticky
  · rw [hs] at hm
    refine ⟨0, le_rfl, one_pos, by simp, ?_⟩
    rw [add_zero, ← show |q| = x.m * 2 ^ x.e from hm, ← sign]
  · rw [hs] at hm
    obtain ⟨lo, hi⟩ := hm
    rw [← lt_div_iff₀ he] at lo
    rw [← div_lt_iff₀ he] at hi
    refine ⟨|q| / 2 ^ x.e - x.m, by linarith, by linarith, ?_, ?_⟩
    · simp only [Bool.true_eq_false, iff_false]
      linarith
    · rw [add_sub_cancel, div_mul_cancel₀ _ he.ne', ← sign]

/-- The rule by which a mode takes the integer above n + φ in magnitude. -/
def TakesNext (mode : ℕ) (neg : Bool) (n : ℕ) (φ : ℚ) : Prop :=
  match mode with
  | 0 => 1 / 2 < φ ∨ (φ = 1 / 2 ∧ n % 2 = 1)
  | 1 => False
  | 2 => neg = true ∧ φ ≠ 0
  | 3 => neg = false ∧ φ ≠ 0
  | _ => 1 / 2 ≤ φ

/-- An integer with its sign. -/
def signed (neg : Bool) (n : ℕ) : ℤ := if neg then -n else n

theorem abs_sign_mul (neg : Bool) (x : ℚ) : |(if neg then -1 else 1) * x| = |x| := by cases neg <;> simp
theorem cast_signed (neg : Bool) (n : ℕ) : ((signed neg n : ℤ) : ℚ) = (if neg then -1 else 1) * n := by
  cases neg <;> simp [signed]
theorem signed_mod_two (neg : Bool) (n : ℕ) : signed neg n % 2 = (n % 2 : ℕ) := by
  cases neg <;> simp only [signed, if_true, Bool.false_eq_true, if_false] <;> omega

/-- The integer that a mode takes, n or n + 1 with the sign, is the rounding of n + φ with that sign. -/
theorem rounds_of_frac {mode n : ℕ} {neg up : Bool} {φ : ℚ} (h0 : 0 ≤ φ) (h1 : φ < 1)
    (h : up = true ↔ TakesNext mode neg n φ) :
    Rounds mode ((if neg then -1 else 1) * (n + φ)) (signed neg (if up then n + 1 else n)) := by
  have hn : (0 : ℚ) ≤ n := n.cast_nonneg
  have dist : ∀ k : ℕ, |(if neg then -1 else 1) * (n + φ) - (signed neg k : ℤ)| = |n + φ - k| := by
    intro k
    rw [cast_signed, ← mul_sub, abs_sign_mul]
  have mag : ∀ k : ℕ, |((signed neg k : ℤ) : ℚ)| = k := by
    intro k
    rw [cast_signed, abs_sign_mul, Nat.abs_cast]
  have up0 : |(n : ℚ) + φ - n| = φ := by rw [add_sub_cancel_left, abs_of_nonneg h0]
  have up1 : |(n : ℚ) + φ - (n + 1 : ℕ)| = 1 - φ := by
    push_cast
    rw [add_sub_add_left_eq_sub, abs_of_neg (by linarith)]
    ring
  match mode with
  | 0 =>
    simp only [TakesNext] at h
    simp only [Rounds, dist, signed_mod_two]
    cases up
    · simp only [Bool.false_eq_true, false_iff, not_or, not_lt, not_and] at h
      simp only [Bool.false_eq_true, if_false, up0]
      rcases h.1.lt_or_eq with hl | hl
      · exact .inl (by linarith)
      · exact .inr ⟨by linarith, by have := h.2 hl; omega⟩
    · simp only [true_iff] at h
      simp only [if_true, up1]
      rcases h with h | ⟨h, hodd⟩
      · exact .inl (by linarith)
      · exact .inr ⟨by linarith, by omega⟩
  | 1 =>
    obtain rfl : up = false := by simpa [TakesNext] using h
    simp only [Rounds, mag, abs_sign_mul, abs_of_nonneg (add_nonneg hn h0), Bool.false_eq_true, if_false]
    refine ⟨by linarith, by linarith, ?_⟩
    rw [cast_signed]
    cases neg <;> simp only [if_true, Bool.false_eq_true, if_false, one_mul, neg_one_mul, neg_mul_neg] <;> positivity
  | 2 =>
    cases neg
    · obtain rfl : up = false := by simpa [TakesNext] using h
      simp [Rounds, signed, h0, h1]
    · cases up
      · obtain rfl : φ = 0 := by simpa [TakesNext] using h
        simp [Rounds, signed]
      · have : 0 < φ := h0.lt_of_ne' (by simpa [TakesNext] using h)
        simp only [Rounds, signed, if_true]
        push_cast
        constructor <;> linarith
  | 3 =>
    cases neg
    · cases up
      · obtain rfl : φ = 0 := by simpa [TakesNext] using h
        simp [Rounds, signed]
      · have : 0 < φ := h0.lt_of_ne' (by simpa [TakesNext] using h)
        simp only [Rounds, signed, if_true, Bool.false_eq_true, if_false]
        push_cast
        constructor <;> linarith
    · obtain rfl : up = false := by simpa [TakesNext] using h
      simp only [Rounds, signed, if_true, Bool.false_eq_true, if_false]
      push_cast
      constructor <;> linarith
  | k + 4 =>
    simp only [TakesNext] at h
    simp only [Rounds, dist, mag, abs_sign_mul, abs_of_nonneg (add_nonneg hn h0)]
    cases up
    · have : φ < 1 / 2 := by simpa using h
      simp only [Bool.false_eq_true, if_false, up0]
      exact .inl (by linarith)
    · have : 1 / 2 ≤ φ := by simpa using h
      simp only [if_true, up1]
      push_cast
      rcases this.lt_or_eq with hl | hl
      · exact .inl (by linarith)
      · exact .inr ⟨by linarith, by linarith⟩

/-- A magnitude in units of 2^u: quotient, and a rest that the remainder and what is sticky make. -/
theorem div_rest {m k : ℕ} {t : ℚ} (h0 : 0 ≤ t) (h1 : t < 1) :
    0 ≤ ((m % 2 ^ k : ℕ) + t) / 2 ^ k ∧ ((m % 2 ^ k : ℕ) + t) / 2 ^ k < 1 ∧
      (m + t) / 2 ^ k = (m / 2 ^ k : ℕ) + ((m % 2 ^ k : ℕ) + t) / 2 ^ k := by
  have hk : (0 : ℚ) < 2 ^ k := by positivity
  have hr : ((m % 2 ^ k : ℕ) : ℚ) + 1 ≤ 2 ^ k := by exact_mod_cast Nat.mod_lt m (by positivity : 0 < 2 ^ k)
  have hm : (m : ℚ) = 2 ^ k * (m / 2 ^ k : ℕ) + (m % 2 ^ k : ℕ) := by exact_mod_cast (Nat.div_add_mod m (2 ^ k)).symm
  refine ⟨by positivity, ?_, ?_⟩
  · rw [div_lt_one hk]; linarith
  · rw [hm]; field_simp; ring

/-- What lies on an integer takes it. -/
theorem not_takesNext_zero (mode : ℕ) (neg : Bool) (n : ℕ) : ¬ TakesNext mode neg n 0 := by
  match mode with
  | 0 | 1 | 2 | 3 => norm_num [TakesNext]
  | _ + 4 => simp only [TakesNext]; norm_num

/-- What a mode takes differs from n + φ unless φ is 0. -/
theorem signed_eq_frac_iff {mode n : ℕ} {neg up : Bool} {φ : ℚ} (h0 : 0 ≤ φ) (h1 : φ < 1)
    (h : up = true ↔ TakesNext mode neg n φ) :
    ((signed neg (if up then n + 1 else n) : ℤ) : ℚ) = (if neg then -1 else 1) * (n + φ) ↔ φ = 0 := by
  rw [cast_signed, mul_right_inj' (by cases neg <;> simp)]
  constructor
  · intro e
    cases up
    · simpa using e.symm
    · simp only [if_true] at e
      push_cast at e
      linarith
  · rintro rfl
    obtain rfl : up = false := by simpa [not_takesNext_zero] using h
    simp

/-- Where a rest of r units of 2^-(k+1), and t of one more, stands to 0 and to one half. -/
theorem rest_compare {r k : ℕ} {t : ℚ} (t0 : 0 ≤ t) (t1 : t < 1) :
    (((r : ℚ) + t) / 2 ^ (k + 1) = 0 ↔ r = 0 ∧ t = 0) ∧
      (1 / 2 < ((r : ℚ) + t) / 2 ^ (k + 1) ↔ 2 ^ k < r ∨ (r = 2 ^ k ∧ t ≠ 0)) ∧
      (((r : ℚ) + t) / 2 ^ (k + 1) = 1 / 2 ↔ r = 2 ^ k ∧ t = 0) ∧
      (1 / 2 ≤ ((r : ℚ) + t) / 2 ^ (k + 1) ↔ 2 ^ k ≤ r) := by
  have hk : (0 : ℚ) < 2 ^ k := by positivity
  have hr : (0 : ℚ) ≤ r := r.cast_nonneg
  have lt : ((r : ℚ) < 2 ^ k ↔ r < 2 ^ k) ∧ ((r : ℚ) = 2 ^ k ↔ r = 2 ^ k) := by
    constructor <;> norm_cast
  have below : r < 2 ^ k → (r : ℚ) + t < 2 ^ k := by
    intro h
    have : (r : ℚ) + 1 ≤ 2 ^ k := by exact_mod_cast h
    linarith
  have above : 2 ^ k < r → (2 : ℚ) ^ k < r + t := by
    intro h
    have : (2 : ℚ) ^ k < r := by exact_mod_cast h
    linarith
  have scale : ((r : ℚ) + t) / 2 ^ (k + 1) = (r + t) / 2 ^ k / 2 := by rw [pow_succ, div_div]
  refine ⟨?_, ?_, ?_, ?_⟩
  · rw [div_eq_zero_iff, or_iff_left (by positivity)]
    constructor
    · intro h
      have : (r : ℚ) = 0 := by linarith
      exact ⟨by exact_mod_cast this, by linarith⟩
    · rintro ⟨rfl, rfl⟩; simp
  all_goals rw [scale]
  · rw [lt_div_iff₀ two_pos, one_div, inv_mul_cancel₀ two_ne_zero, lt_div_iff₀ hk, one_mul]
    rcases lt_trichotomy r (2 ^ k) with h | h | h
    · simp [h.not_gt, h.ne, (below h).le]
    · have : (r : ℚ) = 2 ^ k := lt.2.2 h
      rw [this]
      simp [h, t0.lt_iff_ne, eq_comm]
    · simp [h, above h]
  · rw [div_eq_iff two_ne_zero, one_div, inv_mul_cancel₀ two_ne_zero, div_eq_iff hk.ne', one_mul]
    rcases lt_trichotomy r (2 ^ k) with h | h | h
    · simp [h.ne, (below h).ne]
    · have : (r : ℚ) = 2 ^ k := lt.2.2 h
      rw [this]
      simp [h]
    · simp [h.ne', (above h).ne']
  · rw [le_div_iff₀ two_pos, one_div, inv_mul_cancel₀ two_ne_zero, le_div_iff₀ hk, one_mul]
    rcases lt_trichotomy r (2 ^ k) with h | h | h
    · exact iff_of_false (below h).not_ge h.not_ge
    · have : (r : ℚ) = 2 ^ k := lt.2.2 h
      rw [this]
      simp [h, t0]
    · simp [h.le, (above h).le]

/-- `roundAt` cuts the operand into an integer of units and a rest below a unit, and takes the next integer by the mode. A sticky
operand has digits below the unit. -/
theorem roundAt_shape {x : Ex} {t : ℚ} (t0 : 0 ≤ t) (t1 : t < 1) (ht : t = 0 ↔ x.sticky = false) {u : ℤ}
    (hu : x.sticky = true → x.e < u) (mode : ℕ) :
    ∃ (n : ℕ) (φ : ℚ) (up : Bool), 0 ≤ φ ∧ φ < 1 ∧ (x.m + t) * 2 ^ x.e = (n + φ) * 2 ^ u ∧
      (up = true ↔ TakesNext mode x.neg n φ) ∧ (roundAt x u mode).1 = (if up then n + 1 else n) ∧
      ((roundAt x u mode).2 = true ↔ φ ≠ 0) := by
  unfold roundAt
  split
  · next h =>
    have hs : x.sticky = false := by
      by_contra hc
      exact absurd (hu (by simpa using hc)) h.not_gt
    obtain rfl := ht.2 hs
    refine ⟨shl x.m (x.e - u), 0, false, le_rfl, one_pos, ?_, by simp [not_takesNext_zero], by simp [hs], by simp [hs]⟩
    rw [add_zero, add_zero, cast_shl_mul _ h]
  · next h =>
    obtain ⟨k, hk⟩ : ∃ k : ℕ, u = x.e + (k + 1 : ℕ) := ⟨(u - x.e - 1).toNat, by omega⟩
    obtain ⟨φ0, φ1, hv⟩ := div_rest (m := x.m) (k := k + 1) t0 t1
    obtain ⟨zero, more, half, least⟩ := rest_compare (r := x.m % 2 ^ (k + 1)) (k := k) t0 t1
    have hval : (x.m + t) * 2 ^ x.e =
        ((x.m / 2 ^ (k + 1) : ℕ) + ((x.m % 2 ^ (k + 1) : ℕ) + t) / 2 ^ (k + 1)) * 2 ^ u := by
      rw [← hv, hk, zpow_add₀ two_ne_zero, zpow_natCast]
      field_simp
    rw [show (u - x.e).toNat = k + 1 by omega]
    have inexact : (x.m % 2 ^ (k + 1) != 0 || x.sticky) = true ↔ ((x.m % 2 ^ (k + 1) : ℕ) + t) / 2 ^ (k + 1) ≠ 0 := by
      rw [Ne, zero, ht]
      simp [Bool.not_eq_false, imp_iff_not_or]
    refine ⟨_, _, _, φ0, φ1, hval, ?_, rfl, inexact⟩
    match mode with
    | 0 =>
      rw [Ne, ht, Bool.not_eq_false] at more
      simp only [TakesNext, more, half, ht, Nat.add_sub_cancel, Bool.or_eq_true, Bool.and_eq_true, decide_eq_true_eq, beq_iff_eq]
      cases x.sticky <;> simp
    | 1 => simp [TakesNext]
    | 2 => simp only [TakesNext, ← inexact, Bool.and_eq_true]
    | 3 => simp only [TakesNext, ← inexact, Bool.and_eq_true, Bool.not_eq_true']
    | _ + 4 => simp only [TakesNext, least, Nat.add_sub_cancel, decide_eq_true_eq]

/-- `roundAt` gives the operand in units of 2^u, rounded in the mode, and says whether that differs from it. -/
theorem roundAt_eq {x : Ex} {q : ℚ} (hx : x.standsFor q) {u : ℤ} (hu : x.sticky = true → x.e < u) (mode : ℕ) :
    signed x.neg (roundAt x u mode).1 = roundInt mode (q / 2 ^ u) ∧
      ((roundAt x u mode).2 = true ↔ (roundInt mode (q / 2 ^ u) : ℚ) * 2 ^ u ≠ q) := by
  obtain ⟨t, t0, t1, ht, rfl⟩ := hx.frac
  obtain ⟨n, φ, up, h0, h1, hv, hup, hr, hinx⟩ := roundAt_shape t0 t1 ht hu mode
  have h2 : (2 : ℚ) ^ u ≠ 0 := by positivity
  rw [hv, hr, ← mul_assoc, mul_div_assoc, div_self h2, mul_one, roundInt_eq_iff.2 (rounds_of_frac h0 h1 hup)]
  refine ⟨rfl, ?_⟩
  rw [Ne, mul_left_inj' h2, signed_eq_frac_iff h0 h1 hup, hinx]

end Sys2Proof.Machine
end

section
/-! Bit patterns of the formats of R17: what `unpack` reads of one, and what `pack` makes (Machine/Float.lean). -/

open Sys2Proof Sys2Proof.Machine

namespace Sys2Proof.Machine

/-! ## The formats -/

/-- The greatest exponent field of a finite value. -/
def Fmt.topField (F : Fmt) : ℕ := match F.kind with | .ieee => 2 ^ F.ebits - 2 | _ => 2 ^ F.ebits - 1

/-- What `unpack`, `pack` and the greatest value of a format agree on (R17). -/
structure Fmt.Sound (F : Fmt) : Prop where
  fbits_pos : 1 ≤ F.fbits
  top_pos : 1 ≤ F.topField
  top_lt : F.topField < 2 ^ F.ebits
  maxM_ge : 2 ^ F.fbits ≤ F.maxM
  maxM_lt : F.maxM < 2 ^ (F.fbits + 1)
  maxE_eq : F.maxE = F.emin + F.topField - 1
  e4m3_eq : F.kind = .e4m3 → F.fbits = 3 ∧ F.topField = 15

/-- The formats that results are rounded to. -/
def roundFmts : List Fmt := [fp8e5m2, fp8e4m3, fpE2M1] ++ arithFmts

theorem Fmt.sound_of_mem {F : Fmt} (h : F ∈ roundFmts) : F.Sound := by
  have all : ∀ F ∈ roundFmts, 1 ≤ F.fbits ∧ 1 ≤ F.topField ∧ F.topField < 2 ^ F.ebits ∧ 2 ^ F.fbits ≤ F.maxM ∧
      F.maxM < 2 ^ (F.fbits + 1) ∧ F.maxE = F.emin + F.topField - 1 ∧ (F.kind = .e4m3 → F.fbits = 3 ∧ F.topField = 15) := by decide +kernel
  obtain ⟨h1, h2, h3, h4, h5, h6, h7⟩ := all F h
  exact ⟨h1, h2, h3, h4, h5, h6, h7⟩

theorem Fmt.mem_roundFmts_of_arith {F : Fmt} (h : F ∈ arithFmts) : F ∈ roundFmts := List.mem_append_right _ h
theorem Fmt.kind_of_arith {F : Fmt} (h : F ∈ arithFmts) : F.kind = .ieee := (by decide : ∀ F ∈ arithFmts, F.kind = .ieee) F h
theorem Fmt.flushable_iff {F : Fmt} : F.flushable = true ↔ F ∈ arithFmts := by
  simp only [Fmt.flushable, arithFmts, Bool.or_eq_true, beq_iff_eq, List.mem_cons, List.not_mem_nil, or_false]
  tauto

/-! ## Fields of a bit pattern -/

/-- The bits with a sign, an exponent field and a fraction. -/
def Fmt.code (F : Fmt) (neg : Bool) (e f : ℕ) : ℕ := F.sign neg + e * 2 ^ F.fbits + f

theorem Fmt.sign_eq (F : Fmt) (neg : Bool) : F.sign neg = neg.toNat * 2 ^ (F.ebits + F.fbits) := by cases neg <;> simp [Fmt.sign]
theorem Fmt.code_eq (F : Fmt) (neg : Bool) (e f : ℕ) : F.code neg e f = (neg.toNat * 2 ^ F.ebits + e) * 2 ^ F.fbits + f := by
  rw [Fmt.code, Fmt.sign_eq, pow_add]; ring

section
variable {F : Fmt} {neg : Bool} {e f : ℕ}

theorem Fmt.code_lt (he : e < 2 ^ F.ebits) (hf : f < 2 ^ F.fbits) : F.code neg e f < 2 ^ F.width := by
  have hn : neg.toNat ≤ 1 := Bool.toNat_le neg
  rw [F.code_eq, Fmt.width, pow_add, pow_add, pow_one]
  have h1 : neg.toNat * 2 ^ F.ebits + e + 1 ≤ 2 * 2 ^ F.ebits := by nlinarith
  nlinarith
theorem Fmt.code_mod (hf : f < 2 ^ F.fbits) : F.code neg e f % 2 ^ F.fbits = f := by
  rw [F.code_eq, add_comm, Nat.add_mul_mod_self_right, Nat.mod_eq_of_lt hf]
theorem Fmt.code_div (hf : f < 2 ^ F.fbits) : F.code neg e f / 2 ^ F.fbits = neg.toNat * 2 ^ F.ebits + e := by
  rw [F.code_eq, add_comm, Nat.add_mul_div_right _ _ (by positivity), Nat.div_eq_of_lt hf, zero_add]
theorem Fmt.code_field (he : e < 2 ^ F.ebits) (hf : f < 2 ^ F.fbits) : F.code neg e f / 2 ^ F.fbits % 2 ^ F.ebits = e := by
  rw [F.code_div hf, add_comm, Nat.add_mul_mod_self_right, Nat.mod_eq_of_lt he]
theorem Fmt.code_testBit (he : e < 2 ^ F.ebits) (hf : f < 2 ^ F.fbits) : (F.code neg e f).testBit (F.ebits + F.fbits) = neg := by
  rw [Nat.testBit_eq_decide_div_mod_eq, add_comm F.ebits, pow_add, ← Nat.div_div_eq_div_mul, F.code_div hf, add_comm,
    Nat.add_mul_div_right _ _ (by positivity), Nat.div_eq_of_lt he]
  cases neg <;> simp

/-- The value of a code whose exponent field and fraction a finite value has. -/
theorem unpack_code (hF : F.Sound) (he : e ≤ F.topField) (hf : f < 2 ^ F.fbits) (hM : e = F.topField → f + 2 ^ F.fbits ≤ F.maxM) :
    unpack F (F.code neg e f) = .fin neg (if e = 0 then f else f + 2 ^ F.fbits) (F.emin + ((e - 1 : ℕ) : ℤ)) := by
  have he' := he.trans_lt hF.top_lt
  unfold unpack
  simp only [Fmt.code_mod hf, Fmt.code_field he' hf, Fmt.code_testBit he' hf]
  rw [if_neg, if_neg]
  · split
    · next h => simp [h]
    · rfl
  · rintro ⟨hk, rfl, rfl⟩
    obtain ⟨h3, h15⟩ := hF.e4m3_eq hk
    have := hM h15.symm
    simp [Fmt.maxM, hk, h3] at this
  · rintro ⟨hk, rfl⟩
    have := hF.top_pos
    simp only [Fmt.topField, hk] at he this
    omega

/-- A code whose exponent field and fraction a finite value has stands for it. -/
theorem means_code (hF : F.Sound) (he : e ≤ F.topField) (hf : f < 2 ^ F.fbits) (hM : e = F.topField → f + 2 ^ F.fbits ≤ F.maxM) :
    F.means (F.code neg e f) neg
      ((if neg then -1 else 1) * ((if e = 0 then f else f + 2 ^ F.fbits : ℕ) * 2 ^ (F.emin + ((e - 1 : ℕ) : ℤ)))) := by
  refine ⟨Fmt.code_lt (he.trans_lt hF.top_lt) hf, ?_⟩
  rw [unpack_code hF he hf hM]
  exact ⟨rfl, mul_assoc _ _ _, rfl⟩

end

/-! ## Packing -/

theorem log2_eq {n k : ℕ} (h : 2 ^ k ≤ n) (h' : n < 2 ^ (k + 1)) : n.log2 = k := by
  have hn : n ≠ 0 := by have : 0 < 2 ^ k := by positivity
                        omega
  exact (Nat.log2_eq_iff hn).2 ⟨h, h'⟩

section
variable {F : Fmt} {q : ℕ} {u : ℤ}

/-- An integer of the subnormal grid below the least normal value. -/
theorem pack_subnormal (neg : Bool) (hq : q < 2 ^ F.fbits) : pack F neg q F.emin = F.code neg 0 q := by
  unfold pack
  split
  · next h => simp [h, Fmt.code]
  · next h =>
    have : q.log2 < F.fbits := (Nat.log2_lt h).2 hq
    simp only
    rw [if_pos (by omega)]
    simp [Fmt.code, shl]

/-- A significand of full length. -/
theorem pack_normal (neg : Bool) (h : 2 ^ F.fbits ≤ q) (h' : q < 2 ^ (F.fbits + 1)) (hu : F.emin ≤ u) :
    pack F neg q u = F.code neg (u - F.emin + 1).toNat (q - 2 ^ F.fbits) := by
  have hq : q ≠ 0 := by have : 0 < 2 ^ F.fbits := by positivity
                        omega
  unfold pack
  rw [if_neg hq]
  simp only [log2_eq h h']
  rw [if_neg (by omega), if_pos le_rfl]
  simp only [Nat.sub_self, pow_zero, mul_one, Fmt.code]
  rw [show u + F.fbits - F.fbits - F.emin + 1 = u - F.emin + 1 by omega]

/-- The significand that a carry makes is the least of the next binade. -/
theorem pack_carry (neg : Bool) (hu : F.emin ≤ u + 1) : pack F neg (2 ^ (F.fbits + 1)) u = pack F neg (2 ^ F.fbits) (u + 1) := by
  rw [pack_normal neg le_rfl (Nat.pow_lt_pow_right one_lt_two (Nat.lt_succ_self _)) hu]
  unfold pack
  rw [if_neg (by positivity)]
  simp only [Nat.log2_two_pow]
  rw [if_neg (by push_cast; omega), if_neg (by omega)]
  simp only [Fmt.code]
  rw [show u + (F.fbits + 1 : ℕ) - F.fbits - F.emin + 1 = u + 1 - F.emin + 1 by push_cast; omega, Nat.add_sub_cancel_left, pow_one,
    pow_succ, Nat.mul_div_cancel _ two_pos]

theorem pack_normal_means (hF : F.Sound) (neg : Bool) (h : 2 ^ F.fbits ≤ q) (h' : q < 2 ^ (F.fbits + 1)) (hu : F.emin ≤ u)
    (hv : (q : ℚ) * 2 ^ u ≤ F.maxM * 2 ^ F.maxE) : F.means (pack F neg q u) neg ((if neg then -1 else 1) * (q * 2 ^ u)) := by
  have hlt : u < F.emin + F.topField := by
    have lo : (2 : ℚ) ^ (F.fbits : ℤ) ≤ q := by exact_mod_cast h
    have hi : (F.maxM : ℚ) < 2 ^ ((F.fbits : ℤ) + 1) := by exact_mod_cast hF.maxM_lt
    have : (2 : ℚ) ^ ((F.fbits : ℤ) + u) < 2 ^ ((F.fbits : ℤ) + 1 + F.maxE) := by
      rw [zpow_add₀ two_ne_zero, zpow_add₀ two_ne_zero (_ + 1)]
      calc (2 : ℚ) ^ (F.fbits : ℤ) * 2 ^ u ≤ q * 2 ^ u := by gcongr
        _ ≤ F.maxM * 2 ^ F.maxE := hv
        _ < 2 ^ ((F.fbits : ℤ) + 1) * 2 ^ F.maxE := by gcongr
    have := (zpow_lt_zpow_iff_right₀ (one_lt_two (α := ℚ))).1 this
    have := hF.maxE_eq
    omega
  have hq : q - 2 ^ F.fbits + 2 ^ F.fbits = q := Nat.sub_add_cancel h
  have hm := means_code (F := F) (neg := neg) (e := (u - F.emin + 1).toNat) (f := q - 2 ^ F.fbits) hF (by omega)
    (by rw [pow_succ] at h'; omega) (fun he => by
      have : u = F.maxE := by have := hF.maxE_eq; have := hF.top_pos; omega
      rw [this, mul_le_mul_iff_left₀ (by positivity)] at hv
      rw [hq]
      exact_mod_cast hv)
  rw [pack_normal neg h h' hu]
  rwa [hq, if_neg (show ¬ (u - F.emin + 1).toNat = 0 by omega), show F.emin + (((u - F.emin + 1).toNat - 1 : ℕ) : ℤ) = u by omega] at hm

/-- `pack` of what F holds: a significand of full length or one more in its binade, or an integer of the subnormal grid. -/
theorem pack_means (hF : F.Sound) (neg : Bool) (h : 2 ^ F.fbits ≤ q ∨ u = F.emin) (h' : q ≤ 2 ^ (F.fbits + 1))
    (hu : F.emin ≤ if q = 2 ^ (F.fbits + 1) then u + 1 else u) (hv : (q : ℚ) * 2 ^ u ≤ F.maxM * 2 ^ F.maxE) :
    F.means (pack F neg q u) neg ((if neg then -1 else 1) * (q * 2 ^ u)) := by
  by_cases hc : q = 2 ^ (F.fbits + 1)
  · subst hc
    rw [if_pos rfl] at hu
    have e : ((2 ^ (F.fbits + 1) : ℕ) : ℚ) * 2 ^ u = (2 ^ F.fbits : ℕ) * 2 ^ (u + 1) := by
      push_cast
      rw [zpow_add_one₀ two_ne_zero, pow_succ]
      ring
    rw [pack_carry neg hu, e]
    rw [e] at hv
    exact pack_normal_means hF neg le_rfl (Nat.pow_lt_pow_right one_lt_two (Nat.lt_succ_self _)) hu hv
  · rw [if_neg hc] at hu
    by_cases hn : 2 ^ F.fbits ≤ q
    · exact pack_normal_means hF neg hn (h'.lt_of_ne hc) hu hv
    · obtain rfl := h.resolve_left hn
      rw [pack_subnormal neg (not_le.1 hn)]
      have := means_code (F := F) (neg := neg) (e := 0) (f := q) hF (Nat.zero_le _) (not_le.1 hn) fun he => absurd he.symm
        (Nat.one_le_iff_ne_zero.1 hF.top_pos)
      simpa using this

/-- Zero of either sign. -/
theorem sign_means (hF : F.Sound) (neg : Bool) : F.means (F.sign neg) neg 0 := by
  have := means_code (F := F) (neg := neg) (e := 0) (f := 0) hF (Nat.zero_le _) (by positivity) fun he => absurd he.symm
    (Nat.one_le_iff_ne_zero.1 hF.top_pos)
  simpa [Fmt.code] using this

/-- The greatest finite value. -/
theorem pack_max_means (hF : F.Sound) (neg : Bool) :
    F.means (pack F neg F.maxM F.maxE) neg ((if neg then -1 else 1) * (F.maxM * 2 ^ F.maxE)) :=
  pack_normal_means hF neg hF.maxM_ge hF.maxM_lt (by have := hF.maxE_eq; have := hF.top_pos; omega) le_rfl

end

/-! ## Unpacking -/

/-- A finite value has a significand of full length, or lies on the subnormal grid. -/
theorem unpack_fin {F : Fmt} {b m : ℕ} {neg : Bool} {e : ℤ} (h : unpack F b = .fin neg m e) :
    m < 2 ^ (F.fbits + 1) ∧ F.emin ≤ e ∧ (e = F.emin ∨ 2 ^ F.fbits ≤ m) := by
  have hf : b % 2 ^ F.fbits < 2 ^ F.fbits := Nat.mod_lt _ (by positivity)
  unfold unpack at h
  simp only at h
  rw [pow_succ]
  split_ifs at h
  · cases h
    exact ⟨by omega, le_rfl, .inl rfl⟩
  · cases h
    exact ⟨by omega, by omega, .inr (by omega)⟩

end Sys2Proof.Machine
end

section
/-! One rounding into a format, in the five modes and under the subnormal policies (R27, R28; Machine/Float.lean): O10. -/

open Sys2Proof Sys2Proof.Machine

namespace Sys2Proof.Machine

/-! ## The operand of a rounding -/

theorem Ex.standsFor.eq_sign_mul {x : Ex} {q : ℚ} (h : x.standsFor q) : q = (if x.neg then -1 else 1) * |q| := by
  obtain ⟨t, t0, -, -, rfl⟩ := h.frac
  have : (0 : ℚ) ≤ (x.m + t) * 2 ^ x.e := by positivity
  rw [abs_sign_mul, abs_of_nonneg this]

theorem Ex.standsFor.abs_eq {x : Ex} {q : ℚ} (h : x.standsFor q) :
    ∃ t : ℚ, 0 ≤ t ∧ t < 1 ∧ (t = 0 ↔ x.sticky = false) ∧ |q| = (x.m + t) * 2 ^ x.e := by
  obtain ⟨t, t0, t1, ht, rfl⟩ := h.frac
  have : (0 : ℚ) ≤ (x.m + t) * 2 ^ x.e := by positivity
  exact ⟨t, t0, t1, ht, by rw [abs_sign_mul, abs_of_nonneg this]⟩

/-- An operand is 0 where it has no digit. -/
theorem Ex.standsFor.eq_zero_iff {x : Ex} {q : ℚ} (h : x.standsFor q) : q = 0 ↔ x.m = 0 ∧ x.sticky = false := by
  obtain ⟨t, t0, -, ht, hq⟩ := h.abs_eq
  rw [← abs_eq_zero, hq, mul_eq_zero, or_iff_left (by positivity), ← ht]
  constructor
  · intro e
    have : (0 : ℚ) ≤ x.m := x.m.cast_nonneg
    have hm : (x.m : ℚ) = 0 := by linarith
    exact ⟨by exact_mod_cast hm, by linarith⟩
  · rintro ⟨hm, rfl⟩
    simp [hm]

/-- The binade of an operand that has a digit is that of its integer. -/
theorem Ex.standsFor.binade {x : Ex} {q : ℚ} (h : x.standsFor q) (hm : x.m ≠ 0) :
    2 ^ (x.e + x.m.log2) ≤ |q| ∧ |q| < 2 ^ (x.e + x.m.log2 + 1) := by
  obtain ⟨t, t0, t1, -, hq⟩ := h.abs_eq
  obtain ⟨lo, hi⟩ := log2_bounds hm
  have he : (0 : ℚ) < 2 ^ x.e := by positivity
  rw [hq, add_assoc, zpow_add₀ two_ne_zero, zpow_add₀ two_ne_zero x.e, mul_comm _ ((2 : ℚ) ^ x.e)]
  constructor
  · gcongr; linarith
  · gcongr; linarith

/-- Between integers of the unit, the rounded integer stays between them. -/
theorem roundAt_between {x : Ex} {q : ℚ} (hx : x.standsFor q) {u : ℤ} (hu : x.sticky = true → x.e < u) (mode : ℕ) {a b : ℕ}
    (ha : a * 2 ^ u ≤ |q|) (hb : |q| < b * 2 ^ u) : a ≤ (roundAt x u mode).1 ∧ (roundAt x u mode).1 ≤ b := by
  obtain ⟨t, t0, t1, ht, hq⟩ := hx.abs_eq
  obtain ⟨n, φ, up, h0, h1, hv, -, hr, -⟩ := roundAt_shape t0 t1 ht hu mode
  have hp : (0 : ℚ) < 2 ^ u := by positivity
  rw [hq, hv] at ha hb
  have lo : a < n + 1 := by exact_mod_cast (show (a : ℚ) < n + 1 by have := (mul_le_mul_iff_left₀ hp).1 ha; linarith)
  have hi : n < b := by exact_mod_cast (show (n : ℚ) < b by have := (mul_lt_mul_iff_left₀ hp).1 hb; linarith)
  rw [hr]
  split <;> omega

/-! ## The fates of a rounding

Of an operand x that stands for a number q that is not 0, in the binade of 2^(u + fbits), where a sticky one has at least two
digits below the significand. -/

section
variable {F : Fmt} {x : Ex} {q : ℚ} {u : ℤ}

/-- What the rules of this section ask of an operand. -/
structure Ex.Fits (F : Fmt) (x : Ex) (q : ℚ) (u : ℤ) : Prop where
  stands : x.standsFor q
  nonzero : q ≠ 0
  lo : 2 ^ (u + F.fbits) ≤ |q|
  hi : |q| < 2 ^ (u + F.fbits + 1)
  digits : x.sticky = true → 2 ^ (F.fbits + 2) ≤ x.m

theorem Ex.Fits.m_ne_zero (h : x.Fits F q u) : x.m ≠ 0 := by
  intro hm
  refine h.nonzero (h.stands.eq_zero_iff.2 ⟨hm, ?_⟩)
  by_contra hs
  have := h.digits (by simpa using hs)
  have : 0 < 2 ^ (F.fbits + 2) := by positivity
  omega
/-- An operand that is not 0, with the digits that a sticky one needs, fits one unit: that of its integer. -/
theorem Ex.standsFor.fits (h : x.standsFor q) (hq : q ≠ 0) (hs : x.sticky = true → 2 ^ (F.fbits + 2) ≤ x.m) :
    x.Fits F q (x.e + x.m.log2 - F.fbits) := by
  have hm : x.m ≠ 0 := by
    intro hm
    refine hq (h.eq_zero_iff.2 ⟨hm, ?_⟩)
    by_contra hc
    have := hs (by simpa using hc)
    have : 0 < 2 ^ (F.fbits + 2) := by positivity
    omega
  obtain ⟨lo, hi⟩ := h.binade hm
  exact ⟨h, hq, by rwa [sub_add_cancel], by rwa [sub_add_cancel], hs⟩
theorem Ex.Fits.unit (h : x.Fits F q u) : x.e + x.m.log2 - F.fbits = u := by
  obtain ⟨lo, hi⟩ := h.stands.binade h.m_ne_zero
  have := binade_unique lo hi h.lo h.hi
  omega
theorem Ex.Fits.below (h : x.Fits F q u) (hs : x.sticky = true) : x.e < u := by
  have := (Nat.le_log2 h.m_ne_zero).2 (h.digits hs)
  have := h.unit
  omega
theorem Ex.Fits.neg (h : x.Fits F q u) : x.neg = decide (q < 0) := h.stands.1 h.nonzero

/-- The significand that the rounding gives, of full length or one more. -/
theorem Ex.Fits.significand (h : x.Fits F q u) (mode : ℕ) :
    2 ^ F.fbits ≤ (roundAt x u mode).1 ∧ (roundAt x u mode).1 ≤ 2 ^ (F.fbits + 1) := by
  refine roundAt_between h.stands h.below mode ?_ ?_
  · have := h.lo
    rw [add_comm, zpow_add₀ two_ne_zero] at this
    exact_mod_cast this
  · have := h.hi
    rw [add_assoc, add_comm, zpow_add₀ two_ne_zero] at this
    exact_mod_cast this

/-- The rounded number, from the significand. -/
theorem rounded_eq (hx : x.standsFor q) (hu : x.sticky = true → x.e < u) (mode : ℕ) :
    (roundInt mode (q / 2 ^ u) : ℚ) * 2 ^ u = (if x.neg then -1 else 1) * ((roundAt x u mode).1 * 2 ^ u) := by
  rw [← (roundAt_eq hx hu mode).1, cast_signed, mul_assoc]
theorem abs_rounded_eq (hx : x.standsFor q) (hu : x.sticky = true → x.e < u) (mode : ℕ) :
    |(roundInt mode (q / 2 ^ u) : ℚ) * 2 ^ u| = (roundAt x u mode).1 * 2 ^ u := by
  rw [rounded_eq hx hu, abs_sign_mul, abs_of_nonneg (by positivity)]
theorem flag_eq (hx : x.standsFor q) (hu : x.sticky = true → x.e < u) (mode : ℕ) (f : Flags) :
    flagIf (roundAt x u mode).2 f = if (roundInt mode (q / 2 ^ u) : ℚ) * 2 ^ u = q then 0 else f := by
  have := (roundAt_eq hx hu mode).2
  unfold flagIf
  split
  · next h => rw [if_neg (this.1 h)]
  · next h => rw [if_pos (not_not.1 (mt this.2 h))]

/-- `roundFin` by the significand at the operand's own unit. -/
theorem roundFin_of_fits (h : x.Fits F q u) (mode sub : ℕ) :
    roundFin F mode sub x =
      let r := roundAt x u mode
      if gtMag r.1 u F.maxM F.maxE then (overflow F mode x.neg, fOF ||| fNX)
      else if gtMag 1 (F.emin + F.fbits) r.1 u then
        if sub = 0 ∨ !F.flushable then (pack F x.neg (roundAt x F.emin mode).1 F.emin, flagIf (roundAt x F.emin mode).2 (fUF ||| fNX))
        else (F.sign x.neg, fUF ||| fNX)
      else (pack F x.neg r.1 u, flagIf r.2 fNX) := by
  unfold roundFin
  rw [if_neg fun hc => h.m_ne_zero hc.1]
  simp only [h.unit]

variable (h : x.Fits F q u) (mode sub : ℕ)
include h

/-- Past the greatest value. -/
theorem roundFin_over (hp : F.maxM * 2 ^ F.maxE < |(roundInt mode (q / 2 ^ u) : ℚ) * 2 ^ u|) :
    roundFin F mode sub x = (overflow F mode (decide (q < 0)), fOF ||| fNX) := by
  rw [abs_rounded_eq h.stands h.below] at hp
  rw [roundFin_of_fits h, ← h.neg]
  exact if_pos (gtMag_iff.2 hp)

/-- Between the least normal value and the greatest value. -/
theorem roundFin_normal (hF : F.Sound) (hp : |(roundInt mode (q / 2 ^ u) : ℚ) * 2 ^ u| ≤ F.maxM * 2 ^ F.maxE)
    (hl : 2 ^ (F.emin + F.fbits) ≤ |(roundInt mode (q / 2 ^ u) : ℚ) * 2 ^ u|) :
    F.means (roundFin F mode sub x).1 (decide (q < 0)) (roundInt mode (q / 2 ^ u) * 2 ^ u) ∧
      (roundFin F mode sub x).2 = if (roundInt mode (q / 2 ^ u) : ℚ) * 2 ^ u = q then 0 else fNX := by
  obtain ⟨lo, hi⟩ := h.significand mode
  have hr : roundFin F mode sub x = (pack F x.neg (roundAt x u mode).1 u, flagIf (roundAt x u mode).2 fNX) := by
    rw [abs_rounded_eq h.stands h.below] at hp hl
    rw [roundFin_of_fits h]
    dsimp only
    rw [if_neg, if_neg]
    · simpa [gtMag_iff] using hl
    · simpa [gtMag_iff] using hp
  rw [hr, ← flag_eq h.stands h.below, ← h.neg, rounded_eq h.stands h.below]
  rw [abs_rounded_eq h.stands h.below] at hp hl
  refine ⟨pack_means hF x.neg (.inl lo) hi ?_ hp, rfl⟩
  have : (2 : ℚ) ^ (F.emin + F.fbits) ≤ ((roundAt x u mode).1 : ℕ) * 2 ^ u := hl
  split
  · next hc =>
    rw [hc] at this
    push_cast at this
    rw [← zpow_natCast, ← zpow_add₀ two_ne_zero] at this
    have := (zpow_le_zpow_iff_right₀ (one_lt_two (α := ℚ))).1 this
    push_cast at this
    omega
  · next hc =>
    have hlt : (2 : ℚ) ^ (F.emin + F.fbits) < 2 ^ ((F.fbits + 1 : ℕ) + u) := by
      refine this.trans_lt ?_
      rw [zpow_add₀ two_ne_zero, zpow_natCast]
      have : (((roundAt x u mode).1 : ℕ) : ℚ) < 2 ^ (F.fbits + 1) := by exact_mod_cast hi.lt_of_ne hc
      gcongr
    have := (zpow_lt_zpow_iff_right₀ (one_lt_two (α := ℚ))).1 hlt
    push_cast at this
    omega

omit h in
/-- The least normal value is no greater than the greatest value. -/
theorem Fmt.least_le_max (hF : F.Sound) : ((2 ^ F.fbits : ℕ) : ℚ) * 2 ^ F.emin ≤ F.maxM * 2 ^ F.maxE := by
  have : ((2 ^ F.fbits : ℕ) : ℚ) ≤ F.maxM := by exact_mod_cast hF.maxM_ge
  have : (2 : ℚ) ^ F.emin ≤ 2 ^ F.maxE := zpow_le_zpow_right₀ one_le_two (by have := hF.maxE_eq; have := hF.top_pos; omega)
  gcongr

/-- Below the least normal value `roundFin` follows the policy. -/
theorem roundFin_tiny (hF : F.Sound) (hl : |(roundInt mode (q / 2 ^ u) : ℚ) * 2 ^ u| < 2 ^ (F.emin + F.fbits)) :
    roundFin F mode sub x = if sub = 0 ∨ !F.flushable then
      (pack F x.neg (roundAt x F.emin mode).1 F.emin, flagIf (roundAt x F.emin mode).2 (fUF ||| fNX))
    else (F.sign x.neg, fUF ||| fNX) := by
  rw [abs_rounded_eq h.stands h.below] at hl
  rw [roundFin_of_fits h]
  dsimp only
  rw [if_neg, if_pos (gtMag_iff.2 (by simpa using hl))]
  rw [gtMag_iff, not_lt]
  refine hl.le.trans (le_trans (le_of_eq ?_) (F.least_le_max hF))
  rw [add_comm, zpow_add₀ two_ne_zero]
  simp

/-- Below the least normal value the unit is less than the subnormal grid's, and the number less than its least normal. -/
theorem Ex.Fits.tiny (hl : |(roundInt mode (q / 2 ^ u) : ℚ) * 2 ^ u| < 2 ^ (F.emin + F.fbits)) :
    u < F.emin ∧ |q| < (2 ^ F.fbits : ℕ) * 2 ^ F.emin := by
  obtain ⟨lo, hi⟩ := h.significand mode
  rw [abs_rounded_eq h.stands h.below] at hl
  have : (2 : ℚ) ^ ((F.fbits : ℤ) + u) < 2 ^ (F.emin + F.fbits) := by
    refine lt_of_le_of_lt ?_ hl
    rw [zpow_add₀ two_ne_zero, zpow_natCast]
    have : (2 : ℚ) ^ F.fbits ≤ (roundAt x u mode).1 := by exact_mod_cast lo
    gcongr
  have hu := (zpow_lt_zpow_iff_right₀ (one_lt_two (α := ℚ))).1 this
  refine ⟨by omega, h.hi.trans_le ?_⟩
  push_cast
  rw [← zpow_natCast, ← zpow_add₀ two_ne_zero]
  exact zpow_le_zpow_right₀ one_le_two (by omega)

/-- What is not normal, where the policy keeps subnormal results, lies on the subnormal grid. -/
theorem roundFin_subnormal (hF : F.Sound) (hl : |(roundInt mode (q / 2 ^ u) : ℚ) * 2 ^ u| < 2 ^ (F.emin + F.fbits))
    (hs : sub = 0 ∨ F.flushable = false) :
    F.means (roundFin F mode sub x).1 (decide (q < 0)) (roundInt mode (q / 2 ^ F.emin) * 2 ^ F.emin) ∧
      (roundFin F mode sub x).2 = if (roundInt mode (q / 2 ^ F.emin) : ℚ) * 2 ^ F.emin = q then 0 else fUF ||| fNX := by
  obtain ⟨hu, hq⟩ := h.tiny mode hl
  have hbelow : x.sticky = true → x.e < F.emin := fun hs => (h.below hs).trans hu
  obtain ⟨-, hi⟩ := roundAt_between h.stands hbelow mode (a := 0) (by simp) hq
  have hr : roundFin F mode sub x =
      (pack F x.neg (roundAt x F.emin mode).1 F.emin, flagIf (roundAt x F.emin mode).2 (fUF ||| fNX)) := by
    rw [roundFin_tiny h mode sub hF hl, if_pos (by simpa using hs)]
  rw [hr, ← flag_eq h.stands hbelow, ← h.neg, rounded_eq h.stands hbelow]
  refine ⟨pack_means hF x.neg (.inr rfl) (hi.trans (Nat.pow_le_pow_right two_pos (Nat.le_succ _))) ?_ ?_, rfl⟩
  · split <;> omega
  · refine le_trans ?_ (F.least_le_max hF)
    have : (((roundAt x F.emin mode).1 : ℕ) : ℚ) ≤ (2 ^ F.fbits : ℕ) := by exact_mod_cast hi
    gcongr

/-- What is not normal, where the policy flushes it. -/
theorem roundFin_flushed (hF : F.Sound) (hl : |(roundInt mode (q / 2 ^ u) : ℚ) * 2 ^ u| < 2 ^ (F.emin + F.fbits))
    (hs : sub ≠ 0) (hf : F.flushable = true) : roundFin F mode sub x = (F.sign (decide (q < 0)), fUF ||| fNX) := by
  rw [roundFin_tiny h mode sub hF hl, if_neg (by simp [hs, hf]), h.neg]

end

end Sys2Proof.Machine
end

section
/-! Rounding in the five modes (R27, R28): O10. -/

open Sys2Proof Sys2Proof.Machine

namespace Sys2Proof.Machine

/-- The modes that round an overflow to an infinity, where the format has one (R28). -/
theorem overflow_inf {F : Fmt} {mode : ℕ} {neg : Bool} (hk : F.kind = .ieee)
    (h : mode = 0 ∨ mode = 4 ∨ (mode = 2 ∧ neg = true) ∨ (mode = 3 ∧ neg = false)) : overflow F mode neg = F.inf neg := by
  unfold overflow
  rw [hk]
  rcases h with rfl | rfl | ⟨rfl, rfl⟩ | ⟨rfl, rfl⟩ <;> rfl

/-- The others stay at the greatest value. -/
theorem overflow_max {F : Fmt} {mode : ℕ} {neg : Bool} (hm : mode ≤ 4)
    (h : ¬ (F.kind = .ieee ∧ (mode = 0 ∨ mode = 4 ∨ (mode = 2 ∧ neg = true) ∨ (mode = 3 ∧ neg = false)))) :
    overflow F mode neg = pack F neg F.maxM F.maxE := by
  unfold overflow
  cases hk : F.kind with
  | e4m3 => rfl
  | e2m1 => rfl
  | ieee =>
    have h := not_and.1 h hk
    interval_cases mode <;> cases neg <;> simp at h ⊢

/-- An exact zero keeps its sign. -/
theorem roundFin_zero {F : Fmt} {x : Ex} (hm : x.m = 0) (hs : x.sticky = false) (mode sub : ℕ) :
    roundFin F mode sub x = (F.sign x.neg, 0) := by
  unfold roundFin
  exact if_pos ⟨hm, by simp [hs]⟩

/-! ## To nearest -/

/-- Rounding to nearest gives the nearest integer. -/
theorem Rounds.nearest {y : ℚ} {n : ℤ} (h : Rounds 0 y n) (k : ℤ) : |y - n| ≤ |y - k| := by
  have hn : |y - n| ≤ 1 / 2 := by rcases h with h | ⟨h, -⟩ <;> linarith
  by_contra hc
  rcases eq_or_midway (show 2 * |y - n| ≤ 1 by linarith) (show 2 * |y - k| ≤ 1 by linarith) with rfl | ⟨h1, h2, -⟩
  · exact hc le_rfl
  · linarith

/-- On a grid, rounding to nearest gives the nearest number of the grid. -/
theorem nearest_on_grid (q : ℚ) (u k : ℤ) : |q - roundInt 0 (q / 2 ^ u) * 2 ^ u| ≤ |q - k * 2 ^ u| := by
  obtain ⟨y, rfl⟩ : ∃ y, q = y * 2 ^ u := ⟨q / 2 ^ u, by field_simp⟩
  rw [mul_div_assoc, div_self (by positivity), mul_one, ← sub_mul, ← sub_mul, abs_mul, abs_mul]
  exact mul_le_mul_of_nonneg_right ((rounds_roundInt 0 y).nearest k) (abs_nonneg _)

/-- A finite value of a format lies on the grid of a unit, or below the least number of full precision there. -/
theorem unpack_grid {F : Fmt} {b : ℕ} (h : (unpack F b).finite = true) {u : ℤ} :
    (∃ k : ℤ, (unpack F b).rat = k * 2 ^ u) ∨ (F.emin < u ∧ |(unpack F b).rat| < 2 ^ (F.fbits + u)) := by
  cases hb : unpack F b with
  | nan q => simp [hb, FVal.finite] at h
  | inf n => simp [hb, FVal.finite] at h
  | fin neg m e =>
    obtain ⟨hm, he, -⟩ := unpack_fin hb
    simp only [FVal.rat]
    rcases le_or_gt u e with hu | hu
    · refine .inl ⟨signed neg (shl m (e - u)), ?_⟩
      rw [cast_signed, mul_assoc, mul_assoc, cast_shl_mul m hu]
    · refine .inr ⟨by omega, ?_⟩
      rw [mul_assoc, abs_sign_mul, abs_of_nonneg (by positivity)]
      calc (m : ℚ) * 2 ^ e < 2 ^ (F.fbits + 1) * 2 ^ e := by
            have : (m : ℚ) < 2 ^ (F.fbits + 1) := by exact_mod_cast hm
            gcongr
        _ = 2 ^ (F.fbits + (e + 1)) := by
            rw [← zpow_natCast, ← zpow_add₀ two_ne_zero]
            congr 1
            push_cast
            ring
        _ ≤ 2 ^ (F.fbits + u) := zpow_le_zpow_right₀ one_le_two (by omega)

/-- At an operand's own unit, no finite value is nearer than the number rounded to nearest. -/
theorem nearest_of_full {F : Fmt} {q : ℚ} {u : ℤ} (lo : 2 ^ (u + F.fbits) ≤ |q|) {b : ℕ} (hb : (unpack F b).finite = true) :
    |q - roundInt 0 (q / 2 ^ u) * 2 ^ u| ≤ |q - (unpack F b).rat| := by
  rcases unpack_grid hb (u := u) with ⟨k, hk⟩ | ⟨-, hk⟩
  · rw [hk]
    exact nearest_on_grid q u k
  · refine (nearest_on_grid q u (signed (decide (q < 0)) (2 ^ F.fbits))).trans ?_
    have e : ((signed (decide (q < 0)) (2 ^ F.fbits) : ℤ) : ℚ) * 2 ^ u = (if q < 0 then -1 else 1) * 2 ^ (u + F.fbits) := by
      rw [cast_signed, mul_assoc, add_comm, zpow_add₀ two_ne_zero]
      simp
    have d : |q - (if q < 0 then -1 else 1) * 2 ^ (u + F.fbits)| = |q| - 2 ^ (u + F.fbits) := by
      split
      · next h => rw [abs_of_neg h] at lo ⊢; rw [abs_of_nonpos (by linarith)]; ring
      · next h => rw [abs_of_nonneg (not_lt.1 h)] at lo ⊢; rw [abs_of_nonneg (by linarith)]; ring
    rw [e, d]
    have := abs_sub_abs_le_abs_sub q (unpack F b).rat
    rw [add_comm] at hk
    linarith

/-- On the subnormal grid lies every finite value. -/
theorem nearest_of_subnormal {F : Fmt} (q : ℚ) {b : ℕ} (hb : (unpack F b).finite = true) :
    |q - roundInt 0 (q / 2 ^ F.emin) * 2 ^ F.emin| ≤ |q - (unpack F b).rat| := by
  rcases unpack_grid hb (u := F.emin) with ⟨k, hk⟩ | ⟨hk, -⟩
  · rw [hk]
    exact nearest_on_grid q _ k
  · exact absurd hk (lt_irrefl _)

/-- An infinity is not finite. -/
theorem unpack_inf {F : Fmt} (hk : F.kind = .ieee) (neg : Bool) : unpack F (F.inf neg) = .inf neg := by
  have he : 2 ^ F.ebits - 1 < 2 ^ F.ebits := Nat.sub_lt (by positivity) one_pos
  have hf : 0 < 2 ^ F.fbits := by positivity
  have hc : F.inf neg = F.code neg (2 ^ F.ebits - 1) 0 := rfl
  rw [hc]
  unfold unpack
  simp only [Fmt.code_mod hf, Fmt.code_field he hf, Fmt.code_testBit he hf, hk, and_self, if_true]

/-- Rounded to nearest, what is finite has no finite value nearer to the operand. -/
theorem roundFin_nearest {F : Fmt} (hF : F.Sound) (hk : F.kind = .ieee) {x : Ex} {q : ℚ} (hx : x.standsFor q)
    (hs : x.sticky = true → 2 ^ (F.fbits + 2) ≤ x.m) (hr : (unpack F (roundFin F 0 0 x).1).finite = true) {b : ℕ}
    (hb : (unpack F b).finite = true) : |q - (unpack F (roundFin F 0 0 x).1).rat| ≤ |q - (unpack F b).rat| := by
  by_cases hq : q = 0
  · obtain ⟨hm, hn⟩ := hx.eq_zero_iff.1 hq
    obtain ⟨-, -, h0, -⟩ := sign_means hF x.neg
    rw [roundFin_zero hm hn, h0, hq]
    simp
  · obtain ⟨u, h⟩ : ∃ u, x.Fits F q u := ⟨_, hx.fits hq hs⟩
    rcases lt_or_ge (F.maxM * 2 ^ F.maxE : ℚ) |roundInt 0 (q / 2 ^ u) * 2 ^ u| with hp | hp
    · rw [roundFin_over h 0 0 hp, overflow_inf hk (.inl rfl), unpack_inf hk] at hr
      simp [FVal.finite] at hr
    · rcases lt_or_ge |(roundInt 0 (q / 2 ^ u) * 2 ^ u : ℚ)| (2 ^ (F.emin + F.fbits)) with hl | hl
      · obtain ⟨⟨-, -, hv, -⟩, -⟩ := roundFin_subnormal h 0 0 hF hl (.inl rfl)
        rw [hv]
        exact nearest_of_subnormal q hb
      · obtain ⟨⟨-, -, hv, -⟩, -⟩ := roundFin_normal h 0 0 hF hp hl
        rw [hv]
        exact nearest_of_full h.lo hb

/-- Settles O10, by the fates of a rounding: past the greatest value, normal, on the subnormal grid, and flushed. -/
theorem roundNearest : Obligations.RoundNearest := by
  unfold Obligations.RoundNearest
  constructor
  · intro F hF mode sub e q hm _ he hs
    have hF : F.Sound := Fmt.sound_of_mem hF
    refine ⟨fun hq => ?_, fun hq u p lo hi hp => ?_⟩
    · obtain ⟨h0, hn⟩ := he.eq_zero_iff.1 hq
      exact roundFin_zero h0 hn mode sub
    · have h : e.Fits F q u := ⟨he, hq, lo, hi, hs⟩
      rw [roundsOn_iff hm] at hp
      subst hp
      refine ⟨fun hp => ?_, fun hp hl => roundFin_normal h mode sub hF hp hl, fun hl hsub t ht => ?_, fun hl hsub hA => ?_⟩
      · rw [roundFin_over h mode sub hp]
        refine ⟨rfl, ?_⟩
        have side : (mode = 0 ∨ mode = 4 ∨ (mode = 2 ∧ q < 0) ∨ (mode = 3 ∧ 0 < q)) ↔
            (mode = 0 ∨ mode = 4 ∨ (mode = 2 ∧ decide (q < 0) = true) ∨ (mode = 3 ∧ decide (q < 0) = false)) := by
          have : 0 < q ↔ ¬ q < 0 := ⟨fun h => h.not_gt, fun h => (not_lt.1 h).lt_of_ne' hq⟩
          simp [this]
        simp only [side]
        split
        · next hc => exact overflow_inf hc.1 hc.2
        · next hc =>
          rw [overflow_max hm hc]
          convert pack_max_means hF (decide (q < 0)) using 1
          by_cases hn : q < 0 <;> simp [hn]
      · rw [roundsOn_iff hm] at ht
        subst ht
        refine roundFin_subnormal h mode sub hF hl (hsub.imp_right fun hA => ?_)
        exact Bool.eq_false_iff.2 (mt Fmt.flushable_iff.1 hA)
      · exact roundFin_flushed h mode sub hF hl hsub (Fmt.flushable_iff.2 hA)
  · intro F hF e q he hs r hr b hb
    exact roundFin_nearest (Fmt.sound_of_mem (Fmt.mem_roundFmts_of_arith hF)) (Fmt.kind_of_arith hF) he hs hr hb

end Sys2Proof.Machine
end

section
/-! The operations of R170: exact values, and NaN, infinities, zeros (R18, R170; Machine/Float.lean): O9. -/

open Sys2Proof Sys2Proof.Machine

namespace Sys2Proof.Machine

/-! ## NaN, infinities and zeros -/

section
variable {F : Fmt} {rm sub : ℕ} {x y z : FVal}

theorem roundInf_ieee (hk : F.kind = .ieee) (neg : Bool) : roundInf F neg = (F.inf neg, 0) := by rw [roundInf, hk]

theorem addVal_nan (h : x.isNan = true ∨ y.isNan = true) : addVal F rm sub x y = (F.nan, snanFlag [x, y]) :=
  if_pos (by simpa using h)
theorem mulVal_nan (h : x.isNan = true ∨ y.isNan = true) : mulVal F rm sub x y = (F.nan, snanFlag [x, y]) :=
  if_pos (by simpa using h)
theorem divVal_nan (h : x.isNan = true ∨ y.isNan = true) : divVal F rm sub x y = (F.nan, snanFlag [x, y]) :=
  if_pos (by simpa using h)
theorem sqrtVal_nan (h : x.isNan = true) : sqrtVal F rm sub x = (F.nan, snanFlag [x]) := by
  cases x <;> simp_all [FVal.isNan, sqrtVal, snanFlag, FVal.isSnan]

/-- The operands of a product that has no value (R170). -/
def badProduct (x y : FVal) : Prop := (x.isInf = true ∧ y.isZero = true) ∨ (x.isZero = true ∧ y.isInf = true)

theorem badProduct_iff : badProduct x y ↔ ((x.isInf && y.isZero) || (x.isZero && y.isInf)) = true := by simp [badProduct]
theorem isNan_of_badProduct (h : badProduct x y) : x.isNan = false ∧ y.isNan = false := by
  cases x <;> cases y <;> simp_all [badProduct, FVal.isNan, FVal.isInf, FVal.isZero]

theorem fmaVal_nan (h : x.isNan = true ∨ y.isNan = true ∨ z.isNan = true) (hb : ¬ badProduct x y) :
    fmaVal F rm sub x y z = (F.nan, snanFlag [x, y, z]) := by
  rw [badProduct_iff, Bool.not_eq_true] at hb
  simp only [fmaVal, hb, Bool.or_false, flagIf]
  rw [if_pos (by simpa [or_assoc] using h)]
  simp

theorem mulVal_bad (h : badProduct x y) : mulVal F rm sub x y = (F.nan, fNV) := by
  obtain ⟨hx, hy⟩ := isNan_of_badProduct h
  simp only [mulVal, hx, hy, Bool.or_self, badProduct_iff.1 h, if_true, Bool.false_eq_true, if_false]
theorem fmaVal_bad (h : badProduct x y) : fmaVal F rm sub x y z = (F.nan, fNV) := by
  simp only [fmaVal, badProduct_iff.1 h, Bool.or_true, if_true, flagIf, snanFlag]
  split <;> rfl

theorem addVal_inf_inf (hk : F.kind = .ieee) (hx : x.isInf = true) (hy : y.isInf = true) :
    addVal F rm sub x y = if x.neg = y.neg then (F.inf x.neg, 0) else (F.nan, fNV) := by
  cases x with
  | nan q => simp [FVal.isInf] at hx
  | fin n m e => simp [FVal.isInf] at hx
  | inf n => cases y with
    | nan q => simp [FVal.isInf] at hy
    | fin n m e => simp [FVal.isInf] at hy
    | inf n' => rw [← roundInf_ieee hk]; rfl
theorem addVal_inf_fin (hk : F.kind = .ieee) (hx : x.isInf = true) (hy : y.finite = true) :
    addVal F rm sub x y = (F.inf x.neg, 0) := by
  cases x <;> cases y <;> simp_all [FVal.isInf, FVal.finite, addVal, FVal.isNan, FVal.neg, roundInf_ieee]
theorem addVal_fin_inf (hk : F.kind = .ieee) (hx : x.finite = true) (hy : y.isInf = true) :
    addVal F rm sub x y = (F.inf y.neg, 0) := by
  cases x <;> cases y <;> simp_all [FVal.isInf, FVal.finite, addVal, FVal.isNan, FVal.neg, roundInf_ieee]

theorem mulVal_inf (hk : F.kind = .ieee) (h : x.isInf = true ∨ y.isInf = true) (hx : x.isNan = false) (hy : y.isNan = false)
    (hb : ¬ badProduct x y) : mulVal F rm sub x y = (F.inf (x.neg != y.neg), 0) := by
  rw [badProduct_iff, Bool.not_eq_true] at hb
  simp only [mulVal, hx, hy, hb, Bool.or_self, Bool.false_eq_true, if_false]
  rw [if_pos (by simpa using h), roundInf_ieee hk]

theorem divVal_inf_inf (hx : x.isInf = true) (hy : y.isInf = true) : divVal F rm sub x y = (F.nan, fNV) := by
  cases x <;> cases y <;> simp_all [FVal.isInf, divVal, FVal.isNan]
theorem divVal_zero_zero (hx : x.isZero = true) (hy : y.isZero = true) : divVal F rm sub x y = (F.nan, fNV) := by
  cases x <;> cases y <;> simp_all [FVal.isInf, FVal.isZero, divVal, FVal.isNan]
theorem divVal_inf_fin (hk : F.kind = .ieee) (hx : x.isInf = true) (hy : y.finite = true) :
    divVal F rm sub x y = (F.inf (x.neg != y.neg), 0) := by
  cases x <;> cases y <;> simp_all [FVal.isInf, FVal.finite, FVal.isZero, divVal, FVal.isNan, roundInf_ieee]
theorem divVal_fin_inf (hx : x.finite = true) (hy : y.isInf = true) :
    divVal F rm sub x y = (F.sign (x.neg != y.neg), 0) := by
  cases x <;> cases y <;> simp_all [FVal.isInf, FVal.finite, FVal.isZero, divVal, FVal.isNan]
theorem divVal_by_zero (hk : F.kind = .ieee) (hx : x.finite = true) (hx0 : x.isZero = false) (hy : y.isZero = true) :
    divVal F rm sub x y = (F.inf (x.neg != y.neg), fDZ) := by
  cases x <;> cases y <;> simp_all [FVal.isInf, FVal.finite, FVal.isZero, divVal, FVal.isNan, roundInf_ieee]

/-- An infinite product and a term that is no NaN. -/
theorem fmaVal_inf (hk : F.kind = .ieee) (h : x.isInf = true ∨ y.isInf = true) (hx : x.isNan = false) (hy : y.isNan = false)
    (hb : ¬ badProduct x y) (hz : z.isNan = false) :
    fmaVal F rm sub x y z = if z.isInf = true → z.neg = (x.neg != y.neg) then (F.inf (x.neg != y.neg), 0) else (F.nan, fNV) := by
  rw [badProduct_iff, Bool.not_eq_true] at hb
  simp only [fmaVal, hx, hy, hz, hb, Bool.or_self, Bool.false_eq_true, if_false]
  rw [if_pos (by simpa using h)]
  cases z with
  | nan q => simp [FVal.isNan] at hz
  | inf n =>
    simp only [show (FVal.inf n).isInf = true from rfl, show (FVal.inf n).neg = n from rfl, true_imp_iff, roundInf_ieee hk]
    by_cases hn : n = (x.neg != y.neg)
    · rw [if_pos hn, if_pos hn, hn]
    · rw [if_neg hn, if_neg hn]
  | fin n m e => simp [FVal.isInf, roundInf_ieee hk]
theorem fmaVal_fin_fin_inf (hk : F.kind = .ieee) (hx : x.finite = true) (hy : y.finite = true) (hz : z.isInf = true) :
    fmaVal F rm sub x y z = (F.inf z.neg, 0) := by
  cases x <;> cases y <;> cases z <;> simp_all [FVal.isInf, FVal.finite, FVal.isNan, fmaVal, FVal.neg, roundInf_ieee]

theorem sqrtVal_inf (hk : F.kind = .ieee) (hx : x.isInf = true) :
    sqrtVal F rm sub x = if x.neg then (F.nan, fNV) else (F.inf false, 0) := by
  cases x with
  | nan q => simp [FVal.isInf] at hx
  | fin n m e => simp [FVal.isInf] at hx
  | inf n => rw [← roundInf_ieee hk]; rfl
theorem sqrtVal_neg (hx : x.finite = true) (h0 : x.isZero = false) (hn : x.neg = true) : sqrtVal F rm sub x = (F.nan, fNV) := by
  cases x <;> simp_all [FVal.finite, FVal.isZero, sqrtVal, FVal.neg]

end

/-! ## Finite operands -/

/-- The number of an exact operand that is not sticky. -/
def Ex.val (x : Ex) : ℚ := (if x.neg then -1 else 1) * (x.m * 2 ^ x.e)

theorem Ex.abs_val (x : Ex) : |x.val| = x.m * 2 ^ x.e := by rw [Ex.val, abs_sign_mul, abs_of_nonneg (by positivity)]
theorem Ex.val_eq_zero_iff {x : Ex} : x.val = 0 ↔ x.m = 0 := by
  rw [← abs_eq_zero, x.abs_val, mul_eq_zero, or_iff_left (by positivity), Nat.cast_eq_zero]
theorem Ex.val_neg_iff {x : Ex} (h : x.val ≠ 0) : x.val < 0 ↔ x.neg = true := by
  have : (0 : ℚ) < x.m * 2 ^ x.e := by rw [← x.abs_val]; exact abs_pos.2 h
  cases hn : x.neg
  · simp only [Ex.val, hn, Bool.false_eq_true, if_false, one_mul, iff_false, not_lt]
    exact this.le
  · simpa [Ex.val, hn] using this
theorem Ex.standsFor_val {x : Ex} (h : x.sticky = false) : x.standsFor x.val := by
  refine ⟨fun h0 => ?_, ?_⟩
  · rw [Bool.eq_iff_iff, decide_eq_true_iff, Ex.val_neg_iff h0]
  · rw [h]
    exact x.abs_val

theorem FVal.ex_val (x : FVal) : x.ex.val = x.rat := by
  cases x with
  | nan q => simp [FVal.ex, Ex.val, FVal.rat]
  | inf n => simp [FVal.ex, Ex.val, FVal.rat]
  | fin n m e => exact (mul_assoc _ _ _).symm
theorem FVal.ex_neg {x : FVal} (h : x.finite = true) : x.ex.neg = x.neg := by cases x <;> simp_all [FVal.ex, FVal.neg, FVal.finite]
theorem FVal.ex_sticky (x : FVal) : x.ex.sticky = false := by cases x <;> rfl
theorem FVal.isZero_iff {x : FVal} (h : x.finite = true) : x.isZero = true ↔ x.rat = 0 := by
  rw [← x.ex_val, Ex.val_eq_zero_iff]
  cases x <;> simp_all [FVal.isZero, FVal.ex, FVal.finite]

theorem mulEx_val (a b : Ex) : (mulEx a b).val = a.val * b.val := by
  obtain ⟨an, am, ae, -⟩ := a
  obtain ⟨bn, bm, be, -⟩ := b
  simp only [mulEx, Ex.val, zpow_add₀ (two_ne_zero (α := ℚ)), Nat.cast_mul]
  cases an <;> cases bn <;> simp <;> ring

theorem addEx_sticky (mode : ℕ) (a b : Ex) : (addEx mode a b).sticky = false := by
  simp only [addEx]
  split_ifs <;> rfl

theorem addEx_val (mode : ℕ) (a b : Ex) : (addEx mode a b).val = a.val + b.val := by
  obtain ⟨an, am, ae, -⟩ := a
  obtain ⟨bn, bm, be, -⟩ := b
  have ha := cast_shl_mul am (min_le_left ae be)
  have hb := cast_shl_mul bm (min_le_right ae be)
  simp only [addEx]
  by_cases h0 : am = 0 ∧ bm = 0
  · rw [if_pos h0]
    simp [Ex.val, h0]
  simp only [Ex.val] at *
  rw [if_neg h0, ← ha, ← hb]
  by_cases hn : an = bn
  · rw [if_pos hn, hn]
    push_cast
    ring
  have hbn : bn = !an := by cases an <;> cases bn <;> simp_all
  rw [if_neg hn, hbn]
  rcases lt_trichotomy (shl am (ae - min ae be)) (shl bm (be - min ae be)) with h | h | h
  · rw [if_neg h.not_gt, if_pos h, Nat.cast_sub h.le]
    cases an <;> simp <;> ring
  · rw [if_neg h.not_gt, if_neg h.not_lt, h]
    cases an <;> simp
  · rw [if_pos h, Nat.cast_sub h.le]
    cases an <;> simp <;> ring

/-- The sign of an exact zero sum (R170). -/
theorem addEx_zero {mode : ℕ} {a b : Ex} (h : a.val + b.val = 0) :
    (addEx mode a b).m = 0 ∧ (addEx mode a b).neg = if a.neg = b.neg then a.neg else mode == 2 := by
  have hm : (addEx mode a b).m = 0 := Ex.val_eq_zero_iff.1 (by rw [addEx_val, h])
  refine ⟨hm, ?_⟩
  simp only [addEx] at hm ⊢
  by_cases h0 : a.m = 0 ∧ b.m = 0
  · rw [if_pos h0]
  rw [if_neg h0] at hm ⊢
  by_cases hn : a.neg = b.neg
  · rw [if_pos hn, if_pos hn]
  rw [if_neg hn] at hm ⊢
  rw [if_neg hn]
  rcases lt_trichotomy (shl a.m (a.e - min a.e b.e)) (shl b.m (b.e - min a.e b.e)) with h | h | h
  · rw [if_neg h.not_gt, if_pos h] at hm
    exact absurd hm (Nat.sub_ne_zero_of_lt h)
  · rw [if_neg h.not_gt, if_neg h.not_lt]
  · rw [if_pos h] at hm
    exact absurd hm (Nat.sub_ne_zero_of_lt h)

section
variable (F : Fmt) (rm sub : ℕ) {x y z : FVal} (hx : x.finite = true) (hy : y.finite = true) (hz : z.finite = true)
include hx hy

theorem addVal_fin : addVal F rm sub x y = roundFin F rm sub (addEx rm x.ex y.ex) := by
  cases x <;> cases y <;> simp_all [FVal.finite, addVal, FVal.isNan]
theorem mulVal_fin : mulVal F rm sub x y = roundFin F rm sub (mulEx x.ex y.ex) := by
  cases x <;> cases y <;> simp_all [FVal.finite, mulVal, FVal.isNan, FVal.isInf]
theorem divVal_fin (h : y.rat ≠ 0) : divVal F rm sub x y = roundFin F rm sub (divEx x.ex y.ex) := by
  have h := mt (FVal.isZero_iff hy).1 h
  cases x <;> cases y <;> simp_all [FVal.finite, divVal, FVal.isNan, FVal.isInf]
include hz in
theorem fmaVal_fin : fmaVal F rm sub x y z = roundFin F rm sub (addEx rm (mulEx x.ex y.ex) z.ex) := by
  cases x <;> cases y <;> cases z <;> simp_all [FVal.finite, fmaVal, FVal.isNan, FVal.isInf]

end

/-! ## Quotients and roots -/

/-- The quotient and what is left of it (R170). -/
theorem divEx_standsFor {a b : Ex} (hb : b.val ≠ 0) : (divEx a b).standsFor (a.val / b.val) := by
  have hb0 : (0 : ℚ) < b.m := by
    have := mt Ex.val_eq_zero_iff.2 hb
    exact_mod_cast Nat.pos_of_ne_zero this
  have habs : |a.val / b.val| = (a.m * 2 ^ 192 : ℕ) / b.m * 2 ^ (a.e - b.e - 192) := by
    rw [abs_div, a.abs_val, b.abs_val, zpow_sub₀ two_ne_zero, zpow_sub₀ two_ne_zero]
    push_cast
    field_simp
  have hp : (0 : ℚ) < 2 ^ (a.e - b.e - 192) := by positivity
  have hd : ((a.m * 2 ^ 192 : ℕ) : ℚ) = b.m * (a.m * 2 ^ 192 / b.m : ℕ) + (a.m * 2 ^ 192 % b.m : ℕ) := by
    exact_mod_cast (Nat.div_add_mod _ b.m).symm
  refine ⟨fun h0 => ?_, ?_⟩
  · have ha : a.val ≠ 0 := fun h => h0 (by simp [h])
    rw [Bool.eq_iff_iff, decide_eq_true_iff, div_neg_iff]
    have := Ex.val_neg_iff ha
    have := Ex.val_neg_iff hb
    have pos : ∀ {q : ℚ}, q ≠ 0 → (0 < q ↔ ¬ q < 0) := fun h => ⟨fun h => h.not_gt, fun h' => (not_lt.1 h').lt_of_ne' h⟩
    simp only [divEx, pos ha, pos hb, *]
    cases a.neg <;> cases b.neg <;> simp
  · rw [habs]
    clear habs
    by_cases hs : (divEx a b).sticky = true
    · rw [if_pos hs]
      simp only [divEx] at hs ⊢
      generalize a.m * 2 ^ 192 = n at *
      have hr : 0 < n % b.m := Nat.pos_of_ne_zero (by simpa using hs)
      have hr' : (0 : ℚ) < (n % b.m : ℕ) := by exact_mod_cast hr
      have hlt : ((n % b.m : ℕ) : ℚ) < b.m := by exact_mod_cast Nat.mod_lt _ (by exact_mod_cast hb0)
      rw [hd]
      constructor
      · gcongr
        rw [lt_div_iff₀ hb0]
        linarith
      · gcongr
        rw [div_lt_iff₀ hb0]
        linarith
    · rw [if_neg hs]
      simp only [divEx] at hs ⊢
      have hr : a.m * 2 ^ 192 % b.m = 0 := by simpa using hs
      rw [hd, hr]
      field_simp
      simp

/-- `isqrtBits` keeps r² ≤ n < (r + 2^k)². -/
theorem isqrtBits_spec (n : ℕ) : ∀ k r : ℕ, r * r ≤ n → n < (r + 2 ^ k) * (r + 2 ^ k) →
    isqrtBits n k r * isqrtBits n k r ≤ n ∧ n < (isqrtBits n k r + 1) * (isqrtBits n k r + 1)
  | 0, r, lo, hi => ⟨lo, by simpa [isqrtBits] using hi⟩
  | k + 1, r, lo, hi => by
    simp only [isqrtBits]
    split
    · next h =>
      refine isqrtBits_spec n k _ h ?_
      rwa [add_assoc, ← two_mul, ← pow_succ']
    · next h => exact isqrtBits_spec n k _ lo (not_le.1 h)

theorem isqrt_spec (n : ℕ) : isqrt n * isqrt n ≤ n ∧ n < (isqrt n + 1) * (isqrt n + 1) := by
  refine isqrtBits_spec n _ 0 (by simp) ?_
  rw [zero_add, ← pow_add]
  exact Nat.lt_log2_self.trans_le (Nat.pow_le_pow_right two_pos (by omega))

/-- The scaled significand that `sqrtEx` takes the root of. -/
def sqrtScaled (a : Ex) : ℕ := (if a.e % 2 ≠ 0 then a.m * 2 else a.m) * 2 ^ 256

theorem sqrtEx_eq (a : Ex) :
    sqrtEx a = ⟨false, isqrt (sqrtScaled a), (if a.e % 2 ≠ 0 then a.e - 1 else a.e) / 2 - 128,
      isqrt (sqrtScaled a) * isqrt (sqrtScaled a) != sqrtScaled a⟩ := by
  simp [sqrtEx, sqrtScaled]

theorem sqrtScaled_mul (a : Ex) : (sqrtScaled a : ℚ) * (2 ^ (sqrtEx a).e) ^ 2 = a.m * 2 ^ a.e := by
  rw [sqrtEx_eq, sqrtScaled, ← zpow_natCast (2 ^ _ : ℚ), ← zpow_mul]
  split_ifs with h
  · rw [show ((a.e - 1) / 2 - 128) * (2 : ℕ) = a.e + (-256 + -1) by push_cast; omega, zpow_add₀ two_ne_zero, zpow_add₀ two_ne_zero]
    push_cast
    field_simp
    norm_num
  · rw [show (a.e / 2 - 128) * (2 : ℕ) = a.e + (-256 : ℤ) by push_cast; omega, zpow_add₀ two_ne_zero]
    push_cast
    field_simp
    norm_num

/-- The root and what is left of it (R170). -/
theorem sqrtEx_spec (a : Ex) :
    if (sqrtEx a).sticky then
      (((sqrtEx a).m : ℚ) * 2 ^ (sqrtEx a).e) ^ 2 < a.m * 2 ^ a.e ∧ a.m * 2 ^ a.e < ((((sqrtEx a).m : ℚ) + 1) * 2 ^ (sqrtEx a).e) ^ 2
    else (((sqrtEx a).m : ℚ) * 2 ^ (sqrtEx a).e) ^ 2 = a.m * 2 ^ a.e := by
  obtain ⟨lo, hi⟩ := isqrt_spec (sqrtScaled a)
  have hm : (sqrtEx a).m = isqrt (sqrtScaled a) := by rw [sqrtEx_eq]
  have hs : (sqrtEx a).sticky = (isqrt (sqrtScaled a) * isqrt (sqrtScaled a) != sqrtScaled a) := by rw [sqrtEx_eq]
  rw [← sqrtScaled_mul a, hm, hs]
  simp only [mul_pow]
  generalize sqrtScaled a = n at *
  split
  · next h =>
    have : isqrt n * isqrt n < n := lo.lt_of_ne (by simpa using h)
    rw [← pow_two] at this hi
    constructor
    · have : ((isqrt n : ℕ) : ℚ) ^ 2 < n := by exact_mod_cast this
      gcongr
    · have : (n : ℚ) < (isqrt n + 1) ^ 2 := by exact_mod_cast hi
      gcongr
  · next h =>
    have : isqrt n * isqrt n = n := by simpa using h
    rw [← pow_two] at this
    congr 1
    exact_mod_cast this

/-- A root has at least 128 bits. -/
theorem sqrtEx_digits {a : Ex} (h : a.m ≠ 0) : 2 ^ 128 ≤ (sqrtEx a).m := by
  obtain ⟨-, hi⟩ := isqrt_spec (sqrtScaled a)
  have hm : (sqrtEx a).m = isqrt (sqrtScaled a) := by rw [sqrtEx_eq]
  rw [hm]
  have big : 2 ^ 256 ≤ sqrtScaled a := by
    rw [sqrtScaled]
    refine Nat.le_mul_of_pos_left _ ?_
    split <;> omega
  by_contra hc
  have : (isqrt (sqrtScaled a) + 1) * (isqrt (sqrtScaled a) + 1) ≤ 2 ^ 128 * 2 ^ 128 :=
    Nat.mul_le_mul (by omega) (by omega)
  rw [← pow_add] at this
  omega

/-- A quotient of finite values of a format has at least 139 bits. -/
theorem divEx_digits {a b : Ex} {n : ℕ} (ha : a.m ≠ 0) (hb : b.m ≠ 0) (hn : n ≤ 192) (h : b.m ≤ 2 ^ n) :
    2 ^ (192 - n) ≤ (divEx a b).m := by
  simp only [divEx]
  rw [Nat.le_div_iff_mul_le (Nat.pos_of_ne_zero hb)]
  calc 2 ^ (192 - n) * b.m ≤ 2 ^ (192 - n) * 2 ^ n := Nat.mul_le_mul_left _ h
    _ = 2 ^ 192 := by rw [← pow_add, Nat.sub_add_cancel hn]
    _ ≤ a.m * 2 ^ 192 := Nat.le_mul_of_pos_left _ (Nat.pos_of_ne_zero ha)

/-- The significand of an operand is at most one digit longer than the fraction. -/
theorem operand_ex_lt (F : Fmt) (sub b : ℕ) : (operand F sub b).ex.m < 2 ^ (F.fbits + 1) := by
  have pos : 0 < 2 ^ (F.fbits + 1) := by positivity
  unfold operand
  cases hb : unpack F b with
  | nan q => exact pos
  | inf n => exact pos
  | fin neg m e =>
    dsimp only
    split
    · exact pos
    · exact (unpack_fin hb).1

end Sys2Proof.Machine
end

section
/-! The scalar operations as one rounding of exact values (R18, R170): O9. -/

open Sys2Proof Sys2Proof.Machine

namespace Sys2Proof.Machine

/-- Each operation on values gives what R170 says of NaN, infinities and zeros. -/
theorem special_values {F : Fmt} (hk : F.kind = .ieee) (rm sub : ℕ) (x y z : FVal) :
    let p := x.neg != y.neg
    let nan (vs : List FVal) : Nat × Flags := (F.nan, if vs.any FVal.isSnan then fNV else 0)
    let invalid : Nat × Flags := (F.nan, fNV)
    let inf (n : Bool) : Nat × Flags := (F.inf n, 0)
    let bad := (x.isInf = true ∧ y.isZero = true) ∨ (x.isZero = true ∧ y.isInf = true)
    (x.isNan = true ∨ y.isNan = true → addVal F rm sub x y = nan [x, y] ∧ mulVal F rm sub x y = nan [x, y] ∧
      divVal F rm sub x y = nan [x, y]) ∧
    (x.isNan = true → sqrtVal F rm sub x = nan [x]) ∧
    (x.isNan = true ∨ y.isNan = true ∨ z.isNan = true → ¬ bad → fmaVal F rm sub x y z = nan [x, y, z]) ∧
    (bad → mulVal F rm sub x y = invalid ∧ fmaVal F rm sub x y z = invalid) ∧
    (x.isInf = true → y.isInf = true → divVal F rm sub x y = invalid ∧
      addVal F rm sub x y = if x.neg = y.neg then inf x.neg else invalid) ∧
    (x.isInf = true → y.finite → addVal F rm sub x y = inf x.neg ∧ divVal F rm sub x y = inf p) ∧
    (x.finite → y.isInf = true → addVal F rm sub x y = inf y.neg ∧ divVal F rm sub x y = (F.sign p, 0)) ∧
    (x.isInf = true ∨ y.isInf = true → x.isNan = false → y.isNan = false → ¬ bad → mulVal F rm sub x y = inf p ∧
      (z.finite → fmaVal F rm sub x y z = inf p) ∧
      (z.isInf = true → fmaVal F rm sub x y z = if z.neg = p then inf p else invalid)) ∧
    (x.finite → y.finite → z.isInf = true → fmaVal F rm sub x y z = inf z.neg) ∧
    (x.isZero = true → y.isZero = true → divVal F rm sub x y = invalid) ∧
    (x.finite → x.isZero = false → y.isZero = true → divVal F rm sub x y = (F.inf p, fDZ)) ∧
    (x.isInf = true → sqrtVal F rm sub x = if x.neg then invalid else inf false) ∧
    (x.finite → x.isZero = false → x.neg = true → sqrtVal F rm sub x = invalid) := by
  have fin_isNan : z.finite = true → z.isNan = false ∧ z.isInf = false := by cases z <;> simp [FVal.finite, FVal.isNan, FVal.isInf]
  have inf_isNan : z.isInf = true → z.isNan = false := by cases z <;> simp [FVal.isInf, FVal.isNan]
  refine ⟨fun h => ⟨addVal_nan h, mulVal_nan h, divVal_nan h⟩, sqrtVal_nan, fmaVal_nan, fun h => ⟨mulVal_bad h, fmaVal_bad h⟩,
    fun hx hy => ⟨divVal_inf_inf hx hy, addVal_inf_inf hk hx hy⟩,
    fun hx hy => ⟨addVal_inf_fin hk hx hy, divVal_inf_fin hk hx hy⟩,
    fun hx hy => ⟨addVal_fin_inf hk hx hy, divVal_fin_inf hx hy⟩, fun h hx hy hb => ⟨mulVal_inf hk h hx hy hb, fun hz => ?_, fun hz => ?_⟩,
    fmaVal_fin_fin_inf hk, divVal_zero_zero, divVal_by_zero hk, sqrtVal_inf hk, sqrtVal_neg⟩
  · rw [fmaVal_inf hk h hx hy hb (fin_isNan hz).1, if_pos]
    simp [(fin_isNan hz).2]
  · rw [fmaVal_inf hk h hx hy hb (inf_isNan hz)]
    simp only [hz, true_imp_iff]

/-- Sums, products and products with a term are one rounding of the exact value, and an exact zero has the sign of R170. -/
theorem finite_values (F : Fmt) (rm sub : ℕ) {x y z : FVal} (hx : x.finite = true) (hy : y.finite = true) (hz : z.finite = true) :
    let p := x.neg != y.neg
    (∃ e : Ex, e.sticky = false ∧ e.standsFor (x.rat + y.rat) ∧ addVal F rm sub x y = roundFin F rm sub e) ∧
    (∃ e : Ex, e.sticky = false ∧ e.standsFor (x.rat * y.rat) ∧ mulVal F rm sub x y = roundFin F rm sub e) ∧
    (∃ e : Ex, e.sticky = false ∧ e.standsFor (x.rat * y.rat + z.rat) ∧ fmaVal F rm sub x y z = roundFin F rm sub e) ∧
    (x.rat + y.rat = 0 → addVal F rm sub x y = (F.sign (if x.neg = y.neg then x.neg else rm == 2), 0)) ∧
    (x.rat * y.rat = 0 → mulVal F rm sub x y = (F.sign p, 0)) ∧
    (x.rat * y.rat + z.rat = 0 → fmaVal F rm sub x y z = (F.sign (if p = z.neg then p else rm == 2), 0)) := by
  have product : (mulEx x.ex y.ex).neg = (x.neg != y.neg) := by rw [← FVal.ex_neg hx, ← FVal.ex_neg hy]; rfl
  rw [addVal_fin F rm sub hx hy, mulVal_fin F rm sub hx hy, fmaVal_fin F rm sub hx hy hz]
  rw [← x.ex_val, ← y.ex_val, ← z.ex_val, ← addEx_val rm, ← mulEx_val, ← addEx_val rm]
  refine ⟨⟨_, addEx_sticky _ _ _, Ex.standsFor_val (addEx_sticky _ _ _), rfl⟩, ⟨_, rfl, Ex.standsFor_val rfl, rfl⟩,
    ⟨_, addEx_sticky _ _ _, Ex.standsFor_val (addEx_sticky _ _ _), rfl⟩, fun h => ?_, fun h => ?_, fun h => ?_⟩
  · rw [addEx_val] at h
    obtain ⟨hm, hn⟩ := addEx_zero (mode := rm) h
    rw [roundFin_zero hm (addEx_sticky _ _ _), hn, FVal.ex_neg hx, FVal.ex_neg hy]
  · rw [roundFin_zero (Ex.val_eq_zero_iff.1 h) rfl, product]
  · rw [addEx_val] at h
    obtain ⟨hm, hn⟩ := addEx_zero (mode := rm) h
    rw [roundFin_zero hm (addEx_sticky _ _ _), hn, product, FVal.ex_neg hz]

/-- A quotient by a value that is not zero is one rounding of the exact quotient. -/
theorem quotient_value {F : Fmt} (hF : F.fbits ≤ 52) (rm sub : ℕ) {x y : FVal} (hx : x.finite = true) (hy : y.finite = true)
    (h0 : y.rat ≠ 0) (hm : y.ex.m < 2 ^ (F.fbits + 1)) :
    (∃ e : Ex, (e.sticky = true → 2 ^ (F.fbits + 2) ≤ e.m) ∧ e.standsFor (x.rat / y.rat) ∧
      divVal F rm sub x y = roundFin F rm sub e) ∧
    (x.rat = 0 → divVal F rm sub x y = (F.sign (x.neg != y.neg), 0)) := by
  rw [divVal_fin F rm sub hx hy h0]
  rw [← y.ex_val] at h0
  have hy0 : y.ex.m ≠ 0 := mt Ex.val_eq_zero_iff.2 h0
  refine ⟨⟨_, fun hs => ?_, by rw [← x.ex_val, ← y.ex_val]; exact divEx_standsFor h0, rfl⟩, fun hx0 => ?_⟩
  · have hx0 : x.ex.m ≠ 0 := by
      intro h
      simp [divEx, h] at hs
    exact (Nat.pow_le_pow_right two_pos (by omega)).trans (divEx_digits hx0 hy0 (show F.fbits + 1 ≤ 192 by omega) hm.le)
  · have hx0 : x.ex.m = 0 := Ex.val_eq_zero_iff.1 (by rw [x.ex_val, hx0])
    rw [roundFin_zero (by simp [divEx, hx0]) (by simp [divEx, hx0]), ← FVal.ex_neg hx, ← FVal.ex_neg hy]
    rfl

/-- A square root of a value above zero is one rounding of a root to at least two digits beyond the significand. -/
theorem root_value {F : Fmt} (hF : F.fbits ≤ 52) (rm sub : ℕ) {x : FVal} (hx : x.finite = true) :
    (x.rat = 0 → sqrtVal F rm sub x = (F.sign x.neg, 0)) ∧
    (0 < x.rat → ∃ e : Ex, e.neg = false ∧ (e.sticky = true → 2 ^ (F.fbits + 2) ≤ e.m) ∧
      sqrtVal F rm sub x = roundFin F rm sub e ∧
      (if e.sticky then ((e.m : ℚ) * 2 ^ e.e) ^ 2 < x.rat ∧ x.rat < (((e.m : ℚ) + 1) * 2 ^ e.e) ^ 2
       else ((e.m : ℚ) * 2 ^ e.e) ^ 2 = x.rat)) := by
  cases x with
  | nan q => simp [FVal.finite] at hx
  | inf n => simp [FVal.finite] at hx
  | fin n m e =>
    rw [← FVal.ex_val]
    refine ⟨fun h => if_pos (Ex.val_eq_zero_iff.1 h), fun h => ?_⟩
    have hm : m ≠ 0 := fun hm => h.ne' (Ex.val_eq_zero_iff.2 hm)
    have hn : n = false := by
      have := mt (Ex.val_neg_iff h.ne').2 h.not_gt
      simpa [FVal.ex] using this
    have hv : (FVal.fin n m e).ex.val = m * 2 ^ e := by simp [FVal.ex, Ex.val, hn]
    refine ⟨sqrtEx (FVal.fin n m e).ex, rfl, fun _ => ?_, ?_, ?_⟩
    · exact (Nat.pow_le_pow_right two_pos (by omega)).trans (sqrtEx_digits hm)
    · simp [sqrtVal, hm, hn]
    · rw [hv]
      exact sqrtEx_spec _

/-- Settles O9, from the values and the special cases of each operation. -/
theorem floatExact : Obligations.FloatExact := by
  unfold Obligations.FloatExact
  intro F hF rm sub
  have hf : F.fbits ≤ 52 := (by decide : ∀ F ∈ arithFmts, F.fbits ≤ 52) F hF
  refine ⟨special_values (Fmt.kind_of_arith hF) rm sub, fun x y z hx hy hz => finite_values F rm sub hx hy hz, fun a b => ?_⟩
  intro x y hx
  obtain ⟨zero, root⟩ := root_value hf rm sub hx
  exact ⟨fun hy h0 => quotient_value hf rm sub hx hy h0 (operand_ex_lt F sub b), zero, root⟩

end Sys2Proof.Machine
end

section
/-! Bit patterns from their values, the orders of R38 and R170, and conversions to and from integers (R16, R29): O8. -/

open Sys2Proof Sys2Proof.Machine

namespace Sys2Proof.Machine

/-! ## A bit pattern is given by its value -/

section
variable {F : Fmt} {a b : ℕ}

/-- The bits of a format are its sign, exponent field and fraction. -/
theorem Fmt.code_fields (h : a < 2 ^ F.width) :
    F.code (a.testBit (F.ebits + F.fbits)) (a / 2 ^ F.fbits % 2 ^ F.ebits) (a % 2 ^ F.fbits) = a := by
  have hs : (a.testBit (F.ebits + F.fbits)).toNat = a / 2 ^ F.fbits / 2 ^ F.ebits := by
    have hlt : a / 2 ^ F.fbits / 2 ^ F.ebits < 2 := by
      rw [Nat.div_div_eq_div_mul, ← pow_add, Nat.div_lt_iff_lt_mul (by positivity), ← pow_succ']
      exact h.trans_le (Nat.pow_le_pow_right two_pos (by simp only [Fmt.width]; omega))
    rw [Nat.testBit_eq_decide_div_mod_eq, add_comm F.ebits, pow_add, ← Nat.div_div_eq_div_mul, Nat.mod_eq_of_lt hlt]
    interval_cases a / 2 ^ F.fbits / 2 ^ F.ebits <;> rfl
  rw [F.code_eq, hs, mul_comm _ (2 ^ F.ebits), Nat.div_add_mod, mul_comm, Nat.div_add_mod]

theorem code_of_unpack_fin {neg : Bool} {m : ℕ} {e : ℤ} (ha : a < 2 ^ F.width) (h : unpack F a = .fin neg m e) :
    a = F.code neg (if m < 2 ^ F.fbits then 0 else (e - F.emin + 1).toNat) (m % 2 ^ F.fbits) := by
  have hf : a % 2 ^ F.fbits < 2 ^ F.fbits := Nat.mod_lt _ (by positivity)
  conv_lhs => rw [← Fmt.code_fields ha]
  unfold unpack at h
  simp only at h
  split_ifs at h with _ _ _ h0
  · cases h
    rw [if_pos hf, h0, Nat.mod_mod]
  · cases h
    rw [if_neg (by omega), Nat.add_mod_right, Nat.mod_mod]
    congr 1
    omega

theorem code_of_unpack_inf {neg : Bool} (ha : a < 2 ^ F.width) (h : unpack F a = .inf neg) : a = F.inf neg := by
  conv_lhs => rw [← Fmt.code_fields ha]
  unfold unpack at h
  simp only at h
  split_ifs at h with h1 h2
  cases h
  rw [h1.2, h2]
  rfl

/-- A finite value that is not zero has one significand and exponent. -/
theorem canonical_unique {m m' : ℕ} {e e' : ℤ} (hm : m < 2 ^ (F.fbits + 1)) (he : e = F.emin ∨ 2 ^ F.fbits ≤ m) (hl : F.emin ≤ e)
    (hm' : m' < 2 ^ (F.fbits + 1)) (he' : e' = F.emin ∨ 2 ^ F.fbits ≤ m') (hl' : F.emin ≤ e')
    (h : (m : ℚ) * 2 ^ e = m' * 2 ^ e') : m = m' ∧ e = e' := by
  have key : ∀ {m m' : ℕ} {e e' : ℤ}, m < 2 ^ (F.fbits + 1) → F.emin ≤ e → (e' = F.emin ∨ 2 ^ F.fbits ≤ m') →
      (m : ℚ) * 2 ^ e = m' * 2 ^ e' → e' ≤ e := by
    intro m m' e e' hm hl he' h
    by_contra hc
    rcases he' with rfl | hf
    · omega
    have : (m : ℚ) * 2 ^ e < m' * 2 ^ e' :=
      calc (m : ℚ) * 2 ^ e < 2 ^ (F.fbits + 1) * 2 ^ e := by
            have : (m : ℚ) < 2 ^ (F.fbits + 1) := by exact_mod_cast hm
            gcongr
        _ = 2 ^ F.fbits * 2 ^ (e + 1) := by rw [zpow_add_one₀ two_ne_zero, pow_succ]; ring
        _ ≤ m' * 2 ^ e' := by
            have : (2 : ℚ) ^ F.fbits ≤ m' := by exact_mod_cast hf
            have : (2 : ℚ) ^ (e + 1) ≤ 2 ^ e' := zpow_le_zpow_right₀ one_le_two (by omega)
            gcongr
    linarith
  obtain rfl := le_antisymm (key hm' hl' he h.symm) (key hm hl he' h)
  exact ⟨by exact_mod_cast mul_right_cancel₀ (by positivity) h, rfl⟩

/-- What an operand that is not a zero was read from. -/
theorem unpack_of_operand {sub : ℕ} {v : FVal} (h : operand F sub a = v) (h0 : v.isZero = false) : unpack F a = v := by
  subst h
  revert h0
  unfold operand
  split
  · split
    · simp [FVal.isZero]
    · next h _ => exact fun _ => h
  · exact fun _ => rfl

/-- Operands of one sign and one value that are no zeros are one bit pattern. -/
theorem eq_of_operand_eq {sub : ℕ} {n : Bool} {m m' : ℕ} {e e' : ℤ} (ha : a < 2 ^ F.width) (hb : b < 2 ^ F.width)
    (hx : operand F sub a = .fin n m e) (hy : operand F sub b = .fin n m' e') (h0 : m ≠ 0)
    (h : (m : ℚ) * 2 ^ e = m' * 2 ^ e') : a = b := by
  have h0' : m' ≠ 0 := by
    rintro rfl
    have : (0 : ℚ) < m * 2 ^ e := by have : (0 : ℚ) < m := by exact_mod_cast Nat.pos_of_ne_zero h0
                                     positivity
    simp only [h, Nat.cast_zero, zero_mul, lt_irrefl] at this
  have hx := unpack_of_operand hx (by simpa [FVal.isZero] using h0)
  have hy := unpack_of_operand hy (by simpa [FVal.isZero] using h0')
  obtain ⟨h1, h2, h3⟩ := unpack_fin hx
  obtain ⟨h1', h2', h3'⟩ := unpack_fin hy
  obtain ⟨rfl, rfl⟩ := canonical_unique h1 h3 h2 h1' h3' h2' h
  rw [code_of_unpack_fin ha hx, code_of_unpack_fin hb hy]
end

/-! ## The orders -/

theorem FVal.rat_fin (n : Bool) (m : ℕ) (e : ℤ) : (FVal.fin n m e).rat = (if n then -1 else 1) * (m * 2 ^ e) := mul_assoc _ _ _

theorem FVal.neg_iff {x : FVal} (hx : x.finite = true) (h : x.rat ≠ 0) : x.rat < 0 ↔ x.neg = true := by
  rw [← x.ex_val] at h ⊢
  rw [Ex.val_neg_iff h, FVal.ex_neg hx]

/-- The order of finite values is that of their numbers. -/
theorem ltVal_fin_iff {n n' : Bool} {m m' : ℕ} {e e' : ℤ} :
    ltVal (.fin n m e) (.fin n' m' e') = true ↔ (FVal.fin n m e).rat < (FVal.fin n' m' e').rat := by
  have pos : ∀ {m : ℕ} {e : ℤ}, m ≠ 0 → (0 : ℚ) < m * 2 ^ e := by
    intro m e h
    have : (0 : ℚ) < m := by exact_mod_cast Nat.pos_of_ne_zero h
    positivity
  rw [FVal.rat_fin, FVal.rat_fin]
  unfold ltVal
  by_cases h : m = 0
  · by_cases h' : m' = 0
    · simp [h, h']
    · have := pos (e := e') h'
      cases n' <;> simp [h, h', this, this.le]
  · have p := pos (e := e) h
    by_cases h' : m' = 0
    · cases n <;> simp [h, h', p, p.le]
    · have p' := pos (e := e') h'
      cases n <;> cases n' <;> simp [h, h', gtMag_iff] <;> linarith

/-- The order of R38, of values that are no NaN: x at most y where y is not below x. -/
theorem atMost_eq {x y : FVal} (hx : x.isNan = false) (hy : y.isNan = false) : x.atMost y = !totalLt y x := by
  cases x with
  | nan q => simp [FVal.isNan] at hx
  | inf n => cases y with
    | nan q => simp [FVal.isNan] at hy
    | inf n' => cases n <;> cases n' <;> rfl
    | fin n' m' e' => cases n <;> simp [FVal.atMost, totalLt, ltVal, FVal.isZero]
  | fin n m e => cases y with
    | nan q => simp [FVal.isNan] at hy
    | inf n' => cases n' <;> simp [FVal.atMost, totalLt, ltVal, FVal.isZero]
    | fin n' m' e' =>
      have sign := fun h => FVal.neg_iff (x := .fin n m e) rfl h
      have sign' := fun h => FVal.neg_iff (x := .fin n' m' e') rfl h
      rw [Bool.eq_iff_iff]
      simp only [FVal.atMost, totalLt, Bool.or_eq_true, Bool.and_eq_true, decide_eq_true_eq, Bool.not_eq_true', ← Bool.not_eq_true,
        ltVal_fin_iff, FVal.isZero_iff (x := .fin n m e) rfl, FVal.isZero_iff (x := .fin n' m' e') rfl] at sign sign' ⊢
      simp only [FVal.neg] at sign sign' ⊢
      rcases lt_trichotomy (FVal.fin n m e).rat (FVal.fin n' m' e').rat with h | h | h
      · simp only [h, h.not_gt, true_or, true_iff, false_or]
        rintro ⟨⟨⟨h1, h2⟩, -⟩, -⟩
        exact h.ne (h2.trans h1.symm)
      · simp only [h, lt_irrefl, false_or, true_and, and_self] at sign ⊢
        by_cases h0 : (FVal.fin n' m' e').rat = 0
        · cases n <;> cases n' <;> simp [h0]
        · simp only [h0, false_and, not_false_eq_true, iff_true]
          have := (sign h0).symm.trans (sign' h0)
          cases n <;> cases n' <;> simp_all
      · simp only [h, h.not_gt, h.ne', false_or, false_and, true_or, not_true]

/-- The class of a value is the bit of R171. -/
theorem classBits_eq (F : Fmt) (a : ℕ) : classBits F a = 2 ^ specClass F (unpack F a) := by
  unfold classBits
  cases h : unpack F a with
  | nan q => cases q <;> rfl
  | inf n => cases n <;> rfl
  | fin n m e => cases n <;> simp only [specClass] <;> split_ifs <;> simp_all

end Sys2Proof.Machine
end

section
/-! The scalar floating-point statements (R29, R38, R166, R170 to R172): O8. -/

open Sys2Proof Sys2Proof.Machine

namespace Sys2Proof.Machine

/-! ## Minimum and maximum (R38) -/

/-- −0 orders below +0, and otherwise finite values order as their numbers. -/
theorem totalLt_fin_iff {n n' : Bool} {m m' : ℕ} {e e' : ℤ} :
    totalLt (.fin n m e) (.fin n' m' e') = true ↔ (FVal.fin n m e).rat < (FVal.fin n' m' e').rat ∨
      ((FVal.fin n m e).rat = 0 ∧ (FVal.fin n' m' e').rat = 0 ∧ n = true ∧ n' = false) := by
  simp only [totalLt, Bool.or_eq_true, Bool.and_eq_true, ltVal_fin_iff, FVal.isZero_iff (x := .fin n m e) rfl,
    FVal.isZero_iff (x := .fin n' m' e') rfl, FVal.neg, Bool.not_eq_true', and_assoc]

/-- The order is one way. -/
theorem totalLt_asymm {x y : FVal} (h : totalLt x y = true) : totalLt y x = false := by
  cases x with
  | nan q => simp [totalLt, ltVal, FVal.isZero] at h
  | inf n => cases y with
    | nan q => simp [totalLt, ltVal, FVal.isZero] at h
    | inf n' => cases n <;> cases n' <;> simp_all [totalLt, ltVal, FVal.isZero]
    | fin n' m' e' => cases n <;> simp_all [totalLt, ltVal, FVal.isZero]
  | fin n m e => cases y with
    | nan q => simp [totalLt, ltVal, FVal.isZero] at h
    | inf n' => cases n' <;> simp_all [totalLt, ltVal, FVal.isZero]
    | fin n' m' e' =>
      rw [← Bool.not_eq_true, totalLt_fin_iff]
      rw [totalLt_fin_iff] at h
      rintro (h' | ⟨h1, h2, h3, h4⟩)
      · rcases h with h | ⟨h1, h2, -⟩ <;> linarith
      · rcases h with h | ⟨-, -, h5, -⟩
        · linarith
        · simp [h4] at h5

/-- Two operands, neither below the other, leave the same bits. -/
theorem read_eq_of_totalLt {F : Fmt} {sub a b : ℕ} (ha : a < 2 ^ F.width) (hb : b < 2 ^ F.width)
    (hx : (operand F sub a).isNan = false) (hy : (operand F sub b).isNan = false)
    (hxy : totalLt (operand F sub a) (operand F sub b) = false) (hyx : totalLt (operand F sub b) (operand F sub a) = false) :
    (if (operand F sub a).isZero then F.sign (operand F sub a).neg else a) =
      if (operand F sub b).isZero then F.sign (operand F sub b).neg else b := by
  cases h : operand F sub a with
  | nan q => simp [h, FVal.isNan] at hx
  | inf n => cases h' : operand F sub b with
    | nan q => simp [h', FVal.isNan] at hy
    | inf n' =>
      obtain rfl : n = n' := by rw [h, h'] at hxy hyx; cases n <;> cases n' <;> simp_all [totalLt, ltVal]
      rw [code_of_unpack_inf ha (unpack_of_operand h rfl), code_of_unpack_inf hb (unpack_of_operand h' rfl)]
    | fin n' m' e' => rw [h, h'] at hxy hyx; cases n <;> simp_all [totalLt, ltVal]
  | fin n m e => cases h' : operand F sub b with
    | nan q => simp [h', FVal.isNan] at hy
    | inf n' => rw [h, h'] at hxy hyx; cases n' <;> simp_all [totalLt, ltVal]
    | fin n' m' e' =>
      rw [h, h'] at hxy hyx
      rw [← Bool.not_eq_true, totalLt_fin_iff, not_or, not_lt] at hxy hyx
      have hv : (FVal.fin n m e).rat = (FVal.fin n' m' e').rat := hyx.1.antisymm hxy.1
      by_cases h0 : (FVal.fin n m e).rat = 0
      · have h0' := hv ▸ h0
        rw [if_pos ((FVal.isZero_iff rfl).2 h0), if_pos ((FVal.isZero_iff rfl).2 h0')]
        have hn := hxy.2
        have hn' := hyx.2
        simp only [h0, h0', true_and, FVal.neg] at hn hn' ⊢
        cases n <;> cases n' <;> simp_all
      · have hz := mt (FVal.isZero_iff (x := .fin n m e) rfl).1 h0
        have hz' := mt (FVal.isZero_iff (x := .fin n' m' e') rfl).1 (hv ▸ h0)
        rw [if_neg hz, if_neg hz']
        have hs : n = n' := by
          have := (FVal.neg_iff (x := .fin n m e) rfl h0).symm.trans (hv ▸ FVal.neg_iff (x := .fin n' m' e') rfl (hv ▸ h0))
          exact Bool.eq_iff_iff.2 this
        subst hs
        rw [FVal.rat_fin, FVal.rat_fin] at hv
        exact eq_of_operand_eq ha hb h h' (by simpa [FVal.isZero] using hz) (mul_left_cancel₀ (by cases n <;> simp) hv)

theorem minMaxBits_eq {F : Fmt} {a b : ℕ} (ha : a < 2 ^ F.width) (hb : b < 2 ^ F.width) (sub : ℕ) (isMax : Bool) :
    minMaxBits F sub isMax a b = specMinMax F sub isMax a b := by
  simp only [minMaxBits, specMinMax, snanFlag, flagIf, List.any_cons, List.any_nil, Bool.or_false]
  split
  · rfl
  · next h =>
    obtain ⟨hx, hy⟩ := Bool.or_eq_false_iff.1 (Bool.not_eq_true _ ▸ h)
    have key := read_eq_of_totalLt ha hb hx hy
    rw [atMost_eq hx hy]
    cases isMax
    · cases h' : totalLt (operand F sub b) (operand F sub a) <;> simp
    · cases h' : totalLt (operand F sub b) (operand F sub a)
      · cases h'' : totalLt (operand F sub a) (operand F sub b)
        · simp [key h'' h']
        · simp
      · have : totalLt (operand F sub a) (operand F sub b) = false := totalLt_asymm h'
        simp [this]

/-! ## Integers (R16, R29) -/

theorem toSigned_eq {w : ℕ} (hw : w ≠ 0) (v : ℕ) : toSigned w v = (BitVec.ofNat w v).toInt := by
  rw [toSigned, BitVec.toInt_eq_toNat_cond, BitVec.toNat_ofNat]
  have : v % 2 ^ w < 2 ^ w / 2 ↔ 2 * (v % 2 ^ w) < 2 ^ w := by
    obtain ⟨n, rfl⟩ := Nat.exists_eq_succ_of_ne_zero hw
    rw [pow_succ, Nat.mul_div_cancel _ two_pos]
    omega
  simp only [this]
  split <;> simp
theorem ofSigned_eq (w : ℕ) (v : ℤ) : ofSigned w v = (BitVec.ofInt w v).toNat := by rw [ofSigned, BitVec.toNat_ofInt]

/-- The least and the greatest value of an integer format, as R29 writes them. -/
theorem intMin_eq (w : ℕ) (sg : Bool) : intMin w sg = if sg then -2 ^ (w - 1) else 0 := by simp [intMin]
theorem intMax_eq (w : ℕ) (sg : Bool) : intMax w sg = if sg then 2 ^ (w - 1) - 1 else 2 ^ w - 1 := by
  simp only [intMax, Nat.cast_sub Nat.one_le_two_pow]
  push_cast
  rfl

/-- A value into an integer format is one rounding to an integer and a saturation. -/
theorem toInt_eq (w : ℕ) (sg : Bool) (mode : ℕ) (v : FVal) : toInt w sg mode v = specToInt w sg mode v := by
  cases v with
  | nan q => rfl
  | inf n => simp only [toInt, specToInt, ofSigned_eq, intMin_eq, intMax_eq]
  | fin n m e =>
    obtain ⟨hr, hx⟩ := roundAt_eq (Ex.standsFor_val (x := (FVal.fin n m e).ex) rfl) (u := 0) (fun h => by cases h) mode
    rw [FVal.ex_val, zpow_zero, div_one] at hr
    rw [FVal.ex_val, zpow_zero, div_one, mul_one] at hx
    have hi : (if n then -((roundAt (FVal.fin n m e).ex 0 mode).1 : ℤ) else (roundAt (FVal.fin n m e).ex 0 mode).1) =
        roundInt mode (FVal.fin n m e).rat := hr
    have hf : flagIf (roundAt (FVal.fin n m e).ex 0 mode).2 fNX =
        if (roundInt mode (FVal.fin n m e).rat : ℚ) = (FVal.fin n m e).rat then 0 else fNX := by
      unfold flagIf
      split
      · next h => rw [if_neg (hx.1 h)]
      · next h => rw [if_pos (not_not.1 (mt hx.2 h))]
    simp only [toInt, specToInt, hi, hf, saturate, ofSigned_eq, intMin_eq, intMax_eq]
    split_ifs <;> simp_all

/-- A value into a format without E2M1's saturation. -/
theorem roundVal_eq {F : Fmt} (hk : F.kind ≠ .e2m1) (mode sub : ℕ) (v : FVal) : roundVal F mode sub v = specRound F mode sub v := by
  cases v with
  | nan q => rfl
  | fin n m e => rfl
  | inf n =>
    simp only [roundVal, specRound, roundInf]
    cases h : F.kind <;> simp_all

/-! ## The statements -/

theorem scalarFmt_eq {x : FArgs} {F : Fmt} (h : fmtOf x.f.toNat = some F) : scalarFmt x = F := by rw [scalarFmt, h, Option.getD_some]
theorem fpBits_lt (F : Fmt) (w : Word) : fpBits F w < 2 ^ F.width := Nat.mod_lt _ (by positivity)

/-- A comparison that is false of a NaN, with NV for a signalling one or for any (R171). -/
theorem fpCompare_eq {r : FVal → FVal → Bool} (hr : ∀ x y : FVal, x.isNan = true ∨ y.isNan = true → r x y = false) (quiet : Bool)
    (x y : FVal) : fpCompare quiet r x y =
      (if !x.isNan && !y.isNan && r x y then 1 else 0,
        flagIf (if quiet then x.isNan || y.isNan else x.isSnan || y.isSnan) fNV) := by
  have snan : ∀ x : FVal, x.isNan = false → x.isSnan = false := by intro x h; cases x <;> simp_all [FVal.isNan, FVal.isSnan]
  have value : (r x y).toNat = if !x.isNan && !y.isNan && r x y then 1 else 0 := by
    cases h : r x y with
    | false => simp
    | true =>
      have hn : ¬ (x.isNan = true ∨ y.isNan = true) := fun hn => by simp [hr x y hn] at h
      simp only [not_or, Bool.not_eq_true] at hn
      simp [hn]
  have flags : snanFlag [x, y] ||| flagIf (quiet && (x.isNan || y.isNan)) fNV =
      flagIf (if quiet then x.isNan || y.isNan else x.isSnan || y.isSnan) fNV := by
    have hx := snan x
    have hy := snan y
    cases quiet <;> cases h : x.isNan <;> cases h' : y.isNan <;> simp_all [snanFlag, flagIf] <;> split <;> rfl
  rw [fpCompare, value, flags]

theorem ltVal_nan (x y : FVal) (h : x.isNan = true ∨ y.isNan = true) : ltVal x y = false := by
  cases x <;> cases y <;> simp_all [FVal.isNan, ltVal]
theorem eqVal_nan (x y : FVal) (h : x.isNan = true ∨ y.isNan = true) : eqVal x y = false := by
  rcases h with h | h <;> simp [eqVal, h]
theorem leVal_nan (x y : FVal) (h : x.isNan = true ∨ y.isNan = true) : leVal x y = false := by
  rw [leVal, ltVal_nan x y h, eqVal_nan x y h]; rfl

/-- Each operation of R170 and R171. -/
theorem floatForms_exec {p : (FArgs → Instr) × (Fmt → Nat → Nat → FVal → FVal → FVal → Nat × Flags)} (hp : p ∈ floatForms)
    (x : FArgs) {s : State} {F : Fmt} (ha : s.agent) (hF : fmtOf x.f.toNat = some F) :
    exec (p.1 x) s = .next (s.completes (s.me.floats x.d (p.2 F s.me.frm s.me.fsub (s.me.fpArg F x.a) (s.me.fpArg F x.b)
      (s.me.fpArg F x.c))) (s.me.pc + 8)) := by
  have form : ∀ (i : FArgs → Instr) (v : Hart → Nat × Flags), exec (i x) s = fpForm x s v →
      exec (i x) s = .next (s.completes (s.me.floats x.d (v s.me)) (s.me.pc + 8)) := fun i v h => h.trans (fpForm_eq x v ha)
  have hf := scalarFmt_eq hF
  simp only [floatForms, List.mem_cons, List.not_mem_nil, or_false] at hp
  rcases hp with rfl | rfl | rfl | rfl | rfl | rfl | rfl | rfl | rfl | rfl
  · rw [form .fadd _ rfl, hf]
  · rw [form .fsub _ rfl, hf]
  · rw [form .fmul _ rfl, hf]
  · rw [form .fdiv _ rfl, hf]
  · rw [form .fsqrt _ rfl, hf]
  · rw [form .fmadd _ rfl, hf]
  · rw [form .fmsub _ rfl, hf]
  · rw [form .feq _ rfl, hf, fpCompare_eq eqVal_nan]; rfl
  · rw [form .flt _ rfl, hf, fpCompare_eq ltVal_nan]; rfl
  · rw [form .fle _ rfl, hf, fpCompare_eq leVal_nan]; rfl

/-- The operand of FCVT (R172). -/
def cvtFrom (h : Hart) (src : ℕ) (a : Word) : FVal :=
  match src with
  | 4 => specOfInt (BitVec.ofNat 32 a.toNat).toInt
  | 5 => specOfInt (a.toNat % 2 ^ 32 : ℕ)
  | 6 => specOfInt a.toInt
  | 7 => specOfInt a.toNat
  | _ => match fmtOf src with | some G => operand G h.fsub (a.toNat % 2 ^ G.width) | none => .nan false

/-- The result of FCVT from its operand (R172). -/
def cvtTo (h : Hart) (dst : ℕ) (v : FVal) : ℕ × Flags :=
  match dst with
  | 4 => let r := specToInt 32 true h.frm v; ((BitVec.ofNat 32 r.1).signExtend 64 |>.toNat, r.2)
  | 5 => specToInt 32 false h.frm v
  | 6 => specToInt 64 true h.frm v
  | 7 => specToInt 64 false h.frm v
  | _ => match fmtOf dst with | some F => specRound F h.frm h.fsub v | none => (0, 0)

theorem specFcvt_eq (h : Hart) (dst src : ℕ) (a : Word) : specFcvt h dst src a = cvtTo h dst (cvtFrom h src a) := rfl

/-- A code of FCVT is that of an integer of 32 or 64 bits, or of a format of scalar arithmetic. -/
theorem cvtCode {c : ℕ} (hc : c ∈ [4, 5, 6, 7, 10, 11, 12, 13]) :
    (c < 10 ∧ fmtOf c = none ∧ ∃ w sg, intOf c = some (w, sg) ∧
      (∀ h a, cvtFrom h c a = ofInt (intVal w sg a.toNat)) ∧
      ∀ h v, cvtTo h c v = (cvtExtend c (toInt w sg h.frm v).1, (toInt w sg h.frm v).2)) ∨
    ∃ F, fmtOf c = some F ∧ F.kind = .ieee ∧ (∀ h a, cvtFrom h c a = operand F h.fsub (fpBits F a)) ∧
      ∀ h v, cvtTo h c v = roundVal F h.frm h.fsub v := by
  have wrap : ∀ a : Word, (a.toNat % 2 ^ 64 : ℕ) = a.toNat := fun a => Nat.mod_eq_of_lt a.isLt
  simp only [List.mem_cons, List.not_mem_nil, or_false] at hc
  rcases hc with rfl | rfl | rfl | rfl | rfl | rfl | rfl | rfl
  · refine .inl ⟨by decide, rfl, 32, true, rfl, fun h a => ?_, fun h v => ?_⟩
    · rw [intVal, if_pos rfl, toSigned_eq (by decide)]; rfl
    · rw [toInt_eq, cvtExtend, if_pos rfl, sext64, word, BitVec.setWidth_ofNat_of_le (by decide)]; rfl
  · exact .inl ⟨by decide, rfl, 32, false, rfl, fun h a => rfl, fun h v => toInt_eq 32 false h.frm v ▸ rfl⟩
  · refine .inl ⟨by decide, rfl, 64, true, rfl, fun h a => ?_, fun h v => toInt_eq 64 true h.frm v ▸ rfl⟩
    rw [intVal, if_pos rfl, toSigned_eq (by decide), BitVec.ofNat_toNat, BitVec.setWidth_eq]; rfl
  · refine .inl ⟨by decide, rfl, 64, false, rfl, fun h a => ?_, fun h v => toInt_eq 64 false h.frm v ▸ rfl⟩
    rw [intVal, if_neg (by decide), wrap]; rfl
  · exact .inr ⟨fp16, rfl, rfl, fun h a => rfl, fun h v => (roundVal_eq (by decide) _ _ v).symm⟩
  · exact .inr ⟨bf16, rfl, rfl, fun h a => rfl, fun h v => (roundVal_eq (by decide) _ _ v).symm⟩
  · exact .inr ⟨fp32, rfl, rfl, fun h a => rfl, fun h v => (roundVal_eq (by decide) _ _ v).symm⟩
  · exact .inr ⟨fp64, rfl, rfl, fun h a => rfl, fun h v => (roundVal_eq (by decide) _ _ v).symm⟩

/-- FCVT is the conversion of R172. -/
theorem fcvtVal_eq (h : Hart) {f c : ℕ} (hf : f ∈ [4, 5, 6, 7, 10, 11, 12, 13]) (hc : c ∈ [4, 5, 6, 7, 10, 11, 12, 13])
    (hfc : 10 ≤ f ∨ 10 ≤ c) (a : Word) : fcvtVal h f c a = specFcvt h f c a := by
  rw [specFcvt_eq, fcvtVal]
  rcases cvtCode hf with ⟨f10, fn, w, sg, fi, -, into⟩ | ⟨F, fF, -, -, into⟩ <;>
    rcases cvtCode hc with ⟨c10, cn, w', sg', ci, fr, -⟩ | ⟨S, cS, -, fr, -⟩
  · omega
  · rw [fn, cS, fi, into, fr]
  · rw [fF, cn, ci, into, fr]
  · rw [fF, cS, into, fr]

end Sys2Proof.Machine

namespace Sys2Proof.ScalarFloat

/-- Settles O8, form by form. -/
theorem floatForms : Obligations.FloatForms := by
  unfold Obligations.FloatForms
  refine ⟨fun p hp x s F ha hF => floatForms_exec hp x ha hF, fun x s F ha hF => ?_, fun x s ha hf hc hfc => ?_⟩
  · have form : ∀ (i : FArgs → Instr) (v : Hart → ℕ × Flags), exec (i x) s = fpForm x s v →
        exec (i x) s = .next (s.completes (s.me.floats x.d (v s.me)) (s.me.pc + 8)) := fun i v h => h.trans (fpForm_eq x v ha)
    have hF := scalarFmt_eq hF
    refine ⟨?_, ?_, ?_⟩
    · rw [form .fmin _ rfl, hF, minMaxBits_eq (fpBits_lt F _) (fpBits_lt F _)]
    · rw [form .fmax _ rfl, hF, minMaxBits_eq (fpBits_lt F _) (fpBits_lt F _)]
    · rw [form .fclass _ rfl, hF, classBits_eq]
  · exact (fpForm_eq x _ ha).trans (by rw [fcvtVal_eq _ hf hc hfc])

end Sys2Proof.ScalarFloat
end

section
/-! How a register-only vector instruction completes, and what writing elements leaves (R45, R46, R165, R193, R197, R199;
Machine/VecCore.lean). -/

open Sys2Proof Sys2Proof.Machine

namespace Sys2Proof.Machine

/-! ## Completing -/

/-- What a register-only meaning may change of its hart: g, vector and mask registers, fcsr and vstat. -/
def Hart.keeps (h h' : Hart) : Prop :=
  h' = { h with g := h'.g, fcsr := h'.fcsr, vstat := h'.vstat, vec := { h.vec with v := h'.vec.v, m := h'.vec.m } }

/-- The entry that a vector instruction makes. -/
def State.vecEntry (s : State) (i : Instr) (x : VArgs) : QEntry := entryOf i x.a x.b x.c x.d s.me s.ir

/-- The hart on which its meaning runs. -/
def State.vecIssued (s : State) (i : Instr) (x : VArgs) : Hart := s.me.push (s.vecEntry i x)

/-- A meaning that changes registers alone, and whose checks pass, completes. -/
theorem vecAnswers_pure {s : State} (hs : s.vecReady) {i : Instr} {x : VArgs} (hi : exec i s = vecIssue i x.a x.b x.c x.d s)
    {ok : Bool} {f : Hart → Hart} (hr : ∀ h t, runEntry s.cur (s.vecEntry i x) h t = pureV (s.vecEntry i x) h t ok f) (hok : ok = true)
    (hk : (s.vecIssued i x).keeps (f (s.vecIssued i x))) {P : Hart → Prop} (hP : P ((f (s.vecIssued i x)).popEntry [])) :
    s.vecAnswers i P := by
  obtain ⟨-, hq, -, -, hv, hw, -⟩ := id hs
  have mx : s.me.mx.queue = [] := by
    rcases assocGet_default_or_mem (Hart.free) s.harts s.cur with h | h
    · exact (congrArg (fun h => h.mx.queue) h).trans rfl
    · exact hq.2.2.1 _ h
  unfold Hart.keeps at hk
  refine ⟨_, ?_, ?_, hP⟩
  · rw [hi]
    refine vecIssue_pure hs (h1 := f (s.vecIssued i x)) ?_ ?_ ?_ ?_ ?_ ?_ ?_
    · refine (hr ..).trans ?_
      subst hok
      rfl
    all_goals rw [hk]
    · exact mx
    · rfl
    · rfl
    · rfl
    · exact hw
    · exact fun h => h
  · unfold Hart.passes
    rw [hk]
    simp only [Hart.popEntry, Hart.updVec, State.vecIssued, Hart.push, hv]

/-! ## Registers -/

section
variable (h : Hart)

theorem Hart.vreg_setVReg_same (r n v : ℕ) : (h.setVReg r n v).vreg r = ⟨n, v % 2 ^ n⟩ := assocGet_put_same
theorem Hart.vreg_setVReg_ne {r r' : ℕ} (n v : ℕ) (hr : r' ≠ r) : (h.setVReg r n v).vreg r' = h.vreg r' := assocGet_put_ne hr
@[simp] theorem Hart.setVReg_m (r n v : ℕ) : (h.setVReg r n v).vec.m = h.vec.m := rfl
theorem Hart.keeps_setVReg (r n v : ℕ) : h.keeps (h.setVReg r n v) := rfl

/-- Flags accrue into fcsr alone. -/
theorem Hart.foldl_accrue {α : Type} (l : List α) (fl : α → Flags) :
    l.foldl (fun (h : Hart) a => h.accrue (fl a)) h = { h with fcsr := l.foldl (fun c a => c ||| (fl a).setWidth 64) h.fcsr } := by
  induction l generalizing h with
  | nil => rfl
  | cons a l ih => rw [List.foldl_cons, ih]; rfl

/-- Flags and clamps accrue into fcsr and vstat alone. -/
theorem Hart.accrueAll_eq (rs : List ERes) : h.accrueAll rs =
    { h with fcsr := rs.foldl (fun c r => c ||| r.fl.setWidth 64) h.fcsr,
             vstat := if rs.any (·.sat) then h.vstat ||| 1 else h.vstat } := by
  have sat : setBits h.vstat 0 0 1 = h.vstat ||| 1 := by
    change h.vstat &&& ~~~(1#64) ||| 1#64 &&& 1#64 = h.vstat ||| 1#64
    rw [BitVec.and_self]
    ext i hi
    rw [BitVec.getElem_or, BitVec.getElem_or, BitVec.getElem_and, BitVec.getElem_not]
    cases (1#64)[i] <;> simp
  rw [Hart.accrueAll, Hart.foldl_accrue, Hart.setSat]
  split
  · rw [← sat]
  · rfl

end

/-! ## Elements (R45) -/

theorem packElems_lt (w : ℕ) (l : List ℕ) : packElems w l < 2 ^ (l.length * w) := by
  induction l with
  | nil => simp [packElems]
  | cons x l ih =>
    have := Nat.mod_lt x (show 0 < 2 ^ w by positivity)
    rw [packElems, List.length_cons, Nat.succ_mul, pow_add]
    calc x % 2 ^ w + packElems w l * 2 ^ w < (packElems w l + 1) * 2 ^ w := by rw [Nat.succ_mul]; omega
      _ ≤ 2 ^ (l.length * w) * 2 ^ w := Nat.mul_le_mul_right _ ih

/-- An element of joined elements. -/
theorem elem_packElems (w : ℕ) {l : List ℕ} {e : ℕ} (he : e < l.length) : elem (packElems w l) w e = l[e] % 2 ^ w := by
  have hp : 0 < 2 ^ w := by positivity
  induction l generalizing e with
  | nil => exact absurd he (Nat.not_lt_zero _)
  | cons x l ih =>
    cases e with
    | zero =>
      rw [elem, slice, zero_mul, pow_zero, Nat.div_one, packElems, Nat.add_mul_mod_self_right, Nat.mod_mod]
      rfl
    | succ e =>
      rw [elem, slice, Nat.succ_mul, add_comm, pow_add, ← Nat.div_div_eq_div_mul, packElems, Nat.add_mul_div_right _ _ hp,
        Nat.div_eq_of_lt (Nat.mod_lt _ hp), zero_add]
      exact ih (Nat.lt_of_succ_lt_succ he)

theorem elem_lt (v w e : ℕ) : elem v w e < 2 ^ w := Nat.mod_lt _ (by positivity)
theorem Hart.el_lt (h : Hart) (r : Reg) (w e : ℕ) : h.el r w e < 2 ^ w := elem_lt _ _ _

/-- What accrues over elements, of which some are passed by, accrues over the others. -/
theorem foldl_filter_map {α β γ : Type} (l : List α) (p : α → Bool) (f g : α → β) (op : γ → β → γ) (hg : ∀ c a, op c (g a) = c)
    (c : γ) : (l.map fun a => if p a then f a else g a).foldl op c = (l.filter p).foldl (fun c a => op c (f a)) c := by
  induction l generalizing c with
  | nil => rfl
  | cons a l ih =>
    simp only [List.map_cons, List.foldl_cons, List.filter_cons]
    cases h : p a
    · simpa [hg] using ih c
    · simpa using ih (op c (f a))

section
variable (h : Hart) (q : QEntry) (me : Bool) (m : BitVec 4) (d : Reg) (w n : ℕ) (f : ℕ → ERes)

theorem Hart.keeps_writeElems : h.keeps (h.writeElems q me m d w n f) := by
  unfold Hart.writeElems
  simp only [Hart.accrueAll_eq]
  rfl

/-- Writing elements has the effect of R193, R197 and R199. -/
theorem Hart.elementwise_writeElems (hq : q.vstart = h.vec.vstart) :
    h.elementwise (((h.push q).writeElems q me m d w n f).popEntry []) me m d w n f := by
  have acts : ∀ e, (decide (q.vstart ≤ e) && (h.push q).active me m e) = h.acts me m e := fun e => by rw [hq]; rfl
  unfold Hart.writeElems
  simp only [acts, Hart.accrueAll_eq]
  generalize hrs : ((List.range n).map fun e => if h.acts me m e then f e else ERes.of (elem ((h.push q).vbits d) w e)) = rs
  have len : (rs.map ERes.val).length = n := by simp [← hrs]
  have bits : packElems w (rs.map ERes.val) < 2 ^ (n * w) := by
    have := packElems_lt w (rs.map ERes.val)
    rwa [len] at this
  have reg := (h.push q).vreg_setVReg_same d.toNat (n * w) (packElems w (rs.map ERes.val))
  rw [Nat.mod_eq_of_lt bits] at reg
  have any : (rs.any (·.sat)) = ((List.range n).filter (h.acts me m)).any fun e => (f e).sat := by
    rw [← hrs, List.any_map, List.any_filter]
    refine List.any_congr rfl fun e => ?_
    simp only [Function.comp]
    cases h.acts me m e <;> rfl
  refine ⟨congrArg VReg.fill reg, (congrArg VReg.bits reg).trans_lt bits, fun e he => ?_, fun r hr => ?_, rfl, rfl, ?_, ?_⟩
  · refine (congrArg (fun v => elem v w e) (congrArg VReg.bits reg)).trans ?_
    rw [elem_packElems w (by rwa [len])]
    simp only [← hrs, List.getElem_map, List.getElem_range]
    split
    · rfl
    · exact Nat.mod_eq_of_lt (elem_lt _ _ _)
  · exact Hart.vreg_setVReg_ne (h.push q) _ _ hr
  · rw [← hrs]
    exact foldl_filter_map _ _ _ _ (fun c (r : ERes) => c ||| r.fl.setWidth 64) (fun c e => by simp [ERes.of]) _
  · rw [← any]
    rfl

end

/-- An instruction that writes elements completes so. -/
theorem vecAnswers_elements {s : State} (hs : s.vecReady) {i : Instr} {x : VArgs} (hi : exec i s = vecIssue i x.a x.b x.c x.d s)
    {ok me : Bool} {m : BitVec 4} {d : Reg} {w n : ℕ} {g : Hart → ℕ → ERes}
    (hr : ∀ h t, runEntry s.cur (s.vecEntry i x) h t =
      pureV (s.vecEntry i x) h t ok fun h => h.writeElems (s.vecEntry i x) me m d w n (g h)) (hok : ok = true)
    {f : ℕ → ERes} (hf : ∀ e, g (s.vecIssued i x) e = f e) :
    s.vecAnswers i fun h' => s.me.elementwise h' me m d w n f := by
  refine vecAnswers_pure hs hi hr hok (Hart.keeps_writeElems ..) ?_
  rw [show g (s.vecIssued i x) = f from funext hf]
  exact s.me.elementwise_writeElems (s.vecEntry i x) me m d w n f rfl

/-! ## Checks -/

/-- The registers of a d, a, b form lie below N. -/
theorem regsOk_dab (s : State) (i : Instr) (x : VArgs) :
    (s.vecEntry i x).regsOk (vregsDAB x) = (s.me.has [x.d, x.a] && (x.s || s.me.has [x.b])) := by
  rw [show (s.vecEntry i x).regsOk (vregsDAB x) = s.me.has (vregsDAB x) from rfl]
  cases h : x.s <;> simp [vregsDAB, Hart.has, h, Bool.and_assoc]
theorem regsOk_has (s : State) (i : Instr) (x : VArgs) (rs : List Reg) : (s.vecEntry i x).regsOk rs = s.me.has rs := rfl
theorem regsOk_cons (q : QEntry) (r : Reg) (rs : List Reg) : q.regsOk (r :: rs) = (q.regsOk [r] && q.regsOk rs) := by
  simp [QEntry.regsOk]

end Sys2Proof.Machine
end

section
/-! The vector floating-point instructions write the results of their rows (R207, R208; Machine/VecFloat.lean): O33, first part. -/

open Sys2Proof Sys2Proof.Machine

namespace Sys2Proof.Machine

theorem checked_pureV (q : QEntry) (h : Hart) (s : State) (a b : Bool) (f : Hart → Hart) :
    checked q h s a (pureV q h s b f) = pureV q h s (a && b) f := by cases a <;> rfl

/-- The width of an element in a floating-point format. -/
theorem width_of_fmtOf {ef : ℕ} {F : Fmt} (h : fmtOf ef = some F) : F.width = efWidth ef := by
  unfold fmtOf at h
  split at h <;> cases h <;> rfl

/-- An operand b is an element. -/
theorem Hart.opOf_lt (h : Hart) (x : VArgs) (e : ℕ) : h.opOf x e < 2 ^ h.w := by
  unfold Hart.opOf
  split
  · exact Nat.mod_lt _ (by positivity)
  · exact h.el_lt ..

/-- The format of the functions of fp32 alone is one of vector arithmetic. -/
theorem isFp_of_ef {ef : ℕ} (h : (ef == 12) = true) : (decide (10 ≤ ef) && decide (ef ≤ 13)) = true := by
  rw [beq_iff_eq] at h
  rw [h]; rfl

section
variable {s : State} (hs : s.vecReady) {x : VArgs} {F : Fmt} (hF : fmtOf s.me.ef = some F)

/-- What each floating-point instruction is to leave (R207). -/
def State.floatAnswers (s : State) (x : VArgs) (F : Fmt) (i : Instr) (f : Fmt → ℕ → ℕ → ℕ → ℕ → ℕ → ℕ × Flags) : Prop :=
  s.vecAnswers i fun h' => s.me.elementwise h' x.me x.m x.d s.me.w s.me.count fun e =>
    let r := f F (vtRM s.me.vtype) (vtSUB s.me.vtype) (s.me.el x.a s.me.w e) (s.me.opOf x e) (s.me.el x.c s.me.w e)
    ⟨r.1, r.2, false⟩

include hs hF

theorem vfp2_answers {i : Instr} {f : Fmt → ℕ → ℕ → FVal → FVal → ℕ × Flags} (hi : exec i s = vecIssue i x.a x.b x.c x.d s)
    (hr : ∀ h t, runEntry s.cur (s.vecEntry i x) h t = vfp2 x (s.vecEntry i x) h t f)
    (hok : ((decide (10 ≤ s.me.ef) && decide (s.me.ef ≤ 13)) && s.me.has [x.d, x.a] && (x.s || s.me.has [x.b])) = true) :
    s.floatAnswers x F i (onVals fun F rm sub a b _ => f F rm sub a b) := by
  obtain rfl : F = (fmtOf s.me.ef).getD fp32 := by rw [hF]; rfl
  exact vecAnswers_elements hs hi hr (by rw [regsOk_dab, ← Bool.and_assoc]; exact hok) fun e => rfl

theorem vfp1_answers {i : Instr} {f : Fmt → ℕ → ℕ → FVal → ℕ × Flags} (hi : exec i s = vecIssue i x.a x.b x.c x.d s)
    (hr : ∀ h t, runEntry s.cur (s.vecEntry i x) h t = vfp1 x (s.vecEntry i x) h t f)
    (hok : ((decide (10 ≤ s.me.ef) && decide (s.me.ef ≤ 13)) && s.me.has [x.d, x.a]) = true) :
    s.floatAnswers x F i (onVals fun F rm sub a _ _ => f F rm sub a) := by
  obtain rfl : F = (fmtOf s.me.ef).getD fp32 := by rw [hF]; rfl
  exact vecAnswers_elements hs hi hr hok fun e => rfl

theorem vfp3_answers {i : Instr} {nx nz : Bool} (hi : exec i s = vecIssue i x.a x.b x.c x.d s)
    (hr : ∀ h t, runEntry s.cur (s.vecEntry i x) h t = vfp3 x (s.vecEntry i x) h t nx nz)
    (hok : ((decide (10 ≤ s.me.ef) && decide (s.me.ef ≤ 13)) && s.me.has [x.d, x.a, x.c] && (x.s || s.me.has [x.b])) = true) :
    s.floatAnswers x F i
      (onVals fun F rm sub a b c => fmaVal F rm sub (if nx then a.negate else a) b (if nz then c.negate else c)) := by
  obtain rfl : F = (fmtOf s.me.ef).getD fp32 := by rw [hF]; rfl
  refine vecAnswers_elements hs hi hr ?_ fun e => rfl
  rw [regsOk_cons, regsOk_dab, regsOk_has, ← hok, show (s.vecEntry i x).isFp = (decide (10 ≤ s.me.ef) && decide (s.me.ef ≤ 13)) from rfl]
  simp only [Hart.has, List.all_cons, List.all_nil, Bool.and_true]
  ac_rfl

theorem vfpMinMax_answers {i : Instr} {isMax : Bool} (hi : exec i s = vecIssue i x.a x.b x.c x.d s)
    (hr : ∀ h t, runEntry s.cur (s.vecEntry i x) h t = vfpMinMax x (s.vecEntry i x) h t isMax)
    (hok : ((decide (10 ≤ s.me.ef) && decide (s.me.ef ≤ 13)) && s.me.has [x.d, x.a] && (x.s || s.me.has [x.b])) = true) :
    s.floatAnswers x F i (fun F _ sub a b _ => specMinMax F sub isMax a b) := by
  have hw := width_of_fmtOf hF
  obtain rfl : F = (fmtOf s.me.ef).getD fp32 := by rw [hF]; rfl
  refine vecAnswers_elements hs hi hr (by rw [regsOk_dab, ← Bool.and_assoc]; exact hok) fun e => ?_
  exact congrArg ERes.fp (minMaxBits_eq (hw ▸ s.me.el_lt ..) (hw ▸ s.me.opOf_lt ..) _ _)

/-- The functions of fp32 alone. -/
theorem vfp32_answers {i : Instr} {f : Fmt → ℕ → ℕ → FVal → ℕ × Flags} (hi : exec i s = vecIssue i x.a x.b x.c x.d s)
    (hr : ∀ h t, runEntry s.cur (s.vecEntry i x) h t = vfp32 x (s.vecEntry i x) h t f)
    (hok : (s.me.ef == 12 && s.me.has [x.d, x.a]) = true) : s.floatAnswers x F i (onVals fun F rm sub a _ _ => f F rm sub a) := by
  obtain rfl : F = (fmtOf s.me.ef).getD fp32 := by rw [hF]; rfl
  obtain ⟨hef, hreg⟩ := Bool.and_eq_true_iff.1 hok
  refine vecAnswers_elements hs hi (fun h t => (hr h t).trans (checked_pureV ..)) ?_ fun e => rfl
  rw [show ((s.vecEntry i x).ef == 12) = true from hef, show (s.vecEntry i x).isFp = true from isFp_of_ef hef, regsOk_has, hreg]
  rfl
theorem vrsqe_answers (hl : s.me.legal (.vrsqe x) = true) :
    s.floatAnswers x F (.vrsqe x) (onVals fun F rm sub a b _ => rsqeVal F rm sub a b) := by
  obtain rfl : F = (fmtOf s.me.ef).getD fp32 := by rw [hF]; rfl
  have hok : (s.me.ef == 12 && s.me.has [x.d, x.a] && (x.s || s.me.has [x.b])) = true := hl
  rw [Bool.and_assoc, Bool.and_eq_true_iff] at hok
  obtain ⟨hef, hreg⟩ := hok
  have hr : ∀ h t, runEntry s.cur (s.vecEntry (.vrsqe x) x) h t =
      checked (s.vecEntry (.vrsqe x) x) h t ((s.vecEntry (.vrsqe x) x).ef == 12) (vfp2 x (s.vecEntry (.vrsqe x) x) h t rsqeVal) :=
    fun h t => rfl
  refine vecAnswers_elements hs (i := .vrsqe x) (x := x) rfl (fun h t => (hr h t).trans (checked_pureV ..)) ?_ fun e => rfl
  rw [show ((s.vecEntry (.vrsqe x) x).ef == 12) = true from hef, show (s.vecEntry (.vrsqe x) x).isFp = true from isFp_of_ef hef,
    regsOk_dab, hreg]
  rfl

/-- Each floating-point instruction writes the result of its row. -/
theorem vecFloats_answers {v : VFloat} (hv : v ∈ vecFloats) (hl : s.me.legal (v.ctor x) = true) :
    s.floatAnswers x F (v.ctor x) v.f := by
  simp only [vecFloats, List.mem_cons, List.not_mem_nil, or_false] at hv
  rcases hv with rfl | rfl | rfl | rfl | rfl | rfl | rfl | rfl | rfl | rfl | rfl | rfl | rfl | rfl | rfl
  · exact vfp2_answers hs hF rfl (fun _ _ => rfl) hl
  · exact vfp2_answers hs hF rfl (fun _ _ => rfl) hl
  · exact vfp2_answers hs hF rfl (fun _ _ => rfl) hl
  · exact vfp2_answers hs hF rfl (fun _ _ => rfl) hl
  · exact vfp1_answers hs hF rfl (fun _ _ => rfl) hl
  · exact vfpMinMax_answers hs hF rfl (fun _ _ => rfl) hl
  · exact vfpMinMax_answers hs hF rfl (fun _ _ => rfl) hl
  · exact vfp3_answers (nx := false) (nz := false) hs hF rfl (fun _ _ => rfl) hl
  · exact vfp3_answers (nx := false) (nz := true) hs hF rfl (fun _ _ => rfl) hl
  · exact vfp3_answers (nx := true) (nz := false) hs hF rfl (fun _ _ => rfl) hl
  · exact vfp1_answers hs hF rfl (fun _ _ => rfl) hl
  · exact vfp1_answers hs hF rfl (fun _ _ => rfl) hl
  · exact vfp32_answers hs hF rfl (fun _ _ => rfl) hl
  · exact vfp32_answers hs hF rfl (fun _ _ => rfl) hl
  · exact vrsqe_answers hs hF hl

end

end Sys2Proof.Machine
end

section
/-! VFEXP2 and VFLOG2 (R208; Machine/VecFloat.lean): special and exact cases, and the inexact flag. -/

open Sys2Proof Sys2Proof.Machine

namespace Sys2Proof.Machine

/-! ## A sticky operand is inexact -/

theorem roundAt_sticky {x : Ex} (h : x.sticky = true) (u : ℤ) (mode : ℕ) : (roundAt x u mode).2 = true := by
  unfold roundAt
  split
  · exact h
  · simp [h]

theorem roundFin_sticky {F : Fmt} {x : Ex} (h : x.sticky = true) (mode sub : ℕ) :
    (roundFin F mode sub x).2.getLsbD 0 = true := by
  unfold roundFin
  rw [if_neg (by simp [h])]
  simp only [roundAt_sticky h, flagIf, if_true]
  have past : (fOF ||| fNX).getLsbD 0 = true := by decide
  have under : (fUF ||| fNX).getLsbD 0 = true := by decide
  split_ifs
  · exact past
  · exact under
  · exact under
  · exact (by decide : fNX.getLsbD 0 = true)

/-! ## Values beyond every format -/

theorem fp32_maxM : fp32.maxM = 2 ^ 24 - 1 := by simp [Fmt.maxM, fp32]
theorem fp32_maxE : fp32.maxE = 104 := by simp [Fmt.maxE, fp32]
theorem fp32_emin : fp32.emin = -149 := rfl
theorem fp32_fbits : fp32.fbits = 23 := rfl

theorem roundAt_one_at (k : ℤ) (st : Bool) (mode : ℕ) :
    2 ^ 23 ≤ (roundAt ⟨false, 1, k, st⟩ (k - 23) mode).1 ∧ (roundAt ⟨false, 1, k, st⟩ (k - 23) mode).1 ≤ 2 ^ 23 + 1 := by
  unfold roundAt
  rw [if_pos (by simp)]
  have : shl 1 (k - (k - 23)) = 2 ^ 23 := by rw [sub_sub_cancel]; rfl
  simp only [this]
  split <;> omega

/-- A power of two of 2^128 or above, and what lies beyond it up to the next, overflows. -/
theorem roundFin_huge {k : ℤ} (hk : 128 ≤ k) (st : Bool) (mode sub : ℕ) :
    roundFin fp32 mode sub ⟨false, 1, k, st⟩ = (overflow fp32 mode false, fOF ||| fNX) := by
  obtain ⟨lo, -⟩ := roundAt_one_at k st mode
  unfold roundFin
  rw [if_neg (by simp)]
  simp only [show Nat.log2 1 = 0 from rfl, Nat.cast_zero, add_zero, show (fp32.fbits : ℤ) = 23 from rfl]
  rw [if_pos]
  rw [gtMag_iff]
  have h1 : (2 : ℚ) ^ (105 : ℤ) ≤ 2 ^ (k - 23) := zpow_le_zpow_right₀ one_le_two (by omega)
  have h2 : ((2 ^ 23 : ℕ) : ℚ) ≤ (roundAt ⟨false, 1, k, st⟩ (k - 23) mode).1 := by exact_mod_cast lo
  calc (fp32.maxM : ℚ) * 2 ^ fp32.maxE = (2 ^ 24 - 1) * 2 ^ (104 : ℤ) := by
        rw [fp32_maxM, fp32_maxE]; norm_num
    _ < (2 ^ 23 : ℕ) * 2 ^ (105 : ℤ) := by norm_num
    _ ≤ _ := by gcongr

/-- A power of two below 2^-150, and what lies beyond it up to the next, rounds to zero or to the least value, or is flushed. -/
theorem roundFin_minute {k : ℤ} (hk : k < -150) (st : Bool) (mode sub : ℕ) :
    roundFin fp32 mode sub ⟨false, 1, k, st⟩ =
      if sub = 0 then (pack fp32 false (if mode = 3 then 1 else 0) fp32.emin, fUF ||| fNX) else (fp32.sign false, fUF ||| fNX) := by
  obtain ⟨-, hi⟩ := roundAt_one_at k st mode
  have small : ((roundAt ⟨false, 1, k, st⟩ (k - 23) mode).1 : ℚ) * 2 ^ (k - 23) < 2 ^ (-126 : ℤ) := by
    have h1 : (2 : ℚ) ^ (k - 23) ≤ 2 ^ (-174 : ℤ) := zpow_le_zpow_right₀ one_le_two (by omega)
    have h2 : ((roundAt ⟨false, 1, k, st⟩ (k - 23) mode).1 : ℚ) ≤ (2 ^ 23 + 1 : ℕ) := by exact_mod_cast hi
    calc _ ≤ ((2 ^ 23 + 1 : ℕ) : ℚ) * 2 ^ (-174 : ℤ) := by gcongr
      _ < _ := by norm_num
  have grid : roundAt ⟨false, 1, k, st⟩ fp32.emin mode = (if mode = 3 then 1 else 0, true) := by
    unfold roundAt
    rw [if_neg (by simp only [fp32_emin]; omega)]
    obtain ⟨j, hj⟩ : ∃ j, (fp32.emin - k).toNat = j + 2 := ⟨(fp32.emin - k).toNat - 2, by simp only [fp32_emin]; omega⟩
    have big : 1 < 2 ^ (j + 1) := Nat.one_lt_two_pow (by omega)
    have big' : 1 < 2 ^ (j + 2) := Nat.one_lt_two_pow (by omega)
    simp only [hj, Nat.div_eq_of_lt big', Nat.mod_eq_of_lt big']
    rw [show j + 2 - 1 = j + 1 from rfl]
    match mode with
    | 0 => simp [big.ne]
    | 1 | 2 | 3 => simp
    | n + 4 => simp [big.not_ge]
  unfold roundFin
  rw [if_neg (by simp)]
  simp only [show Nat.log2 1 = 0 from rfl, Nat.cast_zero, add_zero, show (fp32.fbits : ℤ) = 23 from rfl]
  rw [if_neg, if_pos, grid]
  · simp only [show fp32.flushable = true from rfl, Bool.not_true, Bool.false_eq_true, or_false]
    rfl
  · rw [gtMag_iff]
    simpa [fp32_emin] using small
  · rw [gtMag_iff, not_lt]
    refine small.le.trans ?_
    rw [fp32_maxM, fp32_maxE]
    norm_num

/-! ## 2^x -/

/-- A finite value in units of 2^-256, as `exp2Ex` cuts it. -/
def exp2Fixed (neg : Bool) (m : ℕ) (e : ℤ) : ℤ :=
  let v : ℤ := if 0 ≤ e then shl m e * 2 ^ fixBits else (m * 2 ^ fixBits / 2 ^ (-e).toNat : ℕ)
  if neg then -v else v

theorem exp2Fixed_eq {neg : Bool} {m : ℕ} {e : ℤ} (he : -fixBits ≤ e) :
    (exp2Fixed neg m e : ℚ) = (FVal.fin neg m e).rat * 2 ^ fixBits := by
  have mag : (((if 0 ≤ e then shl m e * 2 ^ fixBits else (m * 2 ^ fixBits / 2 ^ (-e).toNat : ℕ)) : ℤ) : ℚ) =
      m * 2 ^ e * 2 ^ fixBits := by
    split
    · next h =>
      push_cast
      rw [cast_shl m h]
    · next h =>
      obtain ⟨j, hj⟩ : ∃ j, fixBits = j + (-e).toNat := ⟨fixBits - (-e).toNat, by omega⟩
      have : m * 2 ^ fixBits / 2 ^ (-e).toNat = m * 2 ^ j := by
        rw [hj, pow_add, ← mul_assoc, Nat.mul_div_cancel _ (by positivity)]
      have he : e = -((-e).toNat : ℤ) := by omega
      rw [this, hj]
      generalize (-e).toNat = i at *
      subst he
      rw [zpow_neg, zpow_natCast, pow_add]
      push_cast
      field_simp
  rw [FVal.rat_fin, exp2Fixed, mul_assoc, ← mag]
  generalize (if 0 ≤ e then (shl m e * 2 ^ fixBits : ℤ) else (m * 2 ^ fixBits / 2 ^ (-e).toNat : ℕ)) = v
  cases neg <;> simp

/-- 2^x from the whole part of x and the rest. -/
theorem exp2Ex_eq {neg : Bool} {m : ℕ} {e : ℤ} (hm : m ≠ 0) (h : gtMag m e 4096 0 = false) :
    exp2Ex neg m e = if (exp2Fixed neg m e % (2 ^ fixBits : ℕ)).toNat = 0 then ⟨false, 1, exp2Fixed neg m e / (2 ^ fixBits : ℕ), false⟩
      else ⟨false, expFix ((exp2Fixed neg m e % (2 ^ fixBits : ℕ)).toNat * ln2Fix / 2 ^ fixBits) 72 1 (2 ^ fixBits),
        exp2Fixed neg m e / (2 ^ fixBits : ℕ) - fixBits, true⟩ := by
  unfold exp2Ex
  rw [if_neg hm, h]
  rfl

theorem exp2Ex_far {neg : Bool} {m : ℕ} {e : ℤ} (hm : m ≠ 0) (h : gtMag m e 4096 0 = true) :
    exp2Ex neg m e = ⟨false, 1, if neg then -4096 else 4096, true⟩ := by
  unfold exp2Ex
  rw [if_neg hm, if_pos h]

/-- 2 to a whole number is that power of two, rounded. -/
theorem roundFin_exp2_whole {neg : Bool} {m : ℕ} {e k : ℤ} (hm : m ≠ 0) (he : -fixBits ≤ e) (hk : (FVal.fin neg m e).rat = k)
    (mode sub : ℕ) : roundFin fp32 mode sub (exp2Ex neg m e) = roundFin fp32 mode sub ⟨false, 1, k, false⟩ := by
  cases h : gtMag m e 4096 0
  · have hv : exp2Fixed neg m e = k * (2 ^ fixBits : ℕ) := by
      have := exp2Fixed_eq (neg := neg) (m := m) he
      rw [hk] at this
      exact_mod_cast this
    rw [exp2Ex_eq hm h, hv, Int.mul_emod_left, Int.mul_ediv_cancel _ (by positivity)]
    rfl
  · rw [exp2Ex_far hm h]
    rw [gtMag_iff] at h
    rw [FVal.rat_fin] at hk
    simp only [zpow_zero, mul_one] at h
    cases neg
    · have : 4096 < k := by
        rw [if_neg (by decide), one_mul] at hk
        rw [hk] at h
        exact_mod_cast h
      rw [if_neg (by decide), roundFin_huge (by norm_num), roundFin_huge (by omega)]
    · have : k < -4096 := by
        rw [if_pos rfl, neg_one_mul] at hk
        have : (k : ℚ) < -4096 := by push_cast at h; linarith
        exact_mod_cast this
      rw [if_pos rfl, roundFin_minute (by norm_num), roundFin_minute (by omega)]

/-- 2 to a number that is not whole is inexact. -/
theorem exp2Ex_sticky {neg : Bool} {m : ℕ} {e : ℤ} (hm : m ≠ 0) (he : -fixBits ≤ e) (hk : ∀ k : ℤ, (FVal.fin neg m e).rat ≠ k) :
    (exp2Ex neg m e).sticky = true := by
  cases h : gtMag m e 4096 0
  · rw [exp2Ex_eq hm h, if_neg]
    intro h0
    have hp : (0 : ℤ) < (2 ^ fixBits : ℕ) := by positivity
    have h0 : exp2Fixed neg m e % (2 ^ fixBits : ℕ) = 0 := by
      have := Int.emod_nonneg (exp2Fixed neg m e) hp.ne'
      omega
    obtain ⟨k, hv⟩ := Int.dvd_of_emod_eq_zero h0
    refine hk k ?_
    have := exp2Fixed_eq (neg := neg) (m := m) he
    rw [hv] at this
    push_cast at this
    rw [mul_comm] at this
    exact (mul_right_cancel₀ (by positivity) this).symm
  · rw [exp2Ex_far hm h]

/-! ## log2 x -/

/-- The logarithm of a power of two is its exponent. -/
theorem log2Ex_pow {m : ℕ} {e k : ℤ} (h : (m : ℚ) * 2 ^ e = 2 ^ k) : log2Ex m e = ⟨decide (k < 0), k.natAbs, 0, false⟩ := by
  have hm : m ≠ 0 := by
    rintro rfl
    simp only [Nat.cast_zero, zero_mul] at h
    exact absurd h (by positivity)
  have hm' : (m : ℚ) = 2 ^ (k - e) := by
    rw [zpow_sub₀ two_ne_zero, ← h]
    field_simp
  obtain ⟨lo, hi⟩ := log2_bounds hm
  have hk : k - e = m.log2 := by
    refine binade_unique (x := (m : ℚ)) hm'.ge ?_ lo (by linarith)
    rw [hm']
    exact zpow_lt_zpow_right₀ one_lt_two (by omega)
  have h2 : m = 2 ^ m.log2 := by
    rw [hk, zpow_natCast] at hm'
    exact_mod_cast hm'
  unfold log2Ex
  dsimp only
  rw [if_pos h2, show e + (m.log2 : ℤ) = k by omega]

/-- Of what is no power of two it is inexact. -/
theorem log2Ex_sticky {m : ℕ} {e : ℤ} (h : ∀ k : ℤ, (m : ℚ) * 2 ^ e ≠ 2 ^ k) : (log2Ex m e).sticky = true := by
  unfold log2Ex
  dsimp only
  rw [if_neg]
  intro h2
  refine h (m.log2 + e) ?_
  rw [zpow_add₀ two_ne_zero, zpow_natCast]
  congr 1
  exact_mod_cast h2

end Sys2Proof.Machine
end

section
/-! VRSQE (R40) and the tables of VFEXP2 and VFLOG2 (R208; Machine/VecFloat.lean): O33. -/

open Sys2Proof Sys2Proof.Machine

namespace Sys2Proof.Machine

/-! ## 1 / (sqrt(v) + eps) -/

theorem Ex.val_of_neg {x : Ex} (h : x.neg = true) : x.val = -(x.m * 2 ^ x.e) := by simp [Ex.val, h]
theorem Ex.val_of_pos {x : Ex} (h : x.neg = false) : x.val = x.m * 2 ^ x.e := by simp [Ex.val, h]

theorem addSticky_sticky {r : Ex} (hr : r.sticky = false) (b : Ex) : (addSticky r b).sticky = false := by
  simp only [addSticky, hr]
  split_ifs <;> rfl

/-- The sum of a root that is exact and an operand. -/
theorem addSticky_val {r : Ex} (hn : r.neg = false) (hr : r.sticky = false) (b : Ex) :
    (addSticky r b).val = r.val + b.val := by
  have hx := cast_shl_mul r.m (min_le_left r.e b.e)
  have hy := cast_shl_mul b.m (min_le_right r.e b.e)
  rw [Ex.val_of_pos hn, ← hx]
  simp only [addSticky, hr]
  cases hb : b.neg
  · rw [Ex.val_of_pos hb, ← hy]
    simp only [Bool.not_false, if_true, Ex.val, Bool.false_eq_true, if_false]
    push_cast
    ring
  · rw [Ex.val_of_neg hb, ← hy]
    rcases le_or_gt (shl b.m (b.e - min r.e b.e)) (shl r.m (r.e - min r.e b.e)) with h | h
    · simp only [Bool.not_true, Bool.false_eq_true, if_false, if_pos h, Ex.val]
      push_cast [h]
      ring
    · simp only [Bool.not_true, Bool.false_eq_true, if_false, if_neg h.not_ge, Ex.val, if_true, Nat.sub_zero]
      push_cast [h.le]
      ring

/-- The reciprocal and what is left of it. -/
theorem recipEx_standsFor {a : Ex} (hs : a.sticky = false) (h0 : a.val ≠ 0) : (recipEx a).standsFor (1 / a.val) := by
  have hm : (0 : ℚ) < a.m := by exact_mod_cast Nat.pos_of_ne_zero (mt Ex.val_eq_zero_iff.2 h0)
  have hd := (Nat.div_add_mod (2 ^ (a.m.log2 + 256)) a.m).symm
  have habs : |1 / a.val| = (2 ^ (a.m.log2 + 256) : ℕ) / a.m * 2 ^ (-((a.m.log2 + 256 : ℕ) : ℤ) - a.e) := by
    rw [abs_div, abs_one, a.abs_val, zpow_sub₀ two_ne_zero, zpow_neg, zpow_natCast]
    generalize a.m.log2 + 256 = k
    push_cast
    field_simp
  have hlt : 2 ^ (a.m.log2 + 256) % a.m < a.m := Nat.mod_lt _ (by exact_mod_cast hm)
  refine ⟨fun _ => ?_, ?_⟩
  · rw [Bool.eq_iff_iff, decide_eq_true_iff, one_div, inv_lt_zero, Ex.val_neg_iff h0]
    rfl
  · rw [habs]
    clear habs
    simp only [recipEx, hs, Bool.false_eq_true, if_false, Bool.false_or]
    generalize a.m.log2 + 256 = k at *
    generalize 2 ^ k / a.m = d at *
    generalize 2 ^ k % a.m = r at *
    rw [show ((2 ^ k : ℕ) : ℚ) = a.m * d + r by exact_mod_cast hd]
    have hlt' : (r : ℚ) < a.m := by exact_mod_cast hlt
    split
    · next h =>
      have : (0 : ℚ) < r := by exact_mod_cast Nat.pos_of_ne_zero (by simpa using h)
      constructor
      · gcongr
        rw [lt_div_iff₀ hm]
        linarith
      · gcongr
        rw [div_lt_iff₀ hm]
        linarith
    · next h =>
      obtain rfl : r = 0 := by simpa using h
      field_simp
      simp

/-- A reciprocal has at least 255 bits. -/
theorem recipEx_digits {a : Ex} (hs : a.sticky = false) (h0 : a.m ≠ 0) : 2 ^ 255 ≤ (recipEx a).m := by
  simp only [recipEx, hs, Bool.false_eq_true, if_false]
  rw [Nat.le_div_iff_mul_le (Nat.pos_of_ne_zero h0)]
  calc 2 ^ 255 * a.m ≤ 2 ^ 255 * 2 ^ (a.m.log2 + 1) := Nat.mul_le_mul_left _ Nat.lt_log2_self.le
    _ = 2 ^ (a.m.log2 + 256) := by rw [← pow_add]; congr 1; omega

/-- A root that is a rational number is exact. -/
theorem sqrtEx_exact {a : Ex} {r : ℚ} (hr : 0 < r) (h : r ^ 2 = a.m * 2 ^ a.e) :
    (sqrtEx a).sticky = false ∧ (sqrtEx a).val = r := by
  have he : (0 : ℚ) < 2 ^ (sqrtEx a).e := by positivity
  have hn : (r / 2 ^ (sqrtEx a).e) * (r / 2 ^ (sqrtEx a).e) = sqrtScaled a := by
    rw [← pow_two, div_pow, div_eq_iff (by positivity), sqrtScaled_mul, h]
  obtain ⟨k, hk⟩ : IsSquare (sqrtScaled a) := Rat.isSquare_natCast_iff.1 ⟨_, hn.symm⟩
  have root : isqrt (sqrtScaled a) = k := by
    obtain ⟨lo, hi⟩ := isqrt_spec (sqrtScaled a)
    rw [hk] at lo hi ⊢
    have h1 := Nat.mul_self_le_mul_self_iff.1 lo
    have h2 := Nat.mul_self_lt_mul_self_iff.1 hi
    omega
  have hs : (sqrtEx a).sticky = false := by
    rw [sqrtEx_eq]
    generalize sqrtScaled a = n at hk root
    rw [root]
    exact bne_eq_false_iff_eq.2 hk.symm
  refine ⟨hs, ?_⟩
  have spec := sqrtEx_spec a
  rw [hs] at spec
  simp only [Bool.false_eq_true, if_false, ← h] at spec
  rw [Ex.val_of_pos rfl]
  exact (pow_left_inj₀ (by positivity) hr.le two_ne_zero).1 spec

section
variable {rm sub : ℕ} {x eps : FVal}

/-- What VRSQE makes of a root and an operand. -/
theorem rsqeVal_fin (hx : x.isNan = false) (ht : x ≠ .inf false) (he : eps.finite = true) :
    rsqeVal fp32 rm sub x eps =
      let d := addSticky (if x.neg || x.isZero then ⟨false, 0, 0, false⟩ else sqrtEx ⟨false, x.ex.m, x.ex.e, false⟩) eps.ex
      if d.m = 0 ∧ !d.sticky then (fp32.inf false, fDZ) else roundFin fp32 rm sub (recipEx d) := by
  cases eps with
  | nan q => simp [FVal.finite] at he
  | inf n => simp [FVal.finite] at he
  | fin n' m' e' => cases x with
    | nan q => simp [FVal.isNan] at hx
    | inf n => cases n with
      | false => exact absurd rfl ht
      | true => simp only [rsqeVal, FVal.isNan, FVal.neg, Bool.or_self, Bool.true_or, Bool.false_eq_true, if_false, if_true, Bool.not_true]
    | fin n m e => rfl

/-- 1 / (r + eps), rounded once, of a root r that is exact. -/
theorem rsqeVal_exact (hx : x.isNan = false) (ht : x ≠ .inf false) (he : eps.finite = true) {d : Ex}
    (hd : d = if x.neg || x.isZero then ⟨false, 0, 0, false⟩ else sqrtEx ⟨false, x.ex.m, x.ex.e, false⟩) (hs : d.sticky = false)
    (hn : d.neg = false) : (d.val + eps.rat = 0 → rsqeVal fp32 rm sub x eps = (fp32.inf false, fDZ)) ∧
      (d.val + eps.rat ≠ 0 → ∃ e : Ex, (e.sticky = true → 2 ^ (fp32.fbits + 2) ≤ e.m) ∧ e.standsFor (1 / (d.val + eps.rat)) ∧
        rsqeVal fp32 rm sub x eps = roundFin fp32 rm sub e) := by
  rw [rsqeVal_fin hx ht he, ← hd, ← eps.ex_val, ← addSticky_val hn hs]
  have st := addSticky_sticky hs eps.ex
  refine ⟨fun h => ?_, fun h => ⟨recipEx (addSticky d eps.ex), fun _ => ?_, recipEx_standsFor st h, ?_⟩⟩
  · exact if_pos ⟨Ex.val_eq_zero_iff.1 h, by simp [st]⟩
  · exact (Nat.pow_le_pow_right two_pos (by decide)).trans (recipEx_digits st (mt Ex.val_eq_zero_iff.2 h))
  · exact if_neg fun hc => h (Ex.val_eq_zero_iff.2 hc.1)

end

/-! ## The tables -/

theorem operand_fin {F : Fmt} {sub b m : ℕ} {neg : Bool} {e : ℤ} (h : operand F sub b = .fin neg m e) : F.emin ≤ e := by
  unfold operand at h
  cases hb : unpack F b with
  | nan q => simp [hb] at h
  | inf n => simp [hb] at h
  | fin n m' e' =>
    have := (unpack_fin hb).2.1
    rw [hb] at h
    dsimp only at h
    split at h <;> cases h <;> exact this

/-- 2 to zero is one. -/
theorem roundFin_one {rm : ℕ} (hrm : rm ≤ 4) (sub : ℕ) : roundFin fp32 rm sub ⟨false, 1, 0, false⟩ = (0x3F800000, 0) := by
  interval_cases rm <;> rfl

section
variable {rm sub a : ℕ} {x : FVal} (hx : operand fp32 sub a = x)
include hx

/-- VFEXP2 of a finite value that is not zero: exact where it is whole, and inexact elsewhere. -/
theorem exp2Val_fin (hf : x.finite = true) (h0 : x.isZero = false) :
    (∀ k : ℤ, x.rat = k → exp2Val fp32 rm sub x = roundFin fp32 rm sub ⟨false, 1, k, false⟩) ∧
      ((∀ k : ℤ, x.rat ≠ k) → (exp2Val fp32 rm sub x).2.getLsbD 0 = true) := by
  cases x with
  | nan q => simp [FVal.finite] at hf
  | inf n => simp [FVal.finite] at hf
  | fin n m e =>
    have he : -fixBits ≤ e := by
      have := operand_fin hx
      rw [fp32_emin] at this
      unfold fixBits
      omega
    have hm : m ≠ 0 := by simpa [FVal.isZero] using h0
    exact ⟨fun k hk => roundFin_exp2_whole hm he hk rm sub, fun hk => roundFin_sticky (exp2Ex_sticky hm he hk) rm sub⟩

omit hx in
/-- VFLOG2 of a finite value that is not zero: invalid below zero, exact of a power of two, and inexact elsewhere. -/
theorem log2Val_fin (hf : x.finite = true) (h0 : x.isZero = false) :
    (x.neg = true → log2Val fp32 rm sub x = (fp32.nan, fNV)) ∧
      (x.neg = false →
        (∀ k : ℤ, x.rat = 2 ^ k → log2Val fp32 rm sub x = roundFin fp32 rm sub ⟨decide (k < 0), k.natAbs, 0, false⟩) ∧
        ((∀ k : ℤ, x.rat ≠ 2 ^ k) → (log2Val fp32 rm sub x).2.getLsbD 0 = true)) := by
  cases x with
  | nan q => simp [FVal.finite] at hf
  | inf n => simp [FVal.finite] at hf
  | fin n m e =>
    have hm : m ≠ 0 := by simpa [FVal.isZero] using h0
    simp only [log2Val, if_neg hm, FVal.neg, FVal.rat_fin]
    refine ⟨fun hn => if_pos hn, fun hn => ?_⟩
    subst hn
    simp only [Bool.false_eq_true, if_false, one_mul]
    exact ⟨fun k hk => by rw [log2Ex_pow hk], fun hk => roundFin_sticky (log2Ex_sticky hk) rm sub⟩

end

/-- A value at or below zero has the root zero. -/
theorem root_zero {x : FVal} (hf : x.finite = true) (h : x.rat ≤ 0) : (x.neg || x.isZero) = true := by
  by_cases h0 : x.rat = 0
  · rw [(FVal.isZero_iff hf).2 h0, Bool.or_true]
  · rw [(FVal.neg_iff hf h0).1 (lt_of_le_of_ne h h0), Bool.true_or]
theorem root_pos {x : FVal} (hf : x.finite = true) (h : 0 < x.rat) : (x.neg || x.isZero) = false := by
  rw [Bool.or_eq_false_iff, ← Bool.not_eq_true, ← Bool.not_eq_true, ← FVal.neg_iff hf h.ne', FVal.isZero_iff hf]
  exact ⟨h.not_gt, h.ne'⟩
theorem FVal.finite_of {x : FVal} (hf : x.finite = true) : x.isNan = false ∧ ∀ n, x ≠ .inf n := by
  cases x <;> simp_all [FVal.finite, FVal.isNan]

/-- A value above zero is its significand in its scale. -/
theorem FVal.rat_of_pos {x : FVal} (h : 0 < x.rat) : x.rat = x.ex.m * 2 ^ x.ex.e := by
  have := x.ex.abs_val
  rwa [x.ex_val, abs_of_pos h] at this

/-- Settles O33: the results of the rows, and the tables of R208 and R40. -/
theorem vectorFloats : Obligations.VectorFloats := by
  unfold Obligations.VectorFloats
  refine ⟨fun v hv x s F hs hl hF => vecFloats_answers hs hF hv hl, fun rm sub a b hrm => ?_⟩
  intro x eps nan inf exp2 log2 rsqe once
  refine ⟨fun k hk => ?_, fun hx => ?_, fun hx => ?_, fun h0 => ?_, fun hf h0 => ?_, fun h => ?_, fun hx => ⟨fun he => ?_, fun he => ?_⟩,
    fun hx he => ?_, fun hx ht he => ?_, fun hx he => ?_, fun hf r hr h2 he => ?_⟩
  · simp only [exp2, log2, hk]
    exact ⟨rfl, rfl⟩
  · simp only [exp2, log2, hx]
    exact ⟨rfl, rfl⟩
  · simp only [exp2, log2, hx]
    exact ⟨rfl, rfl⟩
  · cases hx : x with
    | nan q => simp [hx, FVal.isZero] at h0
    | inf n => simp [hx, FVal.isZero] at h0
    | fin n m e =>
      have hm : m = 0 := by simpa [hx, FVal.isZero] using h0
      simp only [exp2, log2, hx, hm]
      exact ⟨roundFin_one hrm sub, rfl⟩
  · obtain ⟨whole, part⟩ := exp2Val_fin (rm := rm) (rfl : operand fp32 sub a = x) hf h0
    obtain ⟨below, above⟩ := log2Val_fin (rm := rm) (sub := sub) hf h0
    exact ⟨whole, part, below, above⟩
  · exact if_pos (by simpa using h)
  · simp only [rsqe, hx, he]
    rfl
  · simp only [rsqe, hx]
    cases he' : eps with
    | nan q => simp [he', FVal.finite] at he
    | inf n => simp [he', FVal.finite] at he
    | fin n m e => rfl
  · simp only [rsqe, he]
    unfold rsqeVal
    rw [hx]
    rfl
  · simp only [rsqe, he]
    cases hx' : x with
    | nan q => simp [hx', FVal.isNan] at hx
    | inf n => cases n with
      | false => exact absurd hx' ht
      | true => rfl
    | fin n m e => rfl
  · have hn : x.isNan = false ∧ x ≠ .inf false ∧ (x.neg || x.isZero) = true := by
      rcases hx with hx | ⟨hf, hx⟩
      · rw [hx]; exact ⟨rfl, by simp, rfl⟩
      · exact ⟨(FVal.finite_of hf).1, (FVal.finite_of hf).2 _, root_zero hf hx⟩
    have := rsqeVal_exact (rm := rm) (sub := sub) hn.1 hn.2.1 he (d := ⟨false, 0, 0, false⟩) (by rw [hn.2.2]; rfl) rfl rfl
    simpa [Ex.val] using this
  · have hp : 0 < x.rat := by rw [← h2]; positivity
    obtain ⟨hs, hv⟩ := sqrtEx_exact (a := ⟨false, x.ex.m, x.ex.e, false⟩) hr (by rw [h2, FVal.rat_of_pos hp])
    have := rsqeVal_exact (rm := rm) (sub := sub) (FVal.finite_of hf).1 ((FVal.finite_of hf).2 _) he
      (d := sqrtEx ⟨false, x.ex.m, x.ex.e, false⟩) (by rw [root_pos hf hp]; rfl) hs rfl
    rwa [hv] at this

end Sys2Proof.Machine
end

section
/-! Bits of registers that are written in pieces (R21, R45; Machine/Operands.lean), and lists written in blocks. -/

open Sys2Proof Sys2Proof.Machine

namespace Sys2Proof.Machine

/-! ## Slices -/

theorem slice_testBit (v lo n i : ℕ) : (slice v lo n).testBit i = (decide (i < n) && v.testBit (lo + i)) := by
  rw [slice, Nat.testBit_mod_two_pow, Nat.testBit_div_two_pow, add_comm i]

/-- The bits of a splice: those of the new part inside it, and the old ones outside. -/
theorem splice_testBit (v lo n x i : ℕ) :
    (splice v lo n x).testBit i = if lo ≤ i ∧ i < lo + n then x.testBit (i - lo) else v.testBit i := by
  have low : v % 2 ^ lo < 2 ^ lo := Nat.mod_lt _ (by positivity)
  have mid : v / 2 ^ lo = 2 ^ n * (v / 2 ^ (lo + n)) + slice v lo n := by
    rw [slice, pow_add, ← Nat.div_div_eq_div_mul, Nat.div_add_mod]
  have whole : v = 2 ^ lo * (2 ^ n * (v / 2 ^ (lo + n)) + slice v lo n) + v % 2 ^ lo := by rw [← mid, Nat.div_add_mod]
  have new : splice v lo n x = 2 ^ lo * (2 ^ n * (v / 2 ^ (lo + n)) + x % 2 ^ n) + v % 2 ^ lo := by
    have : v - slice v lo n * 2 ^ lo = 2 ^ lo * (2 ^ n * (v / 2 ^ (lo + n))) + v % 2 ^ lo := by
      rw [mul_add] at whole
      rw [mul_comm (slice v lo n)]
      omega
    rw [splice, this]
    ring
  rw [new, Nat.testBit_two_pow_mul_add _ low, Nat.testBit_two_pow_mul_add _ (Nat.mod_lt _ (by positivity))]
  by_cases h1 : i < lo
  · rw [if_pos h1, if_neg (by omega), Nat.testBit_mod_two_pow, decide_eq_true h1, Bool.true_and]
  · rw [if_neg h1]
    by_cases h2 : i - lo < n
    · rw [if_pos h2, if_pos (by omega), Nat.testBit_mod_two_pow, decide_eq_true h2, Bool.true_and]
    · rw [if_neg h2, if_neg (by omega), Nat.testBit_div_two_pow]
      congr 1
      omega

/-- Blocks of W bits written one after another. -/
theorem testBit_foldl_blocks {g : ℕ → ℕ → ℕ} {F : ℕ → ℕ → Bool} {lo W : ℕ} (n : ℕ) (hg : ∀ v, ∀ j < n, ∀ i, (g v j).testBit i =
      if lo + W * j ≤ i ∧ i < lo + W * (j + 1) then F j (i - (lo + W * j)) else v.testBit i) (v i : ℕ) :
    ((List.range n).foldl g v).testBit i = if lo ≤ i ∧ i < lo + W * n then F ((i - lo) / W) ((i - lo) % W) else v.testBit i := by
  induction n with
  | zero => simp
  | succ n ih =>
    have ih := ih fun v j hj => hg v j (hj.trans (Nat.lt_succ_self n))
    rw [List.range_succ, List.foldl_append, List.foldl_cons, List.foldl_nil, hg _ n (Nat.lt_succ_self n), ih]
    have hW : W * (n + 1) = W * n + W := Nat.mul_succ W n
    by_cases h : lo + W * n ≤ i ∧ i < lo + W * (n + 1)
    · obtain ⟨j, rfl⟩ : ∃ j, i = lo + W * n + j := ⟨i - (lo + W * n), by omega⟩
      have hj : j < W := by omega
      rw [if_pos h, if_pos (by omega), add_assoc, Nat.add_sub_cancel_left, Nat.mul_add_div (by omega), Nat.mul_add_mod,
        Nat.div_eq_of_lt hj, Nat.mod_eq_of_lt hj, add_zero, Nat.add_sub_add_left, Nat.add_sub_cancel_left]
    · rw [if_neg h]
      by_cases h' : lo ≤ i ∧ i < lo + W * n
      · rw [if_pos h', if_pos (by omega)]
      · rw [if_neg h', if_neg (by omega)]

/-- Bytes written one after another. -/
theorem testBit_foldl_bytes (f : ℕ → ℕ) (lo n v i : ℕ) :
    ((List.range n).foldl (fun v j => splice v (lo + 8 * j) 8 (f j)) v).testBit i =
      if lo ≤ i ∧ i < lo + 8 * n then (f ((i - lo) / 8)).testBit ((i - lo) % 8) else v.testBit i := by
  refine testBit_foldl_blocks (F := fun j k => (f j).testBit k) n (fun v j _ i => ?_) v i
  rw [splice_testBit]
  rfl

/-- A byte of what was written byte by byte. -/
theorem slice_of_bytes {V lo n : ℕ} {f : ℕ → ℕ} (hV : ∀ i, lo ≤ i → i < lo + 8 * n → V.testBit i = (f ((i - lo) / 8)).testBit ((i - lo) % 8))
    {j : ℕ} (hj : j < n) (hf : f j < 2 ^ 8) : slice V (lo + 8 * j) 8 = f j := by
  refine Nat.eq_of_testBit_eq fun i => ?_
  rw [slice_testBit]
  by_cases hi : i < 8
  · rw [decide_eq_true hi, Bool.true_and, hV _ (by omega) (by omega), add_assoc, Nat.add_sub_cancel_left, Nat.mul_add_div (by omega),
      Nat.mul_add_mod, Nat.div_eq_of_lt hi, Nat.mod_eq_of_lt hi, add_zero]
  · rw [decide_eq_false hi, Bool.false_and]
    exact (Nat.testBit_lt_two_pow (hf.trans_le (Nat.pow_le_pow_right two_pos (not_lt.1 hi)))).symm

/-! ## Lists in blocks -/

theorem zipIdx_map_range {α : Type} (f : ℕ → α) (n : ℕ) : ((List.range n).map f).zipIdx = (List.range n).map fun j => (f j, j) := by
  refine List.ext_getElem (by simp) fun i _ _ => by simp

theorem length_flatMap_blocks {α : Type} {f : ℕ → List α} {B n : ℕ} (hf : ∀ j < n, (f j).length = B) :
    ((List.range n).flatMap f).length = n * B := by
  induction n with
  | zero => simp
  | succ n ih =>
    rw [List.range_succ, List.flatMap_append, List.length_append, ih fun j hj => hf j (hj.trans (Nat.lt_succ_self n)),
      List.flatMap_cons, List.flatMap_nil, List.append_nil, hf n (Nat.lt_succ_self n), Nat.succ_mul]

/-- An element of lists of one length, joined. -/
theorem getElem?_flatMap_blocks {α : Type} {f : ℕ → List α} {B n : ℕ} (hf : ∀ j < n, (f j).length = B) {j i : ℕ} (hj : j < n)
    (hi : i < B) : ((List.range n).flatMap f)[j * B + i]? = (f j)[i]? := by
  induction n with
  | zero => exact absurd hj (Nat.not_lt_zero j)
  | succ n ih =>
    have hf' : ∀ j < n, (f j).length = B := fun j hj => hf j (hj.trans (Nat.lt_succ_self n))
    rw [List.range_succ, List.flatMap_append, List.flatMap_cons, List.flatMap_nil, List.append_nil]
    rcases Nat.lt_succ_iff_lt_or_eq.1 hj with h | rfl
    · have : j * B + i < n * B := by nlinarith
      rw [List.getElem?_append_left (by rwa [length_flatMap_blocks hf']), ih hf' h]
    · rw [List.getElem?_append_right (by rw [length_flatMap_blocks hf']; omega), length_flatMap_blocks hf', Nat.add_sub_cancel_left]

end Sys2Proof.Machine
end

section
/-! What the operations of a format give lies within its width, and the scale of a block (R17, R20; Machine/Float.lean,
Machine/VecConvert.lean). -/

open Sys2Proof Sys2Proof.Machine

namespace Sys2Proof.Machine

/-! ## Results lie within the width -/

section
variable {F : Fmt}

theorem Fmt.inf_lt (F : Fmt) (neg : Bool) : F.inf neg < 2 ^ F.width :=
  Fmt.code_lt (e := 2 ^ F.ebits - 1) (f := 0) (Nat.sub_lt (by positivity) one_pos) (by positivity)

theorem overflow_lt (hF : F.Sound) (mode : ℕ) (neg : Bool) : overflow F mode neg < 2 ^ F.width := by
  have hmax : ∀ neg, pack F neg F.maxM F.maxE < 2 ^ F.width := fun neg => (pack_max_means hF neg).1
  unfold overflow
  cases F.kind with
  | e4m3 => exact hmax neg
  | e2m1 => exact hmax neg
  | ieee => match mode with
    | 0 => exact F.inf_lt neg
    | 1 => exact hmax neg
    | 2 => cases neg with
      | false => exact hmax false
      | true => exact F.inf_lt true
    | 3 => cases neg with
      | false => exact F.inf_lt false
      | true => exact hmax true
    | _ + 4 => exact F.inf_lt neg

theorem roundFin_lt (hF : F.Sound) {x : Ex} {q : ℚ} (hx : x.standsFor q) (hs : x.sticky = true → 2 ^ (F.fbits + 2) ≤ x.m)
    (mode sub : ℕ) : (roundFin F mode sub x).1 < 2 ^ F.width := by
  by_cases hq : q = 0
  · obtain ⟨hm, hn⟩ := hx.eq_zero_iff.1 hq
    rw [roundFin_zero hm hn]
    exact (sign_means hF x.neg).1
  · obtain ⟨u, h⟩ : ∃ u, x.Fits F q u := ⟨_, hx.fits hq hs⟩
    rcases lt_or_ge (F.maxM * 2 ^ F.maxE : ℚ) |roundInt mode (q / 2 ^ u) * 2 ^ u| with hp | hp
    · rw [roundFin_over h mode sub hp]
      exact overflow_lt hF _ _
    · rcases lt_or_ge |(roundInt mode (q / 2 ^ u) * 2 ^ u : ℚ)| (2 ^ (F.emin + F.fbits)) with hl | hl
      · by_cases hsub : sub = 0 ∨ F.flushable = false
        · exact (roundFin_subnormal h mode sub hF hl hsub).1.1
        · rw [not_or, Bool.not_eq_false] at hsub
          rw [roundFin_flushed h mode sub hF hl hsub.1 hsub.2]
          exact (sign_means hF _).1
      · exact (roundFin_normal h mode sub hF hp hl).1.1
theorem roundFin_exact_lt (hF : F.Sound) {x : Ex} (hs : x.sticky = false) (mode sub : ℕ) : (roundFin F mode sub x).1 < 2 ^ F.width :=
  roundFin_lt hF (Ex.standsFor_val hs) (by simp [hs]) mode sub

theorem addVal_lt (hF : F ∈ arithFmts) (mode sub : ℕ) (x y : FVal) : (addVal F mode sub x y).1 < 2 ^ F.width := by
  have hnan : F.nan < 2 ^ F.width := (by decide +kernel : ∀ F ∈ arithFmts, F.nan < 2 ^ F.width) F hF
  have hk := Fmt.kind_of_arith hF
  by_cases hn : x.isNan = true ∨ y.isNan = true
  · rw [addVal_nan hn]; exact hnan
  · cases x with
    | nan q => simp [FVal.isNan] at hn
    | inf n => cases y with
      | nan q => simp [FVal.isNan] at hn
      | inf n' =>
        rw [addVal_inf_inf hk rfl rfl]
        split
        · exact F.inf_lt _
        · exact hnan
      | fin n' m' e' => rw [addVal_inf_fin hk rfl rfl]; exact F.inf_lt _
    | fin n m e => cases y with
      | nan q => simp [FVal.isNan] at hn
      | inf n' => rw [addVal_fin_inf hk rfl rfl]; exact F.inf_lt _
      | fin n' m' e' =>
        rw [addVal_fin F mode sub rfl rfl]
        exact roundFin_exact_lt (Fmt.sound_of_mem (Fmt.mem_roundFmts_of_arith hF)) (addEx_sticky _ _ _) mode sub

theorem specMinMax_lt (hF : F ∈ arithFmts) {a b : ℕ} (ha : a < 2 ^ F.width) (hb : b < 2 ^ F.width) (sub : ℕ) (isMax : Bool) :
    (specMinMax F sub isMax a b).1 < 2 ^ F.width := by
  have hnan : F.nan < 2 ^ F.width := (by decide +kernel : ∀ F ∈ arithFmts, F.nan < 2 ^ F.width) F hF
  have hsign := fun neg => (sign_means (Fmt.sound_of_mem (Fmt.mem_roundFmts_of_arith hF)) neg).1
  simp only [specMinMax]
  split_ifs
  · exact hnan
  · exact hnan
  · exact hsign _
  · exact hb
  · exact hsign _
  · exact ha

end

/-! ## Blocks (R20) -/

/-- The magnitude of a finite value, as `mxBlock` compares it. -/
def FVal.mag : FVal → ℕ × ℤ
  | .fin _ m e => (m, e)
  | _ => (0, 0)
/-- The number of a magnitude. -/
def magVal (a : ℕ × ℤ) : ℚ := a.1 * 2 ^ a.2

theorem FVal.abs_rat (v : FVal) : |v.rat| = magVal v.mag := by
  rw [← v.ex_val, Ex.abs_val]
  cases v <;> rfl
theorem magVal_maxMag (a b : ℕ × ℤ) : magVal (maxMag a b) = max (magVal a) (magVal b) := by
  unfold maxMag
  split
  · next h => exact (max_eq_right (gtMag_iff.1 h).le).symm
  · next h => exact (max_eq_left (not_lt.1 (mt gtMag_iff.2 h))).symm

/-- The greatest magnitude of some values. -/
theorem magVal_foldl (xs : List FVal) (a : ℕ × ℤ) :
    magVal a ≤ magVal (xs.foldl (fun a v => maxMag a v.mag) a) ∧
      (∀ v ∈ xs, |v.rat| ≤ magVal (xs.foldl (fun a v => maxMag a v.mag) a)) ∧
      (magVal (xs.foldl (fun a v => maxMag a v.mag) a) = magVal a ∨
        ∃ v ∈ xs, |v.rat| = magVal (xs.foldl (fun a v => maxMag a v.mag) a)) := by
  induction xs generalizing a with
  | nil => simp
  | cons v xs ih =>
    obtain ⟨h1, h2, h3⟩ := ih (maxMag a v.mag)
    rw [List.foldl_cons]
    rw [magVal_maxMag, ← FVal.abs_rat] at h1 h3
    refine ⟨(le_max_left _ _).trans h1, ?_, ?_⟩
    · intro w hw
      rcases List.mem_cons.1 hw with rfl | hw
      · exact (le_max_right _ _).trans h1
      · exact h2 w hw
    · rcases h3 with h3 | ⟨w, hw, h3⟩
      · rcases max_choice (magVal a) |v.rat| with hc | hc
        · exact .inl (h3.trans hc)
        · exact .inr ⟨v, List.mem_cons_self .., (h3.trans hc).symm⟩
      · exact .inr ⟨w, List.mem_cons_of_mem _ hw, h3⟩

/-- `mxScale` is the least power of two that holds a magnitude within 6. -/
theorem mxScale_least {m : ℕ} (hm : m ≠ 0) (e : ℤ) : (m : ℚ) * 2 ^ e ≤ 6 * 2 ^ mxScale m e ∧ 6 * 2 ^ (mxScale m e - 1) < (m : ℚ) * 2 ^ e := by
  obtain ⟨lo, hi⟩ := log2_bounds hm
  have up : (m : ℚ) * 2 ^ e ≤ 16 * 2 ^ (e + m.log2 - 3) := by
    calc (m : ℚ) * 2 ^ e ≤ 2 ^ ((m.log2 : ℤ) + 1) * 2 ^ e := by gcongr; linarith
      _ = 2 ^ (4 : ℤ) * 2 ^ (e + m.log2 - 3) := by rw [← zpow_add₀ two_ne_zero, ← zpow_add₀ two_ne_zero]; congr 1; ring
      _ = _ := by norm_num
  have down : 8 * 2 ^ (e + m.log2 - 3) ≤ (m : ℚ) * 2 ^ e := by
    calc (8 : ℚ) * 2 ^ (e + m.log2 - 3) = 2 ^ (3 : ℤ) * 2 ^ (e + m.log2 - 3) := by norm_num
      _ = 2 ^ (m.log2 : ℤ) * 2 ^ e := by rw [← zpow_add₀ two_ne_zero, ← zpow_add₀ two_ne_zero]; congr 1; ring
      _ ≤ _ := by gcongr
  have six : ∀ t : ℤ, gtMag m e 6 t = true ↔ 6 * 2 ^ t < (m : ℚ) * 2 ^ e := fun t => by rw [gtMag_iff]; norm_num
  have hp : (0 : ℚ) < 2 ^ (e + m.log2 - 3) := by positivity
  unfold mxScale
  dsimp only
  generalize e + (m.log2 : ℤ) - 3 = t at *
  have step : (2 : ℚ) ^ (t - 1) = 2 ^ t / 2 := zpow_sub_one₀ two_ne_zero t
  have step1 : (2 : ℚ) ^ (t + 1) = 2 ^ t * 2 := zpow_add_one₀ two_ne_zero t
  have step2 : (2 : ℚ) ^ (t + 2) = 2 ^ t * 4 := by rw [zpow_add₀ two_ne_zero]; norm_num
  by_cases h0 : gtMag m e 6 t = true
  · by_cases h1 : gtMag m e 6 (t + 1) = true
    · rw [if_neg (by simp [h0]), if_neg (by simp [h1]), show t + 2 - 1 = t + 1 by ring, ← six]
      exact ⟨by rw [step2]; linarith, h1⟩
    · rw [if_neg (by simp [h0]), if_pos (by simpa using h1), add_sub_cancel_right, ← six]
      exact ⟨not_lt.1 (mt (six _).2 h1), h0⟩
  · rw [if_pos (by simpa using h0)]
    exact ⟨not_lt.1 (mt (six _).2 h0), by rw [step]; linarith⟩

/-- The scale of a block (R20): the least that holds its greatest magnitude within 6, held within −127 and 127. -/
def blockScale (M : ℕ × ℤ) : ℤ := if M.1 = 0 then -127 else min 127 (max (-127) (mxScale M.1 M.2))

theorem blockScale_spec (M : ℕ × ℤ) : -127 ≤ blockScale M ∧ blockScale M ≤ 127 ∧
    (blockScale M = 127 ∨ magVal M ≤ 6 * 2 ^ blockScale M) ∧ (blockScale M = -127 ∨ (6 * 2 ^ (blockScale M - 1) < magVal M ∧ magVal M ≠ 0)) := by
  unfold blockScale
  by_cases h0 : M.1 = 0
  · rw [if_pos h0]
    refine ⟨le_rfl, by norm_num, .inr ?_, .inl rfl⟩
    simp [magVal, h0]
  · rw [if_neg h0]
    obtain ⟨hi, lo⟩ := mxScale_least h0 M.2
    have pos : magVal M ≠ 0 := mul_ne_zero (by exact_mod_cast h0) (by positivity)
    have mono : ∀ {a b : ℤ}, a ≤ b → (6 : ℚ) * 2 ^ a ≤ 6 * 2 ^ b := fun h =>
      mul_le_mul_of_nonneg_left (zpow_le_zpow_right₀ one_le_two h) (by norm_num)
    refine ⟨by omega, by omega, ?_, ?_⟩
    · by_cases h : mxScale M.1 M.2 < 127
      · exact .inr (hi.trans (mono (by omega)))
      · exact .inl (by omega)
    · by_cases h : -127 < mxScale M.1 M.2
      · exact .inr ⟨(mono (by omega)).trans_lt lo, pos⟩
      · exact .inl (by omega)

/-- An element of a block under a scale. -/
theorem mxElement_eq (mode : ℕ) (s : ℤ) (v : FVal) : v.isNan = false ∧ v.isInf = false →
    (match v with | .fin n m e => roundFin fpE2M1 mode 0 ⟨n, m, e - s, false⟩ | _ => (0, 0)) = roundFin fpE2M1 mode 0 (v.over s) := by
  cases v with
  | nan q => simp [FVal.isNan]
  | inf n => simp [FVal.isInf]
  | fin n m e => exact fun _ => rfl

/-- A block is quantised as R20 says. -/
theorem mxBlock_spec (mode : ℕ) (xs : List FVal) : specBlock mode xs (mxBlock mode xs) := by
  unfold specBlock mxBlock
  split
  · rfl
  · next h =>
    have hfin : ∀ v ∈ xs, v.isNan = false ∧ v.isInf = false := by simpa using h
    obtain ⟨-, hall, hone⟩ := magVal_foldl xs (0, 0)
    obtain ⟨lo, hi, fits, least⟩ := blockScale_spec (xs.foldl (fun a v => maxMag a v.mag) (0, 0))
    have elements : ∀ s : ℤ, (xs.map fun v => match v with | .fin n m e => roundFin fpE2M1 mode 0 ⟨n, m, e - s, false⟩ | _ => (0, 0)) =
        xs.map fun v => roundFin fpE2M1 mode 0 (v.over s) := fun s => List.map_congr_left fun v hv => mxElement_eq mode s v (hfin v hv)
    refine ⟨blockScale (xs.foldl (fun a v => maxMag a v.mag) (0, 0)), lo, hi, Int.toNat_of_nonneg (by omega),
      fits.imp_right fun h v hv => (hall v hv).trans h, ?_, ?_, ?_⟩
    · refine least.imp_right fun ⟨h, h0⟩ => ?_
      rcases hone with hone | ⟨v, hv, hone⟩
      · exact absurd (hone.trans (by simp [magVal])) h0
      · exact ⟨v, hv, hone ▸ h⟩
    · exact (congrArg (List.map (·.1)) (elements _)).trans List.map_map
    · exact (congrArg (List.foldl (fun f r => f ||| r.2) 0) (elements _)).trans List.foldl_map

/-- The scale byte and the elements of a block fit their bits. -/
theorem mxBlock_fits (mode : ℕ) (xs : List FVal) : (mxBlock mode xs).1 < 2 ^ 8 ∧ (mxBlock mode xs).2.1.length = xs.length ∧
    ∀ e ∈ (mxBlock mode xs).2.1, e < 2 ^ 4 := by
  have spec := mxBlock_spec mode xs
  generalize mxBlock mode xs = r at *
  unfold specBlock at spec
  split at spec
  · subst spec
    refine ⟨by norm_num, by simp, fun e he => ?_⟩
    obtain ⟨-, -, rfl⟩ := List.mem_map.1 he
    norm_num
  · obtain ⟨s, lo, hi, h1, -, -, h2, -⟩ := spec
    refine ⟨by omega, by simp [h2], fun e he => ?_⟩
    rw [h2] at he
    obtain ⟨v, -, rfl⟩ := List.mem_map.1 he
    exact roundFin_exact_lt (F := fpE2M1) (Fmt.sound_of_mem (by simp [roundFmts])) (by cases v <;> rfl) mode 0

end Sys2Proof.Machine
end

section
/-! Vector conversions (R16, R19 to R21, R29, R211 to R216; Machine/VecConvert.lean): O35. -/

open Sys2Proof Sys2Proof.Machine

namespace Sys2Proof.Machine

/-! ## One element -/

theorem intOf_eq (c : ℕ) : intOf c = if c ≤ 7 then some (efWidth c, c % 2 == 0) else none := by
  match c with
  | 0 | 1 | 2 | 3 | 4 | 5 | 6 | 7 => rfl
  | n + 8 => rfl
theorem efWidth_pos (c : ℕ) : 0 < efWidth c := by
  unfold efWidth
  split <;> norm_num

theorem intVal_eq {w : ℕ} (hw : w ≠ 0) {b : ℕ} (hb : b < 2 ^ w) (sg : Bool) :
    intVal w sg b = if sg then (BitVec.ofNat w b).toInt else (b : ℤ) := by
  unfold intVal
  split
  · exact toSigned_eq hw b
  · rw [Nat.mod_eq_of_lt hb]

/-- A saturated result is a clamped one (R16). -/
theorem satRes_eq (w : ℕ) (sg : Bool) (v : ℤ) :
    satRes w sg v = (let r := if sg then clampS w v else clampU w v; ⟨r.1.toNat, 0, r.2⟩) := by
  have one : (1 : ℤ) ≤ 2 ^ w := one_le_pow₀ (by norm_num)
  cases sg
  · simp only [satRes, saturate, intMin_eq, intMax_eq, Bool.false_eq_true, if_false, clampU, ofSigned_eq]
    by_cases h1 : v < 0
    · rw [if_pos h1, if_pos h1]
      simp
    · rw [if_neg h1, if_neg h1]
      by_cases h2 : 2 ^ w ≤ v
      · rw [if_pos h2, if_pos (by omega)]
        congr 1
        rw [BitVec.toNat_ofInt, BitVec.toNat_allOnes]
        push_cast
        rw [Int.emod_eq_of_lt (by omega) (by omega)]
        have : ((2 ^ w - 1 : ℕ) : ℤ) = 2 ^ w - 1 := by push_cast [Nat.one_le_two_pow]; ring
        omega
      · rw [if_neg h2, if_neg (by omega)]
  · simp only [satRes, saturate, intMin_eq, intMax_eq, if_true, clampS, ofSigned_eq]
    by_cases h1 : v < -2 ^ (w - 1)
    · rw [if_pos h1, if_pos h1]
    · rw [if_neg h1, if_neg h1]
      by_cases h2 : 2 ^ (w - 1) ≤ v
      · rw [if_pos h2, if_pos (by omega)]
      · rw [if_neg h2, if_neg (by omega)]

theorem fmtOf_kind {c : ℕ} {F : Fmt} (h : fmtOf c = some F) : F.kind ≠ .e2m1 := by
  unfold fmtOf at h
  split at h <;> cases h <;> decide

/-- CVT of one element. -/
theorem convert_eq (src dst rm sub : ℕ) {b : ℕ} (hb : b < 2 ^ efWidth src) : convert src dst rm sub b = specConvert src dst rm sub b := by
  unfold convert specConvert
  simp only [intOf_eq]
  by_cases hs : src ≤ 7 <;> by_cases hd : dst ≤ 7 <;> simp only [hs, hd, if_true, if_false]
  · rw [satRes_eq, intVal_eq (efWidth_pos src).ne' hb]
  · cases hF : fmtOf dst with
    | none => rfl
    | some F => simp only [intVal_eq (efWidth_pos src).ne' hb, roundVal_eq (fmtOf_kind hF)]; rfl
  · cases hF : fmtOf src with
    | none => rfl
    | some F => simp only [toInt_eq]; rfl
  · cases hF : fmtOf src with
    | none => rfl
    | some F => cases hG : fmtOf dst with
      | none => rfl
      | some G => simp only [roundVal_eq (fmtOf_kind hG)]; rfl

/-- Every E2M1 pattern is finite. -/
theorem unpack_e2m1 (b : ℕ) : ∃ n m e, unpack fpE2M1 b = .fin n m e := by
  unfold unpack
  simp only [show fpE2M1.kind = .e2m1 from rfl, reduceCtorEq, false_and, if_false]
  split
  · exact ⟨_, _, _, rfl⟩
  · exact ⟨_, _, _, rfl⟩

/-- VDQMX of one element. -/
theorem mxValue_eq (F : Fmt) (rm sub el sc : ℕ) : mxValue F rm sub el sc = specMx F rm sub el sc := by
  unfold mxValue specMx
  split
  · rfl
  · obtain ⟨n, m, e, h⟩ := unpack_e2m1 el
    rw [h]
    simp only [FVal.over, FVal.exact]
    rw [show e - (127 - (sc : ℤ)) = e + (sc - 127) by ring]

end Sys2Proof.Machine
end

section
/-! The conversion instructions and VQMX (R20, R21, R211 to R216; Machine/VecConvert.lean): O35. -/

open Sys2Proof Sys2Proof.Machine

namespace Sys2Proof.Machine

theorem runCvtSr_eq (x : VArgs) (q : QEntry) (h : Hart) (t : State) {F G : Fmt} (hF : fmtOf x.c.toNat = some F)
    (hG : fmtOf q.ef = some G) : runCvtSr x q h t = pureV q h t (decide (8 ≤ q.ef) && decide (q.ef ≤ 12) && decide (10 ≤ x.c.toNat)
        && decide (x.c.toNat ≤ 13) && x.c.toNat != q.ef && q.regsOk [x.d, x.a, x.b]) fun h =>
      h.writeElems q x.me x.m x.d q.w (q.vb / max (max (efWidth x.c.toNat) q.w) 32) fun e =>
        .fp (sroundVal G q.sub (operand F q.sub (h.el x.a (efWidth x.c.toNat) e)) (h.el x.b 32 e)) := by
  unfold runCvtSr
  dsimp only
  rw [hF, hG]
theorem runVdqmx_eq (x : VArgs) (q : QEntry) (h : Hart) (t : State) {F : Fmt} (hF : fmtOf x.c.toNat = some F) :
    runVdqmx x q h t = pureV q h t (q.fresh && q.ef == 14 && decide (10 ≤ x.c.toNat) && decide (x.c.toNat ≤ 12)
        && q.regsOk [x.d, x.a, x.b] && x.b != x.a) fun h =>
      h.writeElems q false 0 x.d (efWidth x.c.toNat) (q.vb / (efWidth x.c.toNat * q.blk) * q.blk) fun e =>
        .fp (mxValue F q.rm q.sub (h.el x.a 4 e) (h.scaleByte q x.b x.a (e / q.blk))) := by
  unfold runVdqmx
  dsimp only
  rw [hF]

/-- Block j of VQMX's operand, quantised. -/
def Hart.mxBlockOf (h : Hart) (q : QEntry) (x : VArgs) (F : Fmt) (j : ℕ) : ℕ × List ℕ × Flags :=
  mxBlock q.rm ((List.range q.blk).map fun i => operand F q.sub (h.el x.a (efWidth x.c.toNat) (j * q.blk + i)))
/-- The hart after VQMX of n blocks. -/
def Hart.quantised (h : Hart) (q : QEntry) (x : VArgs) (block : ℕ → ℕ × List ℕ × Flags) (n : ℕ) : Hart :=
  let h2 := (h.setVReg x.d.toNat (4 * (n * q.blk)) (packElems 4 ((List.range n).flatMap fun j => (block j).2.1))).setVReg x.b.toNat
    (max (h.vfill x.b) (q.scaleAt x.d n)) ((List.range n).foldl (fun v j => splice v (q.scaleAt x.d j) 8 (block j).1) (h.vbits x.b))
  { h2 with fcsr := (List.range n).foldl (fun c j => c ||| (block j).2.2.setWidth 64) h.fcsr }

theorem runVqmx_eq (x : VArgs) (q : QEntry) (h : Hart) (t : State) {F : Fmt} (hF : fmtOf x.c.toNat = some F) :
    runVqmx x q h t = pureV q h t (q.fresh && q.ef == 14 && decide (10 ≤ x.c.toNat) && decide (x.c.toNat ≤ 12)
        && q.regsOk [x.d, x.a, x.b] && x.b != x.a && x.b != x.d) fun h =>
      h.quantised q x (h.mxBlockOf q x F) (q.vb / (efWidth x.c.toNat * q.blk)) := by
  unfold runVqmx
  dsimp only
  rw [hF]
  dsimp only
  congr 1
  funext h
  rw [Hart.foldl_accrue, List.foldl_map, List.flatMap_map, zipIdx_map_range, List.foldl_map]
  rfl

/-- What VQMX leaves of its registers: elements and scale bytes of the blocks, and no other bit. -/
theorem Hart.quantised_spec (h : Hart) (q : QEntry) (x : VArgs) (hdb : x.b ≠ x.d) {block : ℕ → ℕ × List ℕ × Flags} {n : ℕ}
    (fits : ∀ j < n, (block j).1 < 2 ^ 8 ∧ (block j).2.1.length = q.blk ∧ ∀ e ∈ (block j).2.1, e < 2 ^ 4) :
    let h' := h.quantised q x block n
    h'.vfill x.d = 4 * (n * q.blk) ∧ h'.vfill x.b = max (h.vfill x.b) (q.scaleAt x.d n) ∧
      (∀ j < n, slice (h'.vbits x.b) (q.scaleAt x.d j) 8 = (block j).1 ∧
        ∀ i < q.blk, h'.el x.d 4 (j * q.blk + i) = (block j).2.1.getD i 0) ∧
      (∀ i, i < q.scaleAt x.d 0 ∨ q.scaleAt x.d n ≤ i →
        (h'.vbits x.b).testBit i = (decide (i < h'.vfill x.b) && (h.vbits x.b).testBit i)) ∧
      ∀ r, r ≠ x.d.toNat → r ≠ x.b.toNat → h'.vreg r = h.vreg r := by
  have hne : x.d.toNat ≠ x.b.toNat := fun e => hdb (BitVec.eq_of_toNat_eq e.symm)
  intro h'
  have regD : h'.vreg x.d.toNat = ⟨4 * (n * q.blk), packElems 4 ((List.range n).flatMap fun j => (block j).2.1) % 2 ^ (4 * (n * q.blk))⟩ :=
    (Hart.vreg_setVReg_ne _ _ _ hne).trans (Hart.vreg_setVReg_same ..)
  have regB : h'.vreg x.b.toNat = ⟨max (h.vfill x.b) (q.scaleAt x.d n),
      (List.range n).foldl (fun v j => splice v (q.scaleAt x.d j) 8 (block j).1) (h.vbits x.b) % 2 ^ max (h.vfill x.b) (q.scaleAt x.d n)⟩ :=
    Hart.vreg_setVReg_same ..
  have fillB : h'.vfill x.b = max (h.vfill x.b) (q.scaleAt x.d n) := congrArg VReg.fill regB
  have len : ((List.range n).flatMap fun j => (block j).2.1).length = n * q.blk := length_flatMap_blocks fun j hj => (fits j hj).2.1
  have at0 : q.scaleAt x.d 0 = q.partOf x.d * q.partBits := rfl
  have bit : ∀ i, (h'.vbits x.b).testBit i = (decide (i < max (h.vfill x.b) (q.scaleAt x.d n)) &&
      if q.scaleAt x.d 0 ≤ i ∧ i < q.scaleAt x.d 0 + 8 * n then (block ((i - q.scaleAt x.d 0) / 8)).1.testBit ((i - q.scaleAt x.d 0) % 8)
      else (h.vbits x.b).testBit i) := by
    intro i
    rw [Hart.vbits, regB, Nat.testBit_mod_two_pow, at0]
    exact congrArg _ (testBit_foldl_bytes (fun j => (block j).1) (q.partOf x.d * q.partBits) n (h.vbits x.b) i)
  refine ⟨congrArg VReg.fill regD, fillB, fun j hj => ⟨?_, fun i hi => ?_⟩, fun i hi => ?_, fun r hd hb => ?_⟩
  · refine slice_of_bytes (f := fun j => (block j).1) (lo := q.scaleAt x.d 0) (n := n) (fun i h1 h2 => ?_) hj (fits j hj).1
    rw [bit, if_pos ⟨h1, h2⟩, decide_eq_true, Bool.true_and]
    exact lt_max_of_lt_right h2
  · have hlt : j * q.blk + i < n * q.blk := by nlinarith
    have bits := packElems_lt 4 ((List.range n).flatMap fun j => (block j).2.1)
    rw [len, mul_comm _ 4] at bits
    rw [Hart.el, Hart.vbits, regD, Nat.mod_eq_of_lt bits, elem_packElems 4 (by rwa [len])]
    have get := getElem?_flatMap_blocks (f := fun j => (block j).2.1) (fun j hj => (fits j hj).2.1) hj hi
    have hi' : i < (block j).2.1.length := by rwa [(fits j hj).2.1]
    rw [List.getElem?_eq_getElem (by rwa [len]), List.getElem?_eq_getElem hi', Option.some_inj] at get
    rw [get, Nat.mod_eq_of_lt ((fits j hj).2.2 _ (List.getElem_mem hi')), List.getD_eq_getElem _ _ hi']
  · rw [bit, if_neg (by rintro ⟨h1, h2⟩; exact hi.elim (not_lt.2 h1) (not_le.2 h2)), fillB]
  · exact (Hart.vreg_setVReg_ne _ _ _ hb).trans (Hart.vreg_setVReg_ne _ _ _ hd)

section
variable {s : State} (hs : s.vecReady) (x : VArgs)
include hs

theorem cvt_answers (hl : s.me.legal (.cvt x) = true) : s.vecAnswers (.cvt x) fun h' =>
    s.me.elementwise h' x.me x.m x.d s.me.w (s.me.vec.vb / max (efWidth x.c.toNat) s.me.w) fun e =>
      specConvert x.c.toNat s.me.ef (vtRM s.me.vtype) (vtSUB s.me.vtype) (s.me.el x.a (efWidth x.c.toNat) e) :=
  vecAnswers_elements hs rfl (fun _ _ => rfl) hl fun _ => convert_eq _ _ _ _ (Hart.el_lt ..)

theorem cvtSr_answers {F G : Fmt} (hF : fmtOf x.c.toNat = some F) (hG : fmtOf s.me.ef = some G)
    (hl : s.me.legal (.cvtSr x) = true) : s.vecAnswers (.cvtSr x) fun h' =>
    s.me.elementwise h' x.me x.m x.d s.me.w (s.me.vec.vb / max (max (efWidth x.c.toNat) s.me.w) 32) fun e =>
      let r := sroundVal G (vtSUB s.me.vtype) (operand F (vtSUB s.me.vtype) (s.me.el x.a (efWidth x.c.toNat) e)) (s.me.el x.b 32 e)
      ⟨r.1, r.2, false⟩ := by
  exact vecAnswers_elements hs (i := .cvtSr x) rfl (fun h t => runCvtSr_eq x (s.vecEntry (.cvtSr x) x) h t hF hG) hl fun _ => rfl

theorem vexpand4_answers (hl : s.me.legal (.vexpand4 x) = true) : s.vecAnswers (.vexpand4 x) fun h' =>
    s.me.elementwise h' x.me x.m x.d 8 (s.me.vec.vb / 8) fun e =>
      ⟨(specRound fp8e4m3 0 0 (specOfInt (BitVec.ofNat 4 (s.me.el x.a 4 e)).toInt)).1, 0, false⟩ := by
  refine vecAnswers_elements hs rfl (fun _ _ => rfl) hl fun e => ?_
  rw [← toSigned_eq (by decide), ← roundVal_eq (by decide)]
  rfl

theorem vexpand6_answers (hl : s.me.legal (.vexpand6 x) = true) : s.vecAnswers (.vexpand6 x) fun h' =>
    s.me.elementwise h' x.me x.m x.d 8 (s.me.vec.vb / 8) fun e =>
      ⟨if x.c = 0 then (specRound fp8e5m2 0 0 (unpack fp6e3m2 (s.me.el x.a 6 e))).1
       else (specRound fp8e4m3 0 0 (unpack fp6e2m3 (s.me.el x.a 6 e))).1, 0, false⟩ := by
  have hok : ((s.vecEntry (.vexpand6 x) x).ef == (if x.c == 0 then 9 else 8) && (s.vecEntry (.vexpand6 x) x).regsOk [x.d, x.a]) = true := by
    simp only [beq_iff_eq]
    exact hl
  refine vecAnswers_elements hs rfl (fun _ _ => rfl) hok fun e => ?_
  rw [← roundVal_eq (by decide), ← roundVal_eq (by decide)]
  by_cases hc : x.c = 0
  · rw [if_pos hc, hc]; rfl
  · rw [if_neg hc, beq_eq_false_iff_ne.2 hc]; rfl

theorem vrng_answers (hl : s.me.legal (.vrng x) = true) : s.vecAnswers (.vrng x) fun h' =>
    s.me.elementwise h' x.me x.m x.d s.me.w s.me.count fun e =>
      ⟨(mix (s.me.getG x.a) (s.me.getG x.b + BitVec.ofNat 64 e)).toNat % 2 ^ s.me.w, 0, false⟩ :=
  vecAnswers_elements hs rfl (fun _ _ => rfl) hl fun _ => rfl

theorem vclass_answers {F : Fmt} (hF : fmtOf s.me.ef = some F) (hl : s.me.legal (.vclass x) = true) :
    s.vecAnswers (.vclass x) fun h' => s.me.elementwise h' x.me x.m x.d s.me.w s.me.count fun e =>
      ⟨2 ^ specClass F (unpack F (s.me.el x.a s.me.w e)), 0, false⟩ := by
  obtain rfl : F = (fmtOf s.me.ef).getD fp32 := by rw [hF]; rfl
  exact vecAnswers_elements hs rfl (fun _ _ => rfl) hl fun e => congrArg ERes.of (classBits_eq _ _)

theorem vdqmx_answers {F : Fmt} (hF : fmtOf x.c.toNat = some F) (hl : s.me.legal (.vdqmx x) = true) :
    s.vecAnswers (.vdqmx x) fun h' => s.me.elementwise h' false 0 x.d (efWidth x.c.toNat)
      (s.me.vec.vb / (efWidth x.c.toNat * s.me.blk) * s.me.blk) fun e =>
        let r := specMx F (vtRM s.me.vtype) (vtSUB s.me.vtype) (s.me.el x.a 4 e)
          (slice (s.me.vbits x.b) (x.a.toNat % (s.me.blk / 2) * (8 * (s.me.vec.vb / (4 * s.me.blk))) + 8 * (e / s.me.blk)) 8)
        ⟨r.1, r.2, false⟩ :=
  vecAnswers_elements hs (i := .vdqmx x) rfl (fun h t => runVdqmx_eq x (s.vecEntry (.vdqmx x) x) h t hF) hl fun _ =>
    congrArg ERes.fp (mxValue_eq ..)

end

/-- Settles O35, instruction by instruction. -/
theorem vectorConversions : Obligations.VectorConversions := by
  unfold Obligations.VectorConversions
  intro x s hs
  refine ⟨cvt_answers hs x, fun F G hF hG => cvtSr_answers hs x hF hG, vexpand4_answers hs x, vexpand6_answers hs x, vrng_answers hs x,
    fun F hF => vclass_answers hs x hF, fun F hF => vdqmx_answers hs x hF, fun F hF hl => ?_⟩
  have hdb : x.b ≠ x.d := by
    have : s.me.legal (.vqmx x) = (_ && x.b != x.d) := rfl
    rw [this, Bool.and_eq_true_iff] at hl
    simpa using hl.2
  refine vecAnswers_pure hs (i := .vqmx x) (x := x) rfl (fun h t => runVqmx_eq x (s.vecEntry (.vqmx x) x) h t hF) hl rfl ?_
  obtain ⟨fillD, fillB, blocks, others, regs⟩ := (s.vecIssued (.vqmx x) x).quantised_spec (s.vecEntry (.vqmx x) x) x hdb
    (block := (s.vecIssued (.vqmx x) x).mxBlockOf (s.vecEntry (.vqmx x) x) x F)
    (n := s.me.vec.vb / (efWidth x.c.toNat * s.me.blk)) (fun j _ => by
      obtain ⟨h1, h2, h3⟩ := mxBlock_fits (s.vecEntry (.vqmx x) x).rm ((List.range (s.vecEntry (.vqmx x) x).blk).map fun i =>
        operand F (s.vecEntry (.vqmx x) x).sub ((s.vecIssued (.vqmx x) x).el x.a (efWidth x.c.toNat) (j * (s.vecEntry (.vqmx x) x).blk + i)))
      exact ⟨h1, h2.trans (by simp), h3⟩)
  exact ⟨_, fun j _ => mxBlock_spec _ _, fillD, fillB, blocks, others, regs, rfl, rfl, rfl, rfl⟩

end Sys2Proof.Machine
end

section
/-! Slides, permutations and VCOMPRESS (R217 to R219; Machine/VecPermute.lean): O36, first part. -/

open Sys2Proof Sys2Proof.Machine

namespace Sys2Proof.Machine

/-- The number of one bits below bit n is the number of positions with one. -/
theorem popcountTo_eq (n v : ℕ) : popcountTo n v = ((List.range n).filter fun i => v.testBit i).length := by
  induction n generalizing v with
  | zero => rfl
  | succ n ih =>
    have shift : ((List.range n).map Nat.succ).filter (fun i => v.testBit i) =
        ((List.range n).filter fun i => (v / 2).testBit i).map Nat.succ := by
      rw [List.filter_map]
      congr 1
      exact List.filter_congr fun i _ => Nat.testBit_succ ..
    rw [popcountTo, ih, List.range_succ_eq_map, List.filter_cons, shift]
    rcases Nat.mod_two_eq_zero_or_one v with h | h
    · rw [if_neg (by simp [Nat.testBit_zero, h]), List.length_map, h, zero_add]
    · rw [if_pos (by simp [Nat.testBit_zero, h]), List.length_cons, List.length_map, h, add_comm]

theorem Hart.activeBelow_eq (h : Hart) (me : Bool) (m : BitVec 4) (e : ℕ) :
    h.activeBelow me m e = ((List.range e).filter fun i => !me || (h.mreg m.toNat).testBit i).length := by
  cases me
  · simp [Hart.activeBelow]
  · simp [Hart.activeBelow, popcountTo_eq]

theorem Hart.el_ite (h : Hart) (c : Prop) [Decidable c] (a b : Reg) (w e : ℕ) :
    h.el (if c then a else b) w e = if c then h.el a w e else h.el b w e := by split <;> rfl

section
variable {s : State} (hs : s.vecReady) (x : VArgs)
include hs

/-- A permutation writes the element that its row names. -/
theorem vperm_answers {i : Instr} (hi : exec i s = vecIssue i x.a x.b x.c x.d s) {ok : Bool} {n : ℕ} {g : Hart → ℕ → ℕ}
    (hr : ∀ h t, runEntry s.cur (s.vecEntry i x) h t = vperm x (s.vecEntry i x) h t ok n g)
    (hok : (decide (s.me.ef ≤ 15) && ok) = true) {f : ℕ → ℕ} (hf : ∀ e, g (s.vecIssued i x) e = f e) :
    s.vecAnswers i fun h' => s.me.elementwise h' x.me x.m x.d s.me.w n fun e => ⟨f e, 0, false⟩ :=
  vecAnswers_elements hs hi hr hok fun e => congrArg ERes.of (hf e)

theorem vecPermutes_answers {p : (VArgs → Instr) × (VArgs → Hart → ℕ) × (VArgs → Hart → ℕ → ℕ)} (hp : p ∈ vecPermutes)
    (hl : s.me.legal (p.1 x) = true) : s.vecAnswers (p.1 x) fun h' =>
      s.me.elementwise h' x.me x.m x.d s.me.w (p.2.1 x s.me) fun e => ⟨p.2.2 x s.me e, 0, false⟩ := by
  simp only [vecPermutes, List.mem_cons, List.not_mem_nil, or_false] at hp
  rcases hp with rfl | rfl | rfl | rfl | rfl | rfl | rfl | rfl
  · exact vperm_answers hs x rfl (fun _ _ => rfl) ((Bool.and_assoc ..).symm.trans hl) fun e => rfl
  · exact vperm_answers hs x rfl (fun _ _ => rfl) ((Bool.and_assoc ..).symm.trans hl) fun e => rfl
  · exact vperm_answers hs x rfl (fun _ _ => rfl) hl fun e => rfl
  · exact vperm_answers hs x rfl (fun _ _ => rfl) hl fun e => congrArg _ (s.me.activeBelow_eq ..)
  · exact vperm_answers hs x rfl (fun _ _ => rfl) ((Bool.and_assoc ..).symm.trans hl) fun e => rfl
  · exact vperm_answers hs x rfl (fun _ _ => rfl) ((Bool.and_assoc ..).symm.trans hl) fun e =>
      congrArg (ite _ 0) (s.me.el_ite ..)
  · exact vperm_answers hs x rfl (fun _ _ => rfl) ((Bool.and_assoc ..).symm.trans hl) fun e => rfl
  · exact vperm_answers hs x rfl (fun _ _ => rfl) ((Bool.and_assoc ..).symm.trans hl) fun e => rfl

/-- VCOMPRESS packs the active elements. -/
theorem vcompress_answers (hl : s.me.legal (.vcompress x) = true) : s.vecAnswers (.vcompress x) fun h' =>
    s.me.onlyVReg h' x.d ∧ h'.fcsr = s.me.fcsr ∧ h'.vstat = s.me.vstat ∧ h'.vfill x.d = (s.me.lively x).length * s.me.w ∧
      ∀ i (hi : i < (s.me.lively x).length), h'.el x.d s.me.w i = s.me.el x.a s.me.w ((s.me.lively x)[i]) := by
  refine vecAnswers_pure hs (i := .vcompress x) (x := x) rfl (fun _ _ => rfl) hl rfl ?_
  have reg := (s.vecIssued (.vcompress x) x).vreg_setVReg_same x.d.toNat (((s.me.lively x).map (s.me.el x.a s.me.w)).length * s.me.w)
    (packElems s.me.w ((s.me.lively x).map (s.me.el x.a s.me.w)))
  rw [Nat.mod_eq_of_lt (packElems_lt _ _)] at reg
  refine ⟨⟨fun r hr => Hart.vreg_setVReg_ne _ _ _ hr, rfl, rfl⟩, rfl, rfl, (congrArg VReg.fill reg).trans (by rw [List.length_map]),
    fun i hi => (congrArg (fun v => elem v s.me.w i) (congrArg VReg.bits reg)).trans ?_⟩
  rw [elem_packElems _ (by rwa [List.length_map]), List.getElem_map, Nat.mod_eq_of_lt (Hart.el_lt ..)]

end

end Sys2Proof.Machine
end

section
/-! VTRANS (R21, R220; Machine/VecPermute.lean): O36. -/

open Sys2Proof Sys2Proof.Machine

namespace Sys2Proof.Machine

/-! ## Writing vector registers alone -/

/-- Only vector registers differ. -/
def Hart.onlyV (h h' : Hart) : Prop := h' = { h with vec := { h.vec with v := h'.vec.v } }

theorem Hart.onlyV_setVReg {h h' : Hart} (k : h.onlyV h') (r n v : ℕ) : h.onlyV (h'.setVReg r n v) := by
  unfold Hart.onlyV at k ⊢
  rw [k]
  rfl
theorem Hart.onlyV.keeps {h h' : Hart} (k : h.onlyV h') : h.keeps h' := by
  unfold Hart.onlyV at k
  unfold Hart.keeps
  rw [k]
theorem Hart.onlyV.others {h h' : Hart} (k : h.onlyV h') :
    h'.vec.m = h.vec.m ∧ h'.g = h.g ∧ h'.fcsr = h.fcsr ∧ h'.vstat = h.vstat := by
  unfold Hart.onlyV at k
  rw [k]
  exact ⟨rfl, rfl, rfl, rfl⟩

/-- Registers written one after another. -/
theorem vreg_foldl_setVReg (h : Hart) (d vb : ℕ) (f : ℕ → ℕ) (n : ℕ) :
    h.onlyV ((List.range n).foldl (fun (h1 : Hart) r => h1.setVReg (d + r) vb (f r)) h) ∧
      ∀ k, ((List.range n).foldl (fun (h1 : Hart) r => h1.setVReg (d + r) vb (f r)) h).vreg k =
        if d ≤ k ∧ k < d + n then ⟨vb, f (k - d) % 2 ^ vb⟩ else h.vreg k := by
  induction n with
  | zero => exact ⟨rfl, fun k => by simp⟩
  | succ n ih =>
    obtain ⟨only, regs⟩ := ih
    rw [List.range_succ, List.foldl_append, List.foldl_cons, List.foldl_nil]
    refine ⟨Hart.onlyV_setVReg only _ _ _, fun k => ?_⟩
    by_cases hk : k = d + n
    · subst hk
      rw [Hart.vreg_setVReg_same, if_pos (by omega), Nat.add_sub_cancel_left]
    · rw [Hart.vreg_setVReg_ne _ _ _ hk, regs]
      by_cases h' : d ≤ k ∧ k < d + n
      · rw [if_pos h', if_pos (by omega)]
      · rw [if_neg h', if_neg (by omega)]

/-! ## Tiles -/

section
variable (h : Hart) (q : QEntry) (d : Reg)

/-- A transposition leaves each cell in its place, and the other registers as they were. -/
theorem Hart.transpose_spec {w n vb : ℕ} (hn : n * w ≤ vb) :
    h.onlyV (h.transpose d w n vb) ∧
      (∀ r < 8, ((h.transpose d w n vb).vreg (d.toNat + r)).fill = vb ∧
        ∀ e < n, elem ((h.transpose d w n vb).vreg (d.toNat + r)).bits w e = h.el (tileReg d (e % 8)) w (e / 8 * 8 + r)) ∧
      ∀ k, k < d.toNat ∨ d.toNat + 8 ≤ k → (h.transpose d w n vb).vreg k = h.vreg k := by
  obtain ⟨only, regs⟩ := vreg_foldl_setVReg h d.toNat vb
    (fun r => packElems w ((List.range n).map fun e => h.el (tileReg d (e % 8)) w (e / 8 * 8 + r))) 8
  refine ⟨only, fun r hr => ?_, fun k hk => (regs k).trans (if_neg (by omega))⟩
  have reg := regs (d.toNat + r)
  rw [if_pos (by omega), Nat.add_sub_cancel_left, Nat.mod_eq_of_lt] at reg
  · refine ⟨congrArg VReg.fill reg, fun e he => (congrArg (fun v => elem v w e) (congrArg VReg.bits reg)).trans ?_⟩
    rw [elem_packElems _ (by simpa using he), List.getElem_map, List.getElem_range, Nat.mod_eq_of_lt (Hart.el_lt ..)]
  · refine (packElems_lt _ _).trans_le (Nat.pow_le_pow_right two_pos ?_)
    rwa [List.length_map, List.length_range]

theorem tileReg_toNat (h8 : d.toNat % 8 = 0) {r : ℕ} (hr : r < 8) : (tileReg d r).toNat = d.toNat + r := by
  have := d.isLt
  rw [tileReg, BitVec.toNat_ofNat]
  exact Nat.mod_eq_of_lt (by omega)

theorem blockLen_cases (b : ℕ) : blockLen b = 32 ∨ blockLen b = 16 ∨ blockLen b = 64 := by
  unfold blockLen
  split <;> simp

/-- The scale bytes of a tile's registers lie one after another. -/
theorem scaleAt_tileReg (h8 : d.toNat % 8 = 0) {r : ℕ} (hr : r < 8) (b : ℕ) :
    q.scaleAt (tileReg d r) b = q.scaleAt (tileReg d 0) 0 + q.partBits * r + 8 * b := by
  have part : q.partOf (tileReg d r) = q.partOf (tileReg d 0) + r := by
    rw [QEntry.partOf, QEntry.partOf, tileReg_toNat d h8 hr, tileReg_toNat d h8 (by omega)]
    rcases blockLen_cases (vtBLK q.vtype) with hb | hb | hb <;> rw [QEntry.blk, hb] <;> omega
  rw [QEntry.scaleAt, QEntry.scaleAt, part]
  ring

/-- The greatest of rising numbers is the last. -/
theorem foldl_max_range {g : ℕ → ℕ} (n a : ℕ) (hg : ∀ r < n, g r ≤ g (r + 1)) :
    (List.range (n + 1)).foldl (fun f r => max f (g r)) a = max a (g n) := by
  induction n with
  | zero => rfl
  | succ n ih =>
    rw [List.range_succ, List.foldl_append, ih fun r hr => hg r (hr.trans (Nat.lt_succ_self n)), List.foldl_cons, List.foldl_nil, max_assoc,
      max_eq_right (hg n (Nat.lt_succ_self n))]

theorem Hart.tileScale_lt (sc : Reg) (c j : ℕ) : h.tileScale q d sc c j < 2 ^ 8 := by
  unfold Hart.tileScale
  split
  · norm_num
  · exact Nat.mod_lt _ (by positivity)

/-- The scale register after a transposition: its fill and its bits. -/
def Hart.tileFill (sc : Reg) : ℕ :=
  (List.range 8).foldl (fun f r => max f (q.scaleAt (tileReg d r) (q.vb / (4 * q.blk)))) (h.vfill sc)
def Hart.tileBits (sc : Reg) : ℕ :=
  (List.range 8).foldl (fun v r => (List.range (q.vb / (4 * q.blk))).foldl (fun v b =>
    splice v (q.scaleAt (tileReg d r) b) 8 (h.tileScale q d sc (b % 8) (b / 8 * 8 + r))) v) (h.vbits sc)

theorem Hart.transposeMx_eq (sc : Reg) : h.transposeMx q d sc =
    (h.transpose d (4 * q.blk) (q.vb / (4 * q.blk)) q.vb).setVReg sc.toNat (h.tileFill q d sc) (h.tileBits q d sc) := rfl

theorem Hart.tileFill_eq (sc : Reg) (h8 : d.toNat % 8 = 0) :
    h.tileFill q d sc = max (h.vfill sc) (q.scaleAt (tileReg d 7) (q.vb / (4 * q.blk))) := by
  refine foldl_max_range (g := fun r => q.scaleAt (tileReg d r) (q.vb / (4 * q.blk))) 7 _ fun r hr => ?_
  rw [scaleAt_tileReg q d h8 (show r < 8 by omega), scaleAt_tileReg q d h8 (show r + 1 < 8 by omega), Nat.mul_succ]
  omega

/-- The scale bytes that a transposition moves, of register r and block b in the place for them. -/
theorem Hart.tileBits_testBit (sc : Reg) (h8 : d.toNat % 8 = 0) (i : ℕ) : (h.tileBits q d sc).testBit i =
    if q.scaleAt (tileReg d 0) 0 ≤ i ∧ i < q.scaleAt (tileReg d 0) 0 + q.partBits * 8 then
      (h.tileScale q d sc ((i - q.scaleAt (tileReg d 0) 0) % q.partBits / 8 % 8)
        ((i - q.scaleAt (tileReg d 0) 0) % q.partBits / 8 / 8 * 8 + (i - q.scaleAt (tileReg d 0) 0) / q.partBits)).testBit
        ((i - q.scaleAt (tileReg d 0) 0) % q.partBits % 8)
    else (h.vbits sc).testBit i := by
  refine testBit_foldl_blocks (F := fun r k => (h.tileScale q d sc (k / 8 % 8) (k / 8 / 8 * 8 + r)).testBit (k % 8)) 8
    (fun v r hr i => ?_) (h.vbits sc) i
  have places : (fun v b => splice v (q.scaleAt (tileReg d r) b) 8 (h.tileScale q d sc (b % 8) (b / 8 * 8 + r))) =
      fun v b => splice v (q.scaleAt (tileReg d 0) 0 + q.partBits * r + 8 * b) 8 (h.tileScale q d sc (b % 8) (b / 8 * 8 + r)) := by
    funext v b
    rw [scaleAt_tileReg q d h8 hr]
  rw [places, testBit_foldl_bytes fun b => h.tileScale q d sc (b % 8) (b / 8 * 8 + r)]
  rw [show q.partBits * (r + 1) = q.partBits * r + 8 * (q.vb / (4 * q.blk)) from Nat.mul_succ .., ← add_assoc]

/-- A transposition of blocks moves their scale bytes too. -/
theorem Hart.transposeMx_spec (sc : Reg) (h8 : d.toNat % 8 = 0) :
    h.onlyV (h.transposeMx q d sc) ∧
      (∀ k, k ≠ sc.toNat → (h.transposeMx q d sc).vreg k = (h.transpose d (4 * q.blk) (q.vb / (4 * q.blk)) q.vb).vreg k) ∧
      (∀ r < 8, ∀ b < q.vb / (4 * q.blk), slice ((h.transposeMx q d sc).vbits sc) (q.scaleAt (tileReg d r) b) 8 =
        h.tileScale q d sc (b % 8) (b / 8 * 8 + r)) ∧
      (h.transposeMx q d sc).vfill sc = max (h.vfill sc) (q.scaleAt (tileReg d 7) (q.vb / (4 * q.blk))) ∧
      ∀ i, i < q.scaleAt (tileReg d 0) 0 ∨ q.scaleAt (tileReg d 7) (q.vb / (4 * q.blk)) ≤ i →
        ((h.transposeMx q d sc).vbits sc).testBit i = (decide (i < (h.transposeMx q d sc).vfill sc) && (h.vbits sc).testBit i) := by
  have last : q.scaleAt (tileReg d 7) (q.vb / (4 * q.blk)) = q.scaleAt (tileReg d 0) 0 + q.partBits * 8 := by
    rw [scaleAt_tileReg q d h8 (by omega), show 8 * (q.vb / (4 * q.blk)) = q.partBits from rfl]
    ring
  have reg : (h.transposeMx q d sc).vreg sc.toNat = ⟨h.tileFill q d sc, h.tileBits q d sc % 2 ^ h.tileFill q d sc⟩ := by
    rw [Hart.transposeMx_eq]
    exact Hart.vreg_setVReg_same ..
  have fill : (h.transposeMx q d sc).vfill sc = h.tileFill q d sc := by rw [Hart.vfill, reg]
  have bit : ∀ i, ((h.transposeMx q d sc).vbits sc).testBit i = (decide (i < h.tileFill q d sc) && (h.tileBits q d sc).testBit i) := by
    intro i
    rw [Hart.vbits, reg, Nat.testBit_mod_two_pow]
  rw [fill]
  refine ⟨?_, fun k hk => ?_, fun r hr b hb => ?_, h.tileFill_eq q d sc h8, fun i hi => ?_⟩
  · rw [Hart.transposeMx_eq]
    exact Hart.onlyV_setVReg (h.transpose_spec d (Nat.div_mul_le_self q.vb (4 * q.blk))).1 _ _ _
  · rw [Hart.transposeMx_eq]
    exact Hart.vreg_setVReg_ne _ _ _ hk
  · have width : q.partBits = 8 * (q.vb / (4 * q.blk)) := rfl
    rw [scaleAt_tileReg q d h8 hr]
    refine slice_of_bytes (f := fun b => h.tileScale q d sc (b % 8) (b / 8 * 8 + r)) (fun i h1 h2 => ?_) hb (h.tileScale_lt q d sc _ _)
    obtain ⟨k, rfl⟩ : ∃ k, i = q.scaleAt (tileReg d 0) 0 + q.partBits * r + k :=
      ⟨i - (q.scaleAt (tileReg d 0) 0 + q.partBits * r), by omega⟩
    have hk : k < q.partBits := by omega
    have inside : q.scaleAt (tileReg d 0) 0 + q.partBits * r + k < q.scaleAt (tileReg d 0) 0 + q.partBits * 8 := by nlinarith
    rw [bit, decide_eq_true (by rw [h.tileFill_eq q d sc h8, last]; exact lt_max_of_lt_right inside), Bool.true_and,
      h.tileBits_testBit q d sc h8, if_pos ⟨by omega, inside⟩, Nat.add_sub_cancel_left, add_assoc, Nat.add_sub_cancel_left,
      Nat.mul_add_div (by omega), Nat.mul_add_mod, Nat.div_eq_of_lt hk, Nat.mod_eq_of_lt hk, add_zero]
  · rw [bit, h.tileBits_testBit q d sc h8, ← last, if_neg (by omega)]

end

section
variable {s : State} (hs : s.vecReady) (x : VArgs) (hl : s.me.legal (.vtrans x) = true)
include hl

/-- The checks of VTRANS. -/
theorem vtrans_legal : x.d.toNat % 8 = 0 ∧ (s.me.ef = 14 → ¬ (x.d.toNat ≤ x.a.toNat ∧ x.a.toNat < x.d.toNat + 8)) := by
  have hl : (decide (s.me.ef ≤ 15) && s.me.vec.vstart == 0 && x.d.toNat % 8 == 0 && decide (x.d.toNat + 7 < s.me.vec.n) &&
      (if s.me.ef = 14 then s.me.vec.vb % (32 * s.me.blk) == 0 && s.me.has [x.a] &&
        !(decide (x.d.toNat ≤ x.a.toNat) && decide (x.a.toNat < x.d.toNat + 8))
       else s.me.vec.vb % (8 * s.me.w) == 0 && x.a == 0)) = true := hl
  simp only [Bool.and_eq_true, beq_iff_eq] at hl
  obtain ⟨⟨⟨-, h8⟩, -⟩, hif⟩ := hl
  refine ⟨h8, fun h14 => ?_⟩
  rw [if_pos h14, Bool.and_eq_true_iff] at hif
  rintro ⟨h1, h2⟩
  simp [h1, h2] at hif

include hs

/-- VTRANS of elements. -/
theorem vtrans_elements (h14 : s.me.ef ≠ 14) {P : Hart → Prop}
    (hP : P (((s.vecIssued (.vtrans x) x).transpose x.d s.me.w (s.me.vec.vb / s.me.w) s.me.vec.vb).popEntry [])) :
    s.vecAnswers (.vtrans x) P := by
  have only := ((s.vecIssued (.vtrans x) x).transpose_spec x.d (Nat.div_mul_le_self s.me.vec.vb s.me.w)).1
  have hok : s.me.legal (.vtrans x) = (_ && (if s.me.ef = 14 then _ else s.me.vec.vb % (8 * s.me.w) == 0 && x.a == 0)) := rfl
  rw [hok, if_neg h14, ← Bool.and_assoc] at hl
  exact vecAnswers_pure hs (i := .vtrans x) (x := x) (f := fun h => h.transpose x.d s.me.w (s.me.vec.vb / s.me.w) s.me.vec.vb) rfl
    (fun h t => if_neg h14) hl only.keeps hP

/-- VTRANS of blocks with their scale bytes. -/
theorem vtrans_blocks (h14 : s.me.ef = 14) {P : Hart → Prop}
    (hP : P (((s.vecIssued (.vtrans x) x).transposeMx (s.vecEntry (.vtrans x) x) x.d x.a).popEntry [])) :
    s.vecAnswers (.vtrans x) P := by
  have only := ((s.vecIssued (.vtrans x) x).transposeMx_spec (s.vecEntry (.vtrans x) x) x.d x.a (vtrans_legal x hl).1).1
  have hok : s.me.legal (.vtrans x) = (_ && (if s.me.ef = 14 then s.me.vec.vb % (32 * s.me.blk) == 0 && s.me.has [x.a] &&
        !(decide (x.d.toNat ≤ x.a.toNat) && decide (x.a.toNat < x.d.toNat + 8)) else _)) := rfl
  rw [hok, if_pos h14, ← Bool.and_assoc, ← Bool.and_assoc] at hl
  exact vecAnswers_pure hs (i := .vtrans x) (x := x) (f := fun h => h.transposeMx (s.vecEntry (.vtrans x) x) x.d x.a) rfl
    (fun h t => if_pos h14) hl only.keeps hP

end

/-- Settles O36, instruction by instruction. -/
theorem vectorPermutations : Obligations.VectorPermutations := by
  unfold Obligations.VectorPermutations
  intro x s hs
  refine ⟨fun p hp hl => vecPermutes_answers hs x hp hl, vcompress_answers hs x, fun hl => ?_⟩
  obtain ⟨h8, hsc⟩ := vtrans_legal x hl
  have toNat := fun {r : ℕ} (hr : r < 8) => tileReg_toNat x.d h8 hr
  by_cases h14 : s.me.ef = 14
  · obtain ⟨-, cells, regs⟩ := (s.vecIssued (.vtrans x) x).transpose_spec x.d (Nat.div_mul_le_self s.me.vec.vb (4 * s.me.blk))
    obtain ⟨only, same, scales, fill, others⟩ :=
      (s.vecIssued (.vtrans x) x).transposeMx_spec (s.vecEntry (.vtrans x) x) x.d x.a h8
    refine vtrans_blocks hs x hl h14 ?_
    change ∀ k, k ≠ x.a.toNat → Hart.vreg _ k =
      ((s.vecIssued (.vtrans x) x).transpose x.d (4 * s.me.blk) (s.me.vec.vb / (4 * s.me.blk)) s.me.vec.vb).vreg k at same
    generalize (s.vecIssued (.vtrans x) x).transpose x.d (4 * s.me.blk) (s.me.vec.vb / (4 * s.me.blk)) s.me.vec.vb = T at *
    generalize (s.vecIssued (.vtrans x) x).transposeMx (s.vecEntry (.vtrans x) x) x.d x.a = T' at *
    dsimp only
    simp only [if_pos h14]
    refine ⟨fun r hr => ?_, fun k hk hka => (same k (hka h14)).trans (regs k hk), fun _ => ⟨fun r hr b hb => ?_, fill, others⟩, only.others⟩
    · have := cells r hr
      rw [← toNat hr, ← same _ (by rw [toNat hr]; have := hsc h14; omega)] at this
      exact this
    · refine (scales r hr b hb).trans ?_
      rw [Hart.tileScale, mul_assoc]
      rfl
  · obtain ⟨only, cells, regs⟩ := (s.vecIssued (.vtrans x) x).transpose_spec x.d (Nat.div_mul_le_self s.me.vec.vb s.me.w)
    refine vtrans_elements hs x hl h14 ?_
    generalize (s.vecIssued (.vtrans x) x).transpose x.d s.me.w (s.me.vec.vb / s.me.w) s.me.vec.vb = T at *
    dsimp only
    simp only [if_neg h14]
    refine ⟨fun r hr => ?_, fun k hk _ => regs k hk, fun h => absurd h h14, only.others⟩
    have := cells r hr
    rw [← toNat hr] at this
    exact this

end Sys2Proof.Machine
end

section
/-! The trees of reductions and scans (R38, R39; Machine/VecPermute.lean). -/

open Sys2Proof Sys2Proof.Machine

namespace Sys2Proof.Machine

section
variable {α : Type} (op : α → α → α) (x : ℕ → α)

/-! ## The model's lists are the rule's trees -/

/-- The tree of a group of 32. -/
theorem treeOf_map : treeOf op ((List.range 32).map x) = [treeSpec op x 5 0] := rfl

/-- One level of a scan. -/
theorem scanLevel_map (k : ℕ) {n : ℕ} (hk : k ≤ n) : scanLevel op k ((List.range n).map x) =
    (List.range n).map fun i => if i < k then x i else op (x (i - k)) (x i) := by
  refine List.ext_getElem ?_ fun i h1 h2 => ?_
  · simp only [scanLevel, List.length_append, List.length_take, List.length_zipWith, List.length_drop, List.length_map, List.length_range]
    omega
  · simp only [scanLevel, List.getElem_append, List.length_take, List.length_map, List.length_range, List.getElem_take,
      List.getElem_map, List.getElem_range, List.getElem_zipWith, List.getElem_drop, min_eq_left hk]
    by_cases h : i < k
    · simp [h]
    · simp only [h, dif_neg, not_false_eq_true, if_false]
      rw [Nat.add_sub_cancel' (not_lt.1 h)]

/-- The scan of a group of 32. -/
theorem scanGroup_map : scanGroup op ((List.range 32).map x) = (List.range 32).map (scanLevelSpec op x 5) := by
  have level : ∀ l, 2 ^ l ≤ 32 → scanLevel op (2 ^ l) ((List.range 32).map (scanLevelSpec op x l)) =
      (List.range 32).map (scanLevelSpec op x (l + 1)) := fun l hl => scanLevel_map op (scanLevelSpec op x l) (2 ^ l) hl
  unfold scanGroup
  rw [show (List.range 32).map x = (List.range 32).map (scanLevelSpec op x 0) from rfl]
  rw [show scanLevel op 1 _ = _ from level 0 (by norm_num), show scanLevel op 2 _ = _ from level 1 (by norm_num),
    show scanLevel op 4 _ = _ from level 2 (by norm_num), show scanLevel op 8 _ = _ from level 3 (by norm_num),
    show scanLevel op 16 _ = _ from level 4 (by norm_num)]

/-- The groups of 32 of a reduction. -/
theorem foldl_groups {f : α → List α → α} (hf : ∀ acc y, f acc [y] = op acc y) (init : α) (n : ℕ) :
    ((List.range n).map fun j => (List.range 32).map fun i => x (32 * j + i)).foldl (fun acc t => f acc (treeOf op t)) init =
      reduceSpec op x init n := by
  induction n with
  | zero => rfl
  | succ n ih =>
    rw [List.range_succ (n := n), List.map_append, List.foldl_append, ih, List.map_cons, List.map_nil, List.foldl_cons, List.foldl_nil,
      treeOf_map op fun i => x (32 * n + i), hf]
    rfl

/-- The groups of 32 of a scan, from group j on. -/
theorem scanGroups_map (init : α) (n j : ℕ) :
    scanGroups op (scanCarry op x init j) ((List.range' j n).map fun j => (List.range 32).map fun i => x (32 * j + i)) =
      (List.range' (32 * j) (32 * n)).map (scanSpec op x init) := by
  induction n generalizing j with
  | zero => rfl
  | succ n ih =>
    have group : ((List.range 32).map (scanLevelSpec op (fun i => x (32 * j + i)) 5)).map (op (scanCarry op x init j)) =
        (List.range' (32 * j) 32).map (scanSpec op x init) := by
      refine List.ext_getElem (by simp) fun i h1 h2 => ?_
      have hi : i < 32 := by simpa using h1
      simp only [List.getElem_map, List.getElem_range, List.getElem_range', scanSpec, one_mul, Nat.mul_add_div (show 32 > 0 by norm_num),
        Nat.mul_add_mod, Nat.div_eq_of_lt hi, Nat.mod_eq_of_lt hi, add_zero]
    have last : ((List.range' (32 * j) 32).map (scanSpec op x init)).getLastD (scanCarry op x init j) = scanCarry op x init (j + 1) := by
      have : scanSpec op x init (32 * j + 31) = scanCarry op x init (j + 1) := by
        rw [scanSpec, Nat.mul_add_div (by norm_num), Nat.mul_add_mod]
        rfl
      rw [← this, List.range'_concat (s := 32 * j) (n := 31), List.map_append]
      simp
    rw [List.range'_succ, List.map_cons, scanGroups]
    rw [scanGroup_map op fun i => x (32 * j + i), group, last, ih, ← List.map_append]
    rw [show 32 * (n + 1) = 32 + 32 * n by ring, ← List.range'_append_1]
    rfl

/-! ## What a tree makes of its leaves -/

variable {op} {x}

/-- A tree's value stands in a relation to its leaves that single leaves have and the operation keeps. -/
theorem treeSpec_rel {R : List α → α → Prop} (h1 : ∀ a, R [a] a) (h2 : ∀ l l' a b, R l a → R l' b → R (l ++ l') (op a b)) (l i : ℕ) :
    R ((List.range' (i * 2 ^ l) (2 ^ l)).map x) (treeSpec op x l i) := by
  induction l generalizing i with
  | zero => simpa [treeSpec] using h1 (x i)
  | succ l ih =>
    have split : List.range' (i * 2 ^ (l + 1)) (2 ^ (l + 1)) =
        List.range' (2 * i * 2 ^ l) (2 ^ l) ++ List.range' ((2 * i + 1) * 2 ^ l) (2 ^ l) := by
      rw [pow_succ, show (2 * i + 1) * 2 ^ l = 2 * i * 2 ^ l + 2 ^ l by ring, List.range'_append_1]
      congr 1 <;> ring
    rw [split, List.map_append]
    exact h2 _ _ _ _ (ih _) (ih _)

/-- So does a reduction's, to the initial value and the elements of its groups. -/
theorem reduceSpec_rel {R : List α → α → Prop} (h1 : ∀ a, R [a] a) (h2 : ∀ l l' a b, R l a → R l' b → R (l ++ l') (op a b)) (init : α)
    (n : ℕ) : R (init :: (List.range (32 * n)).map x) (reduceSpec op x init n) := by
  induction n with
  | zero => exact h1 init
  | succ n ih =>
    have tree := treeSpec_rel (x := fun i => x (32 * n + i)) h1 h2 5 0
    have leaves : (List.range' (0 * 2 ^ 5) (2 ^ 5)).map (fun i => x (32 * n + i)) = (List.range' (32 * n) 32).map x := by
      rw [zero_mul, ← List.range_eq_range', List.range'_eq_map_range, List.map_map]
      rfl
    have split : List.range (32 * (n + 1)) = List.range (32 * n) ++ List.range' (32 * n) 32 := by
      rw [List.range_eq_range', List.range_eq_range', Nat.mul_succ, ← List.range'_append_1 (s := 0), zero_add]
    rw [split, List.map_append, ← List.cons_append, ← leaves]
    exact h2 _ _ _ _ ih tree

/-! ## Operations that agree on a domain -/

variable {op' : α → α → α} {D : α → Prop} (hop : ∀ a b, D a → D b → op a b = op' a b ∧ D (op' a b)) (hx : ∀ i, D (x i))
include hop hx

theorem treeSpec_congr (l i : ℕ) : treeSpec op x l i = treeSpec op' x l i ∧ D (treeSpec op' x l i) := by
  induction l generalizing i with
  | zero => exact ⟨rfl, hx i⟩
  | succ l ih =>
    obtain ⟨e1, d1⟩ := ih (2 * i)
    obtain ⟨e2, d2⟩ := ih (2 * i + 1)
    rw [treeSpec, treeSpec, e1, e2]
    exact hop _ _ d1 d2
theorem reduceSpec_congr {init : α} (hi : D init) (n : ℕ) :
    reduceSpec op x init n = reduceSpec op' x init n ∧ D (reduceSpec op' x init n) := by
  induction n with
  | zero => exact ⟨rfl, hi⟩
  | succ n ih =>
    obtain ⟨e1, d1⟩ := ih
    obtain ⟨e2, d2⟩ := treeSpec_congr (x := fun i => x (32 * n + i)) hop (fun i => hx _) 5 0
    rw [reduceSpec, reduceSpec, e1, e2]
    exact hop _ _ d1 d2
theorem scanLevelSpec_congr (l i : ℕ) : scanLevelSpec op x l i = scanLevelSpec op' x l i ∧ D (scanLevelSpec op' x l i) := by
  induction l generalizing i with
  | zero => exact ⟨rfl, hx i⟩
  | succ l ih =>
    rw [scanLevelSpec, scanLevelSpec]
    split
    · exact ih i
    · obtain ⟨e1, d1⟩ := ih (i - 2 ^ l)
      obtain ⟨e2, d2⟩ := ih i
      rw [e1, e2]
      exact hop _ _ d1 d2
theorem scanCarry_congr {init : α} (hi : D init) (n : ℕ) :
    scanCarry op x init n = scanCarry op' x init n ∧ D (scanCarry op' x init n) := by
  induction n with
  | zero => exact ⟨rfl, hi⟩
  | succ n ih =>
    obtain ⟨e1, d1⟩ := ih
    obtain ⟨e2, d2⟩ := scanLevelSpec_congr (x := fun i => x (32 * n + i)) hop (fun i => hx _) 5 31
    rw [scanCarry, scanCarry, e1, e2]
    exact hop _ _ d1 d2
theorem scanSpec_congr {init : α} (hi : D init) (e : ℕ) : scanSpec op x init e = scanSpec op' x init e ∧ D (scanSpec op' x init e) := by
  obtain ⟨e1, d1⟩ := scanCarry_congr hop hx hi (e / 32)
  obtain ⟨e2, d2⟩ := scanLevelSpec_congr (x := fun i => x (32 * (e / 32) + i)) hop (fun i => hx _) 5 (e % 32)
  rw [scanSpec, scanSpec, e1, e2]
  exact hop _ _ d1 d2

end

end Sys2Proof.Machine
end

section
/-! The operations of reductions and scans (R38, R222; Machine/VecPermute.lean). -/

open Sys2Proof Sys2Proof.Machine

namespace Sys2Proof.Machine

/-- The number of an operation. -/
def RedKind.num : RedKind → ℕ
  | .sum => 0
  | .min => 1
  | .max => 2

theorem fmtOf_int {ef : ℕ} (h : ef ≤ 7) : fmtOf ef = none := by interval_cases ef <;> rfl

/-- The formats of reductions are integers and those of vector arithmetic. -/
theorem fmtOf_fp {ef : ℕ} (h : 10 ≤ ef ∧ ef ≤ 13) : ∃ F ∈ arithFmts, fmtOf ef = some F ∧ intOf ef = none := by
  obtain ⟨h1, h2⟩ := h
  interval_cases ef
  · exact ⟨fp16, by simp [arithFmts], rfl, rfl⟩
  · exact ⟨bf16, by simp [arithFmts], rfl, rfl⟩
  · exact ⟨fp32, by simp [arithFmts], rfl, rfl⟩
  · exact ⟨fp64, by simp [arithFmts], rfl, rfl⟩

theorem ite_lt {c : Prop} [Decidable c] {a b n : ℕ} (ha : a < n) (hb : b < n) : (if c then a else b) < n := by
  split
  · exact ha
  · exact hb

/-- The bits of the greatest and of the least integer of a format. -/
theorem ofSigned_intMax (n : ℕ) (sg : Bool) :
    ofSigned (n + 1) (intMax (n + 1) sg) = (if sg then 2 ^ n - 1 else 2 ^ (n + 1) - 1) ∧
      (if sg then 2 ^ n - 1 else 2 ^ (n + 1) - 1) < 2 ^ (n + 1) := by
  have hp : 0 < 2 ^ n := by positivity
  have hn : 2 ^ (n + 1) = 2 * 2 ^ n := pow_succ' 2 n
  have hlt : (if sg then 2 ^ n - 1 else 2 ^ (n + 1) - 1) < 2 ^ (n + 1) := by split <;> omega
  refine ⟨?_, hlt⟩
  have hv : intMax (n + 1) sg = ((if sg then 2 ^ n - 1 else 2 ^ (n + 1) - 1 : ℕ) : ℤ) := by cases sg <;> rfl
  rw [ofSigned, hv, ← Int.natCast_emod, Nat.mod_eq_of_lt hlt, Int.toNat_natCast]
theorem ofSigned_intMin (n : ℕ) (sg : Bool) :
    ofSigned (n + 1) (intMin (n + 1) sg) = (if sg then 2 ^ n else 0) ∧ (if sg then 2 ^ n else 0) < 2 ^ (n + 1) := by
  have hp : 0 < 2 ^ n := by positivity
  have hn : 2 ^ (n + 1) = 2 * 2 ^ n := pow_succ' 2 n
  cases sg
  · exact ⟨rfl, by simp⟩
  · have hv : intMin (n + 1) true = -((2 ^ n : ℕ) : ℤ) := rfl
    rw [ofSigned, hv, hn]
    generalize 2 ^ n = p at *
    rw [← Int.add_emod_right, Int.emod_eq_of_lt (by push_cast; omega) (by push_cast; omega)]
    simp only [if_true]
    omega

/-- A value of w bits, as reductions carry it with its flags. -/
def Hart.holds (h : Hart) (a : ℕ × Flags) : Prop := a.1 < 2 ^ h.w

section
variable {h : Hart} {q : QEntry} (hv : q.vtype = h.vtype) (hef : h.ef ≤ 7 ∨ (10 ≤ h.ef ∧ h.ef ≤ 13))
include hv hef

/-- The operation of an entry is that of R38, and keeps the width. -/
theorem redOp_eq (k : RedKind) (a b : ℕ × Flags) (ha : h.holds a) (hb : h.holds b) :
    q.redOp k a b = h.fold k.num a b ∧ h.holds (h.fold k.num a b) := by
  have ef : q.ef = h.ef := by rw [QEntry.ef, hv]; rfl
  unfold Hart.holds at *
  rcases hef with hi | hf
  · have int : intOf q.ef = some (h.w, h.ef % 2 == 0) := by rw [ef, intOf_eq, if_pos hi]; rfl
    have val : ∀ v < 2 ^ h.w, intVal h.w (h.ef % 2 == 0) v = if h.ef % 2 = 0 then (BitVec.ofNat h.w v).toInt else v := fun v hv => by
      rw [intVal_eq (show h.w ≠ 0 from (efWidth_pos h.ef).ne') hv]
      simp only [beq_iff_eq]
    simp only [QEntry.redOp, int, Hart.fold, fmtOf_int hi]
    cases k with
    | sum => exact ⟨rfl, Nat.mod_lt _ (by positivity)⟩
    | min =>
      simp only [RedKind.num, val _ ha, val _ hb, true_and]
      exact ite_lt hb ha
    | max =>
      simp only [RedKind.num, val _ ha, val _ hb, true_and]
      exact ite_lt hb ha
  · obtain ⟨F, hF, fmt, int⟩ := fmtOf_fp hf
    have hw : F.width = h.w := width_of_fmtOf fmt
    have qf : q.fmt = F := by rw [QEntry.fmt, ef, fmt]; rfl
    rw [← hw] at ha hb ⊢
    simp only [QEntry.redOp, ef, int, Hart.fold, fmt, qf, QEntry.read, QEntry.sub, QEntry.rm, hv]
    cases k with
    | sum => exact ⟨rfl, addVal_lt hF _ _ _ _⟩
    | min =>
      simp only [RedKind.num, minMaxBits_eq ha hb, true_and]
      exact specMinMax_lt hF ha hb _ _
    | max =>
      simp only [RedKind.num, minMaxBits_eq ha hb, true_and]
      exact specMinMax_lt hF ha hb _ _

/-- The identity of an entry's operation is that of R38, and has the width. -/
theorem identity_eq (k : RedKind) : q.identity k = h.unit k.num ∧ h.unit k.num < 2 ^ h.w := by
  have ef : q.ef = h.ef := by rw [QEntry.ef, hv]; rfl
  rcases hef with hi | hf
  · have int : intOf q.ef = some (h.w, h.ef % 2 == 0) := by rw [ef, intOf_eq, if_pos hi]; rfl
    obtain ⟨n, hn⟩ := Nat.exists_eq_succ_of_ne_zero (show h.w ≠ 0 from (efWidth_pos h.ef).ne')
    simp only [QEntry.identity, int, Hart.unit, fmtOf_int hi, hn, Nat.succ_eq_add_one, Nat.add_sub_cancel]
    cases k with
    | sum => exact ⟨rfl, by positivity⟩
    | min => simpa only [beq_iff_eq, RedKind.num] using ofSigned_intMax n (h.ef % 2 == 0)
    | max => simpa only [beq_iff_eq, RedKind.num] using ofSigned_intMin n (h.ef % 2 == 0)
  · obtain ⟨F, hF, fmt, int⟩ := fmtOf_fp hf
    have hw : F.width = h.w := width_of_fmtOf fmt
    have qf : q.fmt = F := by rw [QEntry.fmt, ef, fmt]; rfl
    rw [← hw]
    simp only [QEntry.identity, ef, int, Hart.unit, fmt, qf]
    cases k with
    | sum => exact ⟨rfl, (sign_means (Fmt.sound_of_mem (Fmt.mem_roundFmts_of_arith hF)) true).1⟩
    | min => exact ⟨rfl, F.inf_lt false⟩
    | max => exact ⟨rfl, F.inf_lt true⟩

end

end Sys2Proof.Machine
end

section
/-! Reductions and scans complete with the values of R38 and R39 (R222; Machine/VecPermute.lean): O38, first part. -/

open Sys2Proof Sys2Proof.Machine

namespace Sys2Proof.Machine

/-- The value and flags of a reduction, as the model folds them. -/
def Hart.redValue (h : Hart) (q : QEntry) (x : VArgs) (k : RedKind) : ℕ × Flags :=
  (h.redGroups q x k).foldl (fun acc t => match treeOf (q.redOp k) t with | y :: _ => q.redOp k acc y | [] => acc) (h.redInit q x k)
/-- The values and flags of a scan. -/
def Hart.scanValues (h : Hart) (q : QEntry) (x : VArgs) (k : RedKind) : List (ℕ × Flags) :=
  scanGroups (q.redOp k) (h.redInit q x k) (h.redGroups q x k)

theorem Hart.mem_lively {h : Hart} {x : VArgs} {e : ℕ} :
    e ∈ h.lively x ↔ (decide (e < h.count) && (!x.me || (h.mreg x.m.toNat).testBit e)) = true := by
  rw [Hart.lively, List.mem_filter, List.mem_range, Bool.and_eq_true, decide_eq_true_iff]

section
variable {s : State} (i : Instr) (x : VArgs) (k : RedKind) (hef : s.me.ef ≤ 7 ∨ (10 ≤ s.me.ef ∧ s.me.ef ≤ 13))
include hef

/-- The elements and the initial value that a reduction or scan reads are those of R38 and R222. -/
theorem redElement_eq (e : ℕ) : ((if e < (s.vecEntry i x).count && (s.vecIssued i x).active x.me x.m e then
      (s.vecIssued i x).el x.a (s.vecEntry i x).w e else (s.vecEntry i x).identity k, (0 : Flags)) : ℕ × Flags) = s.me.folded x k.num e ∧
    s.me.holds (s.me.folded x k.num e) := by
  obtain ⟨unit, lt⟩ := identity_eq (q := s.vecEntry i x) (h := s.me) rfl hef k
  refine ⟨?_, ite_lt (Hart.el_lt ..) lt⟩
  rw [unit, Hart.folded]
  exact congrArg (·, (0 : Flags)) (if_congr Hart.mem_lively.symm rfl rfl)
theorem redInit_eq : (s.vecIssued i x).redInit (s.vecEntry i x) x k = s.me.foldInit x k.num ∧ s.me.holds (s.me.foldInit x k.num) := by
  obtain ⟨unit, lt⟩ := identity_eq (q := s.vecEntry i x) (h := s.me) rfl hef k
  refine ⟨?_, ite_lt lt (Hart.el_lt ..)⟩
  rw [Hart.redInit, unit]
  rfl
theorem redGroups_eq : (s.vecIssued i x).redGroups (s.vecEntry i x) x k = (List.range ((s.me.count + 31) / 32)).map fun j =>
    (List.range 32).map fun i => s.me.folded x k.num (32 * j + i) :=
  List.map_congr_left fun _ _ => List.map_congr_left fun _ _ => (redElement_eq i x k hef _).1

/-- A reduction's value and flags. -/
theorem reduction_eq : (s.vecIssued i x).redValue (s.vecEntry i x) x k =
        reduceSpec (s.me.fold k.num) (s.me.folded x k.num) (s.me.foldInit x k.num) ((s.me.count + 31) / 32) ∧
    s.me.holds (reduceSpec (s.me.fold k.num) (s.me.folded x k.num) (s.me.foldInit x k.num) ((s.me.count + 31) / 32)) := by
  obtain ⟨init, holdsI⟩ := redInit_eq i x k hef
  obtain ⟨e, d⟩ := reduceSpec_congr (redOp_eq (q := s.vecEntry i x) (h := s.me) rfl hef k) (fun e => (redElement_eq i x k hef e).2)
    holdsI ((s.me.count + 31) / 32)
  refine ⟨?_, d⟩
  rw [Hart.redValue, redGroups_eq i x k hef, init]
  exact (foldl_groups ((s.vecEntry i x).redOp k) (s.me.folded x k.num)
    (f := fun acc l => match l with | y :: _ => (s.vecEntry i x).redOp k acc y | [] => acc) (fun _ _ => rfl) _ _).trans e

/-- A scan's values and flags. -/
theorem scan_eq : (s.vecIssued i x).scanValues (s.vecEntry i x) x k =
    (List.range (32 * ((s.me.count + 31) / 32))).map (scanSpec (s.me.fold k.num) (s.me.folded x k.num) (s.me.foldInit x k.num)) ∧
    ∀ e, s.me.holds (scanSpec (s.me.fold k.num) (s.me.folded x k.num) (s.me.foldInit x k.num) e) := by
  obtain ⟨init, holdsI⟩ := redInit_eq i x k hef
  have congr := scanSpec_congr (redOp_eq (q := s.vecEntry i x) (h := s.me) rfl hef k) (fun e => (redElement_eq i x k hef e).2) holdsI
  refine ⟨?_, fun e => (congr e).2⟩
  rw [Hart.scanValues, redGroups_eq i x k hef, init, List.range_eq_range' (n := (s.me.count + 31) / 32)]
  refine (scanGroups_map ((s.vecEntry i x).redOp k) (s.me.folded x k.num) (s.me.foldInit x k.num) ((s.me.count + 31) / 32) 0).trans ?_
  rw [mul_zero, ← List.range_eq_range']
  exact List.map_congr_left fun e _ => (congr e).1

end

/-! ## Completing -/

theorem regsOk_red (s : State) (i : Instr) (x : VArgs) :
    (s.vecEntry i x).regsOk (redRegs x) = (s.me.has [x.d, x.a] && (x.c.getLsbD 2 || s.me.has [x.b])) := by
  rw [show (s.vecEntry i x).regsOk (redRegs x) = s.me.has (redRegs x) from rfl]
  cases h : x.c.getLsbD 2 <;> simp only [redRegs, h, Hart.has] <;> simp [Bool.and_assoc]

/-- What the instructions of reductions need, beside a format. -/
def Hart.redLegal (h : Hart) (x : VArgs) (ok : Bool) : Prop :=
  (ok && h.vec.vstart == 0 && h.has [x.d, x.a] && (x.c.getLsbD 2 || h.has [x.b])) = true
theorem Hart.redLegal.ok {h : Hart} {x : VArgs} {ok : Bool} (l : h.redLegal x ok) : ok = true := by
  simp only [Hart.redLegal, Bool.and_eq_true_iff] at l
  exact l.1.1.1
theorem regsOk_of_redLegal {s : State} {x : VArgs} {ok : Bool} (i : Instr) (l : s.me.redLegal x ok) :
    (ok && (s.vecEntry i x).fresh && (s.vecEntry i x).regsOk (redRegs x)) = true := by
  rw [regsOk_red, ← Bool.and_assoc]
  exact l

theorem Hart.keeps_accrue {h h' : Hart} (k : h.keeps h') (f : Flags) : h.keeps (h'.accrue f) := by
  unfold Hart.keeps at k ⊢
  rw [k]
  rfl
theorem Hart.popEntry_accrue (h : Hart) (f : Flags) (l : List QEntry) : (h.accrue f).popEntry l = (h.popEntry l).accrue f := rfl

section
variable {s : State} (hs : s.vecReady) (x : VArgs) {i : Instr} {k : RedKind} {ok : Bool} (hi : exec i s = vecIssue i x.a x.b x.c x.d s)
  (hef : s.me.ef ≤ 7 ∨ (10 ≤ s.me.ef ∧ s.me.ef ≤ 13))
  (hok : s.me.redLegal x ok)
include hs hi hef hok

theorem vred_answers (hr : ∀ h t, runEntry s.cur (s.vecEntry i x) h t = vred x (s.vecEntry i x) h t ok k) :
    s.vecAnswers i fun h' =>
      let r := reduceSpec (s.me.fold k.num) (s.me.folded x k.num) (s.me.foldInit x k.num) ((s.me.count + 31) / 32)
      s.me.onlyVReg h' x.d ∧ h'.vfill x.d = s.me.w ∧ h'.vstat = s.me.vstat ∧ h'.el x.d s.me.w 0 = r.1 ∧
        h'.fcsr = s.me.fcsr ||| r.2.setWidth 64 := by
  obtain ⟨value, lt⟩ := reduction_eq i x k hef
  refine vecAnswers_pure hs hi (f := fun h => (h.setVReg x.d.toNat s.me.w (h.redValue (s.vecEntry i x) x k).1).accrue
    (h.redValue (s.vecEntry i x) x k).2) hr (regsOk_of_redLegal i hok) (Hart.keeps_accrue (Hart.keeps_setVReg ..) _) ?_
  rw [value]
  generalize reduceSpec (s.me.fold k.num) (s.me.folded x k.num) (s.me.foldInit x k.num) ((s.me.count + 31) / 32) = r at *
  have reg := (s.vecIssued i x).vreg_setVReg_same x.d.toNat s.me.w r.1
  rw [Nat.mod_eq_of_lt lt] at reg
  refine ⟨⟨fun k hk => Hart.vreg_setVReg_ne _ _ _ hk, rfl, rfl⟩, congrArg VReg.fill reg, rfl,
    (congrArg (fun v => elem v s.me.w 0) (congrArg VReg.bits reg)).trans ?_, rfl⟩
  simpa [elem, slice] using Nat.mod_eq_of_lt lt

theorem vscan_answers (hr : ∀ h t, runEntry s.cur (s.vecEntry i x) h t = vscan x (s.vecEntry i x) h t ok k) :
    s.vecAnswers i fun h' =>
      let y (e : Nat) := scanSpec (s.me.fold k.num) (s.me.folded x k.num) (s.me.foldInit x k.num) e
      s.me.onlyVReg h' x.d ∧ h'.vfill x.d = s.me.count * s.me.w ∧ h'.vbits x.d < 2 ^ (s.me.count * s.me.w) ∧ h'.vstat = s.me.vstat ∧
      (∀ e < s.me.count, h'.el x.d s.me.w e = if s.me.acts x.me x.m e then (y e).1 else s.me.el x.d s.me.w e) ∧
      h'.fcsr = s.me.fcsr ||| ((List.range (32 * ((s.me.count + 31) / 32))).foldl (fun f e => f ||| (y e).2) 0).setWidth 64 := by
  obtain ⟨value, lt⟩ := scan_eq i x k hef
  have run : ∀ h t, runEntry s.cur (s.vecEntry i x) h t = pureV (s.vecEntry i x) h t
      (ok && (s.vecEntry i x).fresh && (s.vecEntry i x).regsOk (redRegs x)) fun h =>
        (h.writeElems (s.vecEntry i x) x.me x.m x.d (s.vecEntry i x).w (s.vecEntry i x).count
          fun e => .of ((h.scanValues (s.vecEntry i x) x k).getD e (0, 0)).1).accrue
        ((h.scanValues (s.vecEntry i x) x k).foldl (fun f y => f ||| y.2) 0) := hr
  refine vecAnswers_pure hs hi run (regsOk_of_redLegal i hok) (Hart.keeps_accrue (Hart.keeps_writeElems ..) _) ?_
  rw [value]
  generalize scanSpec (s.me.fold k.num) (s.me.folded x k.num) (s.me.foldInit x k.num) = y at *
  have quiet : ∀ (l : List ℕ) (c : Word), l.foldl (fun c _ => c ||| (0 : Flags).setWidth 64) c = c := by
    intro l
    induction l with
    | nil => exact fun c => rfl
    | cons a l ih => intro c; rw [List.foldl_cons, ih]; simp
  have whole : s.me.elementwise (((s.vecIssued i x).writeElems (s.vecEntry i x) x.me x.m x.d (s.vecEntry i x).w (s.vecEntry i x).count
      fun e => .of (((List.range (32 * ((s.me.count + 31) / 32))).map y).getD e (0, 0)).1).popEntry []) x.me x.m x.d s.me.w s.me.count
      (fun e => .of (((List.range (32 * ((s.me.count + 31) / 32))).map y).getD e (0, 0)).1) :=
    s.me.elementwise_writeElems (s.vecEntry i x) x.me x.m x.d s.me.w s.me.count _ rfl
  rw [Hart.popEntry_accrue, List.foldl_map]
  generalize ((s.vecIssued i x).writeElems _ _ _ _ _ _ _).popEntry [] = T at *
  obtain ⟨fill, bits, elems, regs, hm, hg, fcsr, vstat⟩ := whole
  have fcsr : T.fcsr = s.me.fcsr := fcsr.trans (quiet _ _)
  refine ⟨⟨regs, hm, hg⟩, fill, bits, vstat.trans (by simp [ERes.of]), fun e he => (elems e he).trans ?_, ?_⟩
  · have : e < 32 * ((s.me.count + 31) / 32) := by omega
    simp only [ERes.of, List.getD_eq_getElem?_getD, List.getElem?_map, List.getElem?_range this, Option.map_some, Option.getD_some]
    rw [Nat.mod_eq_of_lt (lt e)]
  · rw [← fcsr]
    rfl

end

end Sys2Proof.Machine
end

section
/-! Reductions of integers (R38, R222): the sum modulo 2^w, the least and the greatest value. O38. -/

open Sys2Proof Sys2Proof.Machine

namespace Sys2Proof.Machine

/-! ## A reduction that keeps the lesser key -/

/-- A value is among the leaves and has the least key of them. -/
def HasLeast (key : ℕ → ℤ) (l : List (ℕ × Flags)) (a : ℕ × Flags) : Prop := a.1 ∈ l.map Prod.fst ∧ ∀ y ∈ l.map Prod.fst, key a.1 ≤ key y

theorem HasLeast.append {key : ℕ → ℤ} {l l' : List (ℕ × Flags)} {a b c : ℕ × Flags} (hc : c.1 = if key b.1 < key a.1 then b.1 else a.1)
    (ha : HasLeast key l a) (hb : HasLeast key l' b) : HasLeast key (l ++ l') c := by
  obtain ⟨ma, la⟩ := ha
  obtain ⟨mb, lb⟩ := hb
  rw [HasLeast, List.map_append, hc]
  split
  · next lt => exact ⟨List.mem_append_right _ mb, fun y hy => (List.mem_append.1 hy).elim (fun h => lt.le.trans (la y h)) (lb y)⟩
  · next ge => exact ⟨List.mem_append_left _ ma, fun y hy => (List.mem_append.1 hy).elim (la y) fun h => (not_lt.1 ge).trans (lb y h)⟩

/-! ## What a reduction reads -/

/-- The values that a reduction combines, identities apart. -/
def Hart.redAll (h : Hart) (x : VArgs) : List ℕ := (if x.c.getLsbD 2 then [] else [h.el x.b h.w 0]) ++ (h.lively x).map (h.el x.a h.w)
/-- The leaves of a reduction's trees, after its initial value. -/
def Hart.redLeaves (h : Hart) (x : VArgs) (k : ℕ) : List (ℕ × Flags) :=
  h.foldInit x k :: (List.range (32 * ((h.count + 31) / 32))).map (h.folded x k)
/-- A reduction's value. -/
def Hart.redResult (h : Hart) (x : VArgs) (k : ℕ) : ℕ :=
  (reduceSpec (h.fold k) (h.folded x k) (h.foldInit x k) ((h.count + 31) / 32)).1
/-- The number that an integer element stands for. -/
def Hart.intNum (h : Hart) (v : ℕ) : ℤ := if h.ef % 2 = 0 then (BitVec.ofNat h.w v).toInt else v

theorem toInt_ofNat_of_lt {n v : ℕ} (hv : v < 2 ^ (n + 1)) : (BitVec.ofNat (n + 1) v).toInt =
    if v < 2 ^ n then (v : ℤ) else v - (2 ^ (n + 1) : ℕ) := by
  rw [BitVec.toInt_eq_toNat_cond, BitVec.toNat_ofNat, Nat.mod_eq_of_lt hv]
  exact if_congr (by rw [pow_succ']; omega) rfl rfl

section
variable (h : Hart) (x : VArgs)

theorem Hart.lt_of_lively {e : ℕ} (he : e ∈ h.lively x) : e < 32 * ((h.count + 31) / 32) := by
  have := List.mem_range.1 (List.mem_filter.1 he).1
  omega

theorem Hart.redAll_lt {y : ℕ} (hy : y ∈ h.redAll x) : y < 2 ^ h.w := by
  rcases List.mem_append.1 hy with hb | ha
  · split at hb
    · cases hb
    · exact List.mem_singleton.1 hb ▸ Hart.el_lt ..
  · obtain ⟨e, -, rfl⟩ := List.mem_map.1 ha
    exact Hart.el_lt ..

/-- What a reduction combines is among its leaves. -/
theorem Hart.mem_redLeaves {y : ℕ} (k : ℕ) (hy : y ∈ h.redAll x) : y ∈ (h.redLeaves x k).map Prod.fst := by
  rw [Hart.redLeaves, List.map_cons, List.map_map]
  rcases List.mem_append.1 hy with hb | ha
  · split at hb
    · cases hb
    · next c => exact List.mem_cons.2 (.inl (by rw [List.mem_singleton.1 hb, Hart.foldInit, if_neg c]))
  · obtain ⟨e, he, rfl⟩ := List.mem_map.1 ha
    exact List.mem_cons_of_mem _ (List.mem_map.2 ⟨e, List.mem_range.2 (h.lt_of_lively x he), if_pos he⟩)

/-- The other leaves are identities. -/
theorem Hart.of_mem_redLeaves {y k : ℕ} (hy : y ∈ (h.redLeaves x k).map Prod.fst) : y ∈ h.redAll x ∨ y = h.unit k := by
  rw [Hart.redLeaves, List.map_cons, List.map_map, List.mem_cons] at hy
  rw [Hart.redAll, List.mem_append]
  rcases hy with rfl | hy
  · rw [Hart.foldInit]
    split
    · exact .inr rfl
    · exact .inl (.inl (List.mem_singleton.2 rfl))
  · obtain ⟨e, -, rfl⟩ := List.mem_map.1 hy
    rw [Function.comp_apply, Hart.folded]
    by_cases he : e ∈ h.lively x
    · rw [if_pos he]
      exact .inl (.inr (List.mem_map_of_mem he))
    · rw [if_neg he]
      exact .inr rfl

/-- A sum over the leaves of a reduction whose identity is 0. -/
theorem Hart.sum_redLeaves {k : ℕ} (hu : h.unit k = 0) : ((h.redLeaves x k).map Prod.fst).sum = (h.redAll x).foldl (· + ·) 0 := by
  rw [← List.sum_eq_foldl, Hart.redAll, List.sum_append, Hart.redLeaves, List.map_cons, List.map_map, List.sum_cons]
  congr 1
  · rw [Hart.foldInit, hu]
    split <;> simp
  · have leaf : Prod.fst ∘ h.folded x k = fun e => if e ∈ (h.lively x).toFinset then h.el x.a h.w e else 0 := by
      funext e
      simp only [Function.comp_apply, Hart.folded, hu, List.mem_toFinset]
    have sub : (h.lively x).toFinset ⊆ (List.range (32 * ((h.count + 31) / 32))).toFinset := fun e he =>
      List.mem_toFinset.2 (List.mem_range.2 (h.lt_of_lively x (List.mem_toFinset.1 he)))
    rw [leaf, ← List.sum_toFinset _ List.nodup_range, Finset.sum_ite_mem, Finset.inter_eq_right.2 sub]
    exact List.sum_toFinset _ (List.nodup_range.filter _)

theorem Hart.intNum_inj {v v' : ℕ} (hv : v < 2 ^ h.w) (hv' : v' < 2 ^ h.w) (e : h.intNum v = h.intNum v') : v = v' := by
  unfold Hart.intNum at e
  split at e
  · have := congrArg BitVec.toNat (BitVec.eq_of_toInt_eq e)
    rwa [BitVec.toNat_ofNat, BitVec.toNat_ofNat, Nat.mod_eq_of_lt hv, Nat.mod_eq_of_lt hv'] at this
  · exact_mod_cast e

/-- A reduction that keeps the lesser key has the least key of what it combines, where the identity has the greatest. -/
theorem Hart.redResult_least {key : ℕ → ℤ} {k : ℕ} (hop : ∀ a b, (h.fold k a b).1 = if key b.1 < key a.1 then b.1 else a.1)
    (top : ∀ v < 2 ^ h.w, key v ≤ key (h.unit k)) (inj : ∀ v < 2 ^ h.w, key v = key (h.unit k) → v = h.unit k)
    (some : h.redAll x ≠ []) : h.redResult x k ∈ h.redAll x ∧ ∀ y ∈ h.redAll x, key (h.redResult x k) ≤ key y := by
  have rel : HasLeast key (h.redLeaves x k) (reduceSpec (h.fold k) (h.folded x k) (h.foldInit x k) ((h.count + 31) / 32)) :=
    reduceSpec_rel (R := HasLeast key) (fun a => ⟨List.mem_singleton.2 rfl, fun y hy => by rw [List.mem_singleton.1 hy]⟩)
      (fun l l' a b => HasLeast.append (hop a b)) _ _
  obtain ⟨mem, least⟩ := rel
  have least : ∀ y ∈ h.redAll x, key (h.redResult x k) ≤ key y := fun y hy => least y (h.mem_redLeaves x k hy)
  refine ⟨?_, least⟩
  rcases h.of_mem_redLeaves x mem with hm | hu
  · exact hm
  · obtain ⟨y, hy⟩ := List.exists_mem_of_ne_nil _ some
    have lt := h.redAll_lt x hy
    have := inj y lt (le_antisymm (top y lt) (hu ▸ least y hy))
    rw [Hart.redResult, hu, ← this]
    exact hy

variable {h}
variable (hi : h.ef ≤ 7)
include hi

/-! ## The three operations on integers -/

theorem Hart.unit_int : h.unit 0 = 0 ∧ h.unit 1 = (if h.ef % 2 = 0 then 2 ^ (h.w - 1) - 1 else 2 ^ h.w - 1) ∧
    h.unit 2 = (if h.ef % 2 = 0 then 2 ^ (h.w - 1) else 0) := by
  simp only [Hart.unit, fmtOf_int hi, and_self]

/-- No integer is above the identity of the least value or below that of the greatest. -/
theorem Hart.intNum_le {v : ℕ} (hv : v < 2 ^ h.w) : h.intNum v ≤ h.intNum (h.unit 1) ∧ h.intNum (h.unit 2) ≤ h.intNum v := by
  obtain ⟨-, u1, u2⟩ := Hart.unit_int hi
  obtain ⟨n, hn⟩ := Nat.exists_eq_succ_of_ne_zero (show h.w ≠ 0 from (efWidth_pos h.ef).ne')
  rw [Nat.succ_eq_add_one] at hn
  have hp : 2 ^ (n + 1) = 2 * 2 ^ n := pow_succ' 2 n
  have pos : 0 < 2 ^ n := by positivity
  rw [hn] at hv u1 u2
  rw [u1, u2, Hart.intNum, Hart.intNum, Hart.intNum, hn, Nat.add_sub_cancel]
  by_cases sg : h.ef % 2 = 0
  · simp only [if_pos sg]
    rw [toInt_ofNat_of_lt hv, toInt_ofNat_of_lt (show 2 ^ n - 1 < 2 ^ (n + 1) by omega), toInt_ofNat_of_lt (show 2 ^ n < 2 ^ (n + 1) by omega)]
    rw [hp] at hv ⊢
    generalize 2 ^ n = p at *
    split_ifs <;> omega
  · simp only [if_neg sg]
    omega

theorem Hart.fold_int (a b : ℕ × Flags) : (h.fold 0 a b).1 = (a.1 + b.1) % 2 ^ h.w ∧
    (h.fold 1 a b).1 = (if h.intNum b.1 < h.intNum a.1 then b.1 else a.1) ∧
    (h.fold 2 a b).1 = (if -h.intNum b.1 < -h.intNum a.1 then b.1 else a.1) := by
  simp only [Hart.fold, fmtOf_int hi, neg_lt_neg_iff, true_and]
  exact ⟨rfl, rfl⟩

/-! ## The three reductions of integers -/

/-- The sum modulo 2^w. -/
theorem Hart.redResult_sum (lt : h.redResult x 0 < 2 ^ h.w) : h.redResult x 0 = (h.redAll x).foldl (· + ·) 0 % 2 ^ h.w := by
  have rel : (reduceSpec (h.fold 0) (h.folded x 0) (h.foldInit x 0) ((h.count + 31) / 32)).1 % 2 ^ h.w =
      ((h.redLeaves x 0).map Prod.fst).sum % 2 ^ h.w :=
    reduceSpec_rel (R := fun l a => a.1 % 2 ^ h.w = (l.map Prod.fst).sum % 2 ^ h.w) (fun a => by simp)
      (fun l l' a b ha hb => by
        rw [(Hart.fold_int hi a b).1, Nat.mod_mod, Nat.add_mod, ha, hb, ← Nat.add_mod, List.map_append, List.sum_append]) _ _
  rw [← h.sum_redLeaves x (Hart.unit_int hi).1, ← rel]
  exact (Nat.mod_eq_of_lt lt).symm

end

/-- The kinds that c names (R222). -/
theorem scanKind_num {c : Reg} (hc : c.toNat % 4 < 3) : (scanKind c).num = c.toNat % 4 := by
  unfold scanKind
  generalize c.toNat % 4 = k at *
  interval_cases k <;> rfl

/-- Integers and floating-point formats both have reductions (R222). -/
theorem redFormat_of_either {ef : ℕ} (h : (decide (ef ≤ 7) || (decide (10 ≤ ef) && decide (ef ≤ 13))) = true) :
    ef ≤ 7 ∨ (10 ≤ ef ∧ ef ≤ 13) := by simpa using h

/-- Settles O38, by the trees' laws: operations that agree give the same trees, and a relation to the leaves that the operation keeps
holds of the whole. -/
theorem vectorReductions : Obligations.VectorReductions := by
  unfold Obligations.VectorReductions
  intro x s hs
  have int : ∀ {ef : ℕ}, decide (ef ≤ 7) = true → ef ≤ 7 ∨ (10 ≤ ef ∧ ef ≤ 13) := fun h => .inl (of_decide_eq_true h)
  have fp : ∀ {ef : ℕ}, (decide (10 ≤ ef) && decide (ef ≤ 13)) = true → ef ≤ 7 ∨ (10 ≤ ef ∧ ef ≤ 13) := fun h =>
    .inr (by simpa using h)
  refine ⟨fun p hp hl => ?_, fun hi => ?_, fun i hmem k hk hc hl => ?_⟩
  · simp only [List.mem_cons, List.not_mem_nil, or_false] at hp
    rcases hp with rfl | rfl | rfl | rfl
    · have legal : s.me.redLegal x (decide (s.me.ef ≤ 7)) := hl
      exact vred_answers hs x (k := .sum) rfl (int legal.ok) legal fun _ _ => rfl
    · have legal : s.me.redLegal x (decide (10 ≤ s.me.ef) && decide (s.me.ef ≤ 13)) := hl
      exact vred_answers hs x (k := .sum) rfl (fp legal.ok) legal fun _ _ => rfl
    · have legal : s.me.redLegal x (decide (s.me.ef ≤ 7) || (decide (10 ≤ s.me.ef) && decide (s.me.ef ≤ 13))) := hl
      exact vred_answers hs x (k := .min) rfl (redFormat_of_either legal.ok) legal fun _ _ => rfl
    · have legal : s.me.redLegal x (decide (s.me.ef ≤ 7) || (decide (10 ≤ s.me.ef) && decide (s.me.ef ≤ 13))) := hl
      exact vred_answers hs x (k := .max) rfl (redFormat_of_either legal.ok) legal fun _ _ => rfl
  · have lt : s.me.redResult x 0 < 2 ^ s.me.w := (reduction_eq (.vredsum x) x .sum (.inl hi)).2
    have lt1 : s.me.unit 1 < 2 ^ s.me.w := (identity_eq (q := s.vecEntry (.vredmin x) x) (h := s.me) rfl (.inl hi) .min).2
    have lt2 : s.me.unit 2 < 2 ^ s.me.w := (identity_eq (q := s.vecEntry (.vredmax x) x) (h := s.me) rfl (.inl hi) .max).2
    refine ⟨s.me.redResult_sum x hi lt, fun some => ⟨?_, ?_⟩⟩
    · exact s.me.redResult_least x (key := s.me.intNum) (fun a b => (Hart.fold_int hi a b).2.1)
        (fun v hv => (Hart.intNum_le hi hv).1) (fun v hv => s.me.intNum_inj hv lt1) some
    · obtain ⟨mem, greatest⟩ := s.me.redResult_least x (key := fun v => -s.me.intNum v) (fun a b => (Hart.fold_int hi a b).2.2)
        (fun v hv => neg_le_neg (Hart.intNum_le hi hv).2) (fun v hv e => s.me.intNum_inj hv lt2 (neg_inj.1 e)) some
      exact ⟨mem, fun y hy => neg_le_neg_iff.1 (greatest y hy)⟩
  · simp only [List.mem_cons, List.not_mem_nil, or_false] at hmem
    rw [← hc, ← scanKind_num (hc ▸ hk)]
    rcases hmem with rfl | rfl
    · have legal : s.me.redLegal x (decide (s.me.ef ≤ 7)) := hl
      exact vscan_answers hs x rfl (int legal.ok) legal fun _ _ => rfl
    · have legal : s.me.redLegal x (decide (10 ≤ s.me.ef) && decide (s.me.ef ≤ 13)) := hl
      exact vscan_answers hs x rfl (fp legal.ok) legal fun _ _ => rfl

end Sys2Proof.Machine
end

section
/-! The logical hart of an agent (Machine/Records.lean): what it is after its record, or the hart, has been written. -/

open Sys2Proof Sys2Proof.Machine

namespace Sys2Proof.Machine

variable {s : State}

/-! ## Records by partition and launch number -/

/-- The record that is found has the key that was asked for. -/
theorem State.key_of_recOf {p l : Nat} {r : Rec} (h : s.recOf p l = some r) : r.part = p ∧ r.sr.launch = l := by
  have := List.find?_some h
  simpa using this

/-- A record is read back as it was written, where its key stays. -/
theorem State.recOf_setRec_same {p l : Nat} {r x : Rec} (h : s.recOf p l = some r) (hp : x.part = p) (hl : x.sr.launch = l) :
    (s.setRec x).recOf p l = some x := by
  subst hp hl
  unfold State.recOf at h
  unfold State.recOf State.setRec
  dsimp only
  generalize s.recs = rs at h ⊢
  induction rs with
  | nil => simp at h
  | cons y ys ih =>
    by_cases hy : y.part = x.part ∧ y.sr.launch = x.sr.launch
    · simp [hy]
    · rw [List.find?_cons_of_neg (by simpa using hy)] at h
      rw [List.map_cons, if_neg hy, List.find?_cons_of_neg (by simpa using hy)]
      exact ih h

/-- A record with another key is as before. -/
theorem State.recOf_setRec_ne {p l : Nat} {x : Rec} (h : ¬ (x.part = p ∧ x.sr.launch = l)) :
    (s.setRec x).recOf p l = s.recOf p l := by
  unfold State.recOf State.setRec
  dsimp only
  induction s.recs with
  | nil => rfl
  | cons y ys ih =>
    rw [List.map_cons]
    by_cases hy : y.part = x.part ∧ y.sr.launch = x.sr.launch
    · obtain ⟨hyp, hyl⟩ := hy
      rw [if_pos ⟨hyp, hyl⟩, List.find?_cons_of_neg (by simpa using h),
        List.find?_cons_of_neg (by simpa [hyp, hyl] using h), ih]
    · rw [if_neg hy]
      by_cases hk : y.part = p ∧ y.sr.launch = l
      · rw [List.find?_cons_of_pos (by simpa using hk), List.find?_cons_of_pos (by simpa using hk)]
      · rw [List.find?_cons_of_neg (by simpa using hk), List.find?_cons_of_neg (by simpa using hk), ih]

@[simp] theorem Rec.part_setLhart (r : Rec) (l : Nat) (x : LHart) : (r.setLhart l x).part = r.part := rfl
@[simp] theorem Rec.sr_setLhart (r : Rec) (l : Nat) (x : LHart) : (r.setLhart l x).sr = r.sr := rfl
@[simp] theorem Rec.lhart_setLhart (r : Rec) (l : Nat) (x : LHart) : (r.setLhart l x).lhart l = x := assocGet_put_same

/-- The executing agent is no application core. -/
theorem lt_appBase_of_kind {h : Nat} (hk : kindOf h = .vector ∨ kindOf h = .sequencer) : h < appBase := by
  have hb : seqBase < appBase := by decide
  unfold kindOf at hk
  split_ifs at hk
  all_goals simp_all
  omega

/-! ## The logical hart of a placed hart -/

theorem State.myRec_eq {hid : Nat} (hk : hid < appBase) : s.myRec hid = s.recOf (s.hart hid).part (s.hart hid).launch :=
  if_neg (by omega)
theorem State.myLhart_of_rec {hid : Nat} {r : Rec} (h : s.myRec hid = some r) : s.myLhart hid = r.lhart (s.hart hid).logical := by
  simp [State.myLhart, h]
theorem State.myLhart_of_none {hid : Nat} (h : s.myRec hid = none) : s.myLhart hid = LHart.start := by
  simp [State.myLhart, h]
/-- The record of a placed hart has its key. -/
theorem State.key_of_myRec {hid : Nat} {r : Rec} (h : s.myRec hid = some r) :
    hid < appBase ∧ r.part = (s.hart hid).part ∧ r.sr.launch = (s.hart hid).launch := by
  unfold State.myRec at h
  split at h
  · simp at h
  · exact ⟨by omega, State.key_of_recOf h⟩
theorem State.updLhart_of_rec {hid : Nat} {r : Rec} (h : s.myRec hid = some r) (f : LHart → LHart) :
    s.updLhart hid f = s.setRec (r.setLhart (s.hart hid).logical (f (r.lhart (s.hart hid).logical))) := by
  simp [State.updLhart, h]
/-- A change of a logical hart changes the records alone. -/
theorem State.updLhart_eq (s : State) (hid : Nat) (f : LHart → LHart) : s.updLhart hid f = { s with recs := (s.updLhart hid f).recs } := by
  unfold State.updLhart
  split <;> rfl
@[simp] theorem State.hart_updLhart (s : State) (hid k : Nat) (f : LHart → LHart) : (s.updLhart hid f).hart k = s.hart k := by
  rw [State.updLhart_eq]; rfl
@[simp] theorem State.cur_updLhart (s : State) (hid : Nat) (f : LHart → LHart) : (s.updLhart hid f).cur = s.cur := by
  rw [State.updLhart_eq]
@[simp] theorem State.me_updLhart (s : State) (hid : Nat) (f : LHart → LHart) : (s.updLhart hid f).me = s.me := by
  rw [State.updLhart_eq]; rfl
@[simp] theorem State.eager_updLhart (s : State) (hid : Nat) (f : LHart → LHart) : (s.updLhart hid f).eager = s.eager := by
  rw [State.updLhart_eq]
/-- The record of a placed hart after a change of its logical hart. -/
theorem State.myRec_updLhart {hid : Nat} {r : Rec} (h : s.myRec hid = some r) (f : LHart → LHart) :
    (s.updLhart hid f).myRec hid = some (r.setLhart (s.hart hid).logical (f (r.lhart (s.hart hid).logical))) := by
  obtain ⟨hk, hp, hl⟩ := State.key_of_myRec h
  rw [State.myRec_eq hk, State.hart_updLhart, State.updLhart_of_rec h]
  exact State.recOf_setRec_same (State.myRec_eq hk ▸ h) (by simpa using hp) (by simpa using hl)
/-- The logical hart of a placed hart is what it was changed to. -/
theorem State.myLhart_updLhart {hid : Nat} {r : Rec} (h : s.myRec hid = some r) (f : LHart → LHart) :
    (s.updLhart hid f).myLhart hid = f (s.myLhart hid) := by
  rw [State.myLhart_of_rec (State.myRec_updLhart h f), State.myLhart_of_rec h]
  simp
/-- Two changes that agree on the logical hart are one. -/
theorem State.updLhart_congr {hid : Nat} {f g : LHart → LHart} (h : f (s.myLhart hid) = g (s.myLhart hid)) :
    s.updLhart hid f = s.updLhart hid g := by
  unfold State.updLhart
  unfold State.myLhart at h
  split
  · next r hr => rw [hr] at h; rw [h]
  · rfl

end Sys2Proof.Machine
end

section
/-! Claims (Machine/Launch.lean, R72 to R75): O23. -/

open Sys2Proof Sys2Proof.Machine

namespace Sys2Proof.Machine

variable {s : State}

/-- The slot of an address as the rule writes it (R72). -/
theorem latchSlot_eq (a : Word) :
    latchSlot a = (a.toNat / 128 ^^^ a.toNat / 128 / 2 ^ 12 ^^^ a.toNat / 128 / 2 ^ 24) % 4096 := by
  have low : ∀ n : Nat, n &&& 4095 = n % 4096 := fun n => Nat.and_two_pow_sub_one_eq_mod n 12
  simp [latchSlot, Nat.shiftRight_eq_div_pow, low, Nat.div_div_eq_div_mul]

/-- The executing hart runs an item of a reserving record. -/
theorem State.inReserving_iff : s.inReserving = true ↔
    ∃ r, s.myRec s.cur = some r ∧ r.sr.rsv = true ∧ (r.lhart s.me.logical).item.isSome = true := by
  unfold State.inReserving
  cases hr : s.myRec s.cur with
  | none => simp
  | some r => simp [State.myLhart_of_rec hr, State.me, and_comm]

/-- What a CLAIM changes of its logical hart. -/
theorem exec_claim (x : MArgs) (hk : kindOf s.cur = .vector ∨ kindOf s.cur = .sequencer) :
    exec (.claim x) s = if !s.inReserving || (s.myLhart s.cur).adm == .admitted || decide (16 ≤ (s.myLhart s.cur).nclaims)
      then raise .claim 0 s
      else .next ((s.updLhart s.cur fun y => { y with
        claims := if y.claims.contains (latchSlot (eaNoIndex x s.me)) then y.claims else y.claims ++ [latchSlot (eaNoIndex x s.me)]
        nclaims := y.nclaims + 1 }).retire 8 id) :=
  onAgents_allowed (by rcases hk with hk | hk <;> simp [allowed, hk])

theorem exec_clwait (x : AArgs) (hk : kindOf s.cur = .vector ∨ kindOf s.cur = .sequencer) :
    exec (.clwait x) s = if !s.inReserving then raise .claim 0 s
      else
        let s1 := if (s.myLhart s.cur).adm = .admitted then s else s.makePending
        if (s1.myLhart s.cur).adm = .admitted then .next (s1.retire 8 id) else .next s1.waitMe :=
  onAgents_allowed (by rcases hk with hk | hk <;> simp [allowed, hk])

/-- Where waves form by themselves later, an item that is not admitted only becomes pending (R74). -/
theorem State.makePending_lazy (he : s.eager = false) : s.makePending =
    s.updLhart s.cur fun l => if l.adm = .none then { l with adm := .pending } else l := by
  simp [State.makePending, he]

/-- An item that is neither unposted nor admitted is pending. -/
theorem pend_of_not_admitted {l : LHart} (h : l.adm ≠ .admitted) :
    (if l.adm = .none then { l with adm := .pending } else l) = { l with adm := .pending } := by
  obtain ⟨place, item, taken, claims, nclaims, adm⟩ := l
  cases adm
  · rfl
  · rfl
  · exact absurd rfl h

/-- Settles O23, by the cases of R72 and R75: in an item or not, admitted or not, and the number of claims made. -/
theorem claims : Obligations.Claims := by
  unfold Obligations.Claims
  intro s hk he hq l inItem
  have inItem_iff : inItem ↔ s.inReserving = true := State.inReserving_iff.symm
  refine ⟨fun x => ?_, fun x => ?_⟩
  · intro a slot
    have slot_eq : latchSlot (eaNoIndex x s.me) = slot := latchSlot_eq _
    rw [exec_claim x hk, slot_eq, inItem_iff]
    refine ⟨fun hi ha hn => ?_, fun h => ?_⟩
    · rw [if_neg (by simp [hi, ha, hn, l])]
      simp only [State.retire_id, State.me_updLhart, List.contains_eq_mem, decide_eq_true_eq]
      rfl
    · rw [if_pos (by rcases h with h | h | h <;> simp [l] at h <;> simp [h])]
      exact raise_eq _ _ hq
  · rw [exec_clwait x hk, inItem_iff]
    refine ⟨fun hi => ?_, fun hi ha => ?_, fun hi ha => ?_⟩
    · rw [if_pos (by simpa using hi)]
      exact raise_eq _ _ hq
    · have adm : (s.myLhart s.cur).adm = .admitted := ha
      simp only [hi, adm, Bool.not_true, Bool.false_eq_true, if_false, if_true]
      rfl
    · have adm : (s.myLhart s.cur).adm ≠ .admitted := ha
      obtain ⟨r, hr, -⟩ := State.inReserving_iff.1 hi
      have pending : s.makePending = s.updLhart s.cur fun y => { y with adm := .pending } := by
        rw [State.makePending_lazy he]
        exact State.updLhart_congr (pend_of_not_admitted adm)
      simp only [hi, adm, pending, State.myLhart_updLhart hr, Bool.not_true, Bool.false_eq_true, if_false, reduceCtorEq,
        State.waitMe, State.me_updLhart]

end Sys2Proof.Machine
end

section
/-! GBAR of a hart beside a hart of two groups (Machine/Launch.lean, R70, R128): O20. -/

open Sys2Proof Sys2Proof.Machine

namespace Sys2Proof.TwoGroups

/-! ## The state that refutes O20

The clause of O20 on GBAR, unlike that on LEAVE, does not ask that no hart is in two groups (R69). Here logical hart 0 of launch 1, in
deterministic mode, has arrived in group 4, whose only member it is, and in group 5, where it is awaited with the hart that executes. Where
issued work completes at once, the phase of group 4 completes within the GBAR; that rebases the drain points of its members behind those of
an ended hart (`State.passGbar`), and what the shared member contributes has then not drained, so that the phase of group 5 does not
complete, although every member had arrived and drained. -/

/-- The record of the executing hart, not in deterministic mode. -/
def mine : Rec :=
  { part := 0, sr := { launch := 0, entry := 0, arg := 0, ctl := 0, group := 0, cmask := 1, done := 0, bounds := [] }
    selected := true, granted := 1, nextItem := 0, aged := 0, wave := 0, drained := 0, ending := none
    lh := [(0, { LHart.start with place := .placed 0 })] }
/-- A record in deterministic mode: hart 0 has reached no drain point, and hart 1 has ended after its fifth. -/
def other : Rec :=
  { mine with
    sr := { mine.sr with launch := 1, ctl := 2 ^ 17 }
    lh := [(0, { LHart.start with place := .placed 8 }), (1, { LHart.start with place := .ended, drains := 5 })] }
/-- Hart 0 runs logical hart 0 of launch 0, a member of group 5, where logical hart 0 of launch 1 has arrived, as in group 4. -/
def inTwo : State :=
  { State.reset with
    cur := 0
    harts := [(0, { Hart.free with status := .running })]
    recs := [mine, other]
    groups := [⟨0, 4, 0, [(1, 0)], [(1, 0)]⟩, ⟨0, 5, 0, [(0, 0), (1, 0)], [(1, 0)]⟩] }

/-- GBAR into g0. -/
def gbarArgs : AArgs := ⟨0, 0, 0, 0⟩
/-- Group 5. -/
def awaited : Grp := ⟨0, 5, 0, [(0, 0), (1, 0)], [(1, 0)]⟩

theorem inTwo_group : inTwo.grpOf 0 0 0 = some awaited ∧ inTwo.grp 0 5 = some awaited := by decide
theorem inTwo_record : inTwo.myRec inTwo.cur = some mine := by decide
/-- Every member of group 5 but the executing hart has arrived, and what each contributed has drained. -/
theorem inTwo_due : (∀ m ∈ awaited.members, m ∈ awaited.arrived ++ [inTwo.myName]) ∧
    ∀ m ∈ awaited.members, inTwo.drainedAll 0 m = true := by decide

/-- The GBAR waits: the phase of group 5 has not completed. -/
theorem gbar_waits : ∃ t, exec (.gbar gbarArgs) inTwo = .next t ∧ t.me.status = .waiting := ⟨_, rfl, by decide +kernel⟩

/-- Refutes O20: in `inTwo` the last arrival at group 5 waits. -/
theorem not_groups : ¬ Obligations.Groups := by
  unfold Obligations.Groups
  intro groups
  obtain ⟨-, -, -, -, gbar⟩ := groups gbarArgs inTwo (.inl (by decide))
  obtain ⟨completes, -⟩ := gbar awaited mine inTwo_group.1 inTwo_group.2 inTwo_record (by decide) (.inl (by decide))
  obtain ⟨arrived, drained⟩ := inTwo_due
  obtain ⟨t, ht, passes, -⟩ := completes (fun rounds => absurd rounds.1 (by decide)) arrived drained (by decide)
  obtain ⟨u, hu, waits⟩ := gbar_waits
  obtain rfl : u = t := Host.Outcome.next.inj (hu.symm.trans ht)
  rw [passes] at waits
  exact absurd waits (by decide)

end Sys2Proof.TwoGroups
end

section
/-! SPAWN (Machine/Launch.lean, R59 to R62): O21. -/

open Sys2Proof Sys2Proof.Machine

namespace Sys2Proof.Machine

variable {s : State}

/-! ## The checks of the record alone (R61) -/

/-- Two numbers below n have p. -/
theorem one_lt_length_filter_range {n : Nat} {p : Nat → Bool} :
    1 < ((List.range n).filter p).length ↔ ∃ c < n, ∃ c' < c, p c = true ∧ p c' = true := by
  have nodup : ((List.range n).filter p).Nodup := List.nodup_range.filter _
  rw [← List.toFinset_card_of_nodup nodup, Finset.one_lt_card_iff]
  simp only [List.mem_toFinset, List.mem_filter, List.mem_range]
  constructor
  · rintro ⟨a, b, ⟨ha, pa⟩, ⟨hb, pb⟩, hab⟩
    rcases lt_or_gt_of_ne hab with h | h
    · exact ⟨b, hb, a, h, pb, pa⟩
    · exact ⟨a, ha, b, h, pa, pb⟩
  · rintro ⟨c, hc, c', h, pc, pc'⟩
    exact ⟨c, c', ⟨hc, pc⟩, ⟨by omega, pc'⟩, by omega⟩

theorem bitsOf_low (x : Word) (k : Nat) : bitsOf x k 0 = x.toNat % 2 ^ (k + 1) := by simp [bitsOf]
/-- One bit as a number. -/
theorem bitsOf_bit_ne_zero {x : Word} {k : Nat} : bitsOf x k k ≠ 0 ↔ x.getLsbD k = true := by
  have h : k + 1 - k = 1 := by omega
  rw [bitsOf, h, BitVec.getLsbD, Nat.testBit_eq_decide_div_mod_eq, Nat.shiftRight_eq_div_pow, decide_eq_true_eq]
  omega
/-- The first bounds of a record. -/
theorem startRecOf_bounds_take (bs : List Byte) (n : Nat) :
    (startRecOf bs).bounds.take n = (List.range (min n 6)).map fun d => (wordAt bs (0x40 + 8 * d)).toNat := by
  rw [startRecOf, ← List.map_take, List.take_range]
/-- The last bounds of a record. -/
theorem mem_startRecOf_bounds_drop {bs : List Byte} {n v : Nat} :
    v ∈ (startRecOf bs).bounds.drop n ↔ ∃ d < 6, n ≤ d ∧ (wordAt bs (0x40 + 8 * d)).toNat = v := by
  rw [startRecOf, ← List.map_drop, List.range_eq_range', List.drop_range', List.mem_map]
  simp only [List.mem_range'_1, mul_one, zero_add]
  constructor
  · rintro ⟨d, hd, e⟩
    exact ⟨d, by omega, hd.1, e⟩
  · rintro ⟨d, hd, hn, e⟩
    exact ⟨d, by omega, e⟩

/-- The checks of the record alone are those of R61's row. -/
theorem startRecBad_iff (bs : List Byte) : startRecBad bs (startRecOf bs) = true ↔ badStart bs := by
  have done : ∀ w : Word, w ≠ 0 ∧ bitsOf w 5 0 ≠ 0 ↔ w.toNat % 64 ≠ 0 := fun w => by
    rw [bitsOf_low]
    refine ⟨fun h => h.2, fun h => ⟨fun e => h (by simp [e]), h⟩⟩
  unfold startRecBad badStart
  simp only [Bool.or_eq_true, or_assoc]
  refine or_congr (by simp [wordAt]) (or_congr (by simp) (or_congr (by simp) (or_congr ?ctl (or_congr ?asid (or_congr ?entry
    (or_congr ?done (or_congr ?ceil (or_congr ?flat (or_congr ?dims (or_congr ?most (or_congr ?rest (or_congr ?items
      (or_congr ?seq ?rsv)))))))))))))
  case ctl => simp [startRecOf, wordAt]
  case asid => rw [bne_iff_ne]; exact bitsOf_bit_ne_zero
  case entry => rw [bne_iff_ne, bitsOf_low]; rfl
  case done => rw [Bool.and_eq_true, bne_iff_ne, bne_iff_ne]; exact done _
  case ceil => simp [StartRec.ceil, startRecOf, wordAt]
  case flat => simp [StartRec.nest, StartRec.dims, StartRec.order, StartRec.rsv, startRecOf, wordAt, or_assoc]
  case dims => simp [StartRec.nest, StartRec.dims, startRecOf, wordAt]
  case most =>
    rw [startRecOf_bounds_take]
    simp [StartRec.dims, startRecOf, wordAt]
  case rest =>
    rw [List.any_eq_true]
    simp only [mem_startRecOf_bounds_drop, bne_iff_ne]
    constructor
    · rintro ⟨v, ⟨d, hd, hn, rfl⟩, hv⟩
      exact ⟨d, hd, hn, hv⟩
    · rintro ⟨d, hd, hn, hv⟩
      exact ⟨_, ⟨d, hd, hn, rfl⟩, hv⟩
  case items =>
    rw [startRecOf_bounds_take, decide_eq_true_eq, ← List.prod_eq_foldl]
    rfl
  case seq => simp [StartRec.seq, StartRec.nest, StartRec.ceil, startRecOf, wordAt, or_assoc]
  case rsv =>
    rw [Bool.and_eq_true, decide_eq_true_eq]
    exact and_congr_right fun _ => one_lt_length_filter_range

/-! ## The record read, and its status -/

/-- A record off the device pages is read as it lies in memory (R61). -/
theorem State.readStart_calm (hc : s.calm) {va : Word} {g : Seg} (ha : va.toNat % 128 = 0)
    (hl : s.locate (s.ctx s.cur) .r (fun _ => true) va.toNat 128 = .ok [g]) (hd : g.leaf.cls ≠ clsDevice) :
    s.readStart va = .ok (s.rdBytes g.leaf.pa g.len, s) := by
  unfold State.readStart
  rw [if_neg (by simpa using ha), hl]
  simp [Except.bind, bind, hd, hc.gateSegs, hc.cleanSegs, hc.servedSegs, State.segBytes]

/-- The record is queued last in a queue, under the next launch number (R61, R62). -/
def State.enqueue (s : State) (p q : Nat) (r : StartRec) : State :=
  s.updPart p fun y => { y.setQueue q { y.queue q with recs := (y.queue q).recs ++ [{ r with launch := y.launches }] } with
    launches := y.launches + 1 }

/-- SPAWN of a record that is read writes its status, or queues it. -/
theorem exec_spawn {x : AArgs} {bs : List Byte} (h : s.agent) (hq : s.me.vec.queue = []) (hh : (s.myLhart s.cur).held = [])
    (hr : s.readStart (s.me.getG x.a) = .ok (bs, s)) :
    exec (.spawn x) s = onOk s (s.spawnStatus bs (startRecOf bs) (s.partOf s.cur) (s.me.getG x.b).toNat (s.asidOf s.cur)
      (s.privileged s.cur)) fun st =>
        if st = 0 then .next ((s.enqueue (s.partOf s.cur) (s.me.getG x.b).toNat (startRecOf bs)).writes x.d
          (word ((s.part (s.partOf s.cur)).launches * 256)))
        else .next (s.writes x.d (word st)) := by
  refine (onAgents_allowed (allowed_all h)).trans ?_
  rw [if_neg (by simp [hq, hh]), hr]
  simp only [bind, Except.bind, State.retire_setG]
  cases s.spawnStatus bs (startRecOf bs) (s.partOf s.cur) (s.me.getG x.b).toNat (s.asidOf s.cur) (s.privileged s.cur) <;> rfl

/-! ## The rows of the status table (R61) -/

section
variable {bs : List Byte} {r : StartRec} {p q asid : Nat} {priv : Bool}

theorem State.spawnStatus_number (hq : 63 < q) : s.spawnStatus bs r p q asid priv = .ok 5 := if_pos hq
theorem State.spawnStatus_disabled (hq : q ≤ 63) (he : s.partEnabled p = false) : s.spawnStatus bs r p q asid priv = .ok 3 := by
  simp [State.spawnStatus, hq, he]
/-- The issuer may not use the queue or the address space. -/
theorem State.spawnStatus_use (hq : q ≤ 63) (he : s.partEnabled p = true)
    (hu : ¬ (s.mayUse p q asid priv = true ∧ r.asid ≠ 0 ∧ (priv = true ∨ r.asid = asid))) :
    s.spawnStatus bs r p q asid priv = .ok 4 := by
  have refused : (!s.mayUse p q asid priv || (!priv && r.asid != asid) || r.asid == 0) = true := by
    cases hm : s.mayUse p q asid priv <;> cases priv <;> simp [hm] at hu ⊢ <;> tauto
  rw [State.spawnStatus, if_neg (by omega), if_neg (by simp [he]), if_pos refused]
/-- What is left of the table where the issuer may use both. -/
theorem State.spawnStatus_used (hq : q ≤ 63) (he : s.partEnabled p = true)
    (hu : s.mayUse p q asid priv = true ∧ r.asid ≠ 0 ∧ (priv = true ∨ r.asid = asid)) {e0 e1 : Word}
    (hs : s.entry ⟨s.cur, r.asid, false⟩ 0 0 0 (s.asidtab.toNat + 16 * r.asid) = .ok (e0, e1)) :
    s.spawnStatus bs r p q asid priv =
      if e0.getLsbD 63 = false ∨ bitsOf e0 62 61 ≠ p then .ok 4
      else if startRecBad bs r = true then .ok 2
      else if ¬ (r.clusters ≠ [] ∧ ∀ c ∈ r.clusters, s.ownsCluster p c = true) then .ok 3
      else s.doneOk r >>= fun b => if b = false then .ok 2 else if 32 ≤ ((s.part p).queue q).recs.length then .ok 1 else .ok 0 := by
  obtain ⟨may, named, asidOk⟩ := hu
  have allowed : ¬ (!s.mayUse p q asid priv || (!priv && r.asid != asid) || r.asid == 0) = true := by
    cases priv <;> simp_all
  have usable : s.asidUsable s.cur p r.asid = .ok (e0.getLsbD 63 && bitsOf e0 62 61 == p) := by
    simp [State.asidUsable, hs, bind, Except.bind]
  have owns : (r.clusters.isEmpty || r.clusters.any fun c => !s.ownsCluster p c) = true ↔
      ¬ (r.clusters ≠ [] ∧ ∀ c ∈ r.clusters, s.ownsCluster p c = true) := by
    simp only [Bool.or_eq_true, List.isEmpty_iff, List.any_eq_true, Bool.not_eq_true', not_and_or, not_not, not_forall,
      Bool.not_eq_true, exists_prop]
  have valid : (!(e0.getLsbD 63 && bitsOf e0 62 61 == p)) = true ↔ e0.getLsbD 63 = false ∨ bitsOf e0 62 61 ≠ p := by
    simp only [Bool.not_eq_true', Bool.and_eq_false_iff, beq_eq_false_iff_ne, ne_eq]
  rw [State.spawnStatus, if_neg (by omega), if_neg (by simp [he]), if_neg allowed, usable]
  simp only [bind, Except.bind, valid, owns, Bool.not_eq_true']

end

/-- The issuer may use a queue (R312). -/
theorem State.mayUse_iff {p q asid : Nat} {priv : Bool} : s.mayUse p q asid priv = true ↔
    (assocGet (0 : Word) s.qctl (64 * p + q)).getLsbD 63 = true ∧
      (priv = true ∨ (assocGet (0 : Word) s.qctl (64 * p + q)).getLsbD 62 = true ∨ bitsOf (assocGet (0 : Word) s.qctl (64 * p + q)) 42 32 = asid) := by
  simp [State.mayUse, or_assoc]

/-- The clusters of a record are those of its mask. -/
theorem StartRec.mem_clusters {r : StartRec} {c : Nat} : c ∈ r.clusters ↔ c < 160 ∧ r.cmask.testBit c = true := by
  simp [StartRec.clusters, nbit]
theorem State.ownsClusters_iff {r : StartRec} {p : Nat} : (r.clusters ≠ [] ∧ ∀ c ∈ r.clusters, s.ownsCluster p c = true) ↔
    (∃ c < 160, r.cmask.testBit c = true) ∧ ∀ c < 160, r.cmask.testBit c = true → s.ownsCluster p c = true := by
  simp only [ne_eq, List.eq_nil_iff_forall_not_mem, not_forall, not_not, StartRec.mem_clusters, and_imp]

/-- A record without a DONE object, or whose object is an ordinary one that may be read and written, passes (R61). -/
theorem State.doneOk_ok {r : StartRec}
    (h : r.done = 0 ∨ ∃ gs, s.locate ⟨outsider, r.asid, true⟩ .rw (· == clsOrdinary) r.done.toNat 64 = .ok gs) :
    s.doneOk r = .ok true := by
  unfold State.doneOk
  split
  · rfl
  · next some_done =>
    obtain ⟨gs, found⟩ := h.resolve_left some_done
    rw [found]
/-- A record whose DONE object cannot be reached does not. -/
theorem State.doneOk_fault {r : StartRec} {c : Cause} {v : Word} (some_done : r.done ≠ 0)
    (h : s.locate ⟨outsider, r.asid, true⟩ .rw (· == clsOrdinary) r.done.toNat 64 = .error (.trap c v)) : s.doneOk r = .ok false := by
  rw [State.doneOk, if_neg some_done, h]

/-! ## The record queued -/

section
variable (p q : Nat) (r : StartRec)

theorem State.enqueue_eq : s.enqueue p q r = { s with parts := (s.enqueue p q r).parts } := rfl
theorem State.part_enqueue_ne {p' : Nat} (h : p' ≠ p) : (s.enqueue p q r).part p' = s.part p' := State.part_updPart_ne s _ h
theorem State.launches_enqueue : ((s.enqueue p q r).part p).launches = (s.part p).launches + 1 := by simp [State.enqueue]
theorem State.queue_enqueue : (((s.enqueue p q r).part p).queue q).recs =
    ((s.part p).queue q).recs ++ [{ r with launch := (s.part p).launches }] := by
  simp [State.enqueue, Part.queue, Part.setQueue]
theorem State.queue_enqueue_ne {k : Nat} (h : k ≠ q) : ((s.enqueue p q r).part p).queue k = (s.part p).queue k := by
  simp [State.enqueue, Part.queue, Part.setQueue, assocGet_put_ne h]

end

/-- Settles O21, by the rows of R61's table in their order. -/
theorem spawn : Obligations.Spawn := by
  unfold Obligations.Spawn
  intro x s g ha hc hq hh va q p bs w n asid gives ctl mayQueue named masked clustersOk aligned located onMemory
  have run := exec_spawn (x := x) ha hq hh (State.readStart_calm hc aligned located onMemory)
  have record : s.rdBytes g.leaf.pa g.len = bs := rfl
  rw [record] at run
  have status : ∀ {st : Nat}, st ≠ 0 →
      s.spawnStatus bs (startRecOf bs) p q (s.asidOf s.cur) (s.privileged s.cur) = .ok st → gives st := by
    intro st h0 hst
    rw [show gives st = (exec (.spawn x) s = _) from rfl, run, hst]
    exact if_neg h0
  have asid_eq : (startRecOf bs).asid = asid := rfl
  have use_iff : (s.mayUse p q (s.asidOf s.cur) (s.privileged s.cur) = true ∧ (startRecOf bs).asid ≠ 0 ∧
      (s.privileged s.cur = true ∨ (startRecOf bs).asid = s.asidOf s.cur)) ↔ mayQueue ∧ named :=
    and_congr State.mayUse_iff Iff.rfl
  refine ⟨fun h => status (by decide) (State.spawnStatus_number h),
    fun h he => status (by decide) (State.spawnStatus_disabled h he), fun h he => ⟨fun hu => ?_, fun e0 e1 may name hs => ?_⟩⟩
  · exact status (by decide) (State.spawnStatus_use h he (mt use_iff.1 hu))
  · have rest := State.spawnStatus_used (bs := bs) h he (use_iff.2 ⟨may, name⟩) hs
    refine ⟨fun bad => status (by decide) (rest.trans (if_pos bad)), fun valid own => ?_⟩
    have bad_iff := startRecBad_iff bs
    have own_iff : ((startRecOf bs).clusters ≠ [] ∧ ∀ c ∈ (startRecOf bs).clusters, s.ownsCluster p c = true) ↔ clustersOk :=
      State.ownsClusters_iff
    rw [if_neg (by simp [valid, own])] at rest
    refine ⟨fun bad => status (by decide) (rest.trans (if_pos (bad_iff.2 bad))), fun good cl => status (by decide)
      (rest.trans (by rw [if_neg (mt bad_iff.1 good), if_pos (mt own_iff.1 cl)])), ?_⟩
    intro good cl done
    rw [if_neg (mt bad_iff.1 good), if_neg (not_not.2 (own_iff.2 cl))] at rest
    have done_ok : (w 0x38 = 0 ∨ ∃ gs, done = .ok gs) → s.doneOk (startRecOf bs) = .ok true :=
      State.doneOk_ok (r := startRecOf bs)
    refine ⟨fun c v some_done fault => ?_, fun found full => ?_, fun found room => ?_⟩
    · have not_ok : s.doneOk (startRecOf bs) = .ok false :=
        State.doneOk_fault (r := startRecOf bs) some_done fault
      exact status (by decide) (rest.trans (by rw [not_ok]; rfl))
    · exact status (by decide) (rest.trans (by rw [done_ok found]; exact if_pos full))
    · have accepted : s.spawnStatus bs (startRecOf bs) p q (s.asidOf s.cur) (s.privileged s.cur) = .ok 0 :=
        rest.trans (by rw [done_ok found]; exact if_neg (by omega))
      rw [run, accepted]
      exact ⟨_, rfl, rfl, State.launches_enqueue .., State.queue_enqueue .., fun k hk => State.queue_enqueue_ne _ _ _ hk,
        fun p' hp => State.part_enqueue_ne _ _ _ hp⟩

end Sys2Proof.Machine
end

section
/-! Selection of a record and aging (Machine/Place.lean, R61, R63, R65, R319). -/

open Sys2Proof Sys2Proof.Machine

namespace Sys2Proof.Machine

variable {s : State}

/-! ## Queues of a partition -/

@[simp] theorem Part.queue_setQueue_same (x : Part) (q : Nat) (v : SQueue) : (x.setQueue q v).queue q = v := assocGet_put_same
theorem Part.queue_setQueue_ne (x : Part) {q k : Nat} (v : SQueue) (h : k ≠ q) : (x.setQueue q v).queue k = x.queue k :=
  assocGet_put_ne h
@[simp] theorem Part.queue_placing (x : Part) (o : Option Nat) (k : Nat) : ({ x with placing := o } : Part).queue k = x.queue k := rfl

/-! ## The best candidate (R319) -/

/-- One candidate goes before another: a greater effective priority, or the same and an earlier launch. -/
def Outranks (b c : Nat × StartRec × Nat) : Prop := c.2.2 < b.2.2 ∨ (c.2.2 = b.2.2 ∧ b.2.1.launch ≤ c.2.1.launch)

/-- A further candidate takes the place of the best one, or does not. -/
theorem bestOf_append (l : List (Nat × StartRec × Nat)) (c : Nat × StartRec × Nat) :
    bestOf (l ++ [c]) = match bestOf l with
      | none => some c
      | some b => if b.2.2 < c.2.2 ∨ (b.2.2 = c.2.2 ∧ c.2.1.launch < b.2.1.launch) then some c else some b := by
  unfold bestOf
  rw [List.foldl_append, List.foldl_cons, List.foldl_nil]
  generalize List.foldl _ none l = o
  cases o <;> rfl

/-- The choice among candidates is one of them, and none goes before it. -/
theorem bestOf_outranks {l : List (Nat × StartRec × Nat)} (hl : l ≠ []) :
    ∃ b ∈ l, bestOf l = some b ∧ ∀ c ∈ l, Outranks b c := by
  induction l using List.reverseRecOn with
  | nil => exact absurd rfl hl
  | append_singleton l c ih =>
    rw [bestOf_append]
    by_cases hn : l = []
    · subst hn
      exact ⟨c, by simp, rfl, by simp [Outranks]⟩
    · obtain ⟨b, hb, best, first⟩ := ih hn
      rw [best]
      dsimp only
      split
      · next h =>
        refine ⟨c, by simp, rfl, fun x hx => ?_⟩
        rcases List.mem_append.1 hx with hx | hx
        · have := first x hx
          unfold Outranks at this ⊢
          omega
        · rw [List.mem_singleton.1 hx]
          exact .inr ⟨rfl, Nat.le_refl _⟩
      · next h =>
        refine ⟨b, List.mem_append_left _ hb, rfl, fun x hx => ?_⟩
        rcases List.mem_append.1 hx with hx | hx
        · exact first x hx
        · rw [List.mem_singleton.1 hx]
          unfold Outranks
          omega

/-- What the candidates of a partition are. -/
theorem State.mem_candidates {p q e : Nat} {r : StartRec} (h : (q, r, e) ∈ s.candidates p) :
    ∃ x, (q, x) ∈ (s.part p).queues ∧ x.recs.head? = some r := by
  unfold State.candidates at h
  obtain ⟨⟨k, x⟩, hx, hr⟩ := List.mem_filterMap.1 h
  dsimp only at hr
  split at hr
  · next r0 rest he =>
    split at hr
    · cases hr
      exact ⟨x, hx, by rw [he]; rfl⟩
    · cases hr
  · cases hr

/-! ## Memberships (R63, R65) -/

/-- The group of a record has no room for its harts (R69). -/
@[reducible] def State.groupHeld (s : State) (p : Nat) (r : StartRec) : Prop :=
  r.group ≠ 0 ∧ (s.grp p r.group).isNone = true ∧ 4096 ≤ s.grpCount p

theorem State.groupJoin_eq (s : State) (p id : Nat) (ms : List (Nat × Nat)) :
    s.groupJoin p id ms = { s with groups := (s.groupJoin p id ms).groups } := by
  unfold State.groupJoin
  split <;> rfl

section
variable {p : Nat} {r : Rec} (hp : s.placingRec p = some r)
include hp

theorem State.takeGroup_selected (hs : r.selected = true) : s.takeGroup p = s := by
  unfold State.takeGroup
  rw [hp]
  exact if_pos hs

theorem State.takeGroup_held (hh : s.groupHeld p r.sr) : s.takeGroup p = s := by
  unfold State.takeGroup
  rw [hp]
  dsimp only
  rw [if_pos hh, ite_self]

/-- A record with items, or without a nest, takes its memberships. -/
theorem State.takeGroup_takes (hs : r.selected = false) (hh : ¬ s.groupHeld p r.sr) (hi : ¬ (r.sr.nest = true ∧ r.sr.items = 0)) :
    s.takeGroup p = (if r.sr.group = 0 then s else s.groupJoin p r.sr.group r.sr.members).setRec { r with selected := true } := by
  have empty : (r.sr.nest && r.sr.items == 0) = false := by
    rw [Bool.eq_false_iff]
    simpa using hi
  unfold State.takeGroup
  rw [hp]
  dsimp only
  rw [if_neg (by simp [hs]), if_neg hh, empty]
  simp

/-- A record without items has ended as it takes them. -/
theorem State.takeGroup_empty (he : s.eager = false) (hs : r.selected = false) (hh : ¬ s.groupHeld p r.sr)
    (hi : r.sr.nest = true ∧ r.sr.items = 0) :
    s.takeGroup p = (s.setRec { r with
      selected := true
      lh := (List.range r.sr.harts).map fun l => (l, { LHart.start with place := .ended }) }).updPart p
        fun x => { x with placing := none } := by
  obtain ⟨nest, items⟩ := hi
  unfold State.takeGroup
  rw [hp]
  dsimp only
  rw [if_neg (by simp [hs]), if_neg hh]
  simp [nest, items, he]

end

/-- What the step of memberships leaves of its partition: the record has its start record still, and it stops placing where it has no
items. -/
theorem State.takeGroup_spec {p : Nat} {r : Rec} (he : s.eager = false) (hp : s.placingRec p = some r)
    (hs : r.selected = false) : ∃ y, (s.takeGroup p).recOf p r.sr.launch = some y ∧ y.sr = r.sr ∧ (s.takeGroup p).mem = s.mem ∧
      (∀ k, ((s.takeGroup p).part p).queue k = (s.part p).queue k) ∧
      ((s.takeGroup p).part p).placing =
        if (r.sr.nest = true ∧ r.sr.items = 0) ∧ ¬ s.groupHeld p r.sr then none else (s.part p).placing := by
  have found : s.recOf p r.sr.launch = some r := by
    obtain ⟨l, -, hl⟩ := Option.bind_eq_some_iff.1 hp
    obtain ⟨-, rfl⟩ := State.key_of_recOf hl
    exact hl
  obtain ⟨part, -⟩ := State.key_of_recOf found
  by_cases hh : s.groupHeld p r.sr
  · rw [State.takeGroup_held hp hh, if_neg (by simp [hh])]
    exact ⟨r, found, rfl, rfl, fun _ => rfl, rfl⟩
  by_cases hi : r.sr.nest = true ∧ r.sr.items = 0
  · rw [State.takeGroup_empty hp he hs hh hi, if_pos ⟨hi, hh⟩]
    exact ⟨_, State.recOf_setRec_same (r := r) found part rfl, rfl, rfl,
      fun k => by rw [State.part_updPart_same]; rfl, by rw [State.part_updPart_same]⟩
  · rw [State.takeGroup_takes hp hs hh hi]
    by_cases hg : r.sr.group = 0
    · rw [if_pos hg, if_neg (fun h => hi h.1)]
      exact ⟨_, State.recOf_setRec_same (r := r) found part rfl, rfl, rfl, fun _ => rfl, rfl⟩
    · rw [if_neg hg, if_neg (fun h => hi h.1), State.groupJoin_eq]
      exact ⟨_, State.recOf_setRec_same (s := { s with groups := _ }) (r := r) found part rfl, rfl, rfl, fun _ => rfl, rfl⟩

/-! ## Selection (R319) -/

/-- The record of a candidate, as it starts to place. -/
def State.selecting (s : State) (p q : Nat) (r : StartRec) : Rec :=
  { part := p, sr := r, selected := false, granted := 0, nextItem := 0, aged := ((s.part p).queue q).aged, wave := 0,
    drained := s.groupDrained p r, ending := none, lh := [] }
/-- The state in which a candidate has left its queue. -/
def State.dequeued (s : State) (p q : Nat) (r : StartRec) : State :=
  { (s.updPart p fun y => { y.setQueue q ⟨((s.part p).queue q).recs.drop 1, 0⟩ with placing := some r.launch }) with
    recs := s.recs ++ [s.selecting p q r] }

theorem State.selectRec_eq {p : Nat} {c : Nat × StartRec × Nat} (hp : (s.part p).placing = none)
    (hb : bestOf (s.candidates p) = some c) : s.selectRec p = (s.dequeued p c.1 c.2.1).takeGroup p := by
  unfold State.selectRec
  rw [hp, hb]
  rfl

theorem State.part_dequeued (p q : Nat) (r : StartRec) : (s.dequeued p q r).part p =
    { (s.part p).setQueue q ⟨((s.part p).queue q).recs.drop 1, 0⟩ with placing := some r.launch } := by
  simp [State.dequeued, State.part, State.updPart]

theorem State.placingRec_dequeued {p q : Nat} {r : StartRec} (hr : s.recOf p r.launch = none) :
    (s.dequeued p q r).placingRec p = some (s.selecting p q r) := by
  have placing : ((s.dequeued p q r).part p).placing = some r.launch := by rw [State.part_dequeued]
  have found : (s.dequeued p q r).recOf p r.launch = some (s.selecting p q r) := by
    unfold State.recOf at hr
    unfold State.recOf State.dequeued
    dsimp only
    rw [List.find?_append, hr]
    simp [State.selecting]
  unfold State.placingRec
  rw [placing]
  exact found

/-- A partition without a placing record selects its best candidate (R319, R61). -/
theorem selectRec_spec {p : Nat} (he : s.eager = false) (hp : (s.part p).placing = none) (hc : s.candidates p ≠ [])
    (fresh : ∀ c ∈ s.candidates p, s.recOf p c.2.1.launch = none) :
    ∃ q r e t, (q, r, e) ∈ s.candidates p ∧
      (∀ c ∈ s.candidates p, c.2.2 < e ∨ (c.2.2 = e ∧ r.launch ≤ c.2.1.launch)) ∧
      exec (.recordSelect p) s = .next t ∧ ((t.part p).queue q).recs = ((s.part p).queue q).recs.drop 1 ∧
      (∀ k, k ≠ q → (t.part p).queue k = (s.part p).queue k) ∧ (∃ y, t.recOf p r.launch = some y ∧ y.sr = r) ∧ t.mem = s.mem ∧
      (t.part p).placing = if r.nest = true ∧ r.items = 0 ∧ (r.group = 0 ∨ (s.grp p r.group).isSome ∨ s.grpCount p < 4096)
        then none else some r.launch := by
  obtain ⟨⟨q, r, e⟩, hb, best, first⟩ := bestOf_outranks hc
  obtain ⟨y, found, sr, mem, queues, placing⟩ :=
    State.takeGroup_spec (s := s.dequeued p q r) he (State.placingRec_dequeued (fresh _ hb)) rfl
  have room : ¬ (s.dequeued p q r).groupHeld p r ↔ (r.group = 0 ∨ (s.grp p r.group).isSome ∨ s.grpCount p < 4096) := by
    change ¬ s.groupHeld p r ↔ _
    unfold State.groupHeld
    cases hg : s.grp p r.group
    all_goals simp
    all_goals tauto
  refine ⟨q, r, e, _, hb, first, rfl, ?_, fun k hk => ?_, ?_, ?_, ?_⟩
  all_goals rw [State.selectRec_eq hp best]
  · rw [queues, State.part_dequeued]
    simp
  · rw [queues, State.part_dequeued]
    simpa using Part.queue_setQueue_ne _ _ hk
  · exact ⟨y, found, sr⟩
  · exact mem
  · rw [placing, State.part_dequeued]
    refine if_congr ?_ rfl rfl
    rw [and_assoc]
    exact and_congr_right fun _ => and_congr_right fun _ => room

/-- A record that is placing takes its memberships once, where its group has room (R63, R69). -/
theorem takeGroup_cases (p : Nat) (r : Rec) (hp : s.placingRec p = some r) :
    (r.selected = true → exec (.groupMembershipTake p) s = .next s) ∧
    (r.selected = false → r.sr.group ≠ 0 → s.grp p r.sr.group = none → 4096 ≤ s.grpCount p →
      exec (.groupMembershipTake p) s = .next s) ∧
    (r.selected = false → r.sr.group ≠ 0 → (s.grp p r.sr.group).isSome ∨ s.grpCount p < 4096 → r.sr.nest = false ∨ r.sr.items ≠ 0 →
      exec (.groupMembershipTake p) s = .next ((s.groupJoin p r.sr.group r.sr.members).setRec { r with selected := true })) := by
  refine ⟨fun hs => congrArg Host.Outcome.next (State.takeGroup_selected hp hs),
    fun _ hg none full => congrArg Host.Outcome.next (State.takeGroup_held hp ⟨hg, by simp [none], full⟩),
    fun hs hg room items => congrArg Host.Outcome.next ?_⟩
  rw [State.takeGroup_takes hp hs, if_neg hg]
  · rintro ⟨-, none, full⟩
    rcases room with room | room
    · simp_all
    · omega
  · rintro ⟨nest, zero⟩
    simp_all

/-- A wait of one interval raises the age of the head of a queue (R319). -/
theorem aging_spec (s : State) (p q : Nat) (hq : q < 64) (hr : ((s.part p).queue q).recs ≠ []) :
    ∃ t, exec (.priorityAging p q) s = .next t ∧ t = { s with parts := t.parts } ∧
      (t.part p).queue q = { (s.part p).queue q with aged := ((s.part p).queue q).aged + 1 } ∧
      ∀ k, k ≠ q → (t.part p).queue k = (s.part p).queue k := by
  have aged : s.age p q = s.updPart p fun x => match (x.queue q).recs with
      | [] => x
      | _ :: _ => x.setQueue q { x.queue q with aged := (x.queue q).aged + 1 } := if_pos hq
  obtain ⟨r, rest, head⟩ := List.exists_cons_of_ne_nil hr
  refine ⟨s.age p q, rfl, ?_, ?_, fun k hk => ?_⟩
  all_goals rw [aged]
  · rfl
  · rw [State.part_updPart_same]
    simp [head]
  · rw [State.part_updPart_same]
    simpa [head] using Part.queue_setQueue_ne _ _ hk

end Sys2Proof.Machine
end

section
/-! Placement of a record's harts (Machine/Place.lean, R63, R64, R321). -/

open Sys2Proof Sys2Proof.Machine

namespace Sys2Proof.Machine

variable {s : State}

/-! ## Slots -/

theorem slotsOf_seq (c : Nat) (lo : Nat → Nat) (n : Nat) : slotsOf c true lo n = [seqBase + c] := rfl
theorem mem_slotsOf_cores {c n hid : Nat} : hid ∈ slotsOf c false (fun _ => 0) n ↔ ∃ k < 4, ∃ i < n, hid = 32 * c + 8 * k + i := by
  simp [slotsOf, eq_comm]

/-- The slots of a record in a cluster: one of the sequencer, or equally many from 0 on of each core. -/
def StartRec.slots (r : StartRec) (c : Nat) : List Nat := slotsOf c r.seq (fun _ => 0) r.share

theorem StartRec.share_le (r : StartRec) : r.share ≤ 8 := by
  have : bitsOf r.ctl 16 15 ≤ 3 := by
    unfold bitsOf
    have := Nat.mod_lt (r.ctl.toNat / 2 ^ 15) (show 0 < 2 ^ (16 + 1 - 15) by decide)
    omega
  exact Nat.pow_le_pow_right (n := 2) (by decide) this

theorem StartRec.length_slots (r : StartRec) (c : Nat) : (r.slots c).length = r.perCluster := by
  unfold StartRec.slots StartRec.perCluster
  cases r.seq with
  | true => rfl
  | false => simp [slotsOf]; omega

/-- Slots of different clusters are different. -/
theorem slotsOf_disjoint {c d n m hid : Nat} {q : Bool} (hn : n ≤ 8) (hm : m ≤ 8) (hc : hid ∈ slotsOf c q (fun _ => 0) n)
    (hd : hid ∈ slotsOf d q (fun _ => 0) m) : c = d := by
  cases q with
  | true =>
    rw [slotsOf_seq, List.mem_singleton] at hc hd
    omega
  | false =>
    rw [mem_slotsOf_cores] at hc hd
    obtain ⟨k, hk, i, hi, e⟩ := hc
    obtain ⟨k', hk', i', hi', e'⟩ := hd
    omega

theorem StartRec.nodup_slots (r : StartRec) (c : Nat) : (r.slots c).Nodup := by
  have := r.share_le
  unfold StartRec.slots slotsOf
  split
  · exact List.nodup_singleton _
  · rw [List.nodup_flatMap]
    refine ⟨fun k _ => List.nodup_range.map fun i j h => by simpa using h, ?_⟩
    refine List.nodup_range.imp_of_mem fun {k l} hk hl ne hid h1 h2 => ?_
    simp only [List.mem_map, List.mem_range] at h1 h2 hk hl
    obtain ⟨i, hi, rfl⟩ := h1
    obtain ⟨j, hj, e⟩ := h2
    omega

/-! ## What placing keeps -/

/-- Harts of a record have been placed: memory, partitions and the mode are as before, and the record has its start record still. -/
structure Placing (s t : State) (p : Nat) (r : Rec) (granted : Nat) : Prop where
  mem : t.mem = s.mem
  parts : t.parts = s.parts
  partcfg : t.partcfg = s.partcfg
  eager : t.eager = s.eager
  record : ∃ y, t.recOf p r.sr.launch = some y ∧ y.part = r.part ∧ y.sr = r.sr ∧ y.granted = granted

theorem Placing.trans {t u : State} {p : Nat} {r y : Rec} {g g' : Nat} (a : Placing s t p r g) (b : Placing t u p y g')
    (hp : y.part = r.part) (hr : y.sr = r.sr) : Placing s u p r g' where
  mem := b.mem.trans a.mem
  parts := b.parts.trans a.parts
  partcfg := b.partcfg.trans a.partcfg
  eager := b.eager.trans a.eager
  record := by
    obtain ⟨z, found, part, sr, granted⟩ := b.record
    exact ⟨z, hr ▸ found, part.trans hp, sr.trans hr, granted⟩

/-- A hart's start is given by the start record of its record. -/
theorem Hart.start_congr {r y : Rec} (hp : y.part = r.part) (hr : y.sr = r.sr) (l seed : Nat) (g : Option Nat) :
    Hart.start y l seed g = Hart.start r l seed g := by
  unfold Hart.start
  rw [hp, hr]

/-- A hart of a record without a nest starts in its slot. -/
theorem State.placeHart_plain {p launch hid l : Nat} {r : Rec} {g : Option Nat} (hr : s.recOf p launch = some r)
    (hn : r.sr.nest = false) : s.placeHart hid p launch l g =
      (({ s with free := s.free + 1 } : State).setRec (r.setLhart l { r.lhart l with place := .placed hid, drains := r.drained })).setHart hid
        (Hart.start r l s.free g) := by
  unfold State.placeHart
  rw [hr]
  dsimp only
  rw [if_neg (by simp [hn])]

theorem State.placing_placeHart {p launch hid l : Nat} {r : Rec} {g : Option Nat} (hr : s.recOf p launch = some r)
    (hn : r.sr.nest = false) : Placing s (s.placeHart hid p launch l g) p r r.granted := by
  obtain ⟨part, rfl⟩ := State.key_of_recOf hr
  rw [State.placeHart_plain hr hn]
  exact ⟨rfl, rfl, rfl, rfl, _, State.recOf_setRec_same (s := { s with free := s.free + 1 }) hr part rfl, rfl, rfl, rfl⟩

/-! ## The harts of one cluster -/

/-- The slots of a list are filled in order. -/
def State.fill (s : State) (p launch first : Nat) (g : Option Nat) (l : List (Nat × Nat)) : State :=
  l.foldl (fun (s : State) (e : Nat × Nat) => s.placeHart e.1 p launch (first + e.2) g) s

theorem State.fill_cons (p launch first : Nat) (g : Option Nat) (e : Nat × Nat) (l : List (Nat × Nat)) :
    s.fill p launch first g (e :: l) = (s.placeHart e.1 p launch (first + e.2) g).fill p launch first g l := rfl

theorem State.placing_fill {p launch first : Nat} {g : Option Nat} (l : List (Nat × Nat)) {r : Rec}
    (hr : s.recOf p launch = some r) (hn : r.sr.nest = false) : Placing s (s.fill p launch first g l) p r r.granted := by
  induction l generalizing s r with
  | nil => exact ⟨rfl, rfl, rfl, rfl, r, by obtain ⟨-, rfl⟩ := State.key_of_recOf hr; exact hr, rfl, rfl, rfl⟩
  | cons e l ih =>
    have one : Placing s (s.placeHart e.1 p launch (first + e.2) g) p r r.granted := State.placing_placeHart hr hn
    obtain ⟨y, found, part, sr, granted⟩ := one.record
    obtain ⟨-, rfl⟩ := State.key_of_recOf hr
    have rest := ih found (by rw [sr]; exact hn)
    rw [granted] at rest
    exact one.trans rest part sr

/-- A slot that is not filled keeps its hart. -/
theorem State.hart_fill_ne {p launch first : Nat} {g : Option Nat} (l : List (Nat × Nat)) {r : Rec}
    (hr : s.recOf p launch = some r) (hn : r.sr.nest = false) {hid : Nat} (h : hid ∉ l.map (·.1)) :
    (s.fill p launch first g l).hart hid = s.hart hid := by
  induction l generalizing s r with
  | nil => rfl
  | cons e l ih =>
    obtain ⟨y, found, part, sr, -⟩ := (State.placing_placeHart (hid := e.1) (l := first + e.2) (g := g) hr hn).record
    obtain ⟨-, rfl⟩ := State.key_of_recOf hr
    simp only [List.map_cons, List.mem_cons, not_or] at h
    rw [State.fill_cons, ih found (by rw [sr]; exact hn) h.2, State.placeHart_plain hr hn, State.hart_setHart_ne _ _ h.1]
    rfl

/-- A slot that is filled holds the hart at its start. -/
theorem State.hart_fill {p launch first : Nat} {g : Option Nat} (l : List (Nat × Nat)) {r : Rec}
    (hr : s.recOf p launch = some r) (hn : r.sr.nest = false) (hl : (l.map (·.1)).Nodup) {e : Nat × Nat} (he : e ∈ l) :
    ∃ seed, (s.fill p launch first g l).hart e.1 = Hart.start r (first + e.2) seed g := by
  induction l generalizing s r with
  | nil => cases he
  | cons d l ih =>
    obtain ⟨y, found, part, sr, -⟩ := (State.placing_placeHart (hid := d.1) (l := first + d.2) (g := g) hr hn).record
    obtain ⟨-, rfl⟩ := State.key_of_recOf hr
    have hny : y.sr.nest = false := by rw [sr]; exact hn
    rw [List.map_cons, List.nodup_cons] at hl
    rw [State.fill_cons]
    rcases List.mem_cons.1 he with rfl | he
    · rw [State.hart_fill_ne l found hny hl.1, State.placeHart_plain hr hn, State.hart_setHart_same]
      exact ⟨_, rfl⟩
    · obtain ⟨seed, h⟩ := ih found hny hl.2 he
      exact ⟨seed, h.trans (Hart.start_congr part sr ..)⟩

/-! ## The clusters of a record -/

/-- The logical index of the first hart in a cluster (R63). -/
def StartRec.firstOf (r : StartRec) (c : Nat) : Nat := (r.clusters.filter (· < c)).length * r.perCluster

theorem State.grant_eq {p launch c : Nat} {r : Rec} (hr : s.recOf p launch = some r) :
    s.grant p launch c (fun _ => 0) none =
      (s.setRec { r with granted := setNBit r.granted c true }).fill p launch (r.sr.firstOf c) none (r.sr.slots c).zipIdx := by
  unfold State.grant
  rw [hr]
  rfl

/-- What a grant of a cluster gives and keeps. -/
structure Granted (s t : State) (p : Nat) (r : Rec) (cs : List Nat) : Prop where
  placing : ∃ n, Placing s t p r n ∧ ∀ c, nbit n c = true ↔ nbit r.granted c = true ∨ c ∈ cs
  starts : ∀ c ∈ cs, ∀ k < r.sr.perCluster, ∃ seed, t.hart ((r.sr.slots c).getD k 0) = Hart.start r (r.sr.firstOf c + k) seed none
  others : ∀ hid, (∀ c ∈ cs, hid ∉ r.sr.slots c) → t.hart hid = s.hart hid

/-- A bit of a set that has gained one. -/
theorem nbit_setNBit (n c d : Nat) : nbit (setNBit n c true) d = (nbit n d || decide (d = c)) := by
  unfold nbit setNBit
  rw [if_pos rfl, Nat.testBit_or, Nat.one_shiftLeft, Nat.testBit_two_pow]
  simp only [eq_comm]

theorem State.granted_grant {p launch c : Nat} {r : Rec} (hr : s.recOf p launch = some r) (hn : r.sr.nest = false) :
    Granted s (s.grant p launch c (fun _ => 0) none) p r [c] := by
  obtain ⟨part, rfl⟩ := State.key_of_recOf hr
  have found : (s.setRec { r with granted := setNBit r.granted c true }).recOf p r.sr.launch =
      some { r with granted := setNBit r.granted c true } := State.recOf_setRec_same hr part rfl
  have keys : ((r.sr.slots c).zipIdx.map (·.1)) = r.sr.slots c := List.zipIdx_map_fst ..
  rw [State.grant_eq hr]
  constructor
  case placing =>
    obtain ⟨mem, parts, partcfg, eager, record⟩ :=
      State.placing_fill (first := r.sr.firstOf c) (g := none) (r.sr.slots c).zipIdx found hn
    exact ⟨_, ⟨mem, parts, partcfg, eager, record⟩, fun d => by simp [nbit_setNBit]⟩
  case starts =>
    intro d hd k hk
    obtain rfl := List.mem_singleton.1 hd
    have hk' : k < (r.sr.slots d).length := by rw [r.sr.length_slots]; exact hk
    have mem : ((r.sr.slots d).getD k 0, k) ∈ (r.sr.slots d).zipIdx := by
      rw [List.mk_mem_zipIdx_iff_getElem?]
      simp [hk']
    obtain ⟨seed, h⟩ := State.hart_fill (first := r.sr.firstOf d) (g := none) _ found hn (by rw [keys]; exact r.sr.nodup_slots d) mem
    exact ⟨seed, h⟩
  case others =>
    intro hid h
    exact State.hart_fill_ne _ found hn (by rw [keys]; exact h c (List.mem_singleton_self c))

/-- A cluster that is free and not withheld is granted (R321). -/
theorem State.allot_free {p launch c : Nat} {r : Rec} (hr : s.recOf p launch = some r) (hg : nbit r.granted c = false)
    (hw : s.withheld p c = false) (hf : s.clusterFree c r.sr.seq = true) :
    s.allot p launch c = s.grant p launch c (fun _ => 0) none := by
  unfold State.allot
  rw [hr]
  dsimp only
  rw [if_neg (by simp [hg, hw]), if_pos hf]

/-- Clusters that are free and not withheld are granted one after the other (R321). -/
theorem State.granted_allots {p launch : Nat} (cs : List Nat) {r : Rec} (hr : s.recOf p launch = some r) (hn : r.sr.nest = false)
    (nodup : cs.Nodup) (hg : ∀ c ∈ cs, nbit r.granted c = false)
    (free : ∀ c ∈ cs, s.withheld p c = false ∧ s.clusterFree c r.sr.seq = true) :
    Granted s (cs.foldl (fun (s : State) c => s.allot p launch c) s) p r cs := by
  obtain ⟨-, hl⟩ := State.key_of_recOf hr
  induction cs generalizing s r with
  | nil => exact ⟨⟨_, ⟨rfl, rfl, rfl, rfl, r, hl ▸ hr, rfl, rfl, rfl⟩, by simp⟩, by simp, fun _ _ => rfl⟩
  | cons c cs ih =>
    obtain ⟨hcs, nodup⟩ := List.nodup_cons.1 nodup
    obtain ⟨held, isFree⟩ := free c (List.mem_cons_self ..)
    rw [List.foldl_cons, State.allot_free hr (hg c (List.mem_cons_self ..)) held isFree]
    obtain ⟨⟨n, placing, bits⟩, starts, others⟩ := State.granted_grant (c := c) hr hn
    obtain ⟨y, found, part, sr, rfl⟩ := placing.record
    have apart : ∀ d ∈ cs, ∀ m ≤ 8, ∀ hid ∈ slotsOf d r.sr.seq (fun _ => 0) m, hid ∉ r.sr.slots c := fun d hd m hm hid h1 h2 => by
      rw [slotsOf_disjoint hm r.sr.share_le h1 h2] at hd
      exact hcs hd
    have kept : ∀ hid, hid ∉ r.sr.slots c → (s.grant p launch c (fun _ => 0) none).hart hid = s.hart hid :=
      fun hid h => others hid (by simpa using h)
    have rest : Granted (s.grant p launch c (fun _ => 0) none)
        (cs.foldl (fun (s : State) c => s.allot p launch c) (s.grant p launch c (fun _ => 0) none)) p y cs := by
      refine ih (hl ▸ found) (by rw [sr]; exact hn) nodup (fun d hd => ?_) (fun d hd => ⟨?_, ?_⟩) (by rw [sr]; exact hl)
      · rw [Bool.eq_false_iff, ne_eq, bits, not_or, Bool.not_eq_true, List.mem_singleton]
        exact ⟨hg d (List.mem_cons_of_mem _ hd), fun e => hcs (e ▸ hd)⟩
      · have := (free d (List.mem_cons_of_mem _ hd)).1
        unfold State.withheld State.ownsCluster State.partcfgOf State.part at this ⊢
        rwa [placing.parts, placing.partcfg]
      · have := (free d (List.mem_cons_of_mem _ hd)).2
        rw [sr]
        unfold State.clusterFree at this ⊢
        rw [List.all_eq_true] at this ⊢
        intro hid h
        rw [kept hid (apart d hd 8 (Nat.le_refl _) hid h)]
        exact this hid h
    obtain ⟨⟨m, placing', bits'⟩, starts', others'⟩ := rest
    refine ⟨⟨m, placing.trans placing' part sr, fun d => ?_⟩, fun d hd k hk => ?_, fun hid h => ?_⟩
    · rw [bits', bits, or_assoc, List.mem_singleton, List.mem_cons]
    · rcases List.mem_cons.1 hd with rfl | hd
      · obtain ⟨seed, h⟩ := starts d (List.mem_singleton_self d) k hk
        have inside : (r.sr.slots d).getD k 0 ∈ r.sr.slots d := by
          have : k < (r.sr.slots d).length := by rw [r.sr.length_slots]; exact hk
          simp [this]
        refine ⟨seed, (others' _ fun c hc => ?_).trans h⟩
        rw [sr]
        exact fun h2 => apart c hc _ r.sr.share_le _ h2 inside
      · obtain ⟨seed, h⟩ := starts' d hd k (by rw [sr]; exact hk)
        rw [sr] at h
        exact ⟨seed, h.trans (Hart.start_congr part sr ..)⟩
    · rw [others' hid fun d hd => by rw [sr]; exact h d (List.mem_cons_of_mem _ hd)]
      exact kept hid (h c (List.mem_cons_self ..))

/-! ## CLUSTER_GRANT -/

theorem StartRec.nodup_clusters (r : StartRec) : r.clusters.Nodup := List.nodup_range.filter _

/-- The fields that a hart of a record without a nest starts with (R64). -/
theorem Hart.start_fields {r : Rec} (hn : r.sr.nest = false) (l seed : Nat) :
    let h := Hart.start r l seed none
    h.status = .running ∧ h.pc = r.sr.entry ∧ h.part = r.part ∧ h.launch = r.sr.launch ∧ h.logical = l ∧ h.asid = r.sr.asid ∧
      h.share = r.sr.share ∧ h.getG 1 = BitVec.ofNat 64 l ∧ h.getG 2 = BitVec.ofNat 64 r.sr.harts ∧ h.getG 7 = r.sr.arg ∧
      h.getG 8 = BitVec.ofNat 64 r.sr.launch ∧ h.vec.n = 32 ∧ h.vec.vb = 0 ∧ h.vtype = 0 ∧ h.fcsr = 0 := by
  have one : ∀ (h : Hart) (d : Reg) (v : Word), d ≠ 0 → (h.setG d v).getG d = v := fun h d v hd => Hart.getG_setG_same h v hd
  have other : ∀ (h : Hart) (d r : Reg) (v : Word), r ≠ d → (h.setG d v).getG r = h.getG r := fun h d r v hr => Hart.getG_setG_ne h v hr
  intro h
  have start : h = _ := if_neg (by simp [hn])
  rw [start]
  simp only [Hart.setG_status, Hart.setG_pc, Hart.setG_part, Hart.setG_launch, Hart.setG_logical, Hart.setG_asid, Hart.setG_share,
    Hart.setG_vec, Hart.setG_vtype, Hart.setG_fcsr, true_and]
  refine ⟨?_, ?_, ?_, ?_, rfl, rfl, rfl, rfl⟩
  · rw [other _ _ _ _ (by decide), one _ _ _ (by decide)]; rfl
  · rw [one _ _ _ (by decide)]; rfl
  · rw [other _ _ _ _ (by decide), other _ _ _ _ (by decide), other _ _ _ _ (by decide), one _ _ _ (by decide)]
  · rw [other _ _ _ _ (by decide), other _ _ _ _ (by decide), one _ _ _ (by decide)]; rfl

/-- Every cluster of a record is granted in one step where all are free (R321). -/
theorem clusterGrant_spec (s : State) (p : Nat) (r : Rec) (he : s.eager = false) (hp : s.placingRec p = some r) (part : r.part = p)
    (hs : r.selected = true) (hn : r.sr.nest = false) (hg : r.granted = 0)
    (free : ∀ c ∈ r.sr.clusters, s.withheld p c = false ∧ s.clusterFree c r.sr.seq = true) :
    ∃ t, exec (.clusterGrant p) s = .next t ∧ t.mem = s.mem ∧ (t.part p).placing = none ∧
      (∀ c ∈ r.sr.clusters, ∀ k < r.sr.perCluster,
        let h := t.hart ((slotsOf c r.sr.seq (fun _ => 0) r.sr.share).getD k 0)
        let l := (r.sr.clusters.filter (· < c)).length * r.sr.perCluster + k
        h.status = .running ∧ h.pc = r.sr.entry ∧ h.part = p ∧ h.launch = r.sr.launch ∧ h.logical = l ∧ h.asid = r.sr.asid ∧
        h.share = r.sr.share ∧ h.getG 1 = BitVec.ofNat 64 l ∧ h.getG 2 = BitVec.ofNat 64 r.sr.harts ∧ h.getG 7 = r.sr.arg ∧
        h.getG 8 = BitVec.ofNat 64 r.sr.launch ∧ h.vec.n = 32 ∧ h.vec.vb = 0 ∧ h.vtype = 0 ∧ h.fcsr = 0) ∧
      ∀ hid, (∀ c ∈ r.sr.clusters, hid ∉ slotsOf c r.sr.seq (fun _ => 0) r.sr.share) → t.hart hid = s.hart hid := by
  have found : s.recOf p r.sr.launch = some r := by
    obtain ⟨l, -, hl⟩ := Option.bind_eq_some_iff.1 hp
    obtain ⟨-, rfl⟩ := State.key_of_recOf hl
    exact hl
  obtain ⟨⟨n, placing, bits⟩, starts, others⟩ :=
    State.granted_allots r.sr.clusters found hn r.sr.nodup_clusters (by simp [hg, nbit]) free
  obtain ⟨y, foundY, -, sr, rfl⟩ := placing.record
  have ready : r.sr.clusters.all (fun c => !s.withheld p c && (s.clusterFree c r.sr.seq ||
      (s.preemptible c (effPrio r.sr r.aged) && s.shutterCase c r))) = true := by
    rw [List.all_eq_true]
    intro c hc
    simp [free c hc]
  have all : y.sr.clusters.all (fun c => nbit y.granted c) = true := by
    rw [List.all_eq_true, sr]
    exact fun c hc => (bits c).2 (.inr hc)
  have lazy : ∀ f : Part → Part, ((r.sr.clusters.foldl (fun (s : State) c => s.allot p r.sr.launch c) s).updPart p f).eager = false :=
    fun _ => placing.eager.trans he
  have placed : (r.sr.clusters.foldl (fun (s : State) c => s.allot p r.sr.launch c) s).placedAll p r.sr.launch =
      (r.sr.clusters.foldl (fun (s : State) c => s.allot p r.sr.launch c) s).updPart p fun x => { x with placing := none } := by
    unfold State.placedAll
    rw [foundY]
    exact if_pos all
  have grants : s.clusterGrant p = (r.sr.clusters.foldl (fun (s : State) c => s.allot p r.sr.launch c) s).updPart p
      fun x => { x with placing := none } := by
    unfold State.clusterGrant
    rw [hp]
    dsimp only
    have at_once : ¬ (r.sr.det && !r.sr.clusters.all fun c => !s.withheld p c && (s.clusterFree c r.sr.seq ||
        (s.preemptible c (effPrio r.sr r.aged) && s.shutterCase c r))) = true := by rw [ready]; simp
    rw [if_neg (by simp [hs]), if_neg at_once, placed]
    exact if_neg (Bool.eq_false_iff.1 (lazy _))
  refine ⟨_, congrArg Host.Outcome.next grants, placing.mem, by simp, fun c hc k hk => ?_, fun hid h => others hid h⟩
  obtain ⟨seed, h⟩ := starts c hc k hk
  have fields := Hart.start_fields hn (r.sr.firstOf c + k) seed
  rw [part] at fields
  rw [← h] at fields
  exact fields

end Sys2Proof.Machine
end

section
/-! Waves, lanes, windows and pins as events (Machine/Launch.lean, Machine/Sched.lean, R74, R80, R123, R323, R325). -/

open Sys2Proof Sys2Proof.Machine

namespace Sys2Proof.Machine

variable {s : State}

/-! ## Waves (R74) -/

/-- The pending items of a record, in any order. -/
theorem Rec.mem_pendings {r : Rec} {x : Nat × Nat × List Nat} : x ∈ r.pendings ↔
    ∃ e ∈ r.lh, e.2.item = some x.1 ∧ e.2.adm = .pending ∧ e.1 = x.2.1 ∧ e.2.claims = x.2.2 := by
  have insert : ∀ ps : List (Nat × Nat × List Nat), x ∈ ps.foldr (fun y acc =>
      acc.takeWhile (fun z => z.1 < y.1) ++ y :: acc.dropWhile (fun z => z.1 < y.1)) [] ↔ x ∈ ps := by
    intro ps
    induction ps with
    | nil => rfl
    | cons y ps ih =>
      rw [List.foldr_cons, List.mem_cons, ← ih]
      generalize List.foldr _ [] ps = acc
      have split := List.takeWhile_append_dropWhile (p := fun z : Nat × Nat × List Nat => decide (z.1 < y.1)) (l := acc)
      conv_rhs => rw [← split]
      simp only [List.mem_append, List.mem_cons]
      tauto
  unfold Rec.pendings
  rw [insert, List.mem_filterMap]
  refine exists_congr fun e => and_congr_right fun _ => ?_
  obtain ⟨q, l, cs⟩ := x
  cases hi : e.2.item with
  | none => simp
  | some i => cases ha : e.2.adm <;> simp [Prod.ext_iff]

/-- A wave admits no two items that share a slot. -/
theorem admits_disjoint {slots : List Nat} {ps : List (Nat × Nat × List Nat)} {l : Nat} (h : l ∈ admits slots ps) :
    (∃ x ∈ ps, x.2.1 = l ∧ ∀ c ∈ x.2.2, c ∉ slots) ∧
    ∀ m ∈ admits slots ps, l ≠ m → ∃ x ∈ ps, ∃ y ∈ ps, x.2.1 = l ∧ y.2.1 = m ∧ ∀ c ∈ x.2.2, c ∉ y.2.2 := by
  induction ps generalizing slots l with
  | nil => cases h
  | cons p ps ih =>
    obtain ⟨q, k, cs⟩ := p
    rw [admits] at h ⊢
    split at h
    · next hc =>
      rw [if_pos hc]
      obtain ⟨⟨x, hx, e, free⟩, rest⟩ := ih h
      refine ⟨⟨x, List.mem_cons_of_mem _ hx, e, free⟩, fun m hm ne => ?_⟩
      obtain ⟨x, hx, y, hy, ex, ey, d⟩ := rest m hm ne
      exact ⟨x, List.mem_cons_of_mem _ hx, y, List.mem_cons_of_mem _ hy, ex, ey, d⟩
    · next hc =>
      rw [if_neg hc]
      have free : ∀ c ∈ cs, c ∉ slots := fun c h1 h2 => hc (List.any_eq_true.2 ⟨c, h1, by simpa using h2⟩)
      have later : ∀ m ∈ admits (slots ++ cs) ps, ∃ x ∈ ps, x.2.1 = m ∧ ∀ c ∈ x.2.2, c ∉ slots ∧ c ∉ cs := fun m hm => by
        obtain ⟨⟨x, hx, e, free⟩, -⟩ := ih hm
        exact ⟨x, hx, e, fun c h1 => by simpa using free c h1⟩
      rcases List.mem_cons.1 h with rfl | h
      · refine ⟨⟨_, List.mem_cons_self .., rfl, free⟩, fun m hm ne => ?_⟩
        rcases List.mem_cons.1 hm with rfl | hm
        · exact absurd rfl ne
        · obtain ⟨x, hx, e, d⟩ := later m hm
          exact ⟨_, List.mem_cons_self .., x, List.mem_cons_of_mem _ hx, rfl, e, fun c h1 h2 => (d c h2).2 h1⟩
      · obtain ⟨x, hx, e, d⟩ := later l h
        refine ⟨⟨x, List.mem_cons_of_mem _ hx, e, fun c h1 => (d c h1).1⟩, fun m hm ne => ?_⟩
        rcases List.mem_cons.1 hm with rfl | hm
        · exact ⟨x, List.mem_cons_of_mem _ hx, _, List.mem_cons_self .., e, rfl, fun c h1 => (d c h1).2⟩
        · obtain ⟨x, hx, y, hy, ex, ey, d⟩ := (ih h).2 m hm ne
          exact ⟨x, List.mem_cons_of_mem _ hx, y, List.mem_cons_of_mem _ hy, ex, ey, d⟩

/-- An item that a wave does not admit shares a slot with one that it does. -/
theorem admits_blocked {slots : List Nat} {ps : List (Nat × Nat × List Nat)} {x : Nat × Nat × List Nat} (hx : x ∈ ps)
    (h : x.2.1 ∉ admits slots ps) :
    ∃ c ∈ x.2.2, c ∈ slots ∨ ∃ y ∈ ps, y.2.1 ∈ admits slots ps ∧ c ∈ y.2.2 := by
  induction ps generalizing slots with
  | nil => cases hx
  | cons p ps ih =>
    obtain ⟨q, k, cs⟩ := p
    rw [admits] at h ⊢
    split at h
    · next hc =>
      rw [if_pos hc]
      rcases List.mem_cons.1 hx with rfl | hx
      · obtain ⟨c, h1, h2⟩ := List.any_eq_true.1 hc
        exact ⟨c, h1, .inl (by simpa using h2)⟩
      · obtain ⟨c, h1, h2 | ⟨y, hy, e, h2⟩⟩ := ih hx h
        · exact ⟨c, h1, .inl h2⟩
        · exact ⟨c, h1, .inr ⟨y, List.mem_cons_of_mem _ hy, e, h2⟩⟩
    · next hc =>
      rw [if_neg hc]
      rcases List.mem_cons.1 hx with rfl | hx
      · exact absurd (List.mem_cons_self ..) h
      · obtain ⟨c, h1, h2 | ⟨y, hy, e, h2⟩⟩ := ih hx fun h' => h (List.mem_cons_of_mem _ h')
        · rcases List.mem_append.1 h2 with h2 | h2
          · exact ⟨c, h1, .inl h2⟩
          · exact ⟨c, h1, .inr ⟨_, List.mem_cons_self .., List.mem_cons_self .., h2⟩⟩
        · exact ⟨c, h1, .inr ⟨y, List.mem_cons_of_mem _ hy, List.mem_cons_of_mem _ e, h2⟩⟩

/-- Entries of a map with distinct keys are given by their keys. -/
theorem eq_of_nodup_keys {α : Type} {m : List (Nat × α)} (h : (m.map (·.1)).Nodup) {a b : Nat × α} (ha : a ∈ m) (hb : b ∈ m)
    (e : a.1 = b.1) : a = b := List.inj_on_of_nodup_map h ha hb e

/-- A logical hart after a wave that admits some. -/
def admitIn (ls : List Nat) (e : Nat × LHart) : Nat × LHart :=
  if ls.contains e.1 then (e.1, { e.2 with adm := .admitted }) else e

theorem admitIn_fst (ls : List Nat) (e : Nat × LHart) : (admitIn ls e).1 = e.1 := by
  unfold admitIn; split <;> rfl
theorem admitIn_claims (ls : List Nat) (e : Nat × LHart) : (admitIn ls e).2.claims = e.2.claims := by
  unfold admitIn; split <;> rfl
theorem admitIn_item (ls : List Nat) (e : Nat × LHart) : (admitIn ls e).2.item = e.2.item := by
  unfold admitIn; split <;> rfl
theorem admitIn_adm (ls : List Nat) (e : Nat × LHart) : (admitIn ls e).2.adm = if e.1 ∈ ls then .admitted else e.2.adm := by
  unfold admitIn
  by_cases h : e.1 ∈ ls <;> simp [h]

theorem Rec.formWave_lh (r : Rec) : r.formWave.lh = r.lh.map (admitIn (admits [] r.pendings)) := rfl

/-- The wave former admits the pending items in order, each that shares no slot with one before it (R74). -/
theorem waveForm_spec (s : State) (p launch : Nat) (r : Rec) (hr : s.recOf p launch = some r) (rsv : r.sr.rsv = true)
    (ready : r.waveReady = true) (nodup : (r.lh.map (·.1)).Nodup) :
    ∃ y, exec (.waveForm p launch) s = .next (s.setRec y) ∧ y.wave = r.wave + 1 ∧
      y.lh.map (fun e => (e.1, { e.2 with adm := .none })) = r.lh.map (fun e => (e.1, { e.2 with adm := .none })) ∧
      (∀ a ∈ y.lh, ∀ b ∈ y.lh, a.2.adm = .admitted → b.2.adm = .admitted → a.1 ≠ b.1 → ∀ c ∈ a.2.claims, c ∉ b.2.claims) ∧
      ∀ a ∈ y.lh, a.2.adm = .pending → a.2.item.isSome = true →
        ∃ b ∈ y.lh, b.2.adm = .admitted ∧ ∃ c ∈ b.2.claims, c ∈ a.2.claims := by
  have run : s.tryWave p launch = s.setRec r.formWave := by
    unfold State.tryWave
    rw [hr]
    exact if_pos (by simp [rsv, ready])
  have none_yet : ∀ e ∈ r.lh, e.2.adm ≠ .admitted := by
    unfold Rec.waveReady at ready
    simp only [Bool.and_eq_true, List.all_eq_true, bne_iff_ne] at ready
    exact ready.1.1
  have was_admitted : ∀ e ∈ r.lh, (admitIn (admits [] r.pendings) e).2.adm = .admitted → e.1 ∈ admits [] r.pendings := by
    intro e he h
    rw [admitIn_adm] at h
    by_contra hn
    rw [if_neg hn] at h
    exact none_yet e he h
  have claims_of : ∀ e ∈ r.lh, ∀ x ∈ r.pendings, x.2.1 = e.1 → x.2.2 = e.2.claims := by
    intro e he x hx hl
    obtain ⟨e', he', -, -, key, claims⟩ := Rec.mem_pendings.1 hx
    rw [eq_of_nodup_keys nodup he he' (by rw [key, hl])]
    exact claims.symm
  refine ⟨r.formWave, congrArg Host.Outcome.next run, rfl, ?_, ?_, ?_⟩
  · rw [Rec.formWave_lh, List.map_map]
    refine List.map_congr_left fun e _ => ?_
    unfold admitIn
    by_cases h : e.1 ∈ admits [] r.pendings <;> simp [h]
  · rw [Rec.formWave_lh]
    intro a' ha' b' hb'
    obtain ⟨a, ha, rfl⟩ := List.mem_map.1 ha'
    obtain ⟨b, hb, rfl⟩ := List.mem_map.1 hb'
    rw [admitIn_claims, admitIn_claims, admitIn_fst, admitIn_fst]
    intro admA admB ne c hc
    obtain ⟨x, hx, y, hy, ex, ey, apart⟩ := (admits_disjoint (was_admitted a ha admA)).2 _ (was_admitted b hb admB) ne
    rw [← claims_of a ha x hx ex] at hc
    rw [← claims_of b hb y hy ey]
    exact apart c hc
  · rw [Rec.formWave_lh]
    intro a' ha'
    obtain ⟨a, ha, rfl⟩ := List.mem_map.1 ha'
    rw [admitIn_claims, admitIn_item, admitIn_adm]
    intro pend item
    split at pend
    · cases pend
    next out =>
    obtain ⟨q, hq⟩ := Option.isSome_iff_exists.1 item
    have listed : ((q, a.1, a.2.claims) : Nat × Nat × List Nat) ∈ r.pendings := Rec.mem_pendings.2 ⟨a, ha, hq, pend, rfl, rfl⟩
    obtain ⟨c, hc, h | ⟨y, hy, admitted, hcy⟩⟩ := admits_blocked listed out
    · cases h
    obtain ⟨b, hb, -, -, key, claims⟩ := Rec.mem_pendings.1 hy
    refine ⟨admitIn (admits [] r.pendings) b, List.mem_map_of_mem hb, ?_, c, ?_, hc⟩
    · rw [admitIn_adm, if_pos (by rw [key]; exact admitted)]
    · rw [admitIn_claims, claims]
      exact hcy

/-! ## Lanes (R323) -/

/-- What is listed under a key, where no key is listed twice. -/
theorem assocGet_of_mem {α : Type} {d : α} {m : List (Nat × α)} (h : (m.map (·.1)).Nodup) {e : Nat × α} (he : e ∈ m) :
    assocGet d m e.1 = e.2 := by
  induction m with
  | nil => cases he
  | cons f m ih =>
    obtain ⟨k, v⟩ := f
    obtain ⟨hk, hm⟩ := List.nodup_cons.1 h
    rcases List.mem_cons.1 he with rfl | he
    · simp [assocGet]
    · have : k ≠ e.1 := fun e' => hk (List.mem_map.2 ⟨e, he, e'.symm⟩)
      simp [assocGet, this, ih hm he]

/-- The harts of a core of which a predicate holds, where no slot is listed twice. -/
theorem State.mem_coreHarts (h : (s.harts.map (·.1)).Nodup) {core hid : Nat} {f : Hart → Bool} : hid ∈ s.coreHarts core f ↔
    hid < seqBase ∧ coreOf hid = core ∧ (s.hart hid).status ≠ .free ∧ f (s.hart hid) = true := by
  unfold State.coreHarts
  simp only [List.mem_map, List.mem_filter, Bool.and_eq_true, decide_eq_true_eq, beq_iff_eq, bne_iff_ne]
  constructor
  · rintro ⟨e, ⟨he, ⟨⟨lt, on⟩, busy⟩, holds⟩, rfl⟩
    have e2 : s.hart e.1 = e.2 := assocGet_of_mem h he
    rw [e2]
    exact ⟨lt, on, busy, holds⟩
  · rintro ⟨lt, on, busy, holds⟩
    rcases assocGet_default_or_mem Hart.free s.harts hid with e | e
    · rw [State.hart, e] at busy
      exact absurd rfl busy
    · exact ⟨_, ⟨e, ⟨⟨lt, on⟩, busy⟩, holds⟩, rfl⟩

/-- Some victim of the core still has its lanes: one that is there, or one that has ended with work queued (R323 step 4). -/
theorem State.lanesHeld_iff (h : (s.harts.map (·.1)).Nodup) {core : Nat} : s.lanesHeld core = true ↔
    (∃ hid < seqBase, coreOf hid = core ∧ (s.hart hid).status ≠ .free ∧
      ((s.hart hid).vec.victim = true ∧ (s.hart hid).vec.passed = false) ∧
        ((s.hart hid).status ≠ .parked ∨ (s.hart hid).vec.queue ≠ [])) ∨
    ∃ e ∈ s.tails, e.1 < seqBase ∧ coreOf e.1 = core ∧ ∃ h ∈ e.2, (h.vec.victim = true ∧ h.vec.passed = false) ∧ h.vec.queue ≠ [] := by
  unfold State.lanesHeld
  rw [Bool.or_eq_true]
  refine or_congr ?_ ?_
  · rw [Bool.not_eq_true', List.isEmpty_eq_false_iff_exists_mem]
    simp only [State.mem_coreHarts h, Bool.and_eq_true, Bool.or_eq_true, Bool.not_eq_true', bne_iff_ne, List.isEmpty_eq_false_iff, and_assoc]
  · simp only [List.any_eq_true, Bool.and_eq_true, decide_eq_true_eq, beq_iff_eq, Bool.not_eq_true', List.isEmpty_eq_false_iff,
      and_assoc]

/-- A guest's vector instructions wait no more. -/
def Hart.goesOn (h : Hart) : Hart := { h with vec := { h.vec with vwait := false } }
/-- The harts of some slots go on. -/
def State.letGo (s : State) (l : List Nat) : State := l.foldl (fun (s : State) g => s.updHart g Hart.goesOn) s

theorem State.letGo_eq (s : State) (l : List Nat) : s.letGo l = { s with harts := (s.letGo l).harts } := by
  induction l generalizing s with
  | nil => rfl
  | cons g l ih => exact ih _
theorem State.hart_letGo (s : State) (l : List Nat) (hid : Nat) :
    (s.letGo l).hart hid = if hid ∈ l then (s.hart hid).goesOn else s.hart hid := by
  induction l generalizing s with
  | nil => rfl
  | cons g l ih =>
    rw [State.letGo, List.foldl_cons]
    refine (ih (s.updHart g Hart.goesOn)).trans ?_
    by_cases hg : hid = g
    · subst hg
      rw [State.updHart, State.hart_setHart_same]
      simp [Hart.goesOn]
    · rw [State.updHart, State.hart_setHart_ne _ _ hg]
      simp [hg]

theorem lanesPass_spec (s : State) (core : Nat) (h : (s.harts.map (·.1)).Nodup) :
    (s.lanesHeld core = false → ∃ t, exec (.shutterLanesPass core) s = .next t ∧ t = { s with harts := t.harts } ∧
      ∀ hid < seqBase, coreOf hid = core → (s.hart hid).status ≠ .free →
        t.hart hid = { s.hart hid with vec := { (s.hart hid).vec with vwait := false } }) ∧
    (s.lanesHeld core = true → exec (.shutterLanesPass core) s = .next s) := by
  refine ⟨fun free => ?_, fun held => congrArg Host.Outcome.next (if_pos held)⟩
  refine ⟨_, congrArg Host.Outcome.next (if_neg (by simp [free])), State.letGo_eq .., fun hid lt on busy => ?_⟩
  refine (State.hart_letGo ..).trans ?_
  split
  · rfl
  · next out =>
    rw [State.mem_coreHarts h] at out
    have : (s.hart hid).vec.vwait = false := by
      rw [← Bool.not_eq_true]
      exact fun w => out ⟨lt, on, busy, w⟩
    rw [← this]

/-! ## The window of a victim, and the tail of a slot (R80, R325) -/

theorem Hart.not_taking_iff (h : Hart) : h.taking = false ↔
    ∀ q ∈ h.vec.queue, (∃ x, q.ins = .vsetb x) ∨ (∃ x, q.ins = .vsete x) → q.gc ≠ 2 ∨ (q.ef = 16 ∧ ∃ x, q.ins = .vsete x) := by
  unfold Hart.taking
  rw [List.any_eq_false]
  refine forall_congr' fun q => forall_congr' fun _ => ?_
  split
  · next x e => simp [e]
  · next x e => simp [e]; tauto
  · next h1 h2 =>
    refine iff_of_true (by simp) ?_
    rintro (⟨x, e⟩ | ⟨x, e⟩)
    · exact absurd e (h1 x)
    · exact absurd e (h2 x)

/-- A victim that has not passed its lanes, and for which the window runs. -/
def State.windowRuns (s : State) (hid : Nat) : Prop :=
  (s.hart hid).vec.victim = true ∧ (s.hart hid).vec.passed = false ∧ (s.myLhart hid).adm ≠ .admitted ∧ (s.hart hid).taking = false

theorem windowExpiry_spec (s : State) (hid : Nat) :
    (s.windowRuns hid → exec (.shutterWindowExpiry hid) s = .next (s.setHart hid { s.hart hid with
      preempt := true, vec := { (s.hart hid).vec with expired := true } })) ∧
    (¬ s.windowRuns hid → exec (.shutterWindowExpiry hid) s = .next s) := by
  have cond : ((s.hart hid).vec.victim && !(s.hart hid).vec.passed && !(s.hart hid).taking && (s.myLhart hid).adm != .admitted) = true ↔
      s.windowRuns hid := by
    unfold State.windowRuns
    simp only [Bool.and_eq_true, Bool.not_eq_true', bne_iff_ne]
    tauto
  exact ⟨fun h => congrArg Host.Outcome.next (if_pos (cond.2 h)), fun h => congrArg Host.Outcome.next (if_neg (mt cond.1 h))⟩

/-- The first ended hart of a slot leaves its tail once its queues are empty. -/
theorem lanesRelease_spec (s : State) (hid : Nat) (h : Hart) (r : List Hart) (ht : assocGet [] s.tails hid = h :: r) :
    (h.vec.queue ≠ [] ∨ h.mx.queue ≠ [] → exec (.lanesRelease hid) s = .next s) ∧
    (h.vec.queue = [] → h.mx.queue = [] → s.eager = false → ∃ t, exec (.lanesRelease hid) s = .next t ∧
      t = { s with tails := t.tails, harts := t.harts } ∧
      assocGet [] t.tails hid = r ∧ (∀ k, k ≠ hid → assocGet [] t.tails k = assocGet [] s.tails k ∧ t.hart k = s.hart k) ∧
      let o := s.hart hid
      t.hart hid = if o.status = .free ∧ o.part = h.part ∧ o.launch = h.launch ∧ o.logical = h.logical
        then { h with status := .free } else o) := by
  have run : exec (.lanesRelease hid) s =
      .next (if h.vec.queue.isEmpty && h.mx.queue.isEmpty then s.tailDone hid h r else s) := by
    change Host.Outcome.next (match assocGet [] s.tails hid with
      | h :: r => if h.vec.queue.isEmpty && h.mx.queue.isEmpty then s.tailDone hid h r else s
      | [] => s) = _
    rw [ht]
  rw [run]
  refine ⟨fun busy => ?_, fun hv hm he => ?_⟩
  · rw [if_neg (by simpa [List.isEmpty_iff, -not_and, not_and_or] using busy)]
  · rw [if_pos (by simp [hv, hm])]
    have lazy : ∀ u : State, u.eager = false → (if u.eager then (u.tryComplete h.part h.launch).lanesPass (coreOf hid) else u) = u :=
      fun u hu => if_neg (by simp [hu])
    have done : s.tailDone hid h r =
        if (s.hart hid).status = .free ∧ (s.hart hid).part = h.part ∧ (s.hart hid).launch = h.launch ∧ (s.hart hid).logical = h.logical
        then ({ s with tails := assocPut [] s.tails hid r } : State).setHart hid { h with status := .free }
        else { s with tails := assocPut [] s.tails hid r } := by
      unfold State.tailDone
      dsimp only
      rw [lazy]
      split <;> exact he
    rw [done]
    split
    · next same =>
      exact ⟨_, rfl, rfl, assocGet_put_same, fun k hk => ⟨assocGet_put_ne hk, State.hart_setHart_ne _ _ hk⟩,
        (State.hart_setHart_same ..).trans (if_pos same).symm⟩
    · next other => exact ⟨_, rfl, rfl, assocGet_put_same, fun k hk => ⟨assocGet_put_ne hk, rfl⟩, (if_neg other).symm⟩

/-! ## Pins (R123) -/

theorem pinWiden_spec (s : State) (line : Nat) : ∃ t, exec (.pinWiden line) s = .next t ∧ t = { s with pins := t.pins } ∧
    (∀ q ∈ t.pins, q.line = line → q.refused ≠ [] → q.ended = true ∧ (q ∈ s.pins ∨ q.holders = [])) ∧
    ∀ q ∈ s.pins, q.line ≠ line → q.ended = false → q ∈ t.pins := by
  refine ⟨_, rfl, rfl, fun q hq => ?_, fun q hq ne active => ?_⟩
  · obtain ⟨hq, -⟩ := List.mem_filter.1 hq
    obtain ⟨p, hp, rfl⟩ := List.mem_map.1 hq
    split
    · exact fun _ _ => ⟨rfl, .inr rfl⟩
    · next c =>
      intro on refused
      refine ⟨?_, .inl hp⟩
      simpa [on, refused] using c
  · refine List.mem_filter.2 ⟨List.mem_map.2 ⟨q, hq, if_neg (by simp [ne])⟩, by simp [active]⟩

end Sys2Proof.Machine
end

section
/-! The completion of a record as an event (Machine/Records.lean, Machine/Sched.lean, R65). -/

open Sys2Proof Sys2Proof.Machine

namespace Sys2Proof.Machine

variable {s : State}

theorem bobjFinish_eq (s : State) (pa : Nat) : bobjFinish s pa = { s with mem := (bobjFinish s pa).mem } := by
  unfold bobjFinish
  dsimp only
  split
  · rfl
  · split
    · rfl
    · split <;> rfl
theorem bobjStart_eq (s : State) (pa : Nat) (act : BAct) : bobjStart s pa act = { s with mem := (bobjStart s pa act).mem } := by
  unfold bobjStart
  cases act with
  | arrive => dsimp only; split <;> rfl
  | report n => rfl
  | expect n =>
    dsimp only
    split
    · rfl
    · split
      · rfl
      · split <;> rfl
/-- What acts on a barrier object changes memory alone. -/
theorem bobjAct_eq (s : State) (pa : Nat) (act : BAct) : bobjAct s pa act = { s with mem := (bobjAct s pa act).mem } := by
  unfold bobjAct
  split
  · rfl
  · split
    · rfl
    · rw [bobjFinish_eq, bobjStart_eq]

/-- Without pins nothing is refused, and nothing leaves a queue of refusals. -/
theorem State.served_noPins (h : s.pins = []) (who line : Nat) : s.served who line = s := by
  have : s.served who line = { s with pins := [] } := by simp [State.served, h]
  rw [this, ← h]

theorem State.calm.still (h : s.calm) : s.still = true := by
  obtain ⟨cmds, pins, -, swaps⟩ := h
  have none_swaps : s.swapsOn = [] := by
    unfold State.swapsOn
    rw [cmds, List.filterMap_nil, List.append_nil, List.filterMap_eq_nil_iff]
    exact swaps
  simp [State.still, cmds, pins, none_swaps]

/-- Where nothing holds the device back, a record's object is ready where it is found. -/
theorem State.calm.doneReady (h : s.calm) (r : StartRec) :
    s.doneReady r = s.bobjLocate ⟨outsider, r.asid, true⟩ r.done := by
  unfold State.doneReady
  cases s.bobjLocate ⟨outsider, r.asid, true⟩ r.done with
  | error e => rfl
  | ok pa => simp [bind, Except.bind, h.gate, h.clean]

theorem TrapBlk.room_one (t : TrapBlk) : t.room 1 = decide ((t.tqhead - t.tqtail).toNat < t.len) := rfl

/-- Where nothing holds the device back, a trap record can be written where the trap queue has room (R347). -/
theorem State.calm.trapReady (h : s.calm) (p : Nat) : s.trapReady p 1 =
    if (s.part p).trap.room 1 then .ok () else .error (.wait none) := by
  unfold State.trapReady
  rw [if_neg (by decide)]
  split
  · rw [State.deviceGate, if_pos h.still]
  · rfl

section
variable {p launch : Nat} {r : Rec} (hr : s.recOf p launch = some r) (he : r.ending = none)
include hr he

/-- A record that no error has ended completes once it is done; else nothing changes. -/
theorem State.tryComplete_eq : s.tryComplete p launch =
    if s.recDone r then match s.completeRec r with
      | .ok t => t
      | .error (.wait (some line)) => s.refuse outsider line
      | .error _ => s
    else s := by
  unfold State.tryComplete
  rw [hr]
  exact if_neg (by simp [he])

/-- R65: a record that is done arrives at its DONE object, or leaves a trap record where it cannot be reached, and goes. -/
theorem recordComplete_spec :
    let gone (u : State) : State := { u with recs := u.recs.filter fun y => !(y.part == p && y.sr.launch == launch) }
    (s.recDone r = false → exec (.recordComplete p launch) s = .next s) ∧
    (s.recDone r = true → r.sr.done = 0 → exec (.recordComplete p launch) s = .next (gone s)) ∧
    (s.recDone r = true → r.sr.done ≠ 0 → s.calm →
      (∀ pa, s.bobjLocate ⟨outsider, r.sr.asid, true⟩ r.sr.done = .ok pa →
        exec (.recordComplete p launch) s = .next (gone (bobjAct s pa .arrive))) ∧
      ∀ c v, s.bobjLocate ⟨outsider, r.sr.asid, true⟩ r.sr.done = .error (.trap c v) →
        let tb := (s.part p).trap
        ((tb.tqhead - tb.tqtail).toNat < tb.len → exec (.recordComplete p launch) s = .next (gone (s.writeTrap p
          { hart := 0x1FFF, asid := r.sr.asid, cause := c, xpc := 0, tval := r.sr.done, vstart := 0, launch := launch, area := 0 }))) ∧
        (tb.len ≤ (tb.tqhead - tb.tqtail).toNat → exec (.recordComplete p launch) s = .next s)) := by
  intro gone
  obtain ⟨rfl, rfl⟩ := State.key_of_recOf hr
  have run : exec (.recordComplete r.part r.sr.launch) s = .next (s.tryComplete r.part r.sr.launch) := rfl
  rw [run, State.tryComplete_eq hr he]
  have done (hd : s.recDone r = true) {t : State} (ht : s.completeRec r = .ok t) :
      (Host.Outcome.next (if s.recDone r then match s.completeRec r with
        | .ok t => t
        | .error (.wait (some line)) => s.refuse outsider line
        | .error _ => s
        else s) : Out) = .next t := by
    rw [if_pos hd, ht]
  refine ⟨fun hd => by simp [hd], fun hd h0 => done hd ?_, fun hd h0 calm => ⟨fun pa found => done hd ?_, fun c v fault => ?_⟩⟩
  · unfold State.completeRec State.doneAct
    rw [if_pos h0]
    rfl
  · unfold State.completeRec State.doneAct
    rw [if_neg h0, calm.doneReady, found]
    have pins : (bobjAct s pa .arrive).pins = [] := by
      rw [bobjAct_eq]
      exact calm.2.1
    change Except.ok (State.delRec ((bobjAct s pa .arrive).served outsider (lineOf pa)) r.part r.sr.launch) = _
    rw [State.served_noPins pins]
    rfl
  · have act : s.doneAct r 0 (fun s pa => bobjAct s pa .arrive) = (do
        s.trapReady r.part 1
        .ok (s.writeTrap r.part (doneFault r (.trap c v)))) := by
      unfold State.doneAct
      rw [if_neg h0, calm.doneReady, fault]
    refine ⟨fun room => done hd ?_, fun full => ?_⟩
    · have ok : (s.part r.part).trap.room 1 = true := by rw [TrapBlk.room_one]; exact decide_eq_true room
      unfold State.completeRec
      rw [act, calm.trapReady, if_pos ok]
      rfl
    · have no : (s.part r.part).trap.room 1 = false := by
        rw [TrapBlk.room_one]
        exact decide_eq_false (Nat.not_lt.2 full)
      have waits : s.completeRec r = .error (.wait none) := by
        unfold State.completeRec
        rw [act, calm.trapReady, if_neg (by simp [no])]
        rfl
      rw [if_pos hd, waits]

end

end Sys2Proof.Machine
end

section
/-! Drain rounds of one record as events (Machine/Launch.lean, R122, R127, R128). -/

open Sys2Proof Sys2Proof.Machine

namespace Sys2Proof.Machine

variable {s t u : State} {p launch : Nat}

/-! ## Logical harts but for the flags that wait for them (R127) -/

/-- A change of logical harts that has nothing to do with the flags that wait. -/
def FlagFree (f : Nat → LHart → LHart) : Prop := ∀ l x n, f l { x with fl := n } = { f l x with fl := n }

/-- Held entries of a record have drained: groups are as before, and its logical harts are changed by `f`, flags apart. -/
structure Draining (p launch : Nat) (f : Nat → LHart → LHart) (s t : State) : Prop where
  groups : t.groups = s.groups
  record : ∀ y, s.recOf p launch = some y → ∃ z, t.recOf p launch = some z ∧ z.part = y.part ∧ z.sr = y.sr ∧
    ∀ l, z.lhart l = { f l (y.lhart l) with fl := (z.lhart l).fl }

theorem Draining.refl (p launch : Nat) (s : State) : Draining p launch (fun _ x => x) s s :=
  ⟨rfl, fun y h => ⟨y, h, rfl, rfl, fun _ => rfl⟩⟩
theorem Draining.trans {f g : Nat → LHart → LHart} (hg : FlagFree g) (a : Draining p launch f s t) (b : Draining p launch g t u) :
    Draining p launch (fun l x => g l (f l x)) s u := by
  refine ⟨b.groups.trans a.groups, fun y hy => ?_⟩
  obtain ⟨z, hz, part, sr, harts⟩ := a.record y hy
  obtain ⟨w, hw, part', sr', harts'⟩ := b.record z hz
  refine ⟨w, hw, part'.trans part, sr'.trans sr, fun l => (harts' l).trans ?_⟩
  rw [harts l, hg]

/-- What leaves groups and records leaves logical harts. -/
theorem Draining.of_recs (hg : t.groups = s.groups) (hr : t.recs = s.recs) : Draining p launch (fun _ x => x) s t := by
  refine ⟨hg, fun y h => ⟨y, ?_, rfl, rfl, fun _ => rfl⟩⟩
  unfold State.recOf at h ⊢
  rw [hr]
  exact h

/-! ## One held entry -/

theorem State.served_fold_eq (s : State) (who : Nat) (l : List Nat) :
    l.foldl (fun (s : State) k => s.served who k) s =
      { s with pins := (l.foldl (fun (s : State) k => s.served who k) s).pins } := by
  induction l generalizing s with
  | nil => rfl
  | cons k l ih => exact ih _

/-- The state after the access of a held entry, before pins are looked at. -/
def State.performAccess (s : State) (p launch l : Nat) (x : LHart) (e : Held) : State :=
  match e with
  | .byte _ _ pa mask val _ => s.wr8 pa (mergeByte (s.rd8 pa) mask val)
  | .add _ pa ef val grid =>
    let r := s.addAt pa ef val grid
    match x.place with
    | .placed h => r.1.updHart h fun y => y.accrue r.2
    | .ended => r.1.accrueEnded p launch l r.2
    | _ => match r.1.recOf p launch with
      | some y => r.1.setRec (y.setLhart l { y.lhart l with fl := (y.lhart l).fl ||| r.2 })
      | none => r.1

theorem State.performHeld_eq (s : State) (p launch l : Nat) (x : LHart) (e : Held) : s.performHeld p launch l x e =
    if s.pins.isEmpty then s.performAccess p launch l x e
    else (linesOf (heldSpan e).1 (heldSpan e).2).foldl (fun (s : State) k => s.served (x.who p launch l) k)
      (s.performAccess p launch l x e) := by
  unfold State.performHeld State.performAccess
  cases e <;> rfl

theorem State.mem_performHeld_access (s : State) (p launch l : Nat) (x : LHart) (e : Held) :
    (s.performHeld p launch l x e).mem = (s.performAccess p launch l x e).mem := by
  rw [State.performHeld_eq]
  split
  · rfl
  · rw [State.served_fold_eq]

/-- The bytes that an addition writes depend on those that it reads. -/
theorem State.mem_addAt {s t : State} (h : s.mem = t.mem) (pa ef val : Nat) (grid : Bool) :
    (s.addAt pa ef val grid).1.mem = (t.addAt pa ef val grid).1.mem := by
  have same : ∀ a n, s.rdBytes a n = t.rdBytes a n := fun a n => by
    unfold State.rdBytes State.rd8
    rw [h]
  unfold State.addAt State.wrBytes
  dsimp only
  rw [same, h]

/-- Where the flags of an addition go changes no byte. -/
theorem State.mem_performAccess_add (s : State) (p launch l : Nat) (x : LHart) (n pa ef val : Nat) (grid : Bool) :
    (s.performAccess p launch l x (.add n pa ef val grid)).mem = (s.addAt pa ef val grid).1.mem := by
  unfold State.performAccess
  dsimp only
  split
  · rfl
  · rfl
  · split <;> rfl

/-- What a held entry leaves in memory depends on memory alone. -/
theorem State.mem_performHeld {s t : State} (h : s.mem = t.mem) (p launch l l' : Nat) (x x' : LHart) (e : Held) :
    (s.performHeld p launch l x e).mem = (t.performHeld p launch l' x' e).mem := by
  rw [State.mem_performHeld_access, State.mem_performHeld_access]
  cases e with
  | byte n cls pa mask val whole =>
    change putBytes s.mem pa [mergeByte (assocGet 0 s.mem pa) mask val] = putBytes t.mem pa [mergeByte (assocGet 0 t.mem pa) mask val]
    rw [h]
  | add n pa ef val grid =>
    rw [State.mem_performAccess_add, State.mem_performAccess_add]
    exact State.mem_addAt h ..

/-- Flags may come to wait for a logical hart; nothing else of the records changes. -/
theorem State.draining_performHeld (s : State) (l : Nat) (x : LHart) (e : Held) :
    Draining p launch (fun _ x => x) s (s.performHeld p launch l x e) := by
  have access : Draining p launch (fun _ x => x) s (s.performAccess p launch l x e) := by
    unfold State.performAccess
    cases e with
    | byte n cls pa mask val whole => exact .of_recs rfl rfl
    | add n pa ef val grid =>
      dsimp only
      split
      · exact .of_recs rfl rfl
      · exact .of_recs rfl rfl
      · refine ⟨by split <;> rfl, fun y hy => ?_⟩
        have hy' : (s.addAt pa ef val grid).1.recOf p launch = some y := hy
        obtain ⟨part, sr⟩ := State.key_of_recOf hy
        rw [hy']
        refine ⟨_, State.recOf_setRec_same hy' part sr, rfl, rfl, fun k => ?_⟩
        by_cases hk : k = l
        · subst hk
          rw [Rec.lhart_setLhart]
        · unfold Rec.setLhart Rec.lhart
          dsimp only
          rw [assocGet_put_ne hk]
  rw [State.performHeld_eq]
  split
  · exact access
  · rw [State.served_fold_eq]
    exact ⟨access.groups, access.record⟩

/-! ## The held entries of a logical hart -/

/-- Held entries are performed in order. -/
def State.performAll (s : State) (p launch l : Nat) (x : LHart) (es : List Held) : State :=
  es.foldl (fun (s : State) e => s.performHeld p launch l x e) s

theorem State.draining_performAll (s : State) (l : Nat) (x : LHart) (es : List Held) :
    Draining p launch (fun _ x => x) s (s.performAll p launch l x es) := by
  induction es generalizing s with
  | nil => exact .refl ..
  | cons e es ih => exact (s.draining_performHeld l x e).trans (fun _ _ _ => rfl) (ih _)
theorem State.mem_performAll {s t : State} (h : s.mem = t.mem) (p launch l l' : Nat) (x x' : LHart) (es : List Held) :
    (s.performAll p launch l x es).mem = (t.performAll p launch l' x' es).mem := by
  induction es generalizing s t with
  | nil => exact h
  | cons e es ih => exact ih (State.mem_performHeld h ..)

/-- A logical hart whose held entries up to a round have drained. -/
def LHart.drained (n : Nat) (x : LHart) : LHart :=
  { x with held := x.later n, xl := if (x.later n).isEmpty then [] else x.xl }

theorem LHart.due_fl (x : LHart) (f : Flags) (n : Nat) : ({ x with fl := f } : LHart).due n = x.due n := rfl
theorem LHart.drained_fl (x : LHart) (f : Flags) (n : Nat) : ({ x with fl := f } : LHart).drained n = { x.drained n with fl := f } := rfl

/-- The logical hart l drains up to round n. -/
def drainAt (n l : Nat) (k : Nat) (x : LHart) : LHart := if k = l then x.drained n else x

theorem flagFree_drainAt (n l : Nat) : FlagFree (drainAt n l) := fun k x f => by
  unfold drainAt
  split <;> rfl

theorem State.drainLhart_spec (s : State) (l n : Nat) {y : Rec} (hy : s.recOf p launch = some y) :
    Draining p launch (drainAt n l) s (s.drainLhart p launch l n) ∧
      (s.drainLhart p launch l n).mem = (s.performAll p launch l (y.lhart l) ((y.lhart l).due n)).mem := by
  obtain ⟨groups, record⟩ := s.draining_performAll (p := p) (launch := launch) l (y.lhart l) ((y.lhart l).due n)
  obtain ⟨z, hz, part, sr, harts⟩ := record y hy
  obtain ⟨keyPart, keyLaunch⟩ := State.key_of_recOf hz
  obtain ⟨v, drains⟩ : ∃ v, s.drainLhart p launch l n =
      ({ s.performAll p launch l (y.lhart l) ((y.lhart l).due n) with poison := v } : State).setRec
        (z.setLhart l { z.lhart l with held := (y.lhart l).later n, xl := if ((y.lhart l).later n).isEmpty then [] else (y.lhart l).xl }) := by
    unfold State.drainLhart
    rw [hy]
    dsimp only
    split
    · next z' h =>
      obtain rfl : z' = z := Option.some.inj (h.symm.trans hz)
      exact ⟨_, rfl⟩
    · next h => exact absurd (h.symm.trans hz) (by simp)
  rw [drains]
  refine ⟨⟨groups, fun y' hy' => ?_⟩, rfl⟩
  obtain rfl : y = y' := Option.some.inj (hy.symm.trans hy')
  refine ⟨_, State.recOf_setRec_same (s := { s.performAll p launch l (y.lhart l) ((y.lhart l).due n) with poison := v }) hz keyPart keyLaunch, part, sr, fun k => ?_⟩
  by_cases e : k = l
  · subst e
    rw [Rec.lhart_setLhart, harts, drainAt, if_pos rfl]
    rfl
  · have same : (z.setLhart l { z.lhart l with held := (y.lhart l).later n, xl := if ((y.lhart l).later n).isEmpty then [] else (y.lhart l).xl }).lhart k =
        z.lhart k := assocGet_put_ne e
    rw [same, drainAt, if_neg e]
    exact harts k

/-! ## The harts of a record -/

/-- The logical harts of a list drain up to round n, one after the other. -/
def State.drainAll (s : State) (p launch n : Nat) (L : List (Nat × LHart)) : State :=
  L.foldl (fun (s : State) e => s.drainLhart p launch e.1 n) s
/-- The entries that a list of logical harts gives to the rounds up to n, each with its owner. -/
def given (n : Nat) (L : List (Nat × LHart)) : List ((Nat × LHart) × Held) := L.flatMap fun e => (e.2.due n).map fun d => (e, d)

/-- A logical hart of the list drains, any other stays. -/
def drainIn (n : Nat) (L : List (Nat × LHart)) (k : Nat) (x : LHart) : LHart := if k ∈ L.map (·.1) then x.drained n else x

theorem flagFree_drainIn (n : Nat) (L : List (Nat × LHart)) : FlagFree (drainIn n L) := fun k x f => by
  unfold drainIn
  split <;> rfl

/-- A logical hart drains, and those of a list that names it not. -/
theorem drainIn_drainAt (n : Nat) {e : Nat × LHart} {L : List (Nat × LHart)} (h : e.1 ∉ L.map (·.1)) (k : Nat) (x : LHart) :
    drainIn n L k (drainAt n e.1 k x) = drainIn n (e :: L) k x := by
  unfold drainIn drainAt
  by_cases hk : k = e.1
  · subst hk
    rw [if_neg h, if_pos rfl, if_pos (by simp)]
  · rw [if_neg hk]
    simp only [List.map_cons, List.mem_cons, hk, false_or]

/-- Owner by owner, memory is what the entries make of it in their order. -/
theorem State.mem_given {s t : State} (h : s.mem = t.mem) (n : Nat) (e : Nat × LHart) (x : LHart) (l : Nat) (L : List ((Nat × LHart) × Held)) :
    (((e.2.due n).map fun d => (e, d)) ++ L).foldl (fun u d => State.performHeld u p launch d.1.1 d.1.2 d.2) t =
      L.foldl (fun u d => State.performHeld u p launch d.1.1 d.1.2 d.2) (t.performAll p launch e.1 e.2 (e.2.due n)) ∧
    (s.performAll p launch l x (e.2.due n)).mem = (t.performAll p launch e.1 e.2 (e.2.due n)).mem := by
  refine ⟨?_, State.mem_performAll h ..⟩
  rw [List.foldl_append, List.foldl_map]
  rfl

theorem State.drainAll_spec (n : Nat) (L : List (Nat × LHart)) {s t : State} {y : Rec} (hy : s.recOf p launch = some y)
    (nodup : (L.map (·.1)).Nodup) (own : ∀ e ∈ L, y.lhart e.1 = { e.2 with fl := (y.lhart e.1).fl }) (hm : s.mem = t.mem) :
    Draining p launch (drainIn n L) s (s.drainAll p launch n L) ∧
      (s.drainAll p launch n L).mem = ((given n L).foldl (fun u d => State.performHeld u p launch d.1.1 d.1.2 d.2) t).mem := by
  induction L generalizing s t y with
  | nil => exact ⟨.refl .., hm⟩
  | cons e L ih =>
    obtain ⟨he, nodup⟩ := List.nodup_cons.1 nodup
    obtain ⟨one, mem⟩ := s.drainLhart_spec e.1 n hy
    obtain ⟨z, hz, -, -, harts⟩ := one.record y hy
    have due : (y.lhart e.1).due n = e.2.due n := by rw [own e (List.mem_cons_self ..)]; rfl
    rw [due] at mem
    have same := State.mem_given (p := p) (launch := launch) hm n e (y.lhart e.1) e.1 (given n L)
    have own' : ∀ d ∈ L, z.lhart d.1 = { d.2 with fl := (z.lhart d.1).fl } := fun d hd => by
      have ne : d.1 ≠ e.1 := fun h => he (List.mem_map.2 ⟨d, hd, h⟩)
      rw [harts d.1, drainAt, if_neg ne, own d (List.mem_cons_of_mem _ hd)]
    obtain ⟨rest, memRest⟩ := ih hz nodup own' (mem.trans same.2)
    refine ⟨⟨rest.groups.trans one.groups, fun y' hy' => ?_⟩, ?_⟩
    · obtain rfl : y = y' := Option.some.inj (hy.symm.trans hy')
      obtain ⟨w, hw, part, sr, harts'⟩ := (one.trans (flagFree_drainIn n L) rest).record y hy
      exact ⟨w, hw, part, sr, fun l => by rw [← drainIn_drainAt n he]; exact harts' l⟩
    · have split : given n (e :: L) = ((e.2.due n).map fun d => (e, d)) ++ given n L := rfl
      rw [split, same.1]
      exact memRest

/-! ## A round -/

/-- Members in ascending order stay in it. -/
theorem insertMember_sorted {x : Nat × Nat} {l : List (Nat × Nat)} (h : ∀ y ∈ l, x.1 < y.1) : insertMember x l = x :: l := by
  cases l with
  | nil => rfl
  | cons y l => exact if_pos (.inl (h y (List.mem_cons_self ..)))
theorem foldr_insertMember_sorted {l : List (Nat × Nat)} (h : (l.map (·.1)).Pairwise (· < ·)) : l.foldr insertMember [] = l := by
  induction l with
  | nil => rfl
  | cons x l ih =>
    obtain ⟨first, rest⟩ := List.pairwise_cons.1 h
    rw [List.foldr_cons, ih rest]
    exact insertMember_sorted fun y hy => first _ (List.mem_map_of_mem hy)

section
variable {r : Rec} (hg : r.sr.group = 0)
include hg

/-- A record of no group has rounds of its own. -/
theorem State.roundRecs_alone (s : State) : s.roundRecs r = [r] := if_pos hg
theorem State.roundOrder_alone (s : State) (ascending : (r.lh.map (·.1)).Pairwise (· < ·)) :
    s.roundOrder r = r.lh.map fun e => (e.1, r.sr.launch) := by
  unfold State.roundOrder
  rw [s.roundRecs_alone hg, List.flatMap_singleton]
  refine foldr_insertMember_sorted ?_
  rw [List.map_map]
  exact ascending

end

theorem State.groupsCheck_none (h : s.groups = []) (p : Nat) : s.groupsCheck p = s := by
  unfold State.groupsCheck
  rw [h]
  rfl

/-- What is listed under a key of a map whose keys rise. -/
theorem Rec.lhart_of_mem {r : Rec} (nodup : (r.lh.map (·.1)).Nodup) {e : Nat × LHart} (he : e ∈ r.lh) : r.lhart e.1 = e.2 := by
  unfold Rec.lhart
  generalize r.lh = m at nodup he
  induction m with
  | nil => cases he
  | cons f m ih =>
    obtain ⟨k, v⟩ := f
    obtain ⟨hk, hm⟩ := List.nodup_cons.1 nodup
    rcases List.mem_cons.1 he with rfl | he
    · exact if_pos rfl
    · have ne : ¬ k = e.1 := fun h => hk (List.mem_map.2 ⟨e, he, h.symm⟩)
      exact (if_neg ne).trans (ih hm he)

/-- A logical hart that is not listed holds nothing that could drain. -/
theorem Rec.drained_of_not_mem {r : Rec} {l : Nat} (h : l ∉ r.lh.map (·.1)) (n : Nat) : (r.lhart l).drained n = r.lhart l := by
  have start : r.lhart l = LHart.start := by
    rcases assocGet_default_or_mem LHart.start r.lh l with e | e
    · exact e
    · exact absurd (List.mem_map.2 ⟨_, e, rfl⟩) h
  rw [start]
  rfl

section
variable {r : Rec} (hr : s.recOf p launch = some r) (det : r.sr.det = true) (rsv : r.sr.rsv = false) (hg : r.sr.group = 0)
  (ascending : (r.lh.map (·.1)).Pairwise (· < ·))
include hr det rsv hg ascending

/-- A round that is ready drains: its entries are performed in order, and forgotten. -/
theorem drainRound_ready (groups : s.groups = []) (ready : s.roundReady r (r.drained + 1) = true) (he : r.ending = none) :
    ∃ t y, exec (.drainRound p launch) s = .next t ∧ t.recOf p launch = some y ∧ y.drained = r.drained + 1 ∧
      t.mem = ((given (r.drained + 1) r.lh).foldl (fun u d => State.performHeld u p launch d.1.1 d.1.2 d.2) s).mem ∧
      ∀ l, y.lhart l = { (r.lhart l).drained (r.drained + 1) with fl := (y.lhart l).fl } := by
  obtain ⟨rfl, rfl⟩ := State.key_of_recOf hr
  have nodup : (r.lh.map (·.1)).Nodup := ascending.imp Nat.ne_of_lt
  obtain ⟨drains, mem⟩ := State.drainAll_spec (r.drained + 1) r.lh hr nodup
    (fun e he => by rw [Rec.lhart_of_mem nodup he]) (rfl : s.mem = s.mem)
  obtain ⟨z, hz, part, sr, harts⟩ := drains.record r hr
  have fold : (s.roundOrder r).foldl (fun (s : State) m => s.drainLhart r.part m.2 m.1 (r.drained + 1)) s =
      s.drainAll r.part r.sr.launch (r.drained + 1) r.lh := by
    rw [s.roundOrder_alone hg ascending, List.foldl_map]
    rfl
  let mark (x : Rec) : Rec := if x.part = r.part ∧ [r.sr.launch].contains x.sr.launch then { x with drained := r.drained + 1 } else x
  have round : s.drainRound r.part r.sr.launch = some { s.drainAll r.part r.sr.launch (r.drained + 1) r.lh with
      recs := (s.drainAll r.part r.sr.launch (r.drained + 1) r.lh).recs.map mark } := by
    unfold State.drainRound
    rw [hr]
    dsimp only
    rw [if_pos (by simp [det, rsv, he, ready]), fold, s.roundRecs_alone hg]
    rfl
  have keys : ∀ x : Rec, (mark x).part = x.part ∧ (mark x).sr = x.sr := fun x => by
    unfold mark
    split <;> exact ⟨rfl, rfl⟩
  have found : ({ s.drainAll r.part r.sr.launch (r.drained + 1) r.lh with
      recs := (s.drainAll r.part r.sr.launch (r.drained + 1) r.lh).recs.map mark } : State).recOf r.part r.sr.launch = some (mark z) := by
    unfold State.recOf at hz ⊢
    dsimp only
    rw [List.find?_map]
    have same : ((fun x : Rec => x.part == r.part && x.sr.launch == r.sr.launch) ∘ mark) =
        fun x => x.part == r.part && x.sr.launch == r.sr.launch := funext fun x => by simp [keys x]
    rw [same, hz]
    rfl
  have marked : mark z = { z with drained := r.drained + 1 } := if_pos ⟨part, by simp [sr]⟩
  refine ⟨_, mark z, ?_, found, by rw [marked], mem, fun l => ?_⟩
  · change Host.Outcome.next (match s.drainRound r.part r.sr.launch with
      | some t => t.groupsCheck r.part
      | none => s.roundRefused r.part r.sr.launch) = _
    rw [round]
    exact congrArg Host.Outcome.next (State.groupsCheck_none (s := { s.drainAll r.part r.sr.launch (r.drained + 1) r.lh with
      recs := (s.drainAll r.part r.sr.launch (r.drained + 1) r.lh).recs.map mark }) (drains.groups.trans groups) _)
  · rw [marked]
    refine (harts l).trans ?_
    unfold drainIn
    split
    · rfl
    · next h => rw [Rec.drained_of_not_mem h]; rfl

end

/-! ## Refusals that keep a round from draining (R122) -/

/-- Refusals change pins and the line-up alone. -/
def Refused (s t : State) : Prop := t = { s with pins := t.pins, lineup := t.lineup }

theorem Refused.refl (s : State) : Refused s s := rfl
theorem Refused.trans (a : Refused s t) (b : Refused t u) : Refused s u := by
  unfold Refused at a b ⊢
  rw [b, a]
theorem State.refused_refuse (s : State) (who line : Nat) : Refused s (s.refuse who line) := rfl

theorem forM_error {α : Type} {l : List α} {f : α → Except Stop Unit} {e : Stop} (h : l.forM f = .error e) : ∃ a ∈ l, f a = .error e := by
  induction l with
  | nil => cases h
  | cons a l ih =>
    cases ha : f a with
    | error e' =>
      simp only [List.forM_eq_forM, List.forM_cons, ha] at h
      cases h
      exact ⟨a, List.mem_cons_self .., ha⟩
    | ok v =>
      have rest : l.forM f = .error e := by
        simp only [List.forM_eq_forM, List.forM_cons, ha] at h ⊢
        exact h
      obtain ⟨b, hb, e⟩ := ih rest
      exact ⟨b, List.mem_cons_of_mem _ hb, e⟩

theorem State.gateLine_wait {who line : Nat} {e : Stop} (h : s.gateLine who line = .error e) : ∃ o, e = .wait o := by
  unfold State.gateLine at h
  split at h
  · cases h; exact ⟨_, rfl⟩
  · split at h
    · cases h; exact ⟨_, rfl⟩
    · cases h

/-- Where nothing is poisoned, held entries are held back by waits alone. -/
theorem State.heldGate_wait (hp : s.poison = []) {who : Nat} {es : List Held} {laid : List Nat} {e : Stop}
    (h : s.heldGate who es laid = .error e) : ∃ o, e = .wait o := by
  induction es generalizing laid with
  | nil => cases h
  | cons d es ih =>
    unfold State.heldGate at h
    cases hg : s.gate who (heldSpan d).1 (heldSpan d).2 with
    | error e' =>
      rw [hg] at h
      cases h
      obtain ⟨l, -, hl⟩ := forM_error hg
      exact State.gateLine_wait hl
    | ok v =>
      have clean : ∀ a n, s.clean a n = .ok () := fun a n => forM_ok _ _ fun l _ => by simp [State.poisoned, hp, assocGet]
      have reads : ∀ o : List Nat, (o.forM fun l => if laid.contains l then .ok () else s.clean (128 * l) 1) = Except.ok () :=
        fun o => forM_ok _ _ fun l _ => by rw [clean, ite_self]
      rw [hg] at h
      cases d with
      | byte n cls pa mask val whole => exact ih h
      | add n pa ef val grid =>
        dsimp only [bind, Except.bind] at h
        rw [reads] at h
        exact ih h

theorem State.refused_heldRefused (hp : s.poison = []) (l : Nat) (x : LHart) (es : List Held) (laid : List Nat) :
    Refused s (s.heldRefused p launch l x es laid) := by
  unfold State.heldRefused
  split
  · exact s.refused_refuse ..
  · next v h =>
    obtain ⟨o, e⟩ := State.heldGate_wait hp h
    cases e
  · exact .refl s

theorem State.refused_roundTry (hp : s.poison = []) (n : Nat) (ms : List (Nat × Nat)) (laid : List Nat) :
    Refused s (s.roundTry p n ms laid) := by
  induction ms generalizing s laid with
  | nil => exact .refl s
  | cons m ms ih =>
    have one := s.refused_heldRefused (p := p) (launch := m.2) hp m.1 (s.memberOf p m) ((s.memberOf p m).due n) laid
    refine one.trans (ih ?_ _)
    rw [one]
    exact hp

/-- Without pins there is no queue of refusals. -/
theorem State.pins_heldRefused (hp : s.poison = []) (hpins : s.pins = []) (l : Nat) (x : LHart) (es : List Held) (laid : List Nat) :
    (s.heldRefused p launch l x es laid).pins = [] := by
  unfold State.heldRefused
  split
  · simp [State.refuse, hpins]
  · next v h =>
    obtain ⟨o, e⟩ := State.heldGate_wait hp h
    cases e
  · exact hpins
theorem State.pins_roundTry (hp : s.poison = []) (hpins : s.pins = []) (n : Nat) (ms : List (Nat × Nat)) (laid : List Nat) :
    (s.roundTry p n ms laid).pins = [] := by
  induction ms generalizing s laid with
  | nil => exact hpins
  | cons m ms ih =>
    have one := s.refused_heldRefused (p := p) (launch := m.2) hp m.1 (s.memberOf p m) ((s.memberOf p m).due n) laid
    exact ih (by rw [one]; exact hp) (State.pins_heldRefused hp hpins ..) _

/-- An agent stands in the queue of refusals of a line. -/
def State.queuedAt (s : State) (who line : Nat) : Prop := who ∈ s.lineup ∧ ∃ q ∈ s.pins, q.line = line ∧ who ∈ q.refused
/-- A pin that stands keeps an agent from a line. -/
def State.keptFrom (s : State) (who line : Nat) : Prop := ∃ q ∈ s.pins, q.line = line ∧ q.ended = false ∧ q.within who = false

/-- The pins after a refusal. -/
theorem State.mem_pins_refuse {who line : Nat} {q : Pin} (h : q ∈ s.pins) :
    ∃ q' ∈ (s.refuse who line).pins, q'.line = q.line ∧ q'.ended = q.ended ∧ (∀ w, q'.within w = q.within w) ∧
      ∀ w, w ∈ (s.refuse who line).lineup → (w ∈ q.refused ∨ (w = who ∧ q.line = line)) → w ∈ q'.refused := by
  refine ⟨_, List.mem_map_of_mem h, ?_⟩
  split
  · refine ⟨rfl, rfl, fun _ => rfl, fun w hw hr => List.mem_filter.2 ⟨hw, ?_⟩⟩
    rcases hr with hr | ⟨rfl, -⟩ <;> simp [*]
  · next ne => exact ⟨rfl, rfl, fun _ => rfl, fun w _ hr => hr.resolve_right fun c => ne c.2⟩

theorem State.mem_lineup_refuse {who line : Nat} : who ∈ (s.refuse who line).lineup := by
  unfold State.refuse
  dsimp only
  split
  · next h => simpa using h
  · simp

theorem State.keptFrom_refuse {who line w l : Nat} (h : s.keptFrom w l) : (s.refuse who line).keptFrom w l := by
  obtain ⟨q, hq, on, active, out⟩ := h
  obtain ⟨q', hq', line', ended', within', -⟩ := State.mem_pins_refuse (who := who) (line := line) hq
  exact ⟨q', hq', line'.trans on, ended'.trans active, (within' w).trans out⟩

/-- A place in a queue of refusals is kept when another is refused. -/
theorem State.queuedAt_refuse {who line w l : Nat} (h : s.queuedAt w l) : (s.refuse who line).queuedAt w l := by
  obtain ⟨inLine, q, hq, on, refused⟩ := h
  have still : w ∈ (s.refuse who line).lineup := by
    have old : w ∈ s.lineup.filter fun n => s.pins.any (·.refused.contains n) :=
      List.mem_filter.2 ⟨inLine, List.any_eq_true.2 ⟨q, hq, by simpa using refused⟩⟩
    unfold State.refuse
    dsimp only
    split
    · exact old
    · exact List.mem_append_left _ old
  obtain ⟨q', hq', line', -, -, keep⟩ := State.mem_pins_refuse (who := who) (line := line) hq
  exact ⟨still, q', hq', line'.trans on, keep w still (.inl refused)⟩

/-- A refusal at a line that a pin keeps from the agent gives it its place. -/
theorem State.queuedAt_of_keptFrom {who line : Nat} (h : s.keptFrom who line) : (s.refuse who line).queuedAt who line := by
  obtain ⟨q, hq, on, -, -⟩ := h
  obtain ⟨q', hq', line', -, -, keep⟩ := State.mem_pins_refuse (who := who) (line := line) hq
  exact ⟨State.mem_lineup_refuse, q', hq', line'.trans on, keep who State.mem_lineup_refuse (.inr ⟨rfl, on⟩)⟩

/-- What refusals keep, the refusals of held entries keep. -/
theorem State.heldRefused_keeps (P : State → Prop) (keep : ∀ s : State, P s → ∀ who line, P (s.refuse who line)) (hp : s.poison = [])
    (h : P s) (l : Nat) (x : LHart) (es : List Held) (laid : List Nat) : P (s.heldRefused p launch l x es laid) := by
  unfold State.heldRefused
  split
  · exact keep s h _ _
  · next v e =>
    obtain ⟨o, e⟩ := State.heldGate_wait hp e
    cases e
  · exact h
theorem State.roundTry_keeps (P : State → Prop) (keep : ∀ s : State, P s → ∀ who line, P (s.refuse who line)) (hp : s.poison = [])
    (h : P s) (n : Nat) (ms : List (Nat × Nat)) (laid : List Nat) : P (s.roundTry p n ms laid) := by
  induction ms generalizing s laid with
  | nil => exact h
  | cons m ms ih =>
    have one := s.refused_heldRefused (p := p) (launch := m.2) hp m.1 (s.memberOf p m) ((s.memberOf p m).due n) laid
    exact ih (by rw [one]; exact hp) (State.heldRefused_keeps P keep hp h ..) _

/-- Held entries whose first writes a line that a pin keeps from their name are refused there. -/
theorem State.heldRefused_first {l : Nat} {x : LHart} {es : List Held} {laid : List Nat} {k c pa : Nat} {m v : Byte} {b : Bool}
    (hd : es.head? = some (.byte k c pa m v b)) (out : s.keptFrom (x.who p launch l) (pa / 128)) :
    (s.heldRefused p launch l x es laid).queuedAt (x.who p launch l) (pa / 128) := by
  obtain ⟨rest, rfl⟩ : ∃ rest, es = .byte k c pa m v b :: rest := by
    cases es with
    | nil => cases hd
    | cons d rest => cases hd; exact ⟨rest, rfl⟩
  have refusedAt : s.refusedAt (x.who p launch l) (pa / 128) = true := by
    obtain ⟨q, hq, on, active, outside⟩ := out
    unfold State.refusedAt
    rw [List.any_eq_true]
    exact ⟨q, hq, by simp [on, active, outside]⟩
  have lines : linesOf pa 1 = [pa / 128] := by simp [linesOf, lineOf]
  have gate : s.gate (x.who p launch l) pa 1 = .error (.wait (some (pa / 128))) := by
    unfold State.gate
    rw [lines]
    simp [State.gateLine, refusedAt, bind, Except.bind]
  have held : s.heldGate (x.who p launch l) (.byte k c pa m v b :: rest) laid = .error (.wait (some (pa / 128))) := by
    unfold State.heldGate
    rw [show heldSpan (.byte k c pa m v b) = (pa, 1) from rfl, gate]
    rfl
  have refuses : s.heldRefused p launch l x (.byte k c pa m v b :: rest) laid = s.refuse (x.who p launch l) (pa / 128) := by
    unfold State.heldRefused
    rw [held]
  rw [refuses]
  exact State.queuedAt_of_keptFrom out

/-- A member of a round that a pin keeps from its first line stands there in the queue of refusals. -/
theorem State.roundTry_queued (hp : s.poison = []) {n : Nat} {ms : List (Nat × Nat)} {laid : List Nat} {m : Nat × Nat} (hm : m ∈ ms)
    {k c pa : Nat} {mask v : Byte} {b : Bool} (hd : ((s.memberOf p m).due n).head? = some (.byte k c pa mask v b))
    (out : s.keptFrom ((s.memberOf p m).who p m.2 m.1) (pa / 128)) :
    (s.roundTry p n ms laid).queuedAt ((s.memberOf p m).who p m.2 m.1) (pa / 128) := by
  induction ms generalizing s laid with
  | nil => cases hm
  | cons m' ms ih =>
    have one := s.refused_heldRefused (p := p) (launch := m'.2) hp m'.1 (s.memberOf p m') ((s.memberOf p m').due n) laid
    have clean : (s.heldRefused p m'.2 m'.1 (s.memberOf p m') ((s.memberOf p m').due n) laid).poison = [] := by rw [one]; exact hp
    have members : (s.heldRefused p m'.2 m'.1 (s.memberOf p m') ((s.memberOf p m').due n) laid).memberOf p m = s.memberOf p m := by
      rw [one]; rfl
    by_cases e : m = m'
    · subst e
      exact State.roundTry_keeps (fun s => s.queuedAt _ _) (fun s h _ _ => State.queuedAt_refuse h) clean
        (State.heldRefused_first hd out) ..
    · have later : m ∈ ms := (List.mem_cons.1 hm).resolve_left e
      have out' := State.heldRefused_keeps (fun s => s.keptFrom ((s.memberOf p m).who p m.2 m.1) (pa / 128))
        (fun s h _ _ => State.keptFrom_refuse h) hp out m'.1 (s.memberOf p m') ((s.memberOf p m').due n) laid (p := p) (launch := m'.2)
      have := ih (laid := heldOver ((s.memberOf p m').due n) laid) clean later (by rw [members]; exact hd) out'
      rwa [members] at this

section
variable {r : Rec} (hr : s.recOf p launch = some r) (det : r.sr.det = true) (rsv : r.sr.rsv = false) (hg : r.sr.group = 0)
  (ascending : (r.lh.map (·.1)).Pairwise (· < ·))
include hr det rsv hg ascending

/-- A round that is not ready changes nothing but the queues of refusals. -/
theorem drainRound_waits (wait : s.roundReady r (r.drained + 1) = false) (hp : s.poison = []) :
    ∃ pins names, exec (.drainRound p launch) s = .next { s with pins := pins, lineup := names } ∧
      (s.pins = [] → pins = []) ∧ (r.ending = none → (∀ e ∈ r.lh, e.2.reached (r.drained + 1) = true) → ∀ e ∈ r.lh, ∀ k c pa m v b,
        (e.2.due (r.drained + 1)).head? = some (.byte k c pa m v b) →
        (∃ q ∈ s.pins, q.line = pa / 128 ∧ q.ended = false ∧ q.within (e.2.who p launch e.1) = false) →
        ∃ q ∈ pins, q.line = pa / 128 ∧ e.2.who p launch e.1 ∈ q.refused) := by
  have no_round : s.drainRound p launch = none := by
    unfold State.drainRound
    rw [hr]
    exact if_neg (by simp [wait])
  have run : exec (.drainRound p launch) s = .next (s.roundRefused p launch) := by
    change Host.Outcome.next (match s.drainRound p launch with
      | some t => t.groupsCheck p
      | none => s.roundRefused p launch) = _
    rw [no_round]
  have refused : s.roundRefused p launch =
      if r.sr.det && !r.sr.rsv && r.ending.isNone && s.roundReached r (r.drained + 1) then
        s.roundTry p (r.drained + 1) (s.roundOrder r) [] else s := by
    unfold State.roundRefused
    rw [hr]
  rw [run, refused]
  by_cases reached : (r.sr.det && !r.sr.rsv && r.ending.isNone && s.roundReached r (r.drained + 1)) = true
  · rw [if_pos reached]
    refine ⟨_, _, congrArg Host.Outcome.next (State.refused_roundTry hp ..), fun none => State.pins_roundTry hp none ..,
      fun _ _ e he k c pa m v b hd out => ?_⟩
    obtain ⟨rfl, rfl⟩ := State.key_of_recOf hr
    have nodup : (r.lh.map (·.1)).Nodup := ascending.imp Nat.ne_of_lt
    have listed : (e.1, r.sr.launch) ∈ s.roundOrder r := by
      rw [s.roundOrder_alone hg ascending]
      exact List.mem_map_of_mem he
    have member : s.memberOf r.part (e.1, r.sr.launch) = e.2 := by
      unfold State.memberOf
      rw [hr]
      exact Rec.lhart_of_mem nodup he
    have := State.roundTry_queued (laid := []) hp listed (by rw [member]; exact hd) (by rw [member]; exact out)
    rw [member] at this
    exact this.2
  · rw [if_neg reached]
    refine ⟨s.pins, s.lineup, rfl, fun h => h, fun ending all => absurd ?_ reached⟩
    have round : s.roundReached r (r.drained + 1) = true := by
      unfold State.roundReached
      rw [s.roundRecs_alone hg]
      simpa using fun a b => all (a, b)
    simp [det, rsv, ending, round]

end

end Sys2Proof.Machine
end

section
/-! The scheduler's events (Machine/Place.lean, Machine/Sched.lean): O53. -/

open Sys2Proof Sys2Proof.Machine

namespace Sys2Proof.Machine

/-- A held entry goes with the rounds up to n (R80, R128). -/
def Held.gives (n : Nat) (x : LHart) (e : Held) : Bool := decide (heldRound e ≤ n ∧ (x.place = .ended ∨ heldRound e ≤ x.drains))

theorem LHart.due_eq (x : LHart) (n : Nat) : x.due n = x.held.filter (Held.gives n x) := by
  unfold LHart.due
  refine List.filter_congr fun e _ => ?_
  rw [Bool.eq_iff_iff]
  simp [Held.gives]
theorem LHart.later_eq (x : LHart) (n : Nat) : x.later n = x.held.filter fun e => !Held.gives n x e := by
  unfold LHart.later
  refine List.filter_congr fun e _ => ?_
  rw [Bool.eq_iff_iff]
  simp [Held.gives]
theorem LHart.drained_eq (x : LHart) (n : Nat) (f : Flags) :
    ({ x.drained n with fl := f } : LHart) = { x with
      held := x.held.filter fun e => !Held.gives n x e
      xl := if (x.held.filter fun e => !Held.gives n x e) = [] then [] else x.xl
      fl := f } := by
  unfold LHart.drained
  rw [LHart.later_eq]
  simp only [List.isEmpty_iff]

/-- Settles O53, event by event. -/
theorem schedulerEvents : Obligations.SchedulerEvents := by
  unfold Obligations.SchedulerEvents
  refine ⟨fun s p => selectRec_spec, fun s p r => takeGroup_cases p r, aging_spec, clusterGrant_spec, waveForm_spec, ?lanes, ?window,
    fun s p launch r hr he => recordComplete_spec hr he, ?rounds, pinWiden_spec⟩
  case lanes =>
    intro s core due holding nodup
    have held : holding ↔ s.lanesHeld core = true := (State.lanesHeld_iff nodup).symm
    obtain ⟨passes, waits⟩ := lanesPass_spec s core nodup
    exact ⟨fun h => passes (Bool.eq_false_iff.2 (mt held.2 h)), fun h => waits (held.1 h)⟩
  case window =>
    intro s hid due
    have runs : due ↔ s.windowRuns hid := by
      unfold State.windowRuns
      rw [Hart.not_taking_iff]
    obtain ⟨expires, stays⟩ := windowExpiry_spec s hid
    exact ⟨fun h => expires (runs.1 h), fun h => stays (mt runs.2 h), lanesRelease_spec s hid⟩
  case rounds =>
    intro s p launch r hr det rsv hg groups ascending n gives
    have gives_eq : gives = Held.gives n := rfl
    rw [gives_eq]
    refine ⟨fun ready ending => ?_, fun wait clean => ?_⟩
    · obtain ⟨t, y, run, found, drained, mem, harts⟩ := drainRound_ready hr det rsv hg ascending groups ready ending
      refine ⟨t, y, run, found, drained, ?_, fun l => (harts l).trans (LHart.drained_eq ..)⟩
      rw [mem]
      unfold given
      simp only [LHart.due_eq]
      rfl
    · simpa only [LHart.due_eq] using drainRound_waits hr det rsv hg ascending wait clean

end Sys2Proof.Machine
end

section
/-! TOKPOST, TOKWAIT and EFENCE (Machine/Engine.lean, R121, R276, R277). -/

open Sys2Proof Sys2Proof.Machine

namespace Sys2Proof.Machine

variable {s : State}

/-! ## Tokens paid (R121, R257) -/

/-- The state after a token has been taken from a FIFO, if one is named. -/
def State.popOne (s : State) (pop : Option (BitVec 4)) : State :=
  match pop with
  | some k => s.setTokens (clusterOf s.cur) k.toNat (s.tokens (clusterOf s.cur) k.toNat - 1)
  | none => s
/-- The state after a token has been put into a FIFO, if one is named. -/
def State.pushOne (s : State) (push : Option (BitVec 4)) : State := s.pushToken (clusterOf s.cur) (push.map (·.toNat))

theorem State.popOne_eq (s : State) (pop : Option (BitVec 4)) : s.popOne pop = { s with tok := (s.popOne pop).tok } := by
  cases pop <;> rfl
theorem State.pushOne_eq (s : State) (push : Option (BitVec 4)) : s.pushOne push = { s with tok := (s.pushOne push).tok } := by
  cases push <;> rfl

theorem State.tok_setTokens (c k n j : Nat) :
    assocGet 0 (s.setTokens c k n).tok j = if j = 16 * c + k then n else assocGet 0 s.tok j := by
  split
  · next e => subst e; exact assocGet_put_same
  · next e => exact assocGet_put_ne e

theorem State.tok_popOne (pop : Option (BitVec 4)) (j : Nat) : assocGet 0 (s.popOne pop).tok j =
    assocGet 0 s.tok j - if ∃ k ∈ pop, j = 16 * clusterOf s.cur + k.toNat then 1 else 0 := by
  cases pop with
  | none => simp [State.popOne]
  | some k =>
    rw [State.popOne, State.tok_setTokens]
    simp only [Option.mem_some, exists_eq_left']
    split
    · next e => rw [e]; rfl
    · rfl
theorem State.tok_pushOne (push : Option (BitVec 4)) (j : Nat) : assocGet 0 (s.pushOne push).tok j =
    assocGet 0 s.tok j + if ∃ k ∈ push, j = 16 * clusterOf s.cur + k.toNat then 1 else 0 := by
  cases push with
  | none => simp [State.pushOne, State.pushToken]
  | some k =>
    rw [State.pushOne, Option.map_some, State.pushToken, State.tok_setTokens]
    simp only [Option.mem_some, exists_eq_left']
    split
    · next e => rw [e]; rfl
    · rfl

/-- Tokens are paid by a pop and a push. -/
theorem State.xPaid_of_tok {t : State} {pop push : Option (BitVec 4)} (h : t.tok = ((s.popOne pop).pushOne push).tok) :
    s.xPaid t pop push := by
  have cur : (s.popOne pop).cur = s.cur := by rw [State.popOne_eq]
  intro j
  rw [h, State.tok_pushOne, State.tok_popOne, cur]

/-- What takes its token goes on, where one is there. -/
theorem popThen_pays {x : XArgs} (k : State → Issue) (h : x.tc = true → 0 < s.tokens (clusterOf s.cur) x.pop.toNat) :
    popThen s.cur x s k = k (s.popOne (xPop x)) := by
  unfold popThen xPop
  dsimp only
  split
  · next tc => exact if_neg (Nat.ne_of_gt (h tc))
  · rfl
/-- It waits for one otherwise. -/
theorem popThen_waits {x : XArgs} (k : State → Issue) (tc : x.tc = true) (h : s.tokens (clusterOf s.cur) x.pop.toNat = 0) :
    popThen s.cur x s k = .error (.wait none) := by
  unfold popThen
  dsimp only
  rw [if_pos tc, if_pos h]

/-! ## The vector queue when tokens alone change -/

/-- A quiet state is quiet whatever tokens it holds. -/
theorem State.quiet.tok (h : s.quiet) (v : List (Nat × Nat)) : ({ s with tok := v } : State).quiet := h

/-- What a hart is after an instruction has entered its empty queue and completed without a change of its own. -/
theorem Hart.popEntry_push {h : Hart} (hq : h.vec.queue = []) (hv : h.vec.vstart = 0) (e : QEntry) :
    (h.push e).popEntry [] = { h with pc := h.pc + 8, instret := h.instret + 1, status := .running } := by
  have vec : ({ h.vec with queue := [], vstart := 0 } : Vec) = h.vec := by rw [← hv, ← hq]
  unfold Hart.push Hart.popEntry Hart.updVec
  dsimp only
  rw [vec]

/-- A vector instruction of a ready hart whose entry pays tokens alone completes. -/
theorem vecIssue_tok (h : s.vecReady) (hv : s.me.vec.vstart = 0) {i : Instr} {a b c d : Reg} {v : List (Nat × Nat)}
    (hm : s.me.mx.queue = [])
    (hr : runEntry s.cur (entryOf i a b c d s.me s.ir) (s.me.push (entryOf i a b c d s.me s.ir)) (s.pushed (entryOf i a b c d s.me s.ir)) =
      .done (s.me.push (entryOf i a b c d s.me s.ir)) { s.pushed (entryOf i a b c d s.me s.ir) with tok := v }) :
    vecIssue i a b c d s = .next (State.settleEngines (State.completes { s with tok := v } s.me (s.me.pc + 8))) := by
  obtain ⟨n, run⟩ := vecIssue_run h i a b c d
  obtain ⟨hk, hq, h0, ht, hempty, hw, hpin⟩ := h
  have after : ({ s with tok := v } : State).setMe ((s.me.push (entryOf i a b c d s.me s.ir)).popEntry []) =
      State.completes { s with tok := v } s.me (s.me.pc + 8) := congrArg _ (Hart.popEntry_push hempty hv _)
  have quiet : (State.completes { s with tok := v } s.me (s.me.pc + 8)).quiet :=
    State.quiet.setMe (s := { s with tok := v }) (hq.tok v) hm
  have mine : (State.completes { s with tok := v } s.me (s.me.pc + 8)).hart s.cur =
      { s.me with pc := s.me.pc + 8, instret := s.me.instret + 1, status := .running } := State.hart_setHart_same ..
  have served : ∀ x, ({ s.pushed (entryOf i a b c d s.me s.ir) with tok := v } : State).unitServed s.cur x =
      { s.pushed (entryOf i a b c d s.me s.ir) with tok := v } := fun x => State.unitServed_none x hpin
  have merged : ({ s.pushed (entryOf i a b c d s.me s.ir) with tok := v } : State).setHart s.cur
      ((s.me.push (entryOf i a b c d s.me s.ir)).popEntry []) = State.completes { s with tok := v } s.me (s.me.pc + 8) := by
    rw [← after]
    exact State.setHart_setHart (s := { s with tok := v }) ..
  have done : (State.completes { s with tok := v } s.me (s.me.pc + 8)).queueDone s.cur s.me.vec.passed =
      State.completes { s with tok := v } s.me (s.me.pc + 8) := by
    unfold State.queueDone
    rw [mine]
    dsimp only
    rw [if_neg (by simp), if_neg]
    rintro ⟨-, -, c | ⟨c, d⟩⟩
    · exact absurd c (by simp)
    · rw [c] at d
      exact absurd d (by decide)
  rw [run, quiet.settleEngines]
  refine queueRun_once n ?_ ?_
  · rw [queueStep_head (State.tailsFor_pushed h0 ht _) (by rw [State.pushed_hart]; exact hw)]
    unfold State.headStep
    rw [State.pushed_hart, pushed_stops hempty]
    dsimp only
    rw [Hart.push_vec, hempty]
    dsimp only [List.nil_append]
    rw [if_neg Bool.false_ne_true, runHeld_own (entryOf_xl ..), hr]
    dsimp only
    rw [served, merged, quiet.settleEngines]
    exact congrArg (fun t => some (Host.Outcome.next t)) done
  · have clear : (State.completes { s with tok := v } s.me (s.me.pc + 8)).tailsFor s.cur = [] :=
      State.tailsFor_setMe (s := { s with tok := v }) h0 ht rfl rfl
    rw [queueStep_head clear (by rw [mine]; exact hw)]
    exact headStep_nil (by rw [mine]; exact hempty)

/-! ## TOKPOST and TOKWAIT (R276) -/

theorem kind_of_xReady (h : s.xReady) : kindOf s.cur = .vector ∨ kindOf s.cur = .sequencer := by
  rcases h with ⟨hk, -⟩ | ⟨⟨hk, -⟩, -⟩
  · exact .inr hk
  · exact .inl hk
theorem queue_of_xReady (h : s.xReady) : s.me.vec.queue = [] := by
  rcases h with ⟨-, hq⟩ | ⟨⟨-, -, -, -, hq, -⟩, -⟩ <;> exact hq
theorem allowed_xReady (h : s.xReady) : allowed true true false s.cur = true := by
  rcases kind_of_xReady h with hk | hk <;> simp [allowed, hk]

/-- A format-X instruction that pays tokens alone completes on an agent that is ready for it. -/
theorem xIssue_tok (h : s.xReady) (hm : s.me.mx.queue = []) {i : Instr} {x : XArgs} {f : Nat → XArgs → XOps → Hart → State → Issue}
    {v : List (Nat × Nat)} 
    (runs : ∀ hid h t, runEntry hid (entryOf i x.a x.b x.c x.d s.me s.ir) h t = runX hid x f (entryOf i x.a x.b x.c x.d s.me s.ir) h t)
    (pays : ∀ (o : XOps) (h : Hart) (t : State), t = { s with harts := t.harts } → h.mx.queue = [] →
      f s.cur x o h t = .ok (h, { t with tok := v })) : xIssue i x f s =
      .next (State.settleEngines (State.completes { s with tok := v } s.me (s.me.pc + 8))) := by
  rw [xIssue, onAgents_allowed (allowed_xReady h)]
  rcases h with ⟨hk, -⟩ | ⟨ready, hv⟩
  · rw [if_neg (by simp [hk]), issueNow, pays _ _ s rfl hm]
    rfl
  · have hk := ready.1
    have queued : vecIssue i x.a x.b x.c x.d s = queueUp s (entryOf i x.a x.b x.c x.d s.me s.ir) :=
      onAgents_allowed (allowed_vector hk ..)
    rw [if_pos hk, ← queued]
    refine vecIssue_tok ready hv hm ?_
    have fresh : (entryOf i x.a x.b x.c x.d s.me s.ir).fresh = true := by simp [QEntry.fresh, entryOf, hv]
    rw [runs, runX, checked, if_pos fresh, pays _ (s.me.push _) (s.pushed (entryOf i x.a x.b x.c x.d s.me s.ir)) rfl hm]

theorem State.clusterOf_cur_harts (s : State) (hs : List (Nat × Hart)) : clusterOf ({ s with harts := hs } : State).cur = clusterOf s.cur := rfl

/-- TOKPOST pushes its token where there is room. -/
theorem exec_tokpost {x : XArgs} (h : s.xReady) (hm : s.me.mx.queue = []) (room : s.tokens (clusterOf s.cur) x.push.toNat < 32) :
    exec (.tokpost x) s = .next (State.settleEngines (State.completes { s with tok := (s.pushOne (some x.push)).tok } s.me (s.me.pc + 8))) := by
  refine xIssue_tok h hm (fun _ _ _ => rfl) fun o me t ht empty => ?_
  have alone : (kindOf s.cur == .vector && t.cmds.any fun c => c.ofHart me) = false := by
    rcases h with ⟨hk, -⟩ | ⟨⟨hk, hq, -⟩, -⟩
    · simp [hk]
    · have : t.cmds = [] := by rw [ht]; exact hq.2.1
      simp [this]
  have room' : t.pushRoom (clusterOf s.cur) (some x.push.toNat) = true := by
    rw [ht]
    exact decide_eq_true (p := s.tokens (clusterOf s.cur) x.push.toNat < 32) room
  unfold issueTokpost
  rw [if_neg (by simp [empty, alone]), if_neg (by simp [room'])]
  rw [ht]
  rfl

/-- TOKWAIT takes its token where one is there. -/
theorem exec_tokwait {x : XArgs} (h : s.xReady) (hm : s.me.mx.queue = []) (tc : x.tc = true)
    (there : 0 < s.tokens (clusterOf s.cur) x.pop.toNat) : exec (.tokwait x) s =
      .next (State.settleEngines (State.completes { s with tok := (s.popOne (some x.pop)).tok } s.me (s.me.pc + 8))) := by
  refine xIssue_tok h hm (fun _ _ _ => rfl) fun o me t ht _ => ?_
  have cur : s.cur = t.cur := by rw [ht]
  have pop : xPop x = some x.pop := if_pos tc
  unfold issueTokwait
  rw [cur, popThen_pays (s := t) _ (fun _ => by rw [ht]; exact there), pop, ht]
  rfl

/-- On a sequencer a format-X instruction that is held back waits. -/
theorem xIssue_seq_waits (hk : kindOf s.cur = .sequencer) {i : Instr} {x : XArgs} {f : Nat → XArgs → XOps → Hart → State → Issue}
    (held : f s.cur x (opsOf x s.me s.ir) s.me s = .error (.wait none)) : xIssue i x f s = .next s.waitMe := by
  rw [xIssue, onAgents_allowed (allowed_sequencer hk ..), if_neg (by simp [hk]), issueNow, held]
  rfl

/-! ## EFENCE (R277) -/

/-- A command is of a kind that an EFENCE mask covers. -/
def CmdKind.covered (fn : BitVec 14) : CmdKind → Bool
  | .copyIn .. => fn.getLsbD 1
  | .copyOut .. => fn.getLsbD 2
  | _ => fn.getLsbD 3

theorem State.efenceHeld_iff (hm : s.me.mx.queue = []) {fn : BitVec 14} : s.efenceHeld fn.toNat = true ↔
    ∃ k ∈ s.cmds, k.ofHart s.me = true ∧ k.kind.covered fn = true := by
  unfold State.efenceHeld
  rw [hm]
  simp only [List.isEmpty_nil, Bool.not_true, Bool.and_false, Bool.false_or, List.any_eq_true, Bool.and_eq_true]
  refine exists_congr fun k => and_congr_right fun _ => and_congr_right fun _ => ?_
  cases k.kind <;> rfl

theorem efenceWait_held {x : XArgs} (h : s.efenceHeld x.fn.toNat = true) : efenceWait x s = .next s.waitMe := if_pos (by simp [h])
theorem efenceWait_free {x : XArgs} (h : s.efenceHeld x.fn.toNat = false)
    (room : x.tp = true → s.tokens (clusterOf s.cur) x.push.toNat < 32) : efenceWait x s =
      .next (((s.pushOne (xPush x)).retire 8 fun h => h.updVec fun v => { v with popped := false }).settleEngines) := by
  have push : (if x.tp then some x.push.toNat else none) = (xPush x).map (·.toNat) := by unfold xPush; split <;> rfl
  have fits : s.pushRoom (clusterOf s.cur) ((xPush x).map (·.toNat)) = true := by
    unfold xPush State.pushRoom
    split
    · next tp => simpa using room tp
    · rfl
  unfold efenceWait
  dsimp only
  rw [push, if_neg (by simp [h, fits])]
  rfl

/-- The executing hart has its EFENCE's token, or wants none. -/
def State.marks (s : State) (popped : Bool) : State := s.setMe { s.me with vec := { s.me.vec with popped := popped } }

theorem exec_efence {x : XArgs} (h : s.xReady) (fresh : s.me.vec.popped = false)
    (there : x.tc = true → 0 < s.tokens (clusterOf s.cur) x.pop.toNat) :
    exec (.efence x) s = efenceWait x ((s.popOne (xPop x)).marks x.tc) := by
  have pops : popThen s.cur x s (fun s1 => .ok (s.me, s1)) = .ok (s.me, s.popOne (xPop x)) := popThen_pays _ there
  have me : (s.popOne (xPop x)).me = s.me := by rw [State.popOne_eq]; rfl
  refine (onAgents_allowed (allowed_xReady h)).trans ?_
  rw [if_neg (by simp [queue_of_xReady h]), if_neg (by simp [fresh]), pops]
  unfold State.marks
  rw [me]
  rfl
/-- An EFENCE that has popped goes on waiting. -/
theorem exec_efence_popped {x : XArgs} (h : s.xReady) : exec (.efence x) (s.marks true) = efenceWait x (s.marks true) := by
  have me : (s.marks true).me = { s.me with vec := { s.me.vec with popped := true } } := State.me_setMe ..
  refine (onAgents_allowed (s := s.marks true) (show allowed true true false s.cur = true from allowed_xReady h)).trans ?_
  rw [if_neg (by simp [me, queue_of_xReady h]), if_pos (by rw [me])]

/-- The state that an EFENCE leaves as it completes. -/
theorem State.retire_marks (hp : s.me.vec.popped = false) (b : Bool) (v : List (Nat × Nat)) :
    ({ s.marks b with tok := v } : State).retire 8 (fun h => h.updVec fun v => { v with popped := false }) =
      State.completes { s with tok := v } s.me (s.me.pc + 8) := by
  have me : ({ s.marks b with tok := v } : State).me = { s.me with vec := { s.me.vec with popped := b } } := State.hart_setHart_same ..
  have vec : ({ s.me.vec with popped := false } : Vec) = s.me.vec := by rw [← hp]
  unfold State.retire
  rw [me]
  unfold Hart.updVec Hart.retire
  dsimp only
  rw [vec]
  exact State.setHart_setHart (s := { s with tok := v }) ..

end Sys2Proof.Machine
end

section
/-! LOOPB, queued and in program order, and O51 (Machine/Engine.lean, Machine/VecIssue.lean, R272). -/

open Sys2Proof Sys2Proof.Machine

namespace Sys2Proof.Machine

variable {s : State}

/-! ## Words and positions -/

/-- The words of a LOOPB as they were read, or read now. -/
theorem State.loopWords_eq (s : State) (hid who : Nat) (ir pc : Word) (p : LoopPos) (n : Nat) :
    s.loopWords hid who ir pc p n = if p.body = [] then (s.bodyWords hid who pc n).map (ir :: ·) else .ok p.body := by
  unfold State.loopWords
  cases p.body <;> rfl

/-- The position after one at which a statement is left, of the body or of a later iteration. -/
theorem nextPos_more {p : LoopPos} {ws : List Word} {n size : Nat} (h : p.k + 1 < n ∨ p.q + 1 < size) :
    nextPos { p with body := ws } n size = some (if p.k + 1 < n then ⟨p.q, p.k + 1, ws⟩ else ⟨p.q + 1, 0, ws⟩) := by
  unfold nextPos
  by_cases hk : p.k + 1 < n
  · simp [hk]
  · simp [hk, h.resolve_left hk]
/-- After the last statement of the last iteration there is none. -/
theorem nextPos_last {p : LoopPos} {ws : List Word} {n size : Nat} (h : ¬ (p.k + 1 < n ∨ p.q + 1 < size)) :
    nextPos { p with body := ws } n size = none := by
  obtain ⟨hk, hq⟩ := not_or.1 h
  unfold nextPos
  simp [hk, hq]

theorem Hart.instret_twice (h : Hart) : h.instret + 1 + 1 = h.instret + 2 := by
  rw [BitVec.add_assoc]
  rfl

/-! ## LOOPB of a vector hart (R79, R257) -/

/-- The front end queues a LOOPB with its words and the registers, and moves past its body. -/
theorem exec_loopb_queues {x : XArgs} {ws : List Word} (hk : kindOf s.cur = .vector) (he : s.eager = false)
    (room : s.me.vec.queue.length < 16)
    (words : s.loopWords s.cur s.cur s.ir s.me.pc (s.me.loopPos.getD ⟨0, 0, []⟩) (x.fn.toNat + 1) = .ok ws)
    (free : ∀ w ∈ ws.drop 1, ∀ i, decodeOne w = .ok i → s.gPending s.cur i = false) :
    exec (.loopb x) s = .next (s.setMe (s.me.pushLoop x s.ir ws)) := by
  have none_pending : ((ws.drop 1).any fun w => match decodeOne w with | .ok i => s.gPending s.cur i | .error _ => false) = false := by
    rw [List.any_eq_false]
    intro w hw
    cases hd : decodeOne w with
    | error e => simp
    | ok i => simp [free w hw i hd]
  refine (onAgents_allowed (allowed_vector hk ..)).trans ?_
  rw [if_pos hk, queueLoopb, if_neg (by omega), words, onOk_ok]
  refine (if_neg (Bool.eq_false_iff.1 none_pending)).trans ?_
  exact if_neg (by simp [State.setMe, State.setHart, he])

section
variable {x : XArgs} {q : QEntry} {qs : List QEntry} {ws : List Word}

/-- What becomes of the head of the executing hart's queue, as its entry ends. -/
def State.headEnd (s : State) (q : QEntry) (qs : List QEntry) : VEnd → Option Out
  | .done h1 s1 => some (.next ((((s1.unitServed s.cur s.me).setHart s.cur (h1.popEntry qs)).settleEngines).queueDone s.cur s.me.vec.passed))
  | .trap c v t h1 s1 =>
    let s2 := (s1.dropPins s.cur).unrefuse (vectorUnit s.cur)
    some (.next (if s.me.status = .ending then (s2.setHart s.cur h1.dropQueue).queueDone s.cur s.me.vec.passed
      else s2.setHart s.cur ((h1.unwind q).stopAt c v t q.pc)))
  | .hold (some line) _ => s.refuseOnce s.cur line
  | .hold none _ => none
  | .mark s1 => some (.next s1)
  | .stay h1 s1 => some (.next (((s1.setHart s.cur h1).settleEngines).queueDone s.cur s.me.vec.passed))
  | .poison v t =>
    some (.next (((s.unrefuse (vectorUnit s.cur)).setHart s.cur (s.me.dropQueue.updVec fun k => { k with vstart := t })).strike s.cur v))

/-- The head of the queue is a LOOPB that can go on. -/
structure LoopAtHead (s : State) (x : XArgs) (q : QEntry) (qs : List QEntry) (ws : List Word) : Prop where
  kind : kindOf s.cur = .vector
  eager : s.eager = false
  queue : s.me.vec.queue = q :: qs
  loop : q.ins = .loopb x
  own : q.xl = []
  fresh : q.vstart = 0
  alone : s.tailsFor s.cur = []
  open' : s.me.vec.vwait = false
  preempt : s.me.preempt = false
  status : s.me.status ≠ .ending
  pins : ∀ r ∈ s.pins, vectorUnit s.cur ∉ r.refused
  words : s.loopWords s.cur (vectorUnit s.cur) q.ir q.pc q.pos (x.fn.toNat + 1) = .ok ws

variable (h : LoopAtHead s x q qs ws)
include h

/-- The entry runs as the body of R272. -/
theorem LoopAtHead.run : runHeld s.cur q s.me s = match bodyOf false (ws.drop 1), s.me.nest with
    | .error w, _ => .trap .illegal w 0 s.me s
    | .ok _, none => .trap .engine (word q.pos.q) 0 s.me s
    | .ok body, some nest => match body[q.pos.k]? with
      | none => .trap .illegal q.ir 0 s.me s
      | some (w, i) => match issueBody s.cur w i nest q.pos.q q.pos.k (s.me.atLoop q) s with
        | .ok r => match nextPos { q.pos with body := ws } (x.fn.toNat + 1) nest.size with
          | some p1 => .stay (s.me.loopHead p1) r.2
          | none => .done { s.me with nest := none, instret := s.me.instret + 1 } r.2
        | .error e => .ofStop e 0 s.me s := by
  have entry : runEntry s.cur q s.me s = runLoopb s.cur x q s.me s := by
    unfold runEntry
    rw [h.loop]
  rw [runHeld_own h.own, entry]
  unfold runLoopb
  dsimp only
  rw [checked, if_pos (by simp [QEntry.fresh, h.fresh]), h.words] <;> rfl

/-- What the event does where the entry ends in some way. -/
theorem LoopAtHead.complete {e : VEnd} (he : runHeld s.cur q s.me s = e) :
    exec (.vectorInstructionComplete s.cur) s = (s.headEnd q qs e).getD (.next s) := by
  have goes : s.loopStops s.cur = false := by
    unfold State.loopStops
    rw [show s.hart s.cur = s.me from rfl]
    dsimp only
    rw [h.preempt]
    simp [h.status]
  change (s.queueStep s.cur).getD (.next s) = _
  rw [queueStep_head h.alone h.open', State.headStep]
  rw [show s.hart s.cur = s.me from rfl]
  dsimp only
  rw [h.queue]
  dsimp only
  rw [goes, if_neg Bool.false_ne_true]
  rw [he]
  unfold State.headEnd
  rfl

/-- A LOOPB that stops is taken as its trap, at its iteration. -/
theorem LoopAtHead.stops {c : Cause} {v : Word} (he : runHeld s.cur q s.me s = .trap c v 0 s.me s) :
    exec (.vectorInstructionComplete s.cur) s =
      .next (((s.dropPins s.cur).unrefuse (vectorUnit s.cur)).setMe ((s.me.unwind q).stopAt c v 0 q.pc)) := by
  rw [h.complete he]
  exact congrArg Host.Outcome.next (if_neg h.status)

/-- Where the hart does not end, and work completes later, nothing more follows. -/
theorem LoopAtHead.queueDone {u : State} {y : Hart} (he : u.eager = false) (hy : y.status = s.me.status) (b : Bool) :
    (u.setHart s.cur y).settleEngines.queueDone s.cur b = u.setHart s.cur y := by
  have settled : (u.setHart s.cur y).settleEngines = u.setHart s.cur y := if_neg (by simp [he])
  rw [settled]
  unfold State.queueDone
  rw [State.hart_setHart_same]
  dsimp only
  rw [if_neg (by rw [hy]; exact h.status), if_neg (by simp [he])]

/-- A body statement that issues leaves the LOOPB at the next position, or completes it. -/
theorem LoopAtHead.issues {b : List (Word × Instr)} {w : Word} {i : Instr} {nest : Nest} {u : Hart × State}
    (body : bodyOf false (ws.drop 1) = .ok b) (hn : s.me.nest = some nest) (at_k : b[q.pos.k]? = some (w, i))
    (issued : issueBody s.cur w i nest q.pos.q q.pos.k (s.me.atLoop q) s = .ok u) :
    exec (.vectorInstructionComplete s.cur) s = .next (u.2.setMe (if q.pos.k + 1 < x.fn.toNat + 1 ∨ q.pos.q + 1 < nest.size then
        { s.me with
          instret := s.me.instret + 1
          vec := { s.me.vec with queue :=
            { q with loop := some (if q.pos.k + 1 < x.fn.toNat + 1 then ⟨q.pos.q, q.pos.k + 1, ws⟩ else ⟨q.pos.q + 1, 0, ws⟩) } :: qs } }
      else { s.me with instret := s.me.instret + 2, nest := none, vec := { s.me.vec with queue := qs } })) := by
  obtain ⟨-, frame⟩ := issueBody_frame h.kind issued
  have cur : u.2.cur = s.cur := by rw [frame]
  have lazy : u.2.eager = false := by rw [frame]; exact h.eager
  have pins : ∀ r ∈ u.2.pins, vectorUnit s.cur ∉ r.refused := by rw [frame]; exact h.pins
  have run := h.run
  rw [body, hn] at run
  dsimp only at run
  rw [at_k] at run
  dsimp only at run
  rw [issued] at run
  dsimp only at run
  unfold State.setMe
  rw [cur]
  by_cases more : q.pos.k + 1 < x.fn.toNat + 1 ∨ q.pos.q + 1 < nest.size
  · rw [nextPos_more more] at run
    rw [h.complete run, if_pos more]
    refine congrArg Host.Outcome.next ((h.queueDone lazy (by exact rfl) _).trans ?_)
    unfold Hart.loopHead Hart.updVec
    dsimp only
    rw [h.queue]
  · rw [nextPos_last more] at run
    rw [h.complete run, if_neg more]
    refine congrArg Host.Outcome.next ?_
    rw [State.unitServed_none _ pins]
    refine (h.queueDone lazy (by exact rfl) _).trans ?_
    unfold Hart.popEntry Hart.updVec
    dsimp only
    rw [Hart.instret_twice]

end

/-! ## LOOPB of a sequencer -/

section
variable {x : XArgs} {ws : List Word} (hk : kindOf s.cur = .sequencer) (hq : s.me.vec.queue = [])
  (words : s.loopWords s.cur s.cur s.ir s.me.pc (s.me.loopPos.getD ⟨0, 0, []⟩) (x.fn.toNat + 1) = .ok ws)
include hk hq words

/-- A sequencer's LOOPB with the words of its body. -/
theorem exec_loopb_seq : exec (.loopb x) s =
    (let p := s.me.loopPos.getD ⟨0, 0, []⟩
    let back : State := s.setMe { s.me with loopPos := p.trapped }
    match bodyOf true (ws.drop 1), s.me.nest with
    | .error w, _ => .next (back.traps .illegal w)
    | .ok _, none => .next (back.traps .engine (word p.q))
    | .ok body, some nest => match body[p.k]? with
      | none => illegal back
      | some (w, i) => match issueBody s.cur w i nest p.q p.k s.me s with
        | .ok r => .next ((r.2.setMe (r.1.loopOn (nextPos { p with body := ws } (x.fn.toNat + 1) nest.size) (x.fn.toNat + 1))).settleEngines)
        | .error (.trap c v) => raise c v back
        | .error e => answerStop (s.setMe { s.me with loopPos := some { p with body := ws } }) e) := by
  have empty : ∀ p : LoopPos, (s.setMe { s.me with loopPos := p.trapped }).me.vec.queue = [] := fun p => by
    rw [State.me_setMe]; exact hq
  refine (onAgents_allowed (allowed_sequencer hk ..)).trans ?_
  rw [if_neg (by simp [hk]), seqLoopb]
  dsimp only
  rw [words]
  dsimp only
  have quits : ∀ c v, raise c v (s.setMe { s.me with loopPos := (s.me.loopPos.getD ⟨0, 0, []⟩).trapped }) =
      .next ((s.setMe { s.me with loopPos := (s.me.loopPos.getD ⟨0, 0, []⟩).trapped }).traps c v) := fun c v => raise_eq _ _ (empty _)
  generalize s.setMe { s.me with loopPos := (s.me.loopPos.getD ⟨0, 0, []⟩).trapped } = back at quits ⊢
  cases bodyOf true (ws.drop 1) with
  | error w => exact quits ..
  | ok b =>
    cases s.me.nest with
    | none => exact quits ..
    | some nest => rfl

theorem exec_loopb_issues {b : List (Word × Instr)} {w : Word} {i : Instr} {nest : Nest} {u : Hart × State}
    (body : bodyOf true (ws.drop 1) = .ok b) (hn : s.me.nest = some nest)
    (at_k : b[(s.me.loopPos.getD ⟨0, 0, []⟩).k]? = some (w, i))
    (issued : issueBody s.cur w i nest (s.me.loopPos.getD ⟨0, 0, []⟩).q (s.me.loopPos.getD ⟨0, 0, []⟩).k s.me s = .ok u) :
    let p := s.me.loopPos.getD ⟨0, 0, []⟩
    let n := x.fn.toNat + 1
    exec (.loopb x) s = .next (State.settleEngines (u.2.setMe
      (if p.k + 1 < n ∨ p.q + 1 < nest.size then
        { u.1 with instret := u.1.instret + 1, status := .running
                   loopPos := some (if p.k + 1 < n then ⟨p.q, p.k + 1, ws⟩ else ⟨p.q + 1, 0, ws⟩) }
       else { u.1 with instret := u.1.instret + 2, status := .running, loopPos := none, nest := none
                       pc := u.1.pc + BitVec.ofNat 64 (8 * (n + 1)) }))) := by
  intro p n
  rw [exec_loopb_seq hk hq words, body, hn]
  dsimp only
  rw [at_k]
  dsimp only
  rw [issued]
  dsimp only
  by_cases more : p.k + 1 < n ∨ p.q + 1 < nest.size
  · rw [nextPos_more more, if_pos more]
    rfl
  · rw [nextPos_last more, if_neg more]
    unfold Hart.loopOn Hart.retire
    dsimp only
    rw [Hart.instret_twice]
    rfl

end

end Sys2Proof.Machine
end

section
/-! Tokens and loops: O51. -/

open Sys2Proof Sys2Proof.Machine

namespace Sys2Proof.Machine

variable {s : State}

/-- An EFENCE that has its token, on an agent that is ready for it, completes where nothing that it covers is outstanding and its own
token has room. -/
theorem efenceWait_completes {x : XArgs} {pop : Option (BitVec 4)} {b : Bool} (hp : s.me.vec.popped = false)
    (free : s.efenceHeld x.fn.toNat = false)
    (room : x.tp = true → (s.popOne pop).tokens (clusterOf s.cur) x.push.toNat < 32) :
    ∃ tok, s.xPaid ({ s with tok := tok } : State) pop (xPush x) ∧ efenceWait x ((s.popOne pop).marks b) =
      .next (State.settleEngines (State.completes { s with tok := tok } s.me (s.me.pc + 8))) := by
  refine ⟨((s.popOne pop).pushOne (xPush x)).tok, State.xPaid_of_tok rfl, ?_⟩
  have held : ((s.popOne pop).marks b).efenceHeld x.fn.toNat = false := by
    rw [State.popOne_eq]
    unfold State.efenceHeld State.marks at *
    rw [State.me_setMe]
    exact free
  rw [efenceWait_free held (fun tp => by rw [State.popOne_eq] at room ⊢; exact room tp)]
  have tokens : ((s.popOne pop).marks b).pushOne (xPush x) =
      { s.marks b with tok := ((s.popOne pop).pushOne (xPush x)).tok } := by
    cases pop <;> cases xPush x <;> rfl
  rw [tokens, State.retire_marks hp]

/-- What a FIFO holds after the pop of a command. -/
theorem State.tokens_popOne (x : XArgs) : (s.popOne (xPop x)).tokens (clusterOf s.cur) x.push.toNat =
    if x.tc = true ∧ x.pop = x.push then s.tokens (clusterOf s.cur) x.push.toNat - 1 else s.tokens (clusterOf s.cur) x.push.toNat := by
  have same : (∃ k ∈ xPop x, 16 * clusterOf s.cur + x.push.toNat = 16 * clusterOf s.cur + k.toNat) ↔ x.tc = true ∧ x.pop = x.push := by
    unfold xPop
    cases x.tc with
    | false => simp
    | true =>
      simp only [if_true, Option.mem_some, exists_eq_left', Nat.add_left_cancel_iff, true_and]
      exact ⟨fun e => (BitVec.eq_of_toNat_eq e).symm, fun e => by rw [e]⟩
  refine (State.tok_popOne ..).trans ?_
  rw [if_congr same rfl rfl]
  split <;> rfl

/-- A wait after the pop keeps what the EFENCE has. -/
theorem State.waitMe_marks (v : List (Nat × Nat)) (b : Bool) : (({ s with tok := v } : State).marks b).waitMe =
    ({ s with tok := v } : State).setMe { s.me with vec := { s.me.vec with popped := b }, status := .waiting } := by
  have me : (({ s with tok := v } : State).marks b).me = { s.me with vec := { s.me.vec with popped := b } } := State.me_setMe ..
  unfold State.waitMe
  rw [me]
  exact State.setMe_setMe ..

/-- Settles O51, by the cases of each instruction: a token there or not, room or not, work outstanding or not; and for LOOPB by its
position and its body. -/
theorem tokensAndLoops : Obligations.TokensAndLoops := by
  unfold Obligations.TokensAndLoops
  refine ⟨?vector, ?agents⟩
  case vector =>
    intro x s hk he h n
    constructor
    · intro ws p room words free
      rw [← State.loopWords_eq] at words
      exact exec_loopb_queues hk he room words free
    intro q qs ws queue loop own fresh alone open' preempt status pins p words
    rw [← State.loopWords_eq] at words
    have head : LoopAtHead s x q qs ws := ⟨hk, he, queue, loop, own, fresh, alone, open', preempt, status, pins, words⟩
    intro body e stops
    refine ⟨fun w bad => head.stops (by rw [head.run, show bodyOf false (ws.drop 1) = _ from bad]), fun b ok none => head.stops ?_,
      fun b w i nest u ok hn at_k issued => head.issues ok hn at_k issued⟩
    rw [head.run, show bodyOf false (ws.drop 1) = _ from ok, show s.me.nest = _ from none]
    rfl
  case agents =>
    intro x s ready hm fresh h c waits done left held
    have held_iff : held ↔ s.efenceHeld x.fn.toNat = true := by
      rw [State.efenceHeld_iff hm]
      constructor
      · rintro ⟨-, k, hk, part, launch, logical, covered⟩
        refine ⟨k, hk, by simp [Cmd.ofHart, part, launch, logical, h], ?_⟩
        cases hkind : k.kind <;> simpa [hkind, CmdKind.covered] using covered
      · rintro ⟨k, hk, own, covered⟩
        obtain ⟨⟨part, launch⟩, logical⟩ : (k.part = h.part ∧ k.launch = h.launch) ∧ k.logical = h.logical := by
          simpa [Cmd.ofHart] using own
        refine ⟨?_, k, hk, part, launch, logical, ?_⟩
        all_goals cases hkind : k.kind <;> simp_all [CmdKind.covered]
    have free_iff : ¬ held ↔ s.efenceHeld x.fn.toNat = false := by rw [held_iff, Bool.not_eq_true]
    refine ⟨fun room => ⟨_, State.xPaid_of_tok rfl, exec_tokpost ready hm room⟩,
      fun tc there => ⟨_, State.xPaid_of_tok rfl, exec_tokwait ready hm tc there⟩, ?efence, ?wait, ?popped, ⟨?still, ?resumes⟩, ?seq, ?loop⟩
    case efence =>
      rintro ⟨there, room⟩ free
      obtain ⟨tok, paid, run⟩ := efenceWait_completes (pop := xPop x) (b := x.tc) fresh (free_iff.1 free)
        (fun tp => by rw [State.tokens_popOne]; exact room tp)
      exact ⟨tok, paid, (exec_efence ready fresh there).trans run⟩
    case wait =>
      intro tc stays
      have pop : s.popOne (xPop x) = s := by rw [xPop, if_neg (by simp [tc])]; rfl
      have vec : ({ s.me.vec with popped := false } : Vec) = s.me.vec := by rw [← fresh]
      have busy : (s.marks false).efenceHeld x.fn.toNat = true := by
        unfold State.efenceHeld State.marks
        rw [State.me_setMe]
        exact held_iff.1 stays
      rw [exec_efence ready fresh (by simp [tc]), pop, tc, efenceWait_held busy]
      refine congrArg Host.Outcome.next ((State.waitMe_marks s.tok false).trans ?_)
      rw [vec]
    case popped =>
      intro tc there stays
      have pop : xPop x = some x.pop := if_pos tc
      have busy : ((s.popOne (some x.pop)).marks true).efenceHeld x.fn.toNat = true := by
        unfold State.efenceHeld State.marks
        rw [State.me_setMe]
        exact held_iff.1 stays
      refine ⟨(s.popOne (some x.pop)).tok, State.xPaid_of_tok rfl, ?_⟩
      rw [exec_efence ready fresh (fun _ => there), pop, tc, efenceWait_held busy]
      exact congrArg Host.Outcome.next (State.waitMe_marks (s.popOne (some x.pop)).tok true)
    case still =>
      intro stays
      have busy : (s.marks true).efenceHeld x.fn.toNat = true := by
        unfold State.efenceHeld State.marks
        rw [State.me_setMe]
        exact held_iff.1 stays
      refine (exec_efence_popped ready).trans ?_
      rw [efenceWait_held busy]
      exact congrArg Host.Outcome.next (State.waitMe_marks s.tok true)
    case resumes =>
      intro free room
      obtain ⟨tok, paid, run⟩ := efenceWait_completes (pop := none) (b := true) fresh (free_iff.1 free) room
      exact ⟨tok, paid, (exec_efence_popped ready).trans run⟩
    case seq =>
      intro hk
      refine ⟨fun full => ?_, fun tc empty => ⟨?_, ?_⟩⟩
      · refine xIssue_seq_waits hk ?_
        have no_room : s.pushRoom (clusterOf s.cur) (some x.push.toNat) = false :=
          decide_eq_false (p := s.tokens (clusterOf s.cur) x.push.toNat < 32) (Nat.not_lt.2 full)
        unfold issueTokpost
        rw [if_neg (by simp [hm, hk]), if_pos (by simp [no_room])]
      · exact xIssue_seq_waits hk (popThen_waits _ tc empty)
      · refine (onAgents_allowed (allowed_sequencer hk ..)).trans ?_
        rw [if_neg (by simp [queue_of_xReady ready]), if_neg (by simp [fresh]), popThen_waits _ tc empty]
        rfl
    case loop =>
      intro n p hk ws words body back
      rw [← State.loopWords_eq] at words
      have empty := queue_of_xReady ready
      have run := exec_loopb_seq hk empty words
      refine ⟨fun w bad => run.trans ?_, fun b ok none => run.trans ?_,
        fun b w i nest u ok hn at_k issued => exec_loopb_issues hk empty words ok hn at_k issued⟩
      · rw [show bodyOf true (ws.drop 1) = _ from bad]
        rfl
      · dsimp only
        split
        · next bad => exact absurd (bad.symm.trans ok) (by simp)
        · rfl
        · next _ has => exact absurd (has.symm.trans none) (by simp)

end Sys2Proof.Machine
end

section
/-! The indices of the items of a nest in the four orders (Machine/Records.lean, R66). -/

open Sys2Proof Sys2Proof.Machine

namespace Sys2Proof.Machine

/-- A tuple lies within the bounds. -/
abbrev Within (bounds ix : List Nat) : Prop := List.Forall₂ (fun n i => i < n) bounds ix

/-! ## Row-major -/

theorem rowMajor_fold (bounds : List Nat) (q : Nat) :
    bounds.foldr (fun n (acc : List Nat × Nat) => (acc.2 % n :: acc.1, acc.2 / n)) ([], q) = (rowMajor bounds q, q / bounds.prod) := by
  induction bounds with
  | nil => simp [rowMajor]
  | cons n r ih =>
    refine Prod.ext rfl ?_
    rw [List.foldr_cons, ih, List.prod_cons, Nat.mul_comm, ← Nat.div_div_eq_div_mul]
theorem rowMajor_cons (n : Nat) (r : List Nat) (q : Nat) : rowMajor (n :: r) q = q / r.prod % n :: rowMajor r q := by
  conv_lhs => rw [rowMajor, List.foldr_cons, rowMajor_fold]

theorem rowMajor_within {bounds : List Nat} (h : ∀ n ∈ bounds, 1 ≤ n) (q : Nat) : Within bounds (rowMajor bounds q) := by
  induction bounds with
  | nil => exact .nil
  | cons n r ih =>
    rw [rowMajor_cons]
    exact .cons (Nat.mod_lt _ (h n (List.mem_cons_self ..))) (ih fun m hm => h m (List.mem_cons_of_mem _ hm))

/-- Two numbers with the same digits, and the same rest above them, are the same. -/
theorem rowMajor_inj {bounds : List Nat} {q q' : Nat} (h : rowMajor bounds q = rowMajor bounds q')
    (rest : q / bounds.prod = q' / bounds.prod) : q = q' := by
  induction bounds with
  | nil => simpa using rest
  | cons n r ih =>
    rw [rowMajor_cons, rowMajor_cons, List.cons.injEq] at h
    rw [List.prod_cons, Nat.mul_comm, ← Nat.div_div_eq_div_mul, ← Nat.div_div_eq_div_mul] at rest
    refine ih h.2 ?_
    rw [← Nat.div_add_mod (q / r.prod) n, ← Nat.div_add_mod (q' / r.prod) n, rest, h.1]
theorem rowMajor_inj_of_lt {bounds : List Nat} {q q' : Nat} (hq : q < bounds.prod) (hq' : q' < bounds.prod)
    (h : rowMajor bounds q = rowMajor bounds q') : q = q' :=
  rowMajor_inj h (by rw [Nat.div_eq_of_lt hq, Nat.div_eq_of_lt hq'])

/-! ## Serpentine -/

theorem serpentine_within {bounds ix : List Nat} (h : Within bounds ix) (sum : Nat) : Within bounds (serpentine sum (bounds.zip ix)) := by
  induction h generalizing sum with
  | nil => exact .nil
  | cons lt _ ih =>
    refine .cons ?_ (ih _)
    split <;> omega

theorem serpentine_inj {bounds ix ix' : List Nat} (h : Within bounds ix) (h' : Within bounds ix') {sum : Nat}
    (e : serpentine sum (bounds.zip ix) = serpentine sum (bounds.zip ix')) : ix = ix' := by
  induction h generalizing sum ix' with
  | nil => cases h'; rfl
  | @cons n i r ix lt _ ih =>
    cases h' with
    | @cons _ i' _ ix' lt' h' =>
      simp only [List.zip_cons_cons, serpentine, List.cons.injEq] at e
      obtain ⟨head, tail⟩ := e
      have same : i = i' := by split at head <;> omega
      subst same
      rw [ih h' tail]

/-! ## Morton (R66) -/

/-- A dimension with its bound, its known high bits, and the number of its bits still free. -/
abbrev Cell := Nat × Nat × Nat
/-- The first index of a dimension with the known high bits. -/
def Cell.lo (c : Cell) : Nat := c.2.1 * 2 ^ c.2.2
/-- The first index past them. -/
def Cell.hi (c : Cell) : Nat := (c.2.1 + 1) * 2 ^ c.2.2
/-- Appends a bit to the known ones. -/
def Cell.push (bit : Nat) (c : Cell) : Cell := (c.1, 2 * c.2.1 + bit, c.2.2 - 1)

theorem mortonCount_cons (c : Cell) (ds : List Cell) : mortonCount (c :: ds) = (min c.1 c.hi - min c.1 c.lo) * mortonCount ds := rfl

/-- The two halves of the indices of a dimension. -/
theorem Cell.halves {c : Cell} (h : 1 ≤ c.2.2) : (Cell.push 0 c).lo = c.lo ∧ (Cell.push 0 c).hi = (Cell.push 1 c).lo ∧
    (Cell.push 1 c).hi = c.hi ∧ c.lo ≤ (Cell.push 0 c).hi ∧ (Cell.push 0 c).hi ≤ c.hi := by
  obtain ⟨n, p, f⟩ := c
  obtain ⟨g, rfl⟩ : ∃ g, f = g + 1 := ⟨f - 1, by simp at h; omega⟩
  unfold Cell.lo Cell.hi Cell.push
  simp only [Nat.add_sub_cancel, Nat.pow_succ]
  generalize 2 ^ g = w
  have e : ∀ a : Nat, a * (w * 2) = 2 * a * w := fun a => by ring
  rw [e, e]
  simp only [true_and]
  refine ⟨by ring, by ring, ?_, ?_⟩
  all_goals exact Nat.mul_le_mul_right _ (by omega)

theorem mortonPush_zero (b : Nat) (c : Cell) (ds : List Cell) : mortonPush 0 b (c :: ds) = c.push b :: ds := by
  have id : ds.mapIdx (fun _ x => x) = ds := List.ext_getElem (by simp) (by simp)
  simp [mortonPush, List.mapIdx_cons, Cell.push, id]
theorem mortonPush_succ (d b : Nat) (c : Cell) (ds : List Cell) : mortonPush (d + 1) b (c :: ds) = c :: mortonPush d b ds := by
  simp [mortonPush, List.mapIdx_cons]

/-- A dimension of the list has a bit that is still free. -/
def HasBit (d : Nat) (ds : List Cell) : Prop := ∃ c, ds[d]? = some c ∧ 1 ≤ c.2.2

/-- The tuples with a 0 in a bit, and those with a 1, are all. -/
theorem mortonCount_push {d : Nat} {ds : List Cell} (h : HasBit d ds) :
    mortonCount (mortonPush d 0 ds) + mortonCount (mortonPush d 1 ds) = mortonCount ds := by
  induction ds generalizing d with
  | nil =>
    obtain ⟨c, hc, -⟩ := h
    simp at hc
  | cons c ds ih =>
    obtain ⟨c', hc, free⟩ := h
    cases d with
    | zero =>
      obtain rfl : c = c' := by simpa using hc
      obtain ⟨lo, mid, hi, le, le'⟩ := Cell.halves free
      rw [mortonPush_zero, mortonPush_zero, mortonCount_cons, mortonCount_cons, mortonCount_cons, ← Nat.add_mul]
      have fst : ∀ b, (Cell.push b c).1 = c.1 := fun _ => rfl
      rw [fst, fst, lo, hi, ← mid]
      congr 1
      omega
    | succ d =>
      rw [mortonPush_succ, mortonPush_succ, mortonCount_cons, mortonCount_cons, mortonCount_cons, ← Nat.mul_add,
        ih ⟨c', by simpa using hc, free⟩]

/-- A tuple has the known high bits. -/
abbrev Inside (ds : List Cell) (ix : List Nat) : Prop := List.Forall₂ (fun c i => c.lo ≤ i ∧ i < c.hi) ds ix

theorem inside_of_push {d b : Nat} (hb : b = 0 ∨ b = 1) {ds : List Cell} {ix : List Nat} (h : HasBit d ds)
    (hi : Inside (mortonPush d b ds) ix) : Inside ds ix := by
  induction ds generalizing d ix with
  | nil =>
    obtain ⟨c, hc, -⟩ := h
    simp at hc
  | cons c ds ih =>
    obtain ⟨c', hc, free⟩ := h
    cases d with
    | zero =>
      obtain rfl : c = c' := by simpa using hc
      obtain ⟨lo, mid, hi', le, le'⟩ := Cell.halves free
      rw [mortonPush_zero] at hi
      cases hi with
      | cons in' rest =>
        refine .cons ?_ rest
        rcases hb with rfl | rfl <;> omega
    | succ d =>
      rw [mortonPush_succ] at hi
      cases hi with
      | cons in' rest => exact .cons in' (ih ⟨c', by simpa using hc, free⟩ rest)

/-- No tuple has a 0 and a 1 in one bit. -/
theorem not_inside_both {d : Nat} {ds : List Cell} {ix : List Nat} (h : HasBit d ds) (h0 : Inside (mortonPush d 0 ds) ix)
    (h1 : Inside (mortonPush d 1 ds) ix) : False := by
  induction ds generalizing d ix with
  | nil =>
    obtain ⟨c, hc, -⟩ := h
    simp at hc
  | cons c ds ih =>
    obtain ⟨c', hc, free⟩ := h
    cases d with
    | zero =>
      obtain rfl : c = c' := by simpa using hc
      obtain ⟨lo, mid, hi', le, le'⟩ := Cell.halves free
      rw [mortonPush_zero] at h0 h1
      cases h0 with
      | cons in0 _ => cases h1 with
        | cons in1 _ => omega
    | succ d =>
      rw [mortonPush_succ] at h0 h1
      cases h0 with
      | cons _ rest0 => cases h1 with
        | cons _ rest1 => exact ih ⟨c', by simpa using hc, free⟩ rest0 rest1

/-- The bits that are still named are those that are still free. -/
def Balanced (bits : List Nat) (ds : List Cell) : Prop :=
  (∀ d ∈ bits, d < ds.length) ∧ ∀ i c, ds[i]? = some c → c.2.2 = bits.count i

theorem Balanced.hasBit {d : Nat} {bits : List Nat} {ds : List Cell} (h : Balanced (d :: bits) ds) : HasBit d ds := by
  obtain ⟨named, free⟩ := h
  have lt := named d (List.mem_cons_self ..)
  refine ⟨ds[d], List.getElem?_eq_getElem lt, ?_⟩
  rw [free d _ (List.getElem?_eq_getElem lt), List.count_cons_self]
  omega
theorem Balanced.push {d : Nat} {bits : List Nat} {ds : List Cell} (h : Balanced (d :: bits) ds) (b : Nat) :
    Balanced bits (mortonPush d b ds) := by
  obtain ⟨named, free⟩ := h
  refine ⟨fun k hk => ?_, fun i c hc => ?_⟩
  · have := named k (List.mem_cons_of_mem _ hk)
    simpa [mortonPush] using this
  · unfold mortonPush at hc
    rw [List.getElem?_mapIdx] at hc
    obtain ⟨c0, h0, rfl⟩ := Option.map_eq_some_iff.1 hc
    have := free i c0 h0
    by_cases e : i = d
    · subst e
      rw [List.count_cons_self] at this
      simp only [if_true]
      exact Nat.sub_eq_of_eq_add this
    · rw [List.count_cons_of_ne (Ne.symm e)] at this
      simp only [if_neg e]
      exact this

theorem mortonPush_bounds (d b : Nat) (ds : List Cell) : (mortonPush d b ds).map (·.1) = ds.map (·.1) := by
  unfold mortonPush
  refine List.ext_getElem (by simp) fun i h1 h2 => ?_
  simp only [List.getElem_map, List.getElem_mapIdx]
  split <;> rfl

/-- Where no bit is named, none is free. -/
theorem Balanced.full {ds : List Cell} (h : Balanced [] ds) (c : Cell) (hc : c ∈ ds) : c.2.2 = 0 := by
  obtain ⟨i, hi, rfl⟩ := List.getElem_of_mem hc
  exact h.2 i _ (List.getElem?_eq_getElem hi)

/-- Where there are tuples at all, the first index of each dimension lies within its bound. -/
theorem lo_lt_of_mortonCount_pos {ds : List Cell} (h : 0 < mortonCount ds) {c : Cell} (hc : c ∈ ds) : c.lo < c.1 := by
  induction ds with
  | nil => cases hc
  | cons e ds ih =>
    rw [mortonCount_cons] at h
    obtain ⟨here, there⟩ := Nat.mul_ne_zero_iff.1 (Nat.pos_iff_ne_zero.1 h)
    rcases List.mem_cons.1 hc with rfl | hc
    · omega
    · exact ih (Nat.pos_of_ne_zero there) hc

/-- With every bit known there is one tuple at most. -/
theorem mortonCount_full {ds : List Cell} (h : ∀ c ∈ ds, c.2.2 = 0) : mortonCount ds ≤ 1 := by
  induction ds with
  | nil => exact Nat.le_refl 1
  | cons c ds ih =>
    have one : min c.1 c.hi - min c.1 c.lo ≤ 1 := by
      simp only [Cell.hi, Cell.lo, h c (List.mem_cons_self ..), Nat.pow_zero, Nat.mul_one]
      omega
    exact Nat.mul_le_mul one (ih fun d hd => h d (List.mem_cons_of_mem _ hd))

/-- The tuple of a rank has the known high bits. -/
theorem mortonDescend_inside {bits : List Nat} {ds : List Cell} (h : Balanced bits ds) (q : Nat) :
    Inside ds (mortonDescend bits ds q) := by
  induction bits generalizing ds q with
  | nil =>
    refine List.forall₂_map_right_iff.2 (List.forall₂_same.2 fun c hc => ?_)
    simp [Cell.lo, Cell.hi, h.full c hc]
  | cons d bits ih =>
    rw [mortonDescend]
    split
    · exact inside_of_push (.inl rfl) h.hasBit (ih (h.push 0) q)
    · exact inside_of_push (.inr rfl) h.hasBit (ih (h.push 1) _)

/-- The tuple of a rank below the number of tuples lies within the bounds. -/
theorem mortonDescend_within {bits : List Nat} {ds : List Cell} (h : Balanced bits ds) {q : Nat} (hq : q < mortonCount ds) :
    Within (ds.map (·.1)) (mortonDescend bits ds q) := by
  induction bits generalizing ds q with
  | nil =>
    refine List.forall₂_map_left_iff.2 (List.forall₂_map_right_iff.2 (List.forall₂_same.2 fun c hc => ?_))
    have lt := lo_lt_of_mortonCount_pos (Nat.zero_lt_of_lt hq) hc
    simpa [Cell.lo, h.full c hc] using lt
  | cons d bits ih =>
    have split := mortonCount_push h.hasBit
    rw [mortonDescend]
    split
    · next lt =>
      rw [← mortonPush_bounds d 0 ds]
      exact ih (h.push 0) lt
    · next ge =>
      rw [← mortonPush_bounds d 1 ds]
      exact ih (h.push 1) (by omega)

/-- Two ranks below the number of tuples with the same tuple are the same. -/
theorem mortonDescend_inj {bits : List Nat} {ds : List Cell} (h : Balanced bits ds) {q q' : Nat} (hq : q < mortonCount ds)
    (hq' : q' < mortonCount ds) (e : mortonDescend bits ds q = mortonDescend bits ds q') : q = q' := by
  induction bits generalizing ds q q' with
  | nil =>
    have := mortonCount_full h.full
    omega
  | cons d bits ih =>
    have split := mortonCount_push h.hasBit
    rw [mortonDescend, mortonDescend] at e
    have apart : ∀ a b, mortonDescend bits (mortonPush d 0 ds) a ≠ mortonDescend bits (mortonPush d 1 ds) b := fun a b same =>
      not_inside_both h.hasBit (mortonDescend_inside (h.push 0) a) (same ▸ mortonDescend_inside (h.push 1) b)
    by_cases c : q < mortonCount (mortonPush d 0 ds) <;> by_cases c' : q' < mortonCount (mortonPush d 0 ds)
    · rw [if_pos c, if_pos c'] at e
      exact ih (h.push 0) c c' e
    · rw [if_pos c, if_neg c'] at e
      exact absurd e (apart _ _)
    · rw [if_neg c, if_pos c'] at e
      exact absurd e.symm (apart _ _)
    · rw [if_neg c, if_neg c'] at e
      have := ih (h.push 1) (by omega) (by omega) e
      omega

/-! ## The four orders -/

/-- The code bits of d dimensions, from the highest. -/
def mortonBits (d : Nat) : List Nat := (List.range 33).flatMap fun _ => (List.range d).reverse

theorem balanced_mortonBits (bounds : List Nat) :
    Balanced (mortonBits bounds.length) (bounds.map fun n => (n, 0, 33)) := by
  refine ⟨fun d hd => ?_, fun i c hc => ?_⟩
  · obtain ⟨_, _, hd⟩ := List.mem_flatMap.1 hd
    simpa using hd
  · rw [List.getElem?_map] at hc
    obtain ⟨n, hn, rfl⟩ := Option.map_eq_some_iff.1 hc
    have lt : i < bounds.length := (List.getElem?_eq_some_iff.1 hn).1
    have one : (List.range bounds.length).reverse.count i = 1 := by
      rw [List.count_reverse]
      exact List.count_eq_one_of_mem List.nodup_range (List.mem_range.2 lt)
    unfold mortonBits
    rw [List.count_flatMap, show List.count i ∘ (fun _ : Nat => (List.range bounds.length).reverse) = fun _ => 1 from funext fun _ => one]
    simp

/-- With no bit known, every tuple within the bounds is counted. -/
theorem mortonCount_all {bounds : List Nat} (h : ∀ n ∈ bounds, n ≤ 2 ^ 32) :
    mortonCount (bounds.map fun n => (n, 0, 33)) = bounds.prod := by
  induction bounds with
  | nil => rfl
  | cons n r ih =>
    have le := h n (List.mem_cons_self ..)
    have whole : min n ((0 + 1) * 2 ^ 33) - min n (0 * 2 ^ 33) = n := by omega
    rw [List.map_cons, mortonCount, whole, ih fun m hm => h m (List.mem_cons_of_mem _ hm), List.prod_cons]

theorem itemIndices_morton (bounds : List Nat) (q : Nat) :
    itemIndices 2 bounds q = mortonDescend (mortonBits bounds.length) (bounds.map fun n => (n, 0, 33)) q := rfl

/-- In every order the indices lie within the bounds, and no two items have the same. -/
theorem itemIndices_spec {order : Nat} {bounds : List Nat} (ho : order < 4) (h : ∀ n ∈ bounds, 1 ≤ n ∧ n ≤ 2 ^ 32) :
    (∀ q < bounds.prod, Within bounds (itemIndices order bounds q)) ∧
    ∀ q < bounds.prod, ∀ q' < bounds.prod, itemIndices order bounds q = itemIndices order bounds q' → q = q' := by
  have pos : ∀ n ∈ bounds, 1 ≤ n := fun n hn => (h n hn).1
  have posRev : ∀ n ∈ bounds.reverse, 1 ≤ n := fun n hn => pos n (List.mem_reverse.1 hn)
  have cases4 : order = 0 ∨ order = 1 ∨ order = 2 ∨ order = 3 := by omega
  rcases cases4 with rfl | rfl | rfl | rfl
  · exact ⟨fun q _ => rowMajor_within pos q, fun q hq q' hq' e => rowMajor_inj_of_lt hq hq' e⟩
  · refine ⟨fun q _ => ?_, fun q hq q' hq' e => ?_⟩
    · have := List.rel_reverse (rowMajor_within posRev q)
      rwa [List.reverse_reverse] at this
    · rw [← List.prod_reverse] at hq hq'
      exact rowMajor_inj_of_lt hq hq' (List.reverse_injective e)
  · have count := mortonCount_all fun n hn => (h n hn).2
    have balanced := balanced_mortonBits bounds
    refine ⟨fun q hq => ?_, fun q hq q' hq' e => ?_⟩
    · have := mortonDescend_within balanced (q := q) (by rw [count]; exact hq)
      rw [itemIndices_morton]
      simpa using this
    · exact mortonDescend_inj balanced (by rw [count]; exact hq) (by rw [count]; exact hq') e
  · exact ⟨fun q _ => serpentine_within (rowMajor_within pos q) 0,
      fun q hq q' hq' e => rowMajor_inj_of_lt hq hq' (serpentine_inj (rowMajor_within pos q) (rowMajor_within pos q') e)⟩

end Sys2Proof.Machine
end

section
/-! The end of a hart at IDONE (Machine/Launch.lean, R68, R80). -/

open Sys2Proof Sys2Proof.Machine

namespace Sys2Proof.Machine

variable {s t u : State}

/-! ## Records after the phases of groups -/

/-- What a change of listed values leaves of them, it leaves of what is read. -/
theorem assocGet_map_same {α β : Type} (d : α) (P : α → β) (f : Nat → α → α) (h : ∀ l x, P (f l x) = P x) (m : List (Nat × α)) (a : Nat) :
    P (assocGet d (m.map fun e => (e.1, f e.1 e.2)) a) = P (assocGet d m a) := by
  induction m with
  | nil => rfl
  | cons e m ih =>
    obtain ⟨k, v⟩ := e
    rw [List.map_cons, assocGet, assocGet]
    split
    · exact h ..
    · exact ih

/-- Every record that is there was there, and its logical harts are where they were. -/
def SamePlaces (s t : State) : Prop := ∀ p launch y, t.recOf p launch = some y →
  ∃ x, s.recOf p launch = some x ∧ ∀ l, (y.lhart l).place = (x.lhart l).place

theorem SamePlaces.of_recs (h : t.recs = s.recs) : SamePlaces s t := fun p launch y hy => by
  unfold State.recOf at hy
  rw [h] at hy
  exact ⟨y, hy, fun _ => rfl⟩
theorem SamePlaces.trans (a : SamePlaces s t) (b : SamePlaces t u) : SamePlaces s u := fun p launch y hy => by
  obtain ⟨x, hx, same⟩ := b p launch y hy
  obtain ⟨w, hw, same'⟩ := a p launch x hx
  exact ⟨w, hw, fun l => (same l).trans (same' l)⟩

theorem samePlaces_passGbar (s : State) (p : Nat) (g : Grp) : SamePlaces s (s.passGbar p g) := by
  intro p' launch y hy
  unfold State.recOf State.passGbar at hy
  dsimp only at hy
  rw [List.find?_map] at hy
  obtain ⟨x, hx, rfl⟩ := Option.map_eq_some_iff.1 hy
  have found : s.recOf p' launch = some x := by
    unfold State.recOf
    rw [← hx]
    congr 1
    funext r
    dsimp only [Function.comp]
    split <;> rfl
  refine ⟨x, found, fun l => ?_⟩
  split
  · have mapped : (x.lh.map fun (l, y) => if g.members.contains (x.sr.launch, l) then (l, y.rebase (s.roundBase x)) else (l, y)) =
        x.lh.map fun e => (e.1, if g.members.contains (x.sr.launch, e.1) then e.2.rebase (s.roundBase x) else e.2) :=
      List.map_congr_left fun e _ => by dsimp only; split <;> rfl
    unfold Rec.lhart
    dsimp only
    rw [mapped]
    exact assocGet_map_same LHart.start LHart.place
      (fun l y => if g.members.contains (x.sr.launch, l) then y.rebase (s.roundBase x) else y)
      (fun l y => by split <;> rfl) x.lh l
  · rfl

theorem State.passGbar_eq (s : State) (p : Nat) (g : Grp) : s.passGbar p g = { s with recs := (s.passGbar p g).recs } := rfl

/-- A phase that completes changes groups and records alone, and moves no logical hart. -/
theorem State.groupCheck_frame (s : State) (p id : Nat) :
    s.groupCheck p id = { s with groups := (s.groupCheck p id).groups, recs := (s.groupCheck p id).recs } ∧ SamePlaces s (s.groupCheck p id) := by
  unfold State.groupCheck
  split
  · exact ⟨rfl, .of_recs rfl⟩
  · split
    · exact ⟨rfl, .of_recs rfl⟩
    · split
      · exact ⟨rfl, samePlaces_passGbar { s with groups := _ } p _⟩
      · exact ⟨rfl, .of_recs rfl⟩

theorem State.groupsCheck_frame (s : State) (p : Nat) :
    s.groupsCheck p = { s with groups := (s.groupsCheck p).groups, recs := (s.groupsCheck p).recs } ∧ SamePlaces s (s.groupsCheck p) := by
  unfold State.groupsCheck
  generalize (s.groups.filter fun g => g.part == p).map (·.id) = ids
  induction ids generalizing s with
  | nil => exact ⟨rfl, .of_recs rfl⟩
  | cons id ids ih =>
    obtain ⟨one, places⟩ := s.groupCheck_frame p id
    obtain ⟨rest, places'⟩ := ih (s.groupCheck p id)
    rw [List.foldl_cons]
    refine ⟨?_, places.trans places'⟩
    rw [rest, one]

/-- A hart that leaves its group changes groups and records alone, and moves no logical hart. -/
theorem State.groupLeave_frame (s : State) (p : Nat) (out : Nat × Nat → Bool) :
    s.groupLeave p out = { s with groups := (s.groupLeave p out).groups, recs := (s.groupLeave p out).recs } ∧
      SamePlaces s (s.groupLeave p out) := by
  obtain ⟨eq, places⟩ := State.groupsCheck_frame { s with groups := s.groups.map fun g =>
    if g.part = p then { g with members := g.members.filter (fun m => !out m), arrived := g.arrived.filter (fun m => !out m) }
    else g } p
  refine ⟨?_, places⟩
  unfold State.groupLeave
  dsimp only
  rw [eq]

/-! ## Drain points of a hart that holds nothing (R128, R293) -/

/-- Records alone have changed, and of the hart's own neither the start record, nor the items, nor what it holds. -/
structure KeepsItems (s t : State) (hid : Nat) (r : Rec) : Prop where
  recs : t = { s with recs := t.recs }
  record : ∃ y, t.myRec hid = some y ∧ y.part = r.part ∧ y.sr = r.sr ∧ y.nextItem = r.nextItem ∧
    (y.lhart (s.hart hid).logical).taken = (r.lhart (s.hart hid).logical).taken ∧
    (y.lhart (s.hart hid).logical).held = (r.lhart (s.hart hid).logical).held

/-- Where a logical hart holds nothing, nothing of it drains. -/
theorem State.drainLhart_nothing {p launch l n : Nat} {y : Rec} (hy : s.recOf p launch = some y) (h : (y.lhart l).held = []) :
    s.drainLhart p launch l n = s.setRec (y.setLhart l { y.lhart l with held := [], xl := [] }) := by
  have due : (y.lhart l).due n = [] := by simp [LHart.due, h]
  have later : (y.lhart l).later n = [] := by simp [LHart.later, h]
  have same : s.unpoisonLines [] = s := by
    have : s.poison.filter (fun e => !([] : List Nat).contains e.1) = s.poison := List.filter_eq_self.2 fun _ _ => rfl
    unfold State.unpoisonLines
    rw [this]
  unfold State.drainLhart
  rw [hy]
  dsimp only
  rw [due, later, List.foldl_nil, List.filterMap_nil, same, hy]
  rfl

section
variable {hid : Nat} {r : Rec} (h : s.myRec hid = some r)
include h

/-- A placed hart keeps the key of its record while the harts stay. -/
theorem State.myRec_of_harts {u : State} (same : u.harts = s.harts) : u.myRec hid = u.recOf r.part r.sr.launch := by
  obtain ⟨lt, part, launch⟩ := State.key_of_myRec h
  rw [State.myRec_eq lt, part, launch, State.hart, State.hart, same]

theorem KeepsItems.refl : KeepsItems s s hid r := ⟨rfl, r, h, rfl, rfl, rfl, rfl, rfl⟩

theorem KeepsItems.updLhart (f : LHart → LHart) (taken : ∀ x, (f x).taken = x.taken) (held : ∀ x, (f x).held = x.held) :
    KeepsItems s (s.updLhart hid f) hid r :=
  ⟨State.updLhart_eq .., _, State.myRec_updLhart h f, rfl, rfl, rfl, by simp [taken], by simp [held]⟩

/-- A drain point of a hart that holds nothing does not wait. -/
theorem drainPoint_keeps (he : r.sr.rsv = true → (r.lhart (s.hart hid).logical).held = []) :
    ∃ t, s.drainPoint hid = .ok t ∧ KeepsItems s t hid r := by
  have counts : KeepsItems s (s.updLhart hid fun x => { x with drains := x.drains + 1 }) hid r :=
    .updLhart h _ (fun _ => rfl) (fun _ => rfl)
  unfold State.drainPoint
  rw [h]
  dsimp only
  split
  · exact ⟨s, rfl, .refl h⟩
  · split
    · next rsv =>
      obtain ⟨lt, part, launch⟩ := State.key_of_myRec h
      have mine : s.myLhart hid = r.lhart (s.hart hid).logical := State.myLhart_of_rec h
      have none_due : ∀ n, ({ s.myLhart hid with drains := n } : LHart).due n = [] := fun n => by
        simp [LHart.due, mine, he rsv]
      rw [none_due]
      obtain ⟨y, found, party, sr, next, taken, held⟩ := counts.record
      have found' : (s.updLhart hid fun x => { x with drains := x.drains + 1 }).recOf r.part r.sr.launch = some y := by
        rw [← found]
        exact (State.myRec_of_harts h (by rw [State.updLhart_eq])).symm
      have drained := State.drainLhart_nothing (l := (s.hart hid).logical) (n := (s.myLhart hid).drains + 1) found' (held.trans (he rsv))
      refine ⟨_, rfl, ?_, ?_⟩
      · rw [drained, State.updLhart_eq]
        rfl
      · rw [drained]
        refine ⟨y.setLhart (s.hart hid).logical { y.lhart (s.hart hid).logical with held := [], xl := [] }, ?_, party, sr, next, ?_, ?_⟩
        · rw [State.myRec_of_harts h (by rw [State.updLhart_eq]; rfl)]
          exact State.recOf_setRec_same found' party (congrArg StartRec.launch sr)
        · rw [Rec.lhart_setLhart]; exact taken
        · rw [Rec.lhart_setLhart]; exact (he rsv).symm
    · exact ⟨_, rfl, counts⟩

end

end Sys2Proof.Machine
end

section
/-! The end of a hart whose slot no parked victim waits for (Machine/Launch.lean, R68, R80). -/

open Sys2Proof Sys2Proof.Machine

namespace Sys2Proof.Machine

variable {s t u : State} {hid : Nat}

/-! ## The slot that becomes free -/

theorem mem_assocSet {α : Type} {m : List (Nat × α)} {a : Nat} {x : α} {e : Nat × α} (h : e ∈ assocSet m a x) : e = (a, x) ∨ e ∈ m := by
  have del : ∀ m : List (Nat × α), e ∈ assocDel m a → e ∈ m := by
    intro m
    induction m with
    | nil => exact id
    | cons k r ih =>
      rw [assocDel]
      split
      · exact fun h => List.mem_cons_of_mem _ (ih h)
      · exact fun h => (List.mem_cons.1 h).elim (fun eq => eq ▸ List.mem_cons_self ..) fun h => List.mem_cons_of_mem _ (ih h)
  have ins : ∀ m : List (Nat × α), e ∈ assocIns m a x → e = (a, x) ∨ e ∈ m := by
    intro m
    induction m with
    | nil => exact fun h => .inl (List.mem_singleton.1 h)
    | cons k r ih =>
      rw [assocIns]
      split
      · exact List.mem_cons.1
      · intro h
        rcases List.mem_cons.1 h with rfl | h
        · exact .inr (List.mem_cons_self ..)
        · exact (ih h).imp id (List.mem_cons_of_mem _)
  exact (ins _ h).imp id (del m)

/-- An ended hart's slot: nothing runs there, and the registers stay (R287). -/
def Hart.freed (h : Hart) : Hart :=
  { h with status := .free, stop := none, preempt := false, vec := { h.vec with queue := [] }, mx := { h.mx with queue := [] } }
theorem State.freeSlot_eq (s : State) (hid : Nat) : s.freeSlot hid = s.setHart hid (s.hart hid).freed := rfl

theorem State.coreHarts_eq_nil {core : Nat} {f : Hart → Bool} : s.coreHarts core f = [] ↔
    ∀ e ∈ s.harts, ¬ (decide (e.1 < seqBase) && coreOf e.1 == core && e.2.status != .free && f e.2) = true := by
  unfold State.coreHarts
  rw [List.map_eq_nil_iff, List.filter_eq_nil_iff]

theorem State.coreHarts_congr (h : t.harts = s.harts) (core : Nat) (f : Hart → Bool) : t.coreHarts core f = s.coreHarts core f := by
  rw [State.coreHarts, State.coreHarts, h]

/-- A slot that becomes free adds no hart to its core. -/
theorem State.coreHarts_freed {core : Nat} {f : Hart → Bool} {h : Hart} (none : s.coreHarts core f = [])
    (harts : t.harts = assocSet s.harts hid h.freed) : t.coreHarts core f = [] := by
  rw [State.coreHarts_eq_nil] at none ⊢
  intro e he
  rw [harts] at he
  rcases mem_assocSet he with rfl | he
  · simp [Hart.freed]
  · exact none e he

/-- Where no victim of the core has parked, a slot becomes free and nothing else. -/
theorem State.slotFreed_lazy (he : s.eager = false) (none : (s.coreHarts (coreOf hid) fun h => h.status == .parked) = []) :
    s.slotFreed hid = s := by
  have same : s.unparkCore (coreOf hid) = s := by
    unfold State.unparkCore
    rw [none]
    exact ite_self _
  unfold State.slotFreed
  rw [same]
  dsimp only
  rw [he]
  exact ite_self _

/-- A hart that leaves work in its queues goes on in the tail. -/
theorem State.addTail_frame (s : State) (hid : Nat) (h : Hart) : s.addTail hid h = { s with tails := (s.addTail hid h).tails } ∧
    assocGet [] (s.addTail hid h).tails hid = assocGet [] s.tails hid ++ if h.vec.queue = [] ∧ h.mx.queue = [] then [] else [h] := by
  unfold State.addTail
  by_cases empty : h.vec.queue = [] ∧ h.mx.queue = []
  · rw [if_pos (by simp [empty]), if_pos empty, List.append_nil]
    exact ⟨rfl, rfl⟩
  · rw [if_neg (by simpa using empty), if_neg empty]
    exact ⟨rfl, assocGet_set_same⟩

/-! ## The end -/

@[simp] theorem State.harts_updLhart (s : State) (hid : Nat) (f : LHart → LHart) : (s.updLhart hid f).harts = s.harts := by
  rw [State.updLhart_eq]

/-- The hart h of a slot has ended: its record, its slot, and the tail of the slot. -/
structure Ends (s t : State) (hid : Nat) (r : Rec) (h : Hart) : Prop where
  slot : t.hart hid = h.freed
  place : ∀ r', t.recOf r.part r.sr.launch = some r' → (r'.lhart h.logical).place = .ended
  others : ∀ k, k ≠ hid → t.hart k = s.hart k
  mem : t.mem = s.mem
  tail : assocGet [] t.tails hid = assocGet [] s.tails hid ++ if h.vec.queue = [] ∧ h.mx.queue = [] then [] else [h]

/-- IDONE ends a hart that has drained (R68): what it holds, its slot and its record. -/
theorem endHart_ends {r : Rec} (hr : s.myRec hid = some r) (he : s.eager = false)
    (held : r.sr.rsv = true → (r.lhart (s.hart hid).logical).held = [])
    (parked : ((s.freeSlot hid).coreHarts (coreOf hid) fun h => h.status == .parked) = []) :
    ∃ t, s.endHart hid = .ok t ∧ Ends s t hid r (s.hart hid) := by
  obtain ⟨s0, drains, recs, y, found, party, sr, -, -, -⟩ := drainPoint_keeps hr held
  have harts0 : s0.harts = s.harts := by rw [recs]
  have hart0 : s0.hart hid = s.hart hid := by rw [State.hart, State.hart, harts0]
  let s1 := s0.updLhart hid fun x => { x with place := .ended, item := none, adm := .none, claims := [], nclaims := 0 }
  have frame1 : s1 = { s with recs := s1.recs } := by
    have own : s1 = { s0 with recs := s1.recs } := State.updLhart_eq ..
    exact own.trans (congrArg (fun w : State => { w with recs := s1.recs }) recs)
  obtain ⟨frame2, tail⟩ := s1.addTail_frame hid (s.hart hid)
  let s3 := (s1.addTail hid (s.hart hid)).freeSlot hid
  have frame3 : s3 = { s with
      recs := s1.recs, tails := (s1.addTail hid (s.hart hid)).tails, harts := assocSet s.harts hid (s.hart hid).freed } := by
    have freed : s3 = ({ s1 with tails := (s1.addTail hid (s.hart hid)).tails } : State).freeSlot hid := congrArg (State.freeSlot · hid) frame2
    rw [freed, State.freeSlot_eq]
    exact congrArg (fun w : State => ({ w with tails := (s1.addTail hid (s.hart hid)).tails } : State).setHart hid (w.hart hid).freed) frame1
  let out : Nat × Nat → Bool := fun x => x == (r.sr.launch, (s.hart hid).logical)
  obtain ⟨frame5, places⟩ := s3.groupLeave_frame r.part out
  have harts5 : (s3.groupLeave r.part out).harts = assocSet s.harts hid (s.hart hid).freed := by rw [frame5, frame3]
  have lazy : (s3.groupLeave r.part out).eager = false := by rw [frame5, frame3]; exact he
  refine ⟨s3.groupLeave r.part out, ?_, ?_, ?_, ?_, ?_, ?_⟩
  · unfold State.endHart
    rw [hr]
    change (s.drainPoint hid >>= _) = _
    rw [drains]
    change Except.ok _ = _
    rw [hart0, he]
    change Except.ok ((s3.groupLeave r.part out).slotFreed hid) = _
    rw [State.slotFreed_lazy lazy ((State.coreHarts_congr harts5 _ _).trans parked)]
  · rw [State.hart, harts5, assocGet_set_same]
  · intro r' hr'
    obtain ⟨x, hx, same⟩ := places _ _ _ hr'
    have rec1 : s1.recOf r.part r.sr.launch = some (y.setLhart (s.hart hid).logical
        { y.lhart (s.hart hid).logical with place := .ended, item := none, adm := .none, claims := [], nclaims := 0 }) := by
      rw [← hart0, ← party, ← sr]
      exact (State.myRec_of_harts found (State.harts_updLhart ..)).symm.trans (State.myRec_updLhart found _)
    have rec3 : s3.recOf r.part r.sr.launch = s1.recOf r.part r.sr.launch := by
      unfold State.recOf
      rw [frame3]
    rw [rec3, rec1] at hx
    rw [same, ← Option.some.inj hx, Rec.lhart_setLhart]
  · intro k hk
    rw [State.hart, harts5, assocGet_set_ne hk, State.hart]
  · rw [frame5, frame3]
  · have : (s3.groupLeave r.part out).tails = (s1.addTail hid (s.hart hid)).tails := by rw [frame5, frame3]
    rw [this, tail, frame1]

/-- IDONE of a hart that ends. -/
theorem idoneEnd_ends {r : Rec} (hr : s.myRec s.cur = some r) (he : s.eager = false)
    (held : r.sr.rsv = true → (r.lhart s.me.logical).held = [])
    (parked : (s.coreHarts (coreOf s.cur) fun h => h.status == .parked) = []) :
    ∃ t, idoneEnd s = .next t ∧ Ends s t s.cur r { s.me with instret := s.me.instret + 1 } := by
  let u := s.setMe { s.me with instret := s.me.instret + 1 }
  have hart : u.hart s.cur = { s.me with instret := s.me.instret + 1 } := State.hart_setHart_same ..
  have found : u.myRec s.cur = some r := by
    obtain ⟨lt, -, -⟩ := State.key_of_myRec hr
    rw [← hr, State.myRec_eq lt, State.myRec_eq lt, hart]
    rfl
  have harts : (u.freeSlot s.cur).harts = assocSet s.harts s.cur ({ s.me with instret := s.me.instret + 1 } : Hart).freed := by
    rw [State.freeSlot_eq, hart]
    exact assocSet_set
  obtain ⟨t, ends, slot, place, others, mem, tail⟩ := endHart_ends (s := u) found he (hart ▸ held) (State.coreHarts_freed parked harts)
  rw [hart] at slot place tail
  refine ⟨t, ?_, slot, place, fun k hk => ?_, mem, tail⟩
  · unfold idoneEnd
    rw [ends]
    rfl
  · rw [others k hk]
    exact State.hart_setHart_ne _ _ hk

end Sys2Proof.Machine
end

section
/-! The next item at IDONE (Machine/Launch.lean, R64, R67, R68): O22. -/

open Sys2Proof Sys2Proof.Machine

namespace Sys2Proof.Machine

variable {s t w : State} {r y : Rec}

/-! ## The item that is handed out (R67) -/

/-- The number of a logical hart's next item. -/
def Rec.nextNo (r : Rec) (l : Nat) : Nat := if r.sr.det then l + r.sr.harts * (r.lhart l).taken else r.nextItem
/-- The record with that item handed out. -/
def Rec.handed (r : Rec) (l : Nat) : Rec :=
  ({ r with nextItem := if r.sr.det then r.nextItem else r.nextNo l + 1 }).setLhart l
    { r.lhart l with item := some (r.nextNo l), taken := (r.lhart l).taken + 1, claims := [], nclaims := 0, adm := .none }

theorem Rec.handOut_eq (r : Rec) (l : Nat) :
    r.handOut l = if r.nextNo l < r.sr.items then some (r.nextNo l, r.handed l) else none := rfl

/-! ## The registers of an item (R64) -/

/-- A hart with values in g1 to g[n]. -/
def Hart.loads (h : Hart) (f : Nat → Word) (n : Nat) : Hart := (List.range n).foldl (fun (h : Hart) d => h.setG (BitVec.ofNat 6 (d + 1)) (f d)) h

theorem Hart.loads_succ (h : Hart) (f : Nat → Word) (n : Nat) : h.loads f (n + 1) = (h.loads f n).setG (BitVec.ofNat 6 (n + 1)) (f n) := by
  simp [Hart.loads, List.range_succ, List.foldl_append]
theorem Hart.loads_eq (h : Hart) (f : Nat → Word) (n : Nat) : h.loads f n = { h with g := (h.loads f n).g } := by
  induction n with
  | zero => rfl
  | succ n ih => rw [Hart.loads_succ, Hart.setG_eq, ih]

theorem reg_ne {m k : Nat} (hm : m < 64) (hk : k < 64) (ne : m ≠ k) : BitVec.ofNat 6 m ≠ BitVec.ofNat 6 k := by
  intro e
  have := congrArg BitVec.toNat e
  rw [BitVec.toNat_ofNat, BitVec.toNat_ofNat, Nat.mod_eq_of_lt hm, Nat.mod_eq_of_lt hk] at this
  exact ne this
theorem Hart.getG_loads (h : Hart) (f : Nat → Word) {n d : Nat} (hn : n < 64) (hd : d < n) :
    (h.loads f n).getG (BitVec.ofNat 6 (d + 1)) = f d := by
  induction n with
  | zero => omega
  | succ n ih =>
    rw [Hart.loads_succ]
    rcases Nat.lt_or_eq_of_le (Nat.le_of_lt_succ hd) with lt | rfl
    · rw [Hart.getG_setG_ne _ _ (reg_ne (by omega) (by omega) (by omega))]
      exact ih (by omega) lt
    · exact Hart.getG_setG_same _ _ fun e => reg_ne (m := d + 1) (k := 0) (by omega) (by omega) (by omega) e
theorem Hart.getG_loads_above (h : Hart) (f : Nat → Word) {n : Nat} (hn : n < 64) {k : Reg} (hk : n < k.toNat) :
    (h.loads f n).getG k = h.getG k := by
  induction n with
  | zero => rfl
  | succ n ih =>
    rw [Hart.loads_succ, Hart.getG_setG_ne]
    · exact ih (by omega) (by omega)
    · rintro rfl
      rw [BitVec.toNat_ofNat, Nat.mod_eq_of_lt hn] at hk
      omega

theorem Hart.loadItem_eq (h : Hart) (sr : StartRec) (q : Nat) :
    h.loadItem sr q = (h.loads (fun d => word ((itemIndices sr.order (sr.bounds.take sr.dims) q).getD d 0)) 6).setG 7 sr.arg := rfl
theorem Hart.loadItem_frame (h : Hart) (sr : StartRec) (q : Nat) : h.loadItem sr q = { h with g := (h.loadItem sr q).g } := by
  rw [Hart.loadItem_eq, Hart.setG_eq, Hart.loads_eq]

/-! ## The registers that queued instructions still write (R194) -/

theorem Hart.itemPending_iff (h : Hart) : h.itemPending = true ↔
    ∃ e ∈ h.vec.queue, ∃ v : VArgs, (e.ins = .vmpopc v ∨ e.ins = .vmfirst v) ∧ 1 ≤ v.d.toNat ∧ v.d.toNat ≤ 7 := by
  unfold Hart.itemPending
  rw [List.any_eq_true]
  refine exists_congr fun e => and_congr_right fun _ => ?_
  unfold QEntry.gDest
  split
  · next eq =>
    split at eq
    · next x ins => simp [ins, ← Option.some.inj eq]
    · next x ins => simp [ins, ← Option.some.inj eq]
    · cases eq
  · next eq =>
    split at eq
    · cases eq
    · cases eq
    · next popc first =>
      simp only [Bool.false_eq_true, false_iff]
      rintro ⟨v, ins | ins, -⟩
      · exact popc v ins
      · exact first v ins

/-! ## A hart that is no victim and no guest -/

theorem idoneNext_last (victim : s.me.vec.victim = false) (last : r.handOut s.me.logical = none) : idoneNext s r = idoneEnd s := by
  unfold idoneNext
  dsimp only
  rw [victim, last]
  rfl
theorem idoneNext_takes {q : Nat} (victim : s.me.vec.victim = false) (guest : s.me.vec.guest = false)
    (some : r.handOut s.me.logical = some (q, y)) :
    idoneNext s r = .next ((s.setRec y).setMe ((s.me.loadItem r.sr q).retireTo r.sr.entry)) := by
  unfold idoneNext
  dsimp only
  rw [victim, some, guest]
  rfl

/-! ## The item before is retired (R68) -/

/-- The item of the executing hart has been retired: records and pins alone have changed, and what hands out items stands. -/
structure Retired (s w : State) (r y : Rec) : Prop where
  frame : w = { s with recs := w.recs, pins := w.pins }
  found : w.myRec s.cur = some y
  part : y.part = r.part
  sr : y.sr = r.sr
  next : y.nextItem = r.nextItem
  taken : (y.lhart s.me.logical).taken = (r.lhart s.me.logical).taken
  held : (y.lhart s.me.logical).held = (r.lhart s.me.logical).held

section
variable (d : Retired s w r y)
include d

theorem Retired.harts : w.harts = s.harts := by rw [d.frame]
theorem Retired.cur : w.cur = s.cur := by rw [d.frame]
theorem Retired.eager : w.eager = s.eager := by rw [d.frame]
theorem Retired.hart (k : Nat) : w.hart k = s.hart k := by rw [State.hart, State.hart, d.harts]
theorem Retired.me : w.me = s.me := by rw [State.me, d.cur, d.hart, State.me]
theorem Retired.nextNo : y.nextNo s.me.logical = r.nextNo s.me.logical := by
  rw [Rec.nextNo, Rec.nextNo, d.sr, d.taken, d.next]

/-- The logical hart of the executing hart may change in what does not count its items. -/
theorem Retired.updLhart (f : LHart → LHart) (taken : ∀ x, (f x).taken = x.taken) (held : ∀ x, (f x).held = x.held) :
    Retired s (w.updLhart s.cur f) r (y.setLhart s.me.logical (f (y.lhart s.me.logical))) where
  frame := by rw [State.updLhart_eq, d.frame]
  found := by
    have same : w.hart s.cur = s.me := d.hart s.cur
    rw [State.myRec_updLhart d.found, same]
  part := d.part
  sr := d.sr
  next := d.next
  taken := by rw [Rec.lhart_setLhart, taken, d.taken]
  held := by rw [Rec.lhart_setLhart, held, d.held]

theorem Retired.pins (ps : List Pin) : Retired s { w with pins := ps } r y where
  frame := by rw [d.frame]
  found := d.found
  part := d.part
  sr := d.sr
  next := d.next
  taken := d.taken
  held := d.held

/-- No item is left: the hart ends (R68). -/
theorem Retired.ends (he : s.eager = false) (victim : s.me.vec.victim = false) (none : r.sr.items ≤ r.nextNo s.me.logical)
    (held : r.sr.rsv = true → (r.lhart s.me.logical).held = [])
    (parked : (s.coreHarts (coreOf s.cur) fun h => h.status == .parked) = []) :
    ∃ t, idoneNext w y = .next t ∧ Ends s t s.cur r { s.me with instret := s.me.instret + 1 } := by
  have last : y.handOut s.me.logical = Option.none := by
    rw [Rec.handOut_eq, d.nextNo, d.sr]
    exact if_neg (by omega)
  obtain ⟨t, ends, slot, place, others, mem, tail⟩ := idoneEnd_ends (s := w) (d.cur ▸ d.found) (d.eager.trans he)
    (by rw [d.sr, d.me, d.held]; exact held) (by rw [State.coreHarts_congr d.harts, d.cur]; exact parked)
  rw [d.cur] at slot others tail
  rw [d.me] at slot place tail
  rw [d.part, d.sr] at place
  refine ⟨t, ?_, slot, place, fun k hk => (others k hk).trans (d.hart k), mem.trans (by rw [d.frame]), tail.trans (by rw [d.frame])⟩
  rw [← ends]
  exact idoneNext_last (d.me ▸ victim) (d.me ▸ last)

/-- The next item is loaded, and its registers are there at the entry (R64, R68). -/
theorem Retired.takes (victim : s.me.vec.victim = false) (guest : s.me.vec.guest = false) (lt : r.nextNo s.me.logical < r.sr.items) :
    idoneNext w y = .next ((w.setRec (y.handed s.me.logical)).setMe
      ((s.me.loadItem r.sr (r.nextNo s.me.logical)).retireTo r.sr.entry)) := by
  have some : y.handOut s.me.logical = .some (r.nextNo s.me.logical, y.handed s.me.logical) := by
    rw [Rec.handOut_eq, d.nextNo, d.sr]
    exact if_pos lt
  rw [idoneNext_takes (d.me ▸ victim) (d.me ▸ guest) (d.me ▸ some), d.me, d.sr]

end

end Sys2Proof.Machine
end

section
/-! IDONE and the items of a nest (Machine/Launch.lean, R66 to R68): O22. -/

open Sys2Proof Sys2Proof.Machine

namespace Sys2Proof.Machine

variable {s t w : State} {r y : Rec}

/-! ## The statement -/

/-- A logical hart whose item is retired; in a reserving record its claims go. -/
def LHart.retired (l : LHart) : LHart := { l with item := none }
def LHart.released (l : LHart) : LHart := { l with claims := [], nclaims := 0, adm := .none, item := none }

section
variable (x : AArgs) (hk : kindOf s.cur = .vector ∨ kindOf s.cur = .sequencer) (hr : s.myRec s.cur = some r)
include hk hr

theorem exec_idone : exec (.idone x) s =
    if !r.sr.nest then idoneEnd s
    else if !r.sr.rsv && s.itemWaits r then .next s.waitMe
    else if (s.myLhart s.cur).item.isNone then idoneNext s r
    else if r.sr.rsv then
      let s1 := if (s.myLhart s.cur).adm = .admitted then s else s.makePending
      if (s1.myLhart s.cur).adm ≠ .admitted || !s.me.vec.queue.isEmpty then .next s1.waitMe
      else onDrain s1 (s1.drainPoint s.cur) fun s2 =>
        let s3 := (s2.releasePins s.cur 4).updLhart s.cur LHart.released
        let s4 := if s.eager then s3.tryWave r.part r.sr.launch else s3
        match s4.myRec s.cur with
        | some r4 => idoneNext s4 r4
        | none => .next s4
    else match (s.updLhart s.cur LHart.retired).myRec s.cur with
      | some r1 => idoneNext (s.updLhart s.cur LHart.retired) r1
      | none => .next (s.updLhart s.cur LHart.retired) := by
  refine (onAgents_allowed (by rcases hk with hk | hk <;> simp [allowed, hk])).trans ?_
  rw [hr]
  rfl

/-- The end of a hart without a nest. -/
theorem exec_idone_plain (nest : r.sr.nest = false) : exec (.idone x) s = idoneEnd s := by
  rw [exec_idone x hk hr, nest]
  rfl

/-- An item of a reserving record becomes pending, and waits to be admitted (R74). -/
theorem exec_idone_pends (he : s.eager = false) (nest : r.sr.nest = true) (rsv : r.sr.rsv = true)
    (item : (r.lhart s.me.logical).item.isSome = true) (adm : (r.lhart s.me.logical).adm ≠ .admitted) :
    exec (.idone x) s = .next ((s.updLhart s.cur fun y => if y.adm = .none then { y with adm := .pending } else y).waitMe) := by
  have mine : s.myLhart s.cur = r.lhart s.me.logical := State.myLhart_of_rec hr
  have still : ((s.updLhart s.cur fun y => if y.adm = .none then { y with adm := .pending } else y).myLhart s.cur).adm ≠ .admitted := by
    rw [State.myLhart_updLhart hr, mine, pend_of_not_admitted adm]
    exact Admission.noConfusion
  rw [exec_idone x hk hr, nest, rsv, mine, if_neg (by decide), if_neg (by simp), if_neg (by simp [Option.isSome_iff_ne_none.1 item]),
    if_pos rfl, if_neg adm, State.makePending_lazy he]
  exact if_pos (by simp [still])

/-- The next item waits for the queued instruction that still writes one of its registers (R194). -/
theorem exec_idone_waits (nest : r.sr.nest = true) (rsv : r.sr.rsv = false) (victim : s.me.vec.victim = false)
    (writes : s.me.itemPending = true) (lt : r.nextNo s.me.logical < r.sr.items) : exec (.idone x) s = .next s.waitMe := by
  have waits : s.itemWaits r = true := by
    unfold State.itemWaits
    rw [writes, victim, Rec.handOut_eq, if_pos lt]
    rfl
  rw [exec_idone x hk hr, nest, rsv, waits]
  rfl

/-- The item before is retired, its claims and pins gone where the record reserves, and IDONE goes on to the next (R68, R74). -/
theorem exec_idone_retires (he : s.eager = false) (nest : r.sr.nest = true)
    (ready : r.sr.rsv = true → s.me.vec.queue = [] ∧ (r.lhart s.me.logical).held = [] ∧
      (r.lhart s.me.logical).item.isSome = true ∧ (r.lhart s.me.logical).adm = .admitted)
    (goes : r.sr.rsv = false → s.itemWaits r = false) :
    ∃ w y, exec (.idone x) s = idoneNext w y ∧ Retired s w r y ∧
      w.pins = if r.sr.rsv then (s.releasePins s.cur 4).pins else s.pins := by
  have mine : s.myLhart s.cur = r.lhart s.me.logical := State.myLhart_of_rec hr
  have same : Retired s s r r := ⟨rfl, hr, rfl, rfl, rfl, rfl, rfl⟩
  rw [exec_idone x hk hr, nest]
  cases rsv : r.sr.rsv with
  | false =>
    rw [goes rsv, if_neg (by decide), if_neg (by decide)]
    by_cases item : (s.myLhart s.cur).item.isNone = true
    · rw [if_pos item]
      exact ⟨s, r, rfl, same, rfl⟩
    · have d := same.updLhart LHart.retired (fun _ => rfl) fun _ => rfl
      rw [if_neg item, if_neg (by decide), d.found]
      exact ⟨_, _, rfl, d, by rw [State.updLhart_eq]; rfl⟩
  | true =>
    obtain ⟨queue, held, item, adm⟩ := ready rsv
    obtain ⟨s2, drains, recs, z, found, part, sr, next, taken, held'⟩ := drainPoint_keeps hr fun _ => held
    have cur2 : s2.cur = s.cur := by rw [recs]
    have d2 : Retired s s2 r z := ⟨by rw [recs], found, part, sr, next, taken, held'⟩
    have d3 : Retired s (s2.releasePins s.cur 4) r z := d2.pins (s2.releasePins s.cur 4).pins
    have d := d3.updLhart LHart.released (fun _ => rfl) fun _ => rfl
    refine ⟨_, _, ?_, d, ?_⟩
    · rw [mine, if_neg (by decide), if_neg (by simp), if_neg (by simp [Option.isSome_iff_ne_none.1 item]), if_pos rfl, if_pos adm]
      dsimp only
      rw [if_neg (by simp [mine, adm, queue]), drains, he]
      dsimp only [onDrain]
      rw [if_neg (by decide), d.found]
    · rw [State.updLhart_eq, recs]
      rfl

end

/-! ## The items of a nest -/

theorem List.getD_within {bounds ix : List Nat} (h : Within bounds ix) {i : Nat} (hi : i < bounds.length) :
    ix.getD i 0 < bounds.getD i 0 := by
  have hi' : i < ix.length := h.length_eq ▸ hi
  rw [List.getD_eq_getElem _ _ hi', List.getD_eq_getElem _ _ hi]
  exact (List.forall₂_iff_get.1 h).2 i hi hi'

/-! ## O22 -/

/-- What is loaded for the next item: the registers, and what the rest of the state keeps. -/
theorem Retired.loads (d : Retired s w r y) {q : Nat} (hq : r.nextNo s.me.logical = q)
    (ht : t = (w.setRec (y.handed s.me.logical)).setMe ((s.me.loadItem r.sr q).retireTo r.sr.entry)) :
    t = ({ s with recs := t.recs, pins := t.pins } : State).setMe t.me ∧ t.pins = w.pins ∧
    t.me = { s.me with g := t.me.g, pc := r.sr.entry, status := .running, instret := s.me.instret + 1 } ∧
    (∀ d < 6, t.me.getG (BitVec.ofNat 6 (d + 1)) = BitVec.ofNat 64 ((itemIndices r.sr.order (r.sr.bounds.take r.sr.dims) q).getD d 0)) ∧
    t.me.getG 7 = r.sr.arg ∧ (∀ k : Reg, 7 < k.toNat → t.me.getG k = s.me.getG k) ∧
    ∀ r', t.recOf r.part r.sr.launch = some r' → r'.nextItem = (if r.sr.det then r.nextItem else q + 1) ∧
      (r'.lhart s.me.logical).item = some q ∧ (r'.lhart s.me.logical).claims = [] ∧ (r'.lhart s.me.logical).adm = .none := by
  have me : t.me = (s.me.loadItem r.sr q).retireTo r.sr.entry := by rw [ht]; exact State.me_setMe ..
  have regs (k : Reg) : t.me.getG k = (s.me.loadItem r.sr q).getG k := by rw [me]; rfl
  refine ⟨?_, ?_, ?_, fun i hi => ?_, ?_, fun k hk => ?_, fun r' hr' => ?_⟩
  · rw [me, ht]
    have := d.frame
    generalize w.recs = recs at this
    generalize w.pins = pins at this
    rw [this]
    rfl
  · rw [ht]; rfl
  · rw [me, Hart.loadItem_frame]
    rfl
  · rw [regs, Hart.loadItem_eq, Hart.getG_setG_ne _ _ (show _ ≠ (7 : Reg) from reg_ne (k := 7) (by omega) (by omega) (by omega)), Hart.getG_loads _ _ (by decide) hi]
    rfl
  · rw [regs, Hart.loadItem_eq]
    exact Hart.getG_setG_same _ _ (by decide)
  · rw [regs, Hart.loadItem_eq, Hart.getG_setG_ne, Hart.getG_loads_above _ _ (by decide) (by omega)]
    rintro rfl
    exact absurd hk (by decide)
  · have found : t.recOf r.part r.sr.launch = some (y.handed s.me.logical) := by
      have : w.recOf r.part r.sr.launch = some y := by
        rw [← d.part, ← d.sr, ← d.found]
        exact (State.myRec_of_harts d.found rfl).symm
      rw [ht]
      exact State.recOf_setRec_same this d.part (congrArg StartRec.launch d.sr)
    rw [found] at hr'
    obtain rfl := Option.some.inj hr'
    rw [Rec.handed, Rec.lhart_setLhart, d.nextNo, hq]
    exact ⟨by dsimp only [Rec.setLhart]; rw [d.sr, d.next], rfl, rfl, rfl⟩

/-- Settles O22: what IDONE does follows from the item that its record hands out, and in each order of a nest the items' indices
lie within the bounds and differ. The statement's first clause, an item that is not yet admitted, stands there as a premise of the
others; it holds too (`exec_idone_pends`). -/
theorem itemsEnd : Obligations.ItemsEnd := by
  unfold Obligations.ItemsEnd
  refine ⟨fun x s r hk he hr => ?_, fun order bounds ho _ _ hb => ?_⟩
  · intro l rsv q writesItem
    rintro ⟨-, ready⟩ victim
    refine ⟨fun last parked => ?_, fun nest lazy writes lt => ?_, fun nest guest free lt => ?_⟩
    · cases nest : r.sr.nest with
      | false =>
        obtain ⟨t, ends, e⟩ := idoneEnd_ends hr he (fun h => (ready h).2.1) parked
        exact ⟨t, (exec_idone_plain x hk hr nest).trans ends, e.slot, e.place, e.others, e.mem, e.tail⟩
      | true =>
        have none : r.sr.items ≤ r.nextNo s.me.logical := last.resolve_left (by simp [nest])
        obtain ⟨w, y, step, d, -⟩ := exec_idone_retires x hk hr he nest
          (fun h => ⟨(ready h).1, (ready h).2.1, (ready h).2.2 nest⟩)
          (fun _ => by unfold State.itemWaits; rw [Rec.handOut_eq, if_neg (by omega)]; simp)
        obtain ⟨t, ends, e⟩ := d.ends he victim none (fun h => (ready h).2.1) parked
        exact ⟨t, step.trans ends, e.slot, e.place, e.others, e.mem, e.tail⟩
    · have lazy' : r.sr.rsv = false := by simpa [rsv, nest] using lazy
      exact exec_idone_waits x hk hr nest lazy' victim ((Hart.itemPending_iff _).2 writes) lt
    · have free' : rsv = true ∨ s.me.itemPending = false := free.imp_right fun h => Bool.eq_false_iff.2 fun p => h ((Hart.itemPending_iff _).1 p)
      have rsv_eq : rsv = r.sr.rsv := by simp [rsv, nest]
      obtain ⟨w, y, step, d, pins⟩ := exec_idone_retires x hk hr he nest
        (fun h => ⟨(ready h).1, (ready h).2.1, (ready h).2.2 nest⟩)
        (fun h => by unfold State.itemWaits; rw [free'.resolve_left (by rw [rsv_eq, h]; decide)]; rfl)
      obtain ⟨frame, samePins, me, ix, arg, kept, record⟩ := d.loads (q := q) rfl rfl
      rw [← rsv_eq] at pins
      refine ⟨_, step.trans (d.takes victim guest lt), frame, fun h => ?_, fun h => ?_, me, ix, arg, kept, record⟩
      · exact samePins.trans (pins.trans (if_neg (by rw [h]; decide)))
      · exact samePins.trans (pins.trans (if_pos h))
  · intro Q
    obtain ⟨within, inj⟩ := itemIndices_spec ho hb
    have total : Q = bounds.prod := (List.prod_eq_foldl ..).symm
    rw [total]
    exact ⟨fun q hq => ⟨(within q hq).length_eq.symm, fun i hi => List.getD_within (within q hq) hi⟩, inj⟩

end Sys2Proof.Machine
end

section
/-! What every step keeps (R82, R96 to R98, R121, R304): the operations of the state. -/

open Sys2Proof Sys2Proof.Machine

namespace Sys2Proof.Machine

set_option Elab.async false

variable {s t : State}

/-! ## Answers that keep the invariant -/

/-- An answer whose next state has the invariant. -/
def Keeps (o : Out) : Prop := ∀ t, o = .next t → t.Inv
theorem keeps_next (h : t.Inv) : Keeps (.next t) := fun _ e => by cases e; exact h
theorem keeps_refused (r : Refusal) : Keeps (.refused r) := fun _ e => by cases e

/-- A result that gives only what has a property. -/
def Gives {α : Type} (P : α → Prop) (r : Except Stop α) : Prop := ∀ a, r = .ok a → P a

section
variable {α β : Type} {P : α → Prop} {Q : β → Prop}

theorem gives_ok {a : α} (h : P a) : Gives P (.ok a) := fun _ e => by cases e; exact h
theorem gives_error (e : Stop) : Gives P (.error e : Except Stop α) := fun _ e => by cases e
theorem gives_trivial (r : Except Stop α) : Gives (fun _ => True) r := fun _ _ => trivial
theorem Gives.mono {P' : α → Prop} {r : Except Stop α} (h : Gives P r) (imp : ∀ a, P a → P' a) : Gives P' r := fun a e => imp a (h a e)
/-- A computation that goes on with what another gives. -/
theorem Gives.bind {r : Except Stop α} {k : α → Except Stop β} (h : Gives P r) (hk : ∀ a, P a → Gives Q (k a)) : Gives Q (r >>= k) := by
  cases r with
  | error e => exact gives_error e
  | ok a => exact hk a (h a rfl)
/-- A computation that first reads. -/
theorem gives_after (r : Except Stop α) {k : α → Except Stop β} (hk : ∀ a, Gives Q (k a)) : Gives Q (r >>= k) :=
  (gives_trivial r).bind fun a _ => hk a
theorem gives_ite {c : Prop} [Decidable c] {a b : Except Stop α} (ha : c → Gives P a) (hb : ¬ c → Gives P b) :
    Gives P (if c then a else b) := by
  split
  · exact ha ‹_›
  · exact hb ‹_›
end

theorem keeps_ite {c : Prop} [Decidable c] {a b : Out} (ha : c → Keeps a) (hb : ¬ c → Keeps b) : Keeps (if c then a else b) := by
  split
  · exact ha ‹_›
  · exact hb ‹_›
theorem inv_ite {c : Prop} [Decidable c] (hs : c → s.Inv) (ht : ¬ c → t.Inv) : (if c then s else t).Inv := by
  split
  · exact hs ‹_›
  · exact ht ‹_›
/-- What is done only where a condition holds. -/
theorem inv_when {c : Prop} [Decidable c] (hs : s.Inv) (ht : s.Inv → t.Inv) : (if c then t else s).Inv :=
  inv_ite (fun _ => ht hs) fun _ => hs
theorem inv_unless {c : Prop} [Decidable c] (hs : s.Inv) (ht : s.Inv → t.Inv) : (if c then s else t).Inv :=
  inv_ite (fun _ => hs) fun _ => ht hs
theorem inv_snd_ite {α : Type} {c : Prop} [Decidable c] {a b : α × State} (ha : c → a.2.Inv) (hb : ¬ c → b.2.Inv) :
    (if c then a else b).2.Inv := by
  split
  · exact ha ‹_›
  · exact hb ‹_›
theorem inv_fst_ite {α : Type} {c : Prop} [Decidable c] {a b : State × α} (ha : c → a.1.Inv) (hb : ¬ c → b.1.Inv) :
    (if c then a else b).1.Inv := by
  split
  · exact ha ‹_›
  · exact hb ‹_›
/-- Steps that each keep the invariant keep it together. -/
theorem State.Inv.foldl {α : Type} {f : State → α → State} (l : List α) (h : s.Inv) (hf : ∀ s x, x ∈ l → s.Inv → (f s x).Inv) :
    (l.foldl f s).Inv := by
  induction l generalizing s with
  | nil => exact h
  | cons x l ih => exact ih (hf s x (List.mem_cons_self ..) h) fun s y hy => hf s y (List.mem_cons_of_mem _ hy)

/-! ## Application cores (R304) -/

/-- An application core runs or waits: nothing stops, holds or displaces it. -/
def Hart.AppOk (h : Hart) : Prop :=
  (h.status = .running ∨ h.status = .waiting) ∧ h.preempt = false ∧ h.vec.victim = false ∧ h.vec.queue = []

section
variable {h : Hart} (a : h.AppOk)
include a

theorem Hart.AppOk.queue : h.vec.queue = [] := a.2.2.2
theorem Hart.AppOk.waits : ({ h with status := .waiting } : Hart).AppOk := ⟨.inr rfl, a.2⟩
theorem Hart.AppOk.setG (d : Reg) (v : Word) : (h.setG d v).AppOk := by rw [Hart.setG_eq]; exact a
theorem Hart.AppOk.retire (n : Nat) : (h.retire n).AppOk := ⟨.inl rfl, a.2⟩
theorem Hart.AppOk.retireTo (pc : Word) : (h.retireTo pc).AppOk := ⟨.inl rfl, a.2⟩
theorem Hart.AppOk.enter (i : Bool) (code : Nat) (tval epc : Word) : (h.enter i code tval epc).AppOk := ⟨.inl rfl, a.2⟩
theorem Hart.AppOk.notFree : h.status ≠ .free := fun e => by rcases a.1 with f | f <;> rw [e] at f <;> cases f

end

/-- The queue of an outstanding copy's counts (R96). -/
def Cmd.CountOk (c : Cmd) : Prop := ∀ sp p steps run n, c.kind = .copyIn sp p steps run (some n) → n ≤ 255

theorem le_assocPut {m : List (Nat × Nat)} {n a x : Nat} (h : ∀ k, assocGet 0 m k ≤ n) (hx : x ≤ n) (k : Nat) :
    assocGet 0 (assocPut 0 m a x) k ≤ n := by
  by_cases e : k = a
  · rw [e, assocGet_put_same]; exact hx
  · rw [assocGet_put_ne e]; exact h k
theorem le_assocDel {m : List (Nat × Nat)} {n a : Nat} (h : ∀ k, assocGet 0 m k ≤ n) (k : Nat) : assocGet 0 (assocDel m a) k ≤ n := by
  by_cases e : k = a
  · rw [e, assocGet_del_same]; exact Nat.zero_le n
  · rw [assocGet_del_ne e]; exact h k

section
variable (h : s.Inv)
include h

/-- What no clause of the invariant reads may change. -/
theorem State.Inv.frame (mem : t.mem = s.mem := by rfl) (spad : t.spad = s.spad := by rfl) (cnt : t.cnt = s.cnt := by rfl)
    (spcnt : t.spcnt = s.spcnt := by rfl) (tok : t.tok = s.tok := by rfl) (cmds : t.cmds = s.cmds := by rfl)
    (harts : t.harts = s.harts := by rfl) : t.Inv := by
  unfold State.Inv State.count State.hart at h ⊢
  rw [mem, spad, cnt, spcnt, tok, cmds, harts]
  exact h

theorem State.Inv.app {k : Nat} (hk : kindOf k = .app) : (s.hart k).AppOk := by
  obtain ⟨-, -, -, -, -, -, apps⟩ := h
  exact apps k hk
theorem State.Inv.cmd {c : Cmd} (hc : c ∈ s.cmds) : c.CountOk := by
  obtain ⟨-, -, -, -, -, cmds, -⟩ := h
  exact cmds c hc
theorem State.Inv.count_le (l : Nat) : s.count l ≤ 255 := by
  obtain ⟨-, -, cnt, -⟩ := h
  exact cnt l
theorem State.Inv.spCount_le (c b : Nat) : s.spCount c b ≤ 255 := by
  obtain ⟨-, -, -, spcnt, -⟩ := h
  exact spcnt _
theorem State.Inv.tokens_le (c k : Nat) : s.tokens c k ≤ 32 := by
  obtain ⟨-, -, -, -, tok, -⟩ := h
  exact tok _

/-! ## Agents -/

theorem State.Inv.setHart {k : Nat} {x : Hart} (hx : kindOf k = .app → x.AppOk) : (s.setHart k x).Inv := by
  have apps : ∀ j, kindOf j = .app → ((s.setHart k x).hart j).AppOk := fun j hj => by
    by_cases e : j = k
    · rw [e, State.hart_setHart_same]; exact hx (e ▸ hj)
    · rw [State.hart_setHart_ne _ _ e]; exact h.app hj
  obtain ⟨mem, spad, cnt, spcnt, tok, cmds, -⟩ := h
  exact ⟨mem, spad, cnt, spcnt, tok, cmds, apps⟩
theorem State.Inv.setMe {x : Hart} (hx : kindOf s.cur = .app → x.AppOk) : (s.setMe x).Inv := h.setHart hx
/-- A slot of another kind takes any hart. -/
theorem State.Inv.setSlot {k : Nat} (x : Hart) (hk : kindOf k ≠ .app) : (s.setHart k x).Inv := h.setHart fun a => absurd a hk
theorem State.Inv.updHart {k : Nat} {f : Hart → Hart} (hf : (s.hart k).AppOk → (f (s.hart k)).AppOk) : (s.updHart k f).Inv :=
  h.setHart fun a => hf (h.app a)
theorem State.Inv.retire (n : Nat) {f : Hart → Hart} (hf : s.me.AppOk → (f s.me).AppOk) : (s.retire n f).Inv :=
  h.setMe fun a => (hf (h.app a)).retire n
theorem State.Inv.retireTo (pc : Word) {f : Hart → Hart} (hf : s.me.AppOk → (f s.me).AppOk) : (s.retireTo pc f).Inv :=
  h.setMe fun a => (hf (h.app a)).retireTo pc
theorem State.Inv.waitMe : s.waitMe.Inv := h.setMe fun a => (h.app a).waits
theorem State.Inv.endPins (f : Pin → Bool) : (s.endPins f).Inv := h
theorem State.Inv.dropPins (who : Nat) : (s.dropPins who).Inv := h

/-- A trap leaves an application core running, at its vector (R305). -/
theorem inv_trapAt (c : Cause) (tval epc : Word) : (trapAt c tval epc s).Inv := by
  unfold trapAt
  dsimp only
  split
  · exact (h.dropPins _).setMe fun a => (h.app a).enter ..
  · next hk =>
    split
    · exact h.waitMe
    · exact (h.dropPins _).setSlot _ hk
theorem keeps_raise (c : Cause) (tval : Word) : Keeps (raise c tval s) := keeps_next (inv_trapAt h ..)
theorem keeps_illegal : Keeps (illegal s) := keeps_raise h _ _
/-- An instruction that only some agents have. -/
theorem keeps_onAgents {v q a : Bool} {k : Out} (hk : allowed v q a s.cur = true → Keeps k) : Keeps (onAgents v q a s k) :=
  keeps_ite hk fun _ => keeps_illegal h

/-! ## Memory (R329) and counts (R96 to R101) -/

theorem State.Inv.wrBytes (a : Nat) (bs : List Byte) : (s.wrBytes a bs).Inv := by
  obtain ⟨mem, rest⟩ := h
  exact ⟨Memory.wf_putBytes a bs mem, rest⟩
theorem State.Inv.wr8 (a : Nat) (b : Byte) : (s.wr8 a b).Inv := h.wrBytes a [b]
theorem State.Inv.wr64 (a : Nat) (w : Word) : (s.wr64 a w).Inv := h.wrBytes a _
theorem State.Inv.setCnt {m : List (Nat × Nat)} (hm : ∀ l, assocGet 0 m l ≤ 255) : ({ s with cnt := m } : State).Inv := by
  obtain ⟨mem, spad, -, rest⟩ := h
  exact ⟨mem, spad, hm, rest⟩
theorem State.Inv.putCnt (l : Nat) {n : Nat} (hn : n ≤ 255) : ({ s with cnt := assocPut 0 s.cnt l n } : State).Inv :=
  h.setCnt (le_assocPut h.count_le hn)
theorem State.Inv.fetched (l : Nat) : (s.fetched l).Inv := h
theorem State.Inv.lineEvent (l : Nat) (f : Part → Part) : (s.lineEvent l f).Inv := by
  unfold State.lineEvent
  split
  · split <;> exact h
  · exact h
theorem State.Inv.setCount (l : Nat) {n : Nat} (hn : n ≤ 255) : (s.setCount l n).Inv := by
  have put := (h.fetched l).putCnt l hn
  unfold State.setCount
  dsimp only
  split
  · exact put
  · split <;> exact put
theorem State.Inv.dropLine (l : Nat) : (s.dropLine l).Inv := by
  have del : ({ s with cnt := assocDel s.cnt l } : State).Inv := h.setCnt (le_assocDel h.count_le)
  unfold State.dropLine
  dsimp only
  split
  · exact del
  · exact del.wrBytes ..
theorem State.Inv.rcSet (l : Nat) {n : Nat} (hn : n ≤ 255) : (s.rcSet l n).Inv := by
  unfold State.rcSet
  dsimp only
  split
  · exact (h.lineEvent ..).setCount l hn
  · exact h.setCount l hn
theorem State.Inv.rdDec (l : Nat) : (s.rdDec l).Inv := by
  have := h.count_le l
  exact inv_ite (fun _ => h.dropLine l) fun _ => (h.fetched l).putCnt l (by omega)
theorem State.Inv.rcClose (l : Nat) : (s.rcClose l).Inv := inv_ite (fun _ => h) fun _ => (h.lineEvent ..).dropLine l

/-! ## Scratchpads and tokens (R93, R96, R121) -/

theorem State.Inv.spWrite (c o : Nat) (bs : List Byte) : (s.spWrite c o bs).Inv := by
  obtain ⟨mem, spad, rest⟩ := h
  exact ⟨mem, Memory.wf_putBytes _ bs spad, rest⟩
theorem State.Inv.setSpCount (c b : Nat) {n : Nat} (hn : n ≤ 255) : (s.setSpCount c b n).Inv := by
  obtain ⟨mem, spad, cnt, spcnt, rest⟩ := h
  exact ⟨mem, spad, cnt, le_assocPut spcnt hn, rest⟩
theorem State.Inv.clusterEvent (c : Nat) (f : Part → Part) : (s.clusterEvent c f).Inv := by
  unfold State.clusterEvent
  split <;> exact h
theorem State.Inv.spRcSet (c b : Nat) {n : Nat} (hn : n ≤ 255) : (s.spRcSet c b n).Inv := by
  unfold State.spRcSet
  dsimp only
  split
  · exact (h.clusterEvent ..).setSpCount c b hn
  · exact h.setSpCount c b hn
theorem State.Inv.spRdDec (c b : Nat) : (s.spRdDec c b).Inv :=
  h.setSpCount c b (Nat.le_trans (Nat.sub_le ..) (h.spCount_le c b))
theorem State.Inv.setTokens (c k : Nat) {n : Nat} (hn : n ≤ 32) : (s.setTokens c k n).Inv := by
  obtain ⟨mem, spad, cnt, spcnt, tok, rest⟩ := h
  exact ⟨mem, spad, cnt, spcnt, le_assocPut tok hn, rest⟩

/-! ## Commands -/

theorem State.Inv.setCmds {l : List Cmd} (hl : ∀ c ∈ l, c.CountOk) : ({ s with cmds := l } : State).Inv := by
  obtain ⟨mem, spad, cnt, spcnt, tok, -, apps⟩ := h
  exact ⟨mem, spad, cnt, spcnt, tok, hl, apps⟩
theorem State.Inv.filterCmds (f : Cmd → Bool) : ({ s with cmds := s.cmds.filter f } : State).Inv :=
  h.setCmds fun _ hc => h.cmd (List.mem_filter.1 hc).1
/-- A change of commands that changes no kind. -/
theorem State.Inv.mapCmds {f : Cmd → Cmd} (hf : ∀ c, c.CountOk → (f c).CountOk) : ({ s with cmds := s.cmds.map f } : State).Inv :=
  h.setCmds fun _ hc => by
    obtain ⟨c, old, rfl⟩ := List.mem_map.1 hc
    exact hf c (h.cmd old)

/-! ## Pins and refusals (R122, R123) -/

theorem State.Inv.unpoison (a n : Nat) : (s.unpoison a n).Inv := h
theorem State.Inv.served (who line : Nat) : (s.served who line).Inv := h
theorem State.Inv.refuse (who line : Nat) : (s.refuse who line).Inv := h
theorem State.Inv.releasePins (who scope : Nat) : (s.releasePins who scope).Inv := h
theorem State.Inv.unrefuse (who : Nat) : (s.unrefuse who).Inv := h
theorem State.Inv.pinLine (who line scope : Nat) : (s.pinLine who line scope).Inv := by
  unfold State.pinLine
  dsimp only
  split
  · split <;> exact h
  · exact h
theorem State.Inv.deviceServed (spans : List (Nat × Nat)) : (s.deviceServed spans).Inv :=
  inv_ite (fun _ => h) fun _ => h.foldl _ fun _ _ _ h => h.foldl _ fun _ _ _ h => h.served ..

end

end Sys2Proof.Machine
end

section
/-! What every step keeps: errors, barrier objects, records, groups, traps, and the device window. -/

open Sys2Proof Sys2Proof.Machine

namespace Sys2Proof.Machine

set_option Elab.async false

variable {s t : State}

theorem ne_app_of_lt {k : Nat} (h : k < appBase) : kindOf k ≠ .app := fun a => by
  have := kindOf_eq_app_iff.1 a
  omega

/-! ## Errors (R357 to R360) -/

section
variable (h : s.Inv)
include h

theorem State.Inv.pend (core code : Nat) : (s.pend core code).Inv := inv_ite (fun _ => h.updHart id) fun _ => h
theorem State.Inv.errLog (kind unit asid place : Nat) : (s.errLog kind unit asid place).Inv :=
  inv_ite (fun _ => State.Inv.pend h.frame ..) fun _ => h.frame
theorem State.Inv.errEvents (es : List ErrEv) : (s.errEvents es).Inv := by
  have logged := h.foldl (es.foldr insertErr []) fun s e _ h => State.Inv.errLog h e.kind e.unit e.asid e.place
  exact inv_ite (fun _ => logged) fun _ => logged
theorem State.Inv.errEvent (kind unit asid place : Nat) : (s.errEvent kind unit asid place).Inv := h.errEvents _

/-! ## Barrier objects (R124, R125) -/

theorem inv_bobjSetErr (pa k : Nat) : (bobjSetErr s pa k).Inv := h.wr64 ..
theorem inv_bobjStart (pa : Nat) (act : BAct) : (bobjStart s pa act).Inv := by
  unfold bobjStart
  dsimp only
  split
  case h_1 => exact inv_ite (fun _ => inv_bobjSetErr h ..) fun _ => h.wr64 ..
  case h_2 => exact h.wr64 ..
  case h_3 =>
    exact inv_ite (fun _ => inv_bobjSetErr h ..) fun _ => inv_ite (fun _ => inv_bobjSetErr h ..) fun _ =>
      inv_ite (fun _ => inv_bobjSetErr h ..) fun _ => h.wr64 ..
theorem inv_bobjFinish (pa : Nat) : (bobjFinish s pa).Inv :=
  inv_ite (fun _ => h) fun _ => inv_ite (fun _ => inv_bobjSetErr h ..) fun _ => inv_ite
    (fun _ => (((h.wr64 ..).wr64 ..).wr64 ..).wr64 ..) fun _ => h
theorem inv_bobjAct (pa : Nat) (act : BAct) : (bobjAct s pa act).Inv :=
  inv_ite (fun _ => h) fun _ => inv_ite (fun _ => inv_bobjSetErr h ..) fun _ => inv_bobjFinish (inv_bobjStart h ..) _

/-! ## Records and groups -/

theorem State.Inv.setRec (r : Rec) : (s.setRec r).Inv := h
theorem State.Inv.delRec (p l : Nat) : (s.delRec p l).Inv := h
theorem State.Inv.updPart (p : Nat) (f : Part → Part) : (s.updPart p f).Inv := h
theorem State.Inv.updLhart (hid : Nat) (f : LHart → LHart) : (s.updLhart hid f).Inv := by
  rw [State.updLhart_eq]
  exact h
theorem State.Inv.groupCheck (p id : Nat) : (s.groupCheck p id).Inv := by
  rw [(s.groupCheck_frame p id).1]
  exact h
theorem State.Inv.groupsCheck (p : Nat) : (s.groupsCheck p).Inv := by
  rw [(s.groupsCheck_frame p).1]
  exact h
theorem State.Inv.groupLeave (p : Nat) (out : Nat × Nat → Bool) : (s.groupLeave p out).Inv := by
  rw [(s.groupLeave_frame p out).1]
  exact h
theorem State.Inv.groupJoin (p id : Nat) (ms : List (Nat × Nat)) : (s.groupJoin p id ms).Inv := by
  unfold State.groupJoin
  split <;> exact h

/-! ## The trap queue (R346 to R348) -/

theorem State.Inv.writeTrap (p : Nat) (r : TrapRec) : (s.writeTrap p r).Inv :=
  (((h.foldl _ fun _ _ _ h => h.wr64 ..).updPart ..).wr64 ..).pend ..

/-! ## The end of a record (R65, R352) -/

theorem State.Inv.freeSlot {hid : Nat} (hk : kindOf hid ≠ .app) : (s.freeSlot hid).Inv := h.setSlot _ hk
theorem State.Inv.doneAct (r : Rec) (more : Nat) {act : State → Nat → State} (ha : ∀ {u : State} pa, u.Inv → (act u pa).Inv) :
    Gives State.Inv (s.doneAct r more act) := by
  unfold State.doneAct
  split
  · exact gives_ok h
  · split
    · exact gives_ok ((ha _ h).served ..)
    · exact gives_error _
    · exact gives_after _ fun _ => gives_ok (h.writeTrap ..)
theorem State.Inv.completeRec (r : Rec) : Gives State.Inv (s.completeRec r) :=
  (h.doneAct r 0 fun pa h => inv_bobjAct h pa .arrive).bind fun _ h => gives_ok (h.delRec ..)
theorem State.Inv.endSlot {hid : Nat} (hk : kindOf hid ≠ .app) : (s.endSlot hid).Inv :=
  inv_ite (fun _ => (h.dropPins _).freeSlot hk) fun _ => (h.dropPins _).setSlot _ hk

omit h in
/-- No application core has a slot of a record. -/
theorem State.ne_app_of_mem_hartsOf {p l hid : Nat} (hm : hid ∈ s.hartsOf p l) : kindOf hid ≠ .app := by
  obtain ⟨e, he, rfl⟩ := List.mem_map.1 hm
  have := (List.mem_filter.1 he).2
  simp only [Bool.and_eq_true, decide_eq_true_eq] at this
  exact ne_app_of_lt this.1.1.2

theorem State.Inv.endRecord (r : Rec) (struck : Option TrapRec) : (s.endRecord r struck).Inv := by
  have ended := (h.setRec { r with ending := some struck, lh := r.lh.map fun e => (e.1, { e.2 with
    held := [], xl := [], claims := [], nclaims := 0, item := none, adm := .none, gwait := none, drainWait := false }) }).foldl
    (s.hartsOf r.part r.sr.launch) fun _ _ hm h => h.endSlot (State.ne_app_of_mem_hartsOf hm)
  exact (ended.groupLeave ..).updPart ..
theorem State.Inv.finishEnd (r : Rec) (struck : Option TrapRec) : Gives State.Inv (s.finishEnd r struck) := by
  unfold State.finishEnd
  refine gives_ite (fun _ => gives_error _) fun _ => gives_after _ fun _ => ?_
  refine (h.doneAct r _ fun pa h => inv_ite (fun _ => inv_bobjSetErr h ..) fun _ => h).bind fun t ht => gives_ok ?_
  split
  · exact (ht.delRec ..).writeTrap ..
  · exact ht.delRec ..
theorem State.Inv.tryFinish (r : Rec) : (s.tryFinish r).Inv := by
  unfold State.tryFinish
  split
  · exact h
  · split
    · exact h.finishEnd _ _ _ ‹_›
    · exact h.refuse ..
    · exact h
theorem State.Inv.settleEnds : s.settleEnds.Inv := h.foldl _ fun _ r _ h => State.Inv.tryFinish h r

theorem State.Inv.strike (hid : Nat) (tval : Word) : (s.strike hid tval).Inv := by
  unfold State.strike
  split
  · exact (h.dropPins hid).updHart fun a => a.enter ..
  · next hk =>
    split
    · exact inv_ite (fun _ => h.endSlot hk) fun _ => h.endRecord ..
    · exact h.freeSlot hk

/-! ## Answers of accesses -/

theorem keeps_answerStop (e : Stop) : Keeps (answerStop s e) := by
  unfold answerStop
  split
  · exact keeps_raise h _ _
  · exact keeps_next h.waitMe
  · exact keeps_next (h.refuse ..).waitMe
  · exact keeps_next (h.strike ..)
theorem keeps_onOk {α : Type} {P : α → Prop} {r : Except Stop α} {k : α → Out} (hr : Gives P r) (hk : ∀ a, P a → Keeps (k a)) :
    Keeps (onOk s r k) := by
  unfold onOk
  split
  · exact hk _ (hr _ rfl)
  · exact keeps_answerStop h _

/-! ## The device window -/

theorem State.Inv.setRemap (g : Nat) (r : Remap) : (s.setRemap g r).Inv := h
theorem State.Inv.remapPinWrite (g : Nat) (v : Word) : (s.remapPinWrite g v).Inv := inv_ite (fun _ => h) fun _ => h
theorem State.Inv.eseqRead : s.eseqRead.Inv := h
theorem State.Inv.ltailWrite (v : Word) : (s.ltailWrite v).Inv := inv_ite (fun _ => h) fun _ => h
theorem State.Inv.errRead (off : Nat) : (s.errRead off).2.Inv := by
  unfold State.errRead
  dsimp only
  repeat' refine inv_snd_ite (fun _ => ?_) fun _ => ?_
  all_goals exact h
theorem State.Inv.errWrite (off : Nat) (v : Word) : (s.errWrite off v).Inv := by
  unfold State.errWrite
  refine inv_ite (fun _ => h.ltailWrite v) fun _ => ?_
  repeat' refine inv_ite (fun _ => ?_) fun _ => ?_
  all_goals exact h
theorem State.Inv.hirq (v : Word) : (s.hirq v).Inv := inv_ite (fun _ => h) fun _ => h
theorem State.Inv.devnumWrite (v : Word) : (s.devnumWrite v).Inv := inv_ite (fun _ => h) fun _ => h
theorem State.Inv.hostWrite (off : Nat) (v : Word) : (s.hostWrite off v).Inv :=
  inv_ite (fun _ => h) fun _ => inv_ite (fun _ => h.hirq v) fun _ => inv_ite (fun _ => inv_ite (fun _ => h) fun _ => h) fun _ =>
    inv_ite (fun _ => h.devnumWrite v) fun _ => inv_ite (fun _ => inv_ite (fun _ => h) fun _ => h) fun _ => h
theorem State.Inv.icFillLine (who cache : Nat) (path : List Nat) (asid vline line : Nat) :
    (s.icFillLine who cache path asid vline line).Inv := by
  unfold State.icFillLine
  split
  · exact h
  · split
    · exact h
    · split <;> exact h
theorem State.Inv.icDrop (f : Nat → Bool) (c : Ctx) (lo hi : Nat) : (s.icDrop f c lo hi).Inv := h
theorem State.Inv.icInval (f : Nat → Bool) (c : Ctx) (start len : Word) : (s.icInval f c start len).Inv :=
  inv_ite (fun _ => h) fun _ => inv_ite (fun _ => h) fun _ => h.icDrop ..
theorem State.Inv.isync (who : Nat) (start len : Word) : (s.isync who start len).Inv := h.icInval ..

omit h in
/-- A hart that reads its bodies anew holds as many queue entries. -/
theorem Hart.appOk_refetch (h : Hart) : h.refetch.AppOk = h.AppOk := by
  simp [Hart.AppOk, Hart.refetch]
omit h in
theorem State.Inv.withHarts (h : s.Inv) (apps : ∀ k, kindOf k = .app → (t.hart k).AppOk) (mem : t.mem = s.mem := by rfl)
    (spad : t.spad = s.spad := by rfl) (cnt : t.cnt = s.cnt := by rfl) (spcnt : t.spcnt = s.spcnt := by rfl)
    (tok : t.tok = s.tok := by rfl) (cmds : t.cmds = s.cmds := by rfl) : t.Inv := by
  unfold State.Inv State.count at h ⊢
  rw [mem, spad, cnt, spcnt, tok, cmds]
  obtain ⟨mem, spad, cnt, spcnt, tok, cmds, -⟩ := h
  exact ⟨mem, spad, cnt, spcnt, tok, cmds, apps⟩
theorem State.Inv.codeComplete : s.codeComplete.Inv := by
  have invalidated := (h.icInval (fun _ => true) ⟨outsider, bitsOf s.code.asid 10 0, false⟩ s.code.base s.code.len).foldl
    ((s.harts.filter fun e => e.2.status != .free).map (·.1)) fun u k _ h => h.isync k u.code.base u.code.len
  unfold State.codeComplete
  split
  · exact h
  · refine invalidated.withHarts fun k hk => ?_
    unfold State.hart
    rw [assocGet_map_same Hart.free Hart.AppOk (fun _ => Hart.refetch) fun _ => Hart.appOk_refetch]
    exact h.app hk
  · exact h
theorem State.Inv.codeCommand (k : Nat) : (s.codeCommand k).Inv :=
  inv_ite (fun _ => h) fun _ => inv_ite (fun _ => inv_ite
    (fun _ => State.Inv.codeComplete (s := { s with code := { s.code with cmd := some k } }) h) fun _ => h) fun _ => h
theorem State.Inv.codeWrite (off : Nat) (v : Word) : (s.codeWrite off v).Inv :=
  inv_ite (fun _ => h) fun _ => inv_ite (fun _ => h) fun _ => inv_ite (fun _ => inv_ite (fun _ => h) fun _ => h) fun _ =>
    inv_ite (fun _ => h.codeCommand _) fun _ => h
theorem State.Inv.freeBytes (n : Nat) : (s.freeBytes n).2.Inv := h
theorem State.Inv.regRead (k off : Nat) : (s.regRead k off).2.Inv := by
  unfold State.regRead
  split
  · exact h
  · exact h.errRead off
  all_goals exact h
theorem State.Inv.regWrite (k off : Nat) (v : Word) : (s.regWrite k off v).Inv := by
  unfold State.regWrite
  split
  · exact inv_ite (fun _ => h.remapPinWrite ..) fun _ => h
  · exact h.errWrite ..
  · exact h.hostWrite ..
  · exact h.codeWrite ..
  · exact h
theorem State.Inv.devLoad (pa n : Nat) : (s.devLoad pa n).2.Inv := by
  unfold State.devLoad
  split
  · split_ifs
    · exact h.regRead ..
    · exact h
    · exact h.freeBytes n
  · exact h
theorem State.Inv.devStore (pa : Nat) (bs : List Byte) : (s.devStore pa bs).Inv := by
  unfold State.devStore
  split
  · exact inv_ite (fun _ => h.regWrite ..) fun _ => h
  · exact h

end

end Sys2Proof.Machine
end

section
/-! What every step keeps: scalar instructions, atomics, fences and barrier objects. -/

open Sys2Proof Sys2Proof.Machine

namespace Sys2Proof.Machine

set_option Elab.async false

variable {s t : State}

theorem Hart.AppOk.accrue {h : Hart} (a : h.AppOk) (f : Flags) : (h.accrue f).AppOk := a
theorem Hart.AppOk.putFp {h : Hart} (a : h.AppOk) (d : Reg) (r : Nat × Flags) : (h.putFp d r).AppOk := a.setG ..

section
variable (h : s.Inv)
include h

/-! ## Forms of scalar instructions -/

theorem keeps_retire (n : Nat) {f : Hart → Hart} (hf : s.me.AppOk → (f s.me).AppOk) : Keeps (.next (s.retire n f)) :=
  keeps_next (h.retire n hf)
theorem keeps_retireTo (pc : Word) {f : Hart → Hart} (hf : s.me.AppOk → (f s.me).AppOk) : Keeps (.next (s.retireTo pc f)) :=
  keeps_next (h.retireTo pc hf)
theorem keeps_regForm (x : AArgs) (v : Word → Word → Word) : Keeps (regForm x s v) :=
  keeps_onAgents h fun _ => keeps_retire h _ fun a => a.setG ..
theorem keeps_immForm (x : IArgs) (v : Word → Word → Word) : Keeps (immForm x s v) :=
  keeps_onAgents h fun _ => keeps_retire h _ fun a => a.setG ..
theorem keeps_fpForm (x : FArgs) (v : Hart → Nat × Flags) : Keeps (fpForm x s v) :=
  keeps_onAgents h fun _ => keeps_retire h _ fun a => a.putFp ..
theorem keeps_execSel (x : AArgs) : Keeps (execSel x s) := keeps_onAgents h fun _ => keeps_retire h _ fun a => a.setG ..
theorem keeps_branch (x : BArgs) (taken : Word → Word → Bool) : Keeps (branch x s taken) :=
  keeps_onAgents h fun _ => keeps_next (inv_ite (fun _ => h.retireTo _ id) fun _ => h.retire _ id)
theorem keeps_execJ (x : BArgs) : Keeps (execJ x s) := keeps_onAgents h fun _ => keeps_retireTo h _ id
theorem keeps_execCall (x : BArgs) : Keeps (execCall x s) := keeps_onAgents h fun _ => keeps_retireTo h _ fun a => a.setG ..
theorem keeps_jump (x : AArgs) {f : Hart → Hart} (hf : s.me.AppOk → (f s.me).AppOk) : Keeps (jump x s f) :=
  keeps_onAgents h fun _ => keeps_ite (fun _ => keeps_raise h _ _) fun _ => keeps_retireTo h _ hf

/-! ## Runs of bytes -/

theorem State.Inv.segWrite (gs : List Seg) (bs : List Byte) : (s.segWrite gs bs).Inv := by
  induction gs generalizing s bs with
  | nil => exact h
  | cons g gs ih => exact ih (h.wrBytes ..) _
theorem State.Inv.servedSegs (who : Nat) (gs : List Seg) : (s.servedSegs who gs).Inv :=
  inv_ite (fun _ => h) fun _ => h.foldl _ fun _ _ _ h => h.served ..
theorem State.Inv.pinSegs (who : Nat) (gs : List Seg) (sync : Option Nat) : (s.pinSegs who gs sync).Inv := by
  cases sync with
  | none => exact h
  | some sc => exact h.foldl _ fun _ _ _ h => State.Inv.pinLine h ..

/-! ## Loads and stores (R176 to R179) -/

theorem State.Inv.scalarLoad (va : Word) (n : Nat) (sync : Option Nat) : Gives (fun r => r.2.Inv) (s.scalarLoad va n sync) := by
  refine gives_after _ fun gs => gives_ite (fun _ => ?_) fun _ => ?_
  · split
    · exact gives_ok (h.devLoad ..)
    · exact gives_error _
  · exact gives_after _ fun _ => gives_after _ fun _ => gives_after _ fun _ => gives_ok ((h.servedSegs ..).pinSegs ..)
theorem State.Inv.scalarStore (va : Word) (bs : List Byte) (sync : Option Nat) : Gives State.Inv (s.scalarStore va bs sync) := by
  have released : (match sync with | some sc => s.releasePins s.cur sc | none => s).Inv := by
    split <;> exact h
  refine gives_after _ fun gs => gives_ite (fun _ => ?_) fun _ => ?_
  · split
    · exact gives_ok (released.devStore ..)
    · exact gives_error _
  · exact gives_after _ fun _ => gives_after _ fun _ => gives_ok (((released.segWrite ..).servedSegs ..).pinSegs ..)
theorem keeps_load (signed : Bool) (x : MArgs) : Keeps (load signed x s) :=
  keeps_onAgents h fun _ => keeps_onOk h (h.scalarLoad _ _ _) fun _ hr => keeps_retire hr _ fun a => a.setG ..
theorem keeps_execSt (x : MArgs) : Keeps (execSt x s) :=
  keeps_onAgents h fun _ => keeps_onOk h (h.scalarStore _ _ _) fun _ hr => keeps_retire hr _ id
theorem keeps_loadRd (signed : Bool) (x : MArgs) : Keeps (loadRd signed x s) :=
  keeps_onAgents h fun _ => keeps_onOk h (gives_trivial _) fun _ _ => keeps_ite
    (fun _ => keeps_ite (fun _ => keeps_next h.waitMe) fun _ => keeps_raise (h.lineEvent ..) _ _)
    fun _ => keeps_retire (((h.rdDec _).servedSegs ..).pinSegs ..) _ fun a => a.setG ..
omit h in
/-- The count that a counted store sets is a byte (R98). -/
theorem rcN_le (b : Reg) (sc ar : Bool) : rcN b sc ar ≤ 255 := by
  have := b.isLt
  unfold rcN
  split <;> split <;> omega
theorem keeps_execStRc (x : MArgs) : Keeps (execStRc x s) :=
  keeps_onAgents h fun _ => keeps_onOk h (gives_trivial _) fun _ _ =>
    keeps_retire (((h.rcSet _ (rcN_le ..)).wrBytes ..).servedSegs ..) _ id
theorem State.Inv.prefetch (who level : Nat) (va : Word) : (s.prefetch who level va).Inv := by
  unfold State.prefetch
  split
  · exact h
  · next l _ =>
    have second : (match icL2 who with
        | some c => s.icFillLine who c [] (s.asidOf who) (lineOf va.toNat) (lineOf l.pa)
        | none => s).Inv := by
      split
      · exact h.icFillLine ..
      · exact h
    refine inv_ite (fun _ => ?_) fun _ => second
    split
    · exact State.Inv.icFillLine second ..
    · exact second
theorem keeps_execIpref (x : PArgs) : Keeps (execIpref x s) := keeps_onAgents h fun _ => keeps_retire (h.prefetch ..) _ id
theorem keeps_execIsync (x : MArgs) : Keeps (execIsync x s) := keeps_onAgents h fun _ => keeps_retire (h.isync ..) _ id

/-! ## Atomics, fences and barrier objects (R182 to R185) -/

theorem keeps_amo (f : AmoFn) (x : AmoArgs) : Keeps (amo f x s) := by
  refine keeps_onAgents h fun _ => keeps_onOk h (gives_trivial _) fun gs _ => ?_
  have released : (if amoRel x then s.releasePins s.cur x.scope.toNat else s).Inv := inv_ite (fun _ => h) fun _ => h
  refine keeps_retire (State.Inv.pinSegs (State.Inv.servedSegs ?_ ..) ..) _ fun a => (a.setG ..).accrue _
  split
  · exact released.segWrite ..
  · exact released
theorem keeps_execFence (x : MArgs) : Keeps (execFence x s) := keeps_onAgents h fun _ => keeps_retire h _ id
theorem keeps_arrive (rel : Bool) (x : MArgs) : Keeps (arrive rel x s) := by
  refine keeps_onAgents h fun _ => keeps_onOk h (gives_trivial _) fun pa _ => ?_
  have released : (if rel then s.releasePins s.cur x.scope.toNat else s).Inv := inv_ite (fun _ => h) fun _ => h
  exact keeps_retire (((inv_bobjAct released ..).served ..).pinLine ..) _ id
theorem keeps_execExpect (x : MArgs) : Keeps (execExpect x s) :=
  keeps_onAgents h fun _ => keeps_onOk h (gives_trivial _) fun _ _ => keeps_retire ((inv_bobjAct h ..).served ..) _ id
theorem keeps_execWaitb (x : MArgs) : Keeps (execWaitb x s) := by
  refine keeps_onAgents h fun _ => keeps_onOk h (gives_trivial _) fun pa _ => ?_
  refine keeps_ite (fun _ => keeps_retire (h.served ..) _ fun a => a.setG ..) fun _ => keeps_ite (fun _ => ?_) fun _ => ?_
  · exact keeps_ite (fun _ => keeps_next h.waitMe) fun _ => keeps_retire ((h.served ..).pinLine ..) _ fun a => a.setG ..
  · exact keeps_next (h.served ..).waitMe

end

end Sys2Proof.Machine
end

section
/-! What every step keeps: held entries, rounds, records that complete, harts that end, groups, launches, claims and items. -/

open Sys2Proof Sys2Proof.Machine

namespace Sys2Proof.Machine

set_option Elab.async false

variable {s t : State}

section
variable (h : s.Inv)
include h

/-! ## Held entries and rounds (R127, R128) -/

theorem State.Inv.addAt (pa ef val : Nat) (grid : Bool) : (s.addAt pa ef val grid).1.Inv := h.wrBytes ..
theorem State.Inv.accrueEnded (p launch l : Nat) (fl : Flags) : (s.accrueEnded p launch l fl).Inv := by
  refine h.withHarts fun k hk => ?_
  have same := assocGet_map_same Hart.free Hart.AppOk
    (fun j x => if x.status = .free ∧ j < seqBase then (if x.isEnded p launch l then x.accrue fl else x) else x)
    (fun j x => by split <;> [split <;> rfl; rfl]) s.harts k
  exact same.mpr (h.app hk)
theorem State.Inv.performHeld (p launch l : Nat) (x : LHart) (e : Held) : (s.performHeld p launch l x e).Inv := by
  have performed : (match e with
    | .byte _ _ pa mask val _ => s.wr8 pa (mergeByte (s.rd8 pa) mask val)
    | .add _ pa ef val grid =>
      let r := s.addAt pa ef val grid
      match x.place with
      | .placed h => r.1.updHart h fun y => y.accrue r.2
      | .ended => r.1.accrueEnded p launch l r.2
      | _ => match r.1.recOf p launch with
        | some y => r.1.setRec (y.setLhart l { y.lhart l with fl := (y.lhart l).fl ||| r.2 })
        | none => r.1).Inv := by
    split
    · exact h.wr8 ..
    · next pa ef val grid =>
      have added := h.addAt pa ef val grid
      dsimp only
      split
      · exact added.updHart fun a => a.accrue _
      · exact added.accrueEnded ..
      · split
        · exact added.setRec _
        · exact added
  exact inv_ite (fun _ => performed) fun _ => performed.foldl _ fun _ _ _ h => h.served ..
theorem State.Inv.heldRefused (p launch l : Nat) (x : LHart) (es : List Held) (laid : List Nat) :
    (s.heldRefused p launch l x es laid).Inv := by
  unfold State.heldRefused
  split
  · exact h.refuse ..
  · split
    · exact inv_ite (fun _ => h) fun _ => h.endRecord ..
    · exact h
  · exact h
theorem State.Inv.drainLhart (p launch l n : Nat) : (s.drainLhart p launch l n).Inv := by
  unfold State.drainLhart
  split
  · exact h
  · next r _ =>
    have performed := h.foldl ((r.lhart l).due n) fun _ e _ h => State.Inv.performHeld h p launch l (r.lhart l) e
    dsimp only
    split
    · exact performed.frame
    · exact performed.frame
theorem State.Inv.drainRound {p launch : Nat} (e : s.drainRound p launch = some t) : t.Inv := by
  unfold State.drainRound at e
  split at e
  · cases e
  · dsimp only at e
    split at e
    · cases e
      exact (h.foldl _ fun _ _ _ h => State.Inv.drainLhart h ..).frame
    · cases e
theorem State.Inv.drainRounds (p launch fuel : Nat) : (s.drainRounds p launch fuel).Inv := by
  induction fuel generalizing s with
  | zero => exact h
  | succ fuel ih =>
    unfold State.drainRounds
    split
    · exact ih (State.Inv.drainRound h ‹_›)
    · exact h
theorem State.Inv.drainPoint (hid : Nat) : Gives State.Inv (s.drainPoint hid) := by
  unfold State.drainPoint
  split
  · exact gives_ok h
  · exact gives_ite (fun _ => gives_ok h) fun _ => gives_ite
      (fun _ => gives_after _ fun _ => gives_ok (State.Inv.drainLhart (h.updLhart ..) ..)) fun _ => gives_ok (h.updLhart ..)
theorem State.Inv.roundTry (p n : Nat) (ms : List (Nat × Nat)) (laid : List Nat) : (s.roundTry p n ms laid).Inv := by
  induction ms generalizing s laid with
  | nil => exact h
  | cons m ms ih => exact ih (State.Inv.heldRefused h ..) _
theorem State.Inv.roundRefused (p launch : Nat) : (s.roundRefused p launch).Inv := by
  unfold State.roundRefused
  split
  · exact h
  · exact inv_ite (fun _ => State.Inv.roundTry h ..) fun _ => h
theorem State.Inv.settle (p launch : Nat) : (s.settle p launch).Inv :=
  (State.Inv.roundRefused (State.Inv.drainRounds h ..) ..).groupsCheck p
theorem State.Inv.settleAllRounds : s.settleAllRounds.Inv := h.foldl _ fun _ _ _ h => State.Inv.settle h ..
theorem State.Inv.settleRounds (hid : Nat) : (s.settleRounds hid).Inv := inv_ite (fun _ => State.Inv.settle h ..) fun _ => h

/-! ## Who executes -/

omit h

theorem State.cur_foldl {α : Type} {f : State → α → State} (hf : ∀ s x, (f s x).cur = s.cur) (l : List α) (s : State) :
    (l.foldl f s).cur = s.cur := by
  induction l generalizing s with
  | nil => rfl
  | cons x l ih => exact (ih _).trans (hf s x)
theorem State.cur_performHeld (s : State) (p launch l : Nat) (x : LHart) (e : Held) : (s.performHeld p launch l x e).cur = s.cur := by
  have served : ∀ u : State, u.cur = s.cur → (if s.pins.isEmpty then u
      else (linesOf (heldSpan e).1 (heldSpan e).2).foldl (fun (s : State) k => s.served (x.who p launch l) k) u).cur = s.cur := by
    intro u hu
    split
    · exact hu
    · refine (State.cur_foldl ?_ _ u).trans hu
      exact fun _ _ => rfl
  refine served _ ?_
  split
  · rfl
  · dsimp only
    split
    · rfl
    · rfl
    · split <;> rfl
theorem State.cur_drainLhart (s : State) (p launch l n : Nat) : (s.drainLhart p launch l n).cur = s.cur := by
  unfold State.drainLhart
  split
  · rfl
  · next r _ =>
    have performed := State.cur_foldl (fun s e => s.cur_performHeld p launch l (r.lhart l) e) ((r.lhart l).due n) s
    dsimp only
    split <;> exact performed
theorem State.cur_drainPoint {hid : Nat} (e : s.drainPoint hid = .ok t) : t.cur = s.cur := by
  have kept : Gives (fun t => t.cur = s.cur) (s.drainPoint hid) := by
    unfold State.drainPoint
    split
    · exact gives_ok rfl
    · exact gives_ite (fun _ => gives_ok rfl) fun _ => gives_ite
        (fun _ => gives_after _ fun _ => gives_ok ((State.cur_drainLhart ..).trans (State.cur_updLhart ..)))
        fun _ => gives_ok (State.cur_updLhart ..)
  exact kept t e
theorem State.cur_tryWave (s : State) (p launch : Nat) : (s.tryWave p launch).cur = s.cur := by
  unfold State.tryWave
  split
  · split <;> rfl
  · rfl
theorem State.cur_makePending (s : State) : s.makePending.cur = s.cur := by
  unfold State.makePending
  dsimp only
  split
  · exact (State.cur_tryWave ..).trans (State.cur_updLhart ..)
  · exact State.cur_updLhart ..

include h

/-! ## Completion of a record (R65) -/

theorem keeps_onDrain {α : Type} {P : α → Prop} {r : Except Stop α} {k : α → Out} (hr : Gives P r) (hk : ∀ a, P a → Keeps (k a)) :
    Keeps (onDrain s r k) := by
  unfold onDrain
  split
  · exact hk _ (hr _ rfl)
  · exact keeps_next (h.refuse ..).waitMe
  · exact keeps_answerStop h _
theorem State.Inv.tryComplete (p launch : Nat) : (s.tryComplete p launch).Inv := by
  unfold State.tryComplete
  split
  · refine inv_ite (fun _ => h.tryFinish _) fun _ => inv_ite (fun _ => ?_) fun _ => h
    split
    · exact h.completeRec _ _ ‹_›
    · exact h.refuse ..
    · exact h
  · exact h
theorem State.Inv.settleDone : s.settleDone.Inv := h.foldl _ fun _ _ _ h => State.Inv.tryComplete h ..

/-! ## Slots of a core (R324) -/

omit h in
/-- No application core is a hart of a core. -/
theorem State.ne_app_of_mem_coreHarts {core hid : Nat} {f : Hart → Bool} (hm : hid ∈ s.coreHarts core f) : kindOf hid ≠ .app := by
  obtain ⟨e, he, rfl⟩ := List.mem_map.1 hm
  have := (List.mem_filter.1 he).2
  simp only [Bool.and_eq_true, decide_eq_true_eq] at this
  have lt : e.1 < seqBase := this.1.1.1
  exact ne_app_of_lt (lt.trans (by decide))
theorem State.Inv.lanesPass (core : Nat) : (s.lanesPass core).Inv :=
  inv_ite (fun _ => h) fun _ => h.foldl _ fun _ _ _ h => h.updHart fun a => a
theorem State.Inv.setTail (hid : Nat) (x : Hart) (r : List Hart) : (s.setTail hid x r).Inv := h
theorem State.Inv.addTail (hid : Nat) (x : Hart) : (s.addTail hid x).Inv := inv_ite (fun _ => h) fun _ => h.frame
theorem State.Inv.unpark {hid : Nat} (hk : kindOf hid ≠ .app) : (s.unpark hid).Inv := by
  unfold State.unpark
  split
  · exact h.freeSlot hk
  · split
    · exact inv_ite (fun _ => h) fun _ => (h.setRec _).setSlot _ hk
    · exact inv_when (((((h.setRec _).setSlot _ hk).addTail ..).freeSlot hk).groupLeave ..) fun h => State.Inv.tryComplete h ..
theorem State.Inv.unparkCore (core : Nat) : (s.unparkCore core).Inv :=
  inv_ite (fun _ => h) fun _ => h.foldl _ fun _ _ hm h => State.Inv.unpark h (State.ne_app_of_mem_coreHarts hm)
theorem State.Inv.slotFreed (hid : Nat) : (s.slotFreed hid).Inv :=
  inv_ite (fun _ => inv_when (State.Inv.unparkCore h _) fun h => h.lanesPass _) fun _ => h
theorem State.Inv.endedSlot (hid : Nat) (idle : Bool) : (s.endedSlot hid idle).Inv := by
  unfold State.endedSlot
  dsimp only
  split
  · next e =>
    have hk : kindOf hid ≠ .app := fun a => by
      rcases (h.app a).1 with r | r <;> exact absurd (e.1.symm.trans r) (by decide)
    exact ((h.freeSlot hk).slotFreed hid).settleEnds
  · exact h
theorem State.Inv.tailDone (hid : Nat) (x : Hart) (r : List Hart) : (s.tailDone hid x r).Inv := by
  have left : (if (s.hart hid).status = .free ∧ (s.hart hid).part = x.part ∧ (s.hart hid).launch = x.launch ∧
      (s.hart hid).logical = x.logical
      then ({ s with tails := assocPut [] s.tails hid r } : State).setHart hid { x with status := .free }
      else { s with tails := assocPut [] s.tails hid r }).Inv :=
    inv_ite (fun e => State.Inv.setHart h.frame fun a => absurd e.1 (h.app a).notFree) fun _ => h.frame
  exact inv_ite (fun _ => (left.tryComplete ..).lanesPass _) fun _ => left
theorem State.Inv.endOwner (hid : Nat) (x : Hart) (tval : Word) (vstart : Nat) : (s.endOwner hid x tval vstart).Inv := by
  unfold State.endOwner
  split
  · exact inv_ite (fun _ => h) fun _ => h.endRecord ..
  · exact h
theorem State.Inv.endHart {hid : Nat} (hk : kindOf hid ≠ .app) : Gives State.Inv (s.endHart hid) := by
  unfold State.endHart
  split
  · exact gives_ok (h.freeSlot hk)
  · next r _ =>
    refine (State.Inv.drainPoint h hid).bind fun s0 h0 => gives_ok ?_
    refine inv_when (State.Inv.slotFreed (State.Inv.groupLeave (inv_when ?_ fun h => State.Inv.settle h ..) ..) _) fun h =>
      State.Inv.tryComplete h ..
    exact ((h0.updLhart ..).addTail ..).freeSlot hk

/-! ## Groups (R69, R70) -/

theorem keeps_execJoin (x : AArgs) : Keeps (execJoin x s) := by
  have status : ∀ {u : State}, u.Inv → ∀ n, Keeps (.next (u.retire 8 fun h => h.setG x.d (word n))) := fun hu n =>
    keeps_retire hu _ fun a => a.setG ..
  exact keeps_onAgents h fun _ => keeps_ite (fun _ => status h 3) fun _ => keeps_ite (fun _ => status h 1) fun _ =>
    keeps_ite (fun _ => status h 2) fun _ => status (h.groupJoin ..) 0
theorem keeps_execLeave (x : AArgs) : Keeps (execLeave x s) := by
  refine keeps_onAgents h fun _ => ?_
  split
  · exact keeps_retire h _ fun a => a.setG ..
  · exact keeps_retire (h.groupLeave ..) _ fun a => a.setG ..
theorem keeps_gbarWait (x : AArgs) : Keeps (gbarWait x s) := by
  have goes : Keeps (.next ((s.updLhart s.cur fun l => { l with gwait := none }).retire 8 fun h => h.setG x.d 0)) :=
    keeps_retire (h.updLhart ..) _ fun a => a.setG ..
  unfold gbarWait
  split
  · exact keeps_ite (fun _ => keeps_next h.waitMe) fun _ => goes
  · exact goes
theorem keeps_execGbar (x : AArgs) : Keeps (execGbar x s) := by
  refine keeps_onAgents h fun _ => ?_
  split
  · exact keeps_retire h _ fun a => a.setG ..
  · refine keeps_ite (fun _ => keeps_gbarWait h x) fun _ => keeps_onDrain h (State.Inv.drainPoint h _) fun s0 h0 => ?_
    have arrived := (h0.releasePins s.cur (s.groupScope ‹_›)).updLhart s.cur fun l => { l with gwait := some (‹Grp› : Grp).phase }
    exact keeps_gbarWait (State.Inv.groupCheck (State.Inv.settleRounds arrived.frame _) ..) x

/-! ## SPAWN (R61, R62) -/

theorem inv_devRead128 (pa n : Nat) : (devRead128 s pa n).2.Inv := by
  induction n generalizing s pa with
  | zero => exact h
  | succ n ih => exact ih (h.devLoad pa 8) _
theorem State.Inv.readStart (va : Word) : Gives (fun r => r.2.Inv) (s.readStart va) := by
  refine gives_ite (fun _ => gives_error _) fun _ => gives_after _ fun gs => ?_
  split
  · exact gives_ite (fun _ => gives_ok (inv_devRead128 h ..)) fun _ => gives_after _ fun _ => gives_after _ fun _ =>
      gives_ok (h.servedSegs ..)
  · exact gives_error _
theorem keeps_execSpawn (x : AArgs) : Keeps (execSpawn x s) := by
  refine keeps_onAgents h fun _ => keeps_ite (fun _ => keeps_next h.waitMe) fun _ => ?_
  have read : Gives (fun r : List Byte × State × Nat => r.2.1.Inv) (do
      let (bs, s1) ← s.readStart (s.me.getG x.a)
      let st ← s1.spawnStatus bs (startRecOf bs) (s.partOf s.cur) (s.me.getG x.b).toNat (s.asidOf s.cur) (s.privileged s.cur)
      .ok (bs, s1, st)) := (State.Inv.readStart h _).bind fun _ h1 => gives_after _ fun _ => gives_ok h1
  exact keeps_onOk h read fun r h1 => keeps_ite (fun _ => keeps_retire (h1.updPart ..) _ fun a => a.setG ..) fun _ =>
    keeps_retire h1 _ fun a => a.setG ..

/-! ## Claims, waves and items (R68, R72 to R77) -/

theorem State.Inv.tryWave (p launch : Nat) : (s.tryWave p launch).Inv := by
  unfold State.tryWave
  split
  · exact inv_ite (fun _ => h) fun _ => h
  · exact h
theorem State.Inv.makePending : s.makePending.Inv :=
  inv_ite (fun _ => State.Inv.tryWave (h.updLhart ..) ..) fun _ => h.updLhart ..
theorem keeps_execClaim (x : MArgs) : Keeps (execClaim x s) :=
  keeps_onAgents h fun _ => keeps_ite (fun _ => keeps_raise h _ _) fun _ => keeps_retire (h.updLhart ..) _ id
theorem keeps_execClwait (x : AArgs) : Keeps (execClwait x s) := by
  have pending := inv_ite (c := (s.myLhart s.cur).adm = .admitted) (fun _ => h) fun _ => State.Inv.makePending h
  exact keeps_onAgents h fun _ => keeps_ite (fun _ => keeps_raise h _ _) fun _ =>
    keeps_ite (fun _ => keeps_retire pending _ id) fun _ => keeps_next pending.waitMe

theorem keeps_idoneEnd (hk : kindOf s.cur ≠ .app) : Keeps (idoneEnd s) :=
  keeps_onDrain h (State.Inv.endHart (h.setSlot _ hk) hk) fun _ h1 => keeps_next h1
theorem keeps_idoneNext (r : Rec) (hk : kindOf s.cur ≠ .app) : Keeps (idoneNext s r) := by
  refine keeps_ite (fun _ => keeps_next ?_) fun _ => ?_
  · have parked := State.Inv.setSlot h { s.me.updVec (fun v => { v with lanes := none }) with status := .parked } hk
    exact inv_ite (fun _ => parked.lanesPass _) fun _ => parked
  · split
    · exact keeps_idoneEnd h hk
    · exact keeps_next (State.Inv.setSlot (h.setRec _) _ hk)
theorem keeps_execIdone (x : AArgs) : Keeps (execIdone x s) := by
  refine keeps_onAgents h fun ha => ?_
  have hk : kindOf s.cur ≠ .app := fun a => by simp [allowed, a] at ha
  split
  · exact keeps_next (h.freeSlot hk)
  · next r _ =>
    have next : ∀ {u : State}, u.Inv → u.cur = s.cur → Keeps (match u.myRec s.cur with | some r => idoneNext u r | none => .next u) := by
      intro u hu same
      split
      · exact keeps_idoneNext hu _ (same ▸ hk)
      · exact keeps_next hu
    refine keeps_ite (fun _ => keeps_idoneEnd h hk) fun _ => keeps_ite (fun _ => keeps_next h.waitMe) fun _ =>
      keeps_ite (fun _ => keeps_idoneNext h _ hk) fun _ => keeps_ite (fun _ => ?_) fun _ => ?_
    · refine keeps_ite (fun _ => keeps_next (State.Inv.waitMe ?_)) fun _ => 
        keeps_onDrain ?_ (P := fun u => u.Inv ∧ u.cur = s.cur) (fun u e =>
          ⟨State.Inv.drainPoint ?_ _ u e, (State.cur_drainPoint e).trans ?_⟩)
          fun s2 ⟨h2, cur2⟩ => ?_
      · exact inv_unless h fun h => State.Inv.makePending h
      · exact inv_unless h fun h => State.Inv.makePending h
      · exact inv_unless h fun h => State.Inv.makePending h
      · split
        · rfl
        · exact State.cur_makePending s
      · refine next (inv_when ?_ fun h => State.Inv.tryWave h ..) ?_
        · exact (h2.releasePins ..).updLhart ..
        · split
          · exact (State.cur_tryWave ..).trans ((State.cur_updLhart ..).trans cur2)
          · exact (State.cur_updLhart ..).trans cur2
    · exact next (h.updLhart ..) (State.cur_updLhart ..)
theorem keeps_execVdrain (x : MArgs) : Keeps (execVdrain x s) :=
  keeps_onAgents h fun _ => keeps_ite (fun _ => keeps_retire h _ id) fun _ => keeps_next h.waitMe

end

end Sys2Proof.Machine
end

section
/-! What every step keeps: selection, placement, preemption and the Shutter. -/

open Sys2Proof Sys2Proof.Machine

namespace Sys2Proof.Machine

set_option Elab.async false

variable {s t : State}

/-! ## Slots -/

theorem StartRec.lt_of_mem_clusters {r : StartRec} {c : Nat} (h : c ∈ r.clusters) : c < 160 := List.mem_range.1 (List.mem_filter.1 h).1

/-- No slot of a cluster is an application core's. -/
theorem ne_app_of_mem_slots {c n hid : Nat} {seqr : Bool} {lo : Nat → Nat} (hc : c < 160) (hlo : ∀ k, lo k ≤ 4) (hn : n ≤ 8)
    (h : hid ∈ slotsOf c seqr lo n) : kindOf hid ≠ .app := by
  refine ne_app_of_lt ?_
  have apps : appBase = seqBase + 160 := by decide
  have cores : 32 * 160 ≤ seqBase := by decide
  unfold slotsOf at h
  split at h
  · obtain rfl := List.mem_singleton.1 h
    omega
  · obtain ⟨k, hk, hi⟩ := List.mem_flatMap.1 h
    obtain ⟨i, small, rfl⟩ := List.mem_map.1 hi
    have := hlo k
    have := List.mem_range.1 hk
    have := List.mem_range.1 small
    omega
theorem State.ne_app_of_mem_clusterHarts {c hid : Nat} {seqr : Bool} (hc : c < 160) (h : hid ∈ s.clusterHarts c seqr) : kindOf hid ≠ .app :=
  ne_app_of_mem_slots hc (fun _ => Nat.zero_le 4) (Nat.le_refl 8) (List.mem_filter.1 h).1

/-- Where the Shutter is the means, victims hold four lanes of a core at most (R322). -/
theorem State.holderShare_le {c k : Nat} {r : Rec} (h : s.shutterCase c r = true) : s.holderShare c k ≤ 4 := by
  have small : ∀ hid ∈ s.clusterHarts c false, (s.hart hid).share ≤ 4 := fun hid hm => by
    simp only [State.shutterCase, Bool.and_eq_true, List.all_eq_true, decide_eq_true_eq] at h
    exact (h.1.2 hid hm).1.1.2
  unfold State.holderShare
  split
  · exact small _ (List.mem_of_find?_eq_some ‹_›)
  · next e => exact small _ (by rw [e]; exact List.mem_cons_self ..)
  · decide

section
variable (h : s.Inv)
include h

/-! ## Selection (R319, R63) -/

theorem State.Inv.takeGroup (p : Nat) : (s.takeGroup p).Inv := by
  unfold State.takeGroup
  split
  · exact h
  · next r _ =>
    have joined : ∀ c : Prop, [Decidable c] → (if c then s else s.groupJoin p r.sr.group r.sr.members).Inv := fun c _ =>
      inv_unless h fun h => h.groupJoin ..
    refine inv_ite (fun _ => h) fun _ => inv_ite (fun _ => h) fun _ => inv_ite (fun _ => ?_) fun _ => (joined _).setRec _
    exact inv_when (((joined _).setRec _).updPart ..) fun h => State.Inv.tryComplete h ..
theorem State.Inv.selectRec (p : Nat) : (s.selectRec p).Inv := by
  refine inv_ite (fun _ => h) fun _ => ?_
  split
  · exact h
  · exact State.Inv.takeGroup h.frame p
theorem State.Inv.age (p q : Nat) : (s.age p q).Inv := by
  refine inv_ite (fun _ => h.updPart ..) fun _ => ?_
  split <;> exact h

/-! ## Placement (R321, R64) -/

theorem State.Inv.placeHart {hid : Nat} (hk : kindOf hid ≠ .app) (p launch l : Nat) (guest : Option Nat) :
    (s.placeHart hid p launch l guest).Inv := by
  have put : ∀ {u : State}, u.Inv → ∀ r x, ((u.setRec r).setHart hid x).Inv := fun hu _ x => hu.setSlot x hk
  have taken : ({ s with free := s.free + 1 } : State).Inv := h.frame
  unfold State.placeHart
  split
  · exact h
  · refine inv_ite (fun _ => ?_) fun _ => put taken _ _
    split
    · exact put taken _ _
    · exact (taken.setRec _).groupLeave ..
theorem State.Inv.grant {c : Nat} (hc : c < 160) (p launch : Nat) {lo : Nat → Nat} (hlo : ∀ k, lo k ≤ 4) (guest : Option Nat) :
    (s.grant p launch c lo guest).Inv := by
  unfold State.grant
  split
  · exact h
  · next r _ =>
    refine State.Inv.foldl _ (h.setRec _) fun u x hx hu => hu.placeHart ?_ ..
    exact ne_app_of_mem_slots hc hlo r.sr.share_le (List.fst_mem_of_mem_zipIdx hx)

/-! ## Preemption and the Shutter (R322, R323) -/

theorem State.Inv.switchOut {c : Nat} (hc : c < 160) (seqr : Bool) : (s.switchOut c seqr).Inv := by
  refine h.foldl _ fun u hid hm hu => hu.setSlot _ ?_
  split at hm
  · exact State.ne_app_of_mem_clusterHarts hc hm
  · split at hm
    · exact (List.mem_append.1 hm).elim (State.ne_app_of_mem_clusterHarts hc) (State.ne_app_of_mem_clusterHarts hc)
    · exact State.ne_app_of_mem_clusterHarts hc hm
theorem State.Inv.shutter {c : Nat} (hc : c < 160) (p launch share : Nat) (hs : ∀ k, s.holderShare c k ≤ 4) :
    (s.shutter p launch c share).Inv := by
  refine inv_ite (fun _ => State.Inv.foldl _ ?_ fun _ _ _ h => h.lanesPass _) fun _ => ?_
  all_goals
    refine State.Inv.grant (h.foldl _ fun u hid hm hu => ?_) hc _ _ hs _
    have victim := hu.setSlot ((u.hart hid).updVec fun v =>
      { v with lanes := some (16 / (u.hart hid).share), victim := true, passed := (u.hart hid).status == .held, expired := false })
      (State.ne_app_of_mem_clusterHarts hc hm)
    exact inv_ite (fun _ => victim.updLhart ..) fun _ => victim
theorem State.Inv.allot {c : Nat} (hc : c < 160) (p launch : Nat) : (s.allot p launch c).Inv := by
  unfold State.allot
  split
  · exact h
  · refine inv_ite (fun _ => h) fun _ => inv_ite (fun _ => h.grant hc _ _ (fun _ => Nat.zero_le 4) _) fun _ =>
      inv_ite (fun _ => h) fun _ => ?_
    exact inv_ite (fun means => h.shutter hc _ _ _ fun _ => State.holderShare_le means) fun _ => h.switchOut hc _
theorem State.Inv.placedAll (p launch : Nat) : (s.placedAll p launch).Inv := by
  unfold State.placedAll
  split
  · exact inv_when h fun h => h.updPart ..
  · exact h
theorem State.Inv.clusterGrant (p : Nat) : (s.clusterGrant p).Inv := by
  unfold State.clusterGrant
  split
  · exact h
  · refine inv_unless h fun h => inv_when (State.Inv.placedAll (inv_ite (fun _ => ?_) fun _ => ?_) ..) fun h => State.Inv.tryComplete h ..
    · exact h.foldl _ fun _ _ hm h => inv_unless h fun h => State.Inv.switchOut h (StartRec.lt_of_mem_clusters hm) _
    · exact h.foldl _ fun _ _ hm h => State.Inv.allot h (StartRec.lt_of_mem_clusters hm) ..

/-! ## The scheduler (R319, R321) -/

theorem State.Inv.settleCores : s.settleCores.Inv :=
  h.foldl _ fun _ _ _ h => inv_when (h.unparkCore _) fun h => h.lanesPass _
theorem State.Inv.schedule (p : Nat) (now : Bool) (k : Nat) : (s.schedule p now k).Inv := by
  induction k generalizing s with
  | zero => exact h
  | succ k ih =>
    exact inv_ite (fun _ => ih (inv_when (State.Inv.selectRec h p) fun h => State.Inv.clusterGrant (State.Inv.takeGroup h p) p))
      fun _ => inv_when (State.Inv.selectRec h p) fun h => State.Inv.clusterGrant (State.Inv.takeGroup h p) p
theorem State.Inv.settleSched : s.settleSched.Inv :=
  State.Inv.foldl _ (inv_when (State.Inv.settleCores h).settleEnds fun h => (State.Inv.settleAllRounds h).settleDone)
    fun _ _ _ h => State.Inv.schedule h ..

end

end Sys2Proof.Machine
end

section
/-! What every step keeps: saving, restoring and releasing harts, and the CSRs. -/

open Sys2Proof Sys2Proof.Machine

namespace Sys2Proof.Machine

set_option Elab.async false

variable {s t : State}

theorem assocGet_map_fix {α : Type} {d : α} {g : Nat × α → Nat × α} {k : Nat} (key : ∀ e, (g e).1 = e.1) (fix : ∀ e, e.1 = k → g e = e)
    (m : List (Nat × α)) : assocGet d (m.map g) k = assocGet d m k := by
  induction m with
  | nil => rfl
  | cons e m ih =>
    rw [List.map_cons]
    unfold assocGet
    rw [key]
    split
    · next same => rw [fix e same]
    · exact ih

/-! ## Status of application cores -/

section
variable (h : s.Inv)
include h

/-- A hart that is free, held, stopping or ending is no application core. -/
theorem State.Inv.ne_app {k : Nat} (hs : (s.hart k).status ≠ .running) (hw : (s.hart k).status ≠ .waiting) : kindOf k ≠ .app := fun a =>
  (h.app a).1.elim hs hw

/-! ## Saving (R347, R349) -/

theorem State.Inv.writeImages (area : Nat) (ims : List (Nat × Nat × Nat)) : (s.writeImages area ims).Inv :=
  h.foldl _ fun _ _ _ h => h.wrBytes ..
theorem State.Inv.unpoisonSpans (spans : List (Nat × Nat)) : (s.unpoisonSpans spans).Inv := h
omit h in
theorem keeps_fault (f : Fault) : Keeps (.fault f) := fun _ e => by cases e
omit h in
theorem Hart.status_giveLanes (h : Hart) : h.giveLanes.status = h.status := by
  unfold Hart.giveLanes
  split <;> rfl
theorem State.Inv.saveHart (hid : Nat) : Keeps (s.saveHart hid) := by
  fun_cases State.saveHart s hid
  case case2 => exact keeps_next (h.strike ..)
  case case3 => exact keeps_next (h.refuse ..)
  case case5 x st _ stopping p _ _ area _ _ _ seqr ims spans _ _ s1 s2 s3 s4 =>
    have hs : (s.hart hid).status = .stopping := (Hart.status_giveLanes _).symm.trans stopping
    have hk := State.Inv.ne_app h (k := hid) (by rw [hs]; decide) (by rw [hs]; decide)
    have h1 : s1.Inv := (h.deviceServed _).writeImages ..
    have h2 : s2.Inv := (h1.wr64 ..).unpoisonSpans _
    have h3 : s3.Inv := (h2.dropPins hid).setSlot _ hk
    have h4 : s4.Inv := h3.updLhart ..
    exact keeps_next ((h4.unrefuse hid).writeTrap ..)
  case case6 | case7 | case8 => exact keeps_fault _
  all_goals exact keeps_next h

/-! ## Restoring (R351) -/

theorem State.Inv.resume (p : Nat) (area : Word) (target : Nat) : (s.resume p area target).2.Inv := by
  refine inv_snd_ite (fun _ => h) fun free => inv_snd_ite (fun _ => h) fun _ => ?_
  have hk : kindOf target ≠ .app := by
    simp only [State.targetFree, Bool.not_eq_true', Bool.not_eq_false, Bool.and_eq_true, Bool.or_eq_true, beq_iff_eq] at free
    rcases free.1 with e | e <;> exact State.Inv.ne_app h (by rw [e]; decide) (by rw [e]; decide)
  split
  · exact h
  · exact inv_snd_ite (fun _ => ((h.errEvent ..).endRecord ..).settleEnds) fun _ => State.Inv.updLhart (h.setSlot _ hk) ..
theorem State.Inv.release (target : Nat) : (s.release target).2.Inv :=
  inv_snd_ite (fun e => State.Inv.slotFreed (h.freeSlot (State.Inv.ne_app h (by rw [e]; decide) (by rw [e]; decide))) _) fun _ => h
theorem State.Inv.kill (p : Nat) (area : Word) : (s.kill p area).2.Inv := by
  unfold State.kill
  split
  · exact (h.endRecord ..).settleEnds
  · exact h
theorem State.Inv.grantNow (p : Nat) : (s.grantNow p).Inv := State.Inv.schedule h ..
theorem State.Inv.listEntry (p : Nat) (area w1 : Word) : (s.listEntry p area w1).2.Inv := by
  refine State.Inv.grantNow ?_ p
  split
  · exact State.Inv.release h _
  · exact State.Inv.resume h ..
  · exact State.Inv.kill h ..
  · exact h
theorem State.Inv.resumeList (p fuel : Nat) : (s.resumeList p fuel).Inv := by
  induction fuel generalizing s with
  | zero => exact h
  | succ fuel ih => exact inv_unless h fun h => ih ((((State.Inv.listEntry h ..).wr64 ..).updPart ..).wr64 ..)

/-! ## asidtab (R306, R318, R346) -/

/-- Harts of withheld clusters stay; an application core is none of them (R325, R328). -/
theorem State.Inv.withheldStay : ({ s with
    harts := s.harts.map fun e =>
      let keep := (e.2.vec.victim && !e.2.vec.passed && e.2.vec.expired) || !e.2.preempt || e.1 ≥ appBase
      if keep || !s.withheld e.2.part (clusterOf e.1) then e else (e.1, { e.2 with preempt := false }) } : State).Inv := by
  refine h.withHarts fun k hk => ?_
  have above : appBase ≤ k := (kindOf_eq_app_iff.1 hk).1
  refine Eq.mpr (congrArg Hart.AppOk (assocGet_map_fix (fun e => ?_) (fun e same => ?_) s.harts)) (h.app hk)
  · dsimp only
    split <;> rfl
  · exact if_pos (by simp [same, above])
theorem State.Inv.readBlocks (v : Word) : (s.readBlocks v).Inv := by
  refine State.Inv.withheldStay (State.Inv.foldl _ ?_ fun _ _ _ h => h.updPart ..)
  exact State.Inv.frame h
theorem State.Inv.asidtabWrite (v : Word) : Keeps (s.asidtabWrite v) := by
  -- the function is replaced whole: beside its body, the kernel would compute where the blocks of a call lie
  obtain ⟨f, hf⟩ : ∃ f, f = State.asidtabWrite := ⟨_, rfl⟩
  rw [← hf]
  delta State.asidtabWrite at hf
  rw [hf]
  beta_reduce
  split
  · exact keeps_fault _
  · extract_lets s2 lists
    clear_value lists
    split
    · exact keeps_fault _
    · exact keeps_next ((State.Inv.readBlocks h v).foldl _ fun _ _ _ h => State.Inv.resumeList (State.Inv.grantNow h _) ..)

/-! ## CSRs (R156, R188, R189, R305 to R314) -/

omit h in
theorem bitsOf_lt (v : Word) (hi lo : Nat) : bitsOf v hi lo < 2 ^ (hi + 1 - lo) := Nat.mod_lt _ (Nat.two_pow_pos _)
theorem State.Inv.rcvalWrite (a v : Word) : (s.rcvalWrite a v).Inv := by
  have le : bitsOf v 7 0 ≤ 255 := Nat.le_of_lt_succ (bitsOf_lt v 7 0)
  unfold State.rcvalWrite
  split
  · exact h.setCount _ le
  · exact h.setSpCount _ _ le
  · exact h
theorem State.Inv.tokvalWrite (a v : Word) : (s.tokvalWrite a v).Inv := inv_ite (fun c => h.setTokens _ _ c.2) fun _ => h
theorem State.Inv.partcfgWrite (p : Nat) (v : Word) : (s.partcfgWrite p v).Inv :=
  inv_ite (fun _ => h) fun _ => inv_ite (fun _ => h.frame) fun _ => h.frame
theorem State.Inv.updApp (hid : Nat) (f : AppCore → AppCore) : (s.updHart hid fun x => x.updApp f).Inv := h.updHart fun a => a
theorem State.Inv.csrWritePriv (hid n : Nat) (v : Word) : Keeps (s.csrWritePriv hid n v) := by
  have upd : ∀ f : AppCore → AppCore, Keeps (.next (s.updHart hid fun x => x.updApp f)) := fun f => keeps_next (State.Inv.updApp h ..)
  fun_cases State.csrWritePriv s hid n v
  case case7 => exact State.Inv.asidtabWrite h _
  case case10 => exact keeps_next (State.Inv.partcfgWrite h ..)
  case case12 => exact keeps_next (State.Inv.rcvalWrite h ..)
  case case14 => exact keeps_next (State.Inv.tokvalWrite h ..)
  case case15 => exact keeps_next h.frame
  all_goals exact upd _
theorem State.Inv.csrWrite (hid n : Nat) (v : Word) : Keeps (s.csrWrite hid n v) := by
  have upd : ∀ f : Hart → Hart, (∀ x, x.AppOk → (f x).AppOk) → Keeps (.next (s.updHart hid f)) := fun f hf => keeps_next (h.updHart (hf _))
  fun_cases State.csrWrite s hid n v
  case case10 => exact State.Inv.csrWritePriv h _ _ _
  case case11 => exact keeps_next h
  all_goals exact upd _ fun _ a => a
omit h in
theorem keeps_andThen {o : Out} {k : State → Out} (ho : Keeps o) (hk : ∀ t, t.Inv → Keeps (k t)) : Keeps (andThen o k) := by
  unfold andThen
  split
  · exact hk _ (ho _ rfl)
  · exact keeps_fault _
  · exact keeps_refused _
theorem keeps_csrForm (x : CsrArgs) (wr : Word → Option Word) : Keeps (csrForm x s wr) := by
  refine keeps_onAgents h fun _ => keeps_ite (fun _ => keeps_raise h _ _) fun _ => keeps_ite (fun _ => keeps_illegal h) fun _ =>
    keeps_ite (fun _ => keeps_next h.waitMe) fun _ => keeps_onOk h (gives_trivial _) fun _ _ => ?_
  split
  · exact keeps_retire h _ fun a => a.setG ..
  · exact keeps_ite (fun _ => keeps_illegal h) fun _ => keeps_andThen (State.Inv.csrWrite h _ _ _) fun _ h1 =>
      keeps_retire h1 _ fun a => a.setG ..

/-! ## System calls and privileged instructions (R190, R315 to R317) -/

theorem keeps_execSyscall (x : NArgs) : Keeps (execSyscall x s) :=
  keeps_onAgents h fun _ => keeps_ite (fun _ => keeps_next h.waitMe) fun _ => keeps_next (inv_trapAt h ..)
theorem keeps_execBrk (x : NArgs) : Keeps (execBrk x s) :=
  keeps_onAgents h fun _ => keeps_ite (fun _ => keeps_next h.waitMe) fun _ => keeps_raise h _ _
theorem keeps_atExecutive {k : Out} (hk : Keeps k) : Keeps (atExecutive s k) := keeps_ite (fun _ => hk) fun _ => keeps_raise h _ _
theorem keeps_execXret (x : AArgs) : Keeps (execXret x s) :=
  keeps_atExecutive h (keeps_next (h.setMe fun a => ⟨.inl rfl, (h.app a).2⟩))
theorem keeps_execXwait (x : AArgs) : Keeps (execXwait x s) :=
  keeps_atExecutive h (keeps_ite (fun _ => keeps_retire h _ fun a => a) fun _ => keeps_next (h.setMe fun a => ⟨.inr rfl, (h.app a).2⟩))
theorem keeps_invalidate (f : TlbEntry → Bool) : Keeps (invalidate s f) :=
  keeps_ite (fun _ => keeps_next (State.Inv.waitMe h.frame)) fun _ => keeps_retire h.frame _ id
theorem keeps_execXinvt (x : AArgs) : Keeps (execXinvt x s) :=
  keeps_atExecutive h (keeps_ite (fun _ => keeps_illegal h) fun _ => keeps_ite (fun _ => keeps_retire h _ id) fun _ => keeps_invalidate h _)
theorem keeps_execXinvta (x : AArgs) : Keeps (execXinvta x s) :=
  keeps_atExecutive h (keeps_ite (fun _ => keeps_illegal h) fun _ => keeps_invalidate h _)
theorem keeps_execXinvtd (x : AArgs) : Keeps (execXinvtd x s) := keeps_atExecutive h (keeps_invalidate h _)
theorem keeps_execAsidtabWrite (v : Word) : Keeps (execAsidtabWrite v s) := by
  unfold execAsidtabWrite
  split
  · exact State.Inv.asidtabWrite h v
  · exact keeps_next h
theorem keeps_execCurasidWrite (hid : Nat) (v : Word) : Keeps (execCurasidWrite hid v s) := keeps_next (State.Inv.updApp h ..)
theorem keeps_execPartcfgWrite (p : Nat) (v : Word) : Keeps (execPartcfgWrite p v s) := keeps_next (State.Inv.partcfgWrite h ..)
theorem keeps_execRcvalWrite (hid : Nat) (v : Word) : Keeps (execRcvalWrite hid v s) := by
  refine keeps_next ?_
  split
  · exact State.Inv.rcvalWrite h ..
  · exact h
theorem keeps_execTokvalWrite (hid : Nat) (v : Word) : Keeps (execTokvalWrite hid v s) := keeps_next (State.Inv.tokvalWrite h ..)

end

end Sys2Proof.Machine
end

section
/-! What every step keeps: the entries of the vector queues (R198, R223 to R230, R234, R235, R248 to R254). -/

open Sys2Proof Sys2Proof.Machine

namespace Sys2Proof.Machine

set_option Elab.async false

variable {s : State}

/-! ## Ends of an entry -/

/-- The state that an entry leaves, however it ends, has a property. -/
def VEnd.All (P : State → Prop) : VEnd → Prop
  | .done _ t | .trap _ _ _ _ t | .hold _ t | .mark t | .stay _ t => P t
  | .poison .. => True

section
variable {P : State → Prop} {q : QEntry} {h : Hart}

theorem VEnd.All.mono {P' : State → Prop} {v : VEnd} (hv : v.All P) (imp : ∀ t, P t → P' t) : v.All P' := by
  cases v
  case poison => trivial
  all_goals exact imp _ hv
theorem all_ite {c : Prop} [Decidable c] {a b : VEnd} (ha : c → a.All P) (hb : ¬ c → b.All P) : (if c then a else b).All P := by
  split
  · exact ha ‹_›
  · exact hb ‹_›
theorem all_ofStop (hs : P s) (e : Stop) (t : Nat) (h : Hart) : (VEnd.ofStop e t h s).All P := by
  cases e
  case poison => trivial
  all_goals exact hs
theorem all_checked (hs : P s) {ok : Bool} {k : VEnd} (hk : k.All P) : (checked q h s ok k).All P := all_ite (fun _ => hk) fun _ => hs
theorem all_pureV (hs : P s) (ok : Bool) (f : Hart → Hart) : (pureV q h s ok f).All P := all_checked hs hs
theorem all_countOverrun {v : VEnd} {f : State → Word → State} (hv : v.All P) (hf : ∀ t w, P t → P (f t w)) : (countOverrun v f).All P := by
  unfold countOverrun
  split
  · exact hf _ _ hv
  · exact hv
end

/-- What every element keeps, the run of the elements keeps. -/
theorem elemLoop_keeps {α : Type} {P : α → Prop} {f : Nat → α → Except Stop α} (hf : ∀ e a, P a → Gives P (f e a))
    (es : List Nat) {a : α}
    (ha : P a) : P (elemLoop f es a).1 := by
  induction es generalizing a with
  | nil => exact ha
  | cons e r ih =>
    unfold elemLoop
    split
    · exact ih (hf e a ha _ ‹_›)
    · exact ha

section
variable {P : State → Prop} {hid : Nat} {h : Hart} (hs : P s) (serve : ∀ t who l, P t → P (State.served t who l))
include hs serve

omit hs in
theorem foldl_served {t : State} (ht : P t) (c : Bool) (ls : List Nat) (who : Nat) :
    P (if c then t else ls.foldl (fun s l => s.served who l) t) := by
  split
  · exact ht
  · induction ls generalizing t with
    | nil => exact ht
    | cons l ls ih => exact ih (serve _ _ _ ht)
theorem all_finishLoad (d : Reg) (w n : Nat) {r : LdSt × Option (Nat × Stop)} (hr : P r.1.s) : (finishLoad hid h s d w n r).All P := by
  unfold finishLoad
  split
  · exact foldl_served serve hr _ _ _
  · exact hr
  · exact all_ofStop hs _ _ _
theorem all_finishStores {clean : State → List (Nat × Byte) → State} (hc : ∀ t cells, P t → P (clean t cells))
    {r : StSt × Option (Nat × Stop)} (hr : P r.1.s) : (finishStores clean hid h s r).All P := by
  unfold finishStores
  split
  · exact foldl_served serve (hc _ _ hr) _ _ _
  · exact hc _ _ hr
  · exact all_ofStop hs _ _ _
end

section
variable {hid : Nat} {h : Hart} (i : s.Inv)
include i

/-! ## Held stores (R127) and elements of memory -/

theorem State.Inv.hold (hid : Nat) (h : Hart) (vas : List Nat) (es : List Held) : (s.hold hid h vas es).Inv := by
  unfold State.hold
  split <;> exact i
theorem State.Inv.markHeld (h : Hart) (k : Nat) (lines : List Nat) : (s.markHeld h k lines).Inv := by
  unfold State.markHeld
  split <;> exact i
theorem State.Inv.wrParts (ps : List (Nat × Byte × Byte)) :
    (ps.foldl (fun (s : State) p => s.wr8 p.1 (mergeByte (s.rd8 p.1) p.2.1 p.2.2)) s).Inv := i.foldl _ fun _ _ _ h => h.wr8 ..
theorem State.Inv.putParts (hid : Nat) (h : Hart) (cls : Nat) (gs : List Seg) (ps : List (Nat × Byte × Byte)) :
    (s.putParts hid h cls gs ps).Inv := by
  unfold State.putParts
  split
  · exact State.Inv.hold i ..
  · exact State.Inv.wrParts i ps
theorem State.Inv.postAdd (hid : Nat) (h : Hart) (va pa ef v : Nat) (grid : Bool) : (s.postAdd hid h va pa ef v grid).1.Inv := by
  unfold State.postAdd
  split
  · exact State.Inv.hold i ..
  · exact State.Inv.addAt i ..
omit i in
theorem State.Inv.unpoisonCells {t : State} (ht : t.Inv) (cells : List Nat) : (t.unpoisonCells cells).Inv := ht.frame
theorem State.Inv.overrunAt (hid : Nat) (h : Hart) (va : Word) : (overrunAt hid h s va).Inv := by
  unfold Machine.overrunAt
  split
  · exact i.lineEvent ..
  · exact i
theorem State.Inv.endLoad (d : Reg) (w n : Nat) {r : LdSt × Option (Nat × Stop)} (hr : r.1.s.Inv) :
    (finishLoad hid h s d w n r).All State.Inv := all_finishLoad i (fun _ _ _ h => h.served ..) d w n hr
theorem State.Inv.endStores {clean : State → List (Nat × Byte) → State} (hc : ∀ t cells, t.Inv → (clean t cells).Inv)
    {r : StSt × Option (Nat × Stop)} (hr : r.1.s.Inv) : (finishStores clean hid h s r).All State.Inv :=
  all_finishStores i (fun _ _ _ h => h.served ..) hc hr
theorem State.Inv.endStore {r : StSt × Option (Nat × Stop)} (hr : r.1.s.Inv) : (finishStore hid h s r).All State.Inv :=
  State.Inv.endStores i (fun _ _ ht => inv_ite (fun _ => State.Inv.markHeld ht ..) fun _ => inv_ite (fun _ => ht) fun _ =>
    State.Inv.unpoisonCells ht _) hr

/-! ## Loads and stores (R223 to R226, R229) -/

variable (x : MArgs) (q : QEntry)

theorem State.Inv.vload (ok : Bool) (n : Nat) (addr : Nat → Nat × Nat) : (vload hid x q h s ok n addr).All State.Inv :=
  all_checked i (State.Inv.endLoad i _ _ _ (elemLoop_keeps (P := fun a : LdSt => a.s.Inv)
    (fun _ a (ha : a.s.Inv) => gives_after _ fun _ => gives_ok ha.frame) _ i))
theorem State.Inv.vloadRd (ok : Bool) (n : Nat) (addr : Nat → Nat × Nat) : (vloadRd hid x q h s ok n addr).All State.Inv := by
  refine all_checked i ?_
  split
  · exact all_ofStop i _ _ _
  · refine State.Inv.endLoad i _ _ _ (elemLoop_keeps (P := fun a : LdSt => a.s.Inv) (fun e a ha => ?_) _ i)
    refine gives_after _ fun gs => gives_after _ fun _ => ?_
    dsimp only
    split
    · exact gives_error _
    · exact gives_after _ fun r => gives_ok (ha.foldl _ fun _ _ _ h => h.rdDec _)
theorem State.Inv.vstore (okCls : Nat → Bool) (ok : Bool) (n : Nat) (addr : Nat → Nat × Nat) :
    (vstore hid x q h s okCls ok n addr).All State.Inv :=
  all_checked i (State.Inv.endStore i (elemLoop_keeps (P := fun a : StSt => a.s.Inv)
    (fun _ _ ha => gives_after _ fun _ => gives_after _ fun _ => gives_ok (State.Inv.putParts ha ..)) _ i))
theorem State.Inv.vstConvert (first : Leaf) : (vstConvert hid x q h s first).All State.Inv := by
  refine State.Inv.endStore i (elemLoop_keeps (P := fun a : StSt => a.s.Inv) (fun e a ha => ?_) _ i)
  refine gives_after _ fun gs => ?_
  split
  · exact gives_error _
  · exact gives_after _ fun _ => gives_ok (State.Inv.putParts ha ..)
theorem State.Inv.runVst : (runVst hid x q h s).All State.Inv := by
  unfold Machine.runVst
  dsimp only
  split
  · split
    · exact State.Inv.vstore i ..
    · split
      · exact all_ofStop i _ _ _
      · exact all_checked i (State.Inv.vstConvert i ..)
      · exact State.Inv.vstore i ..
  · exact State.Inv.vstore i ..
theorem State.Inv.runVstRc : (runVstRc hid x q h s).All State.Inv := by
  refine all_checked i ?_
  split
  · exact all_ofStop i _ _ _
  · refine State.Inv.endStores i (fun _ _ ht => inv_ite (fun _ => ht) fun _ => State.Inv.unpoisonCells ht _)
      (elemLoop_keeps (P := fun a : StSt => a.s.Inv) (fun e a ha => ?_) _ i)
    exact gives_after _ fun gs => gives_after _ fun _ => gives_ok (State.Inv.wrParts (ha.foldl _ fun _ _ _ h => h.rcSet _ (rcN_le ..)) _)
theorem State.Inv.runVstxa : (runVstxa hid x q h s).All State.Inv := by
  refine all_checked i (State.Inv.endStore i (elemLoop_keeps (P := fun a : StSt => a.s.Inv) (fun e a ha => ?_) _ i))
  refine gives_ite (fun _ => gives_error _) fun _ => gives_after _ fun gs => ?_
  split
  · exact gives_after _ fun _ => gives_ite (fun _ => gives_after _ fun _ => gives_ok (State.Inv.postAdd ha ..)) fun _ =>
      gives_ok (State.Inv.postAdd ha ..)
  · exact gives_ok ha

/-! ## Coded memory and grids (R234, R235, R244 to R250) -/

theorem State.Inv.runVcld : (runVcld hid x q h s).All State.Inv := by
  refine all_checked i ?_
  dsimp only
  split
  · exact foldl_served (fun _ _ _ h => h.served ..) i _ _ _
  · exact i
  · exact all_ofStop i _ _ _
theorem State.Inv.runVcst : (runVcst hid x q h s).All State.Inv := by
  refine all_checked i ?_
  generalize e : finishStore hid h s _ = v
  have hv : v.All State.Inv := by
    rw [← e]
    exact State.Inv.endStore i (elemLoop_keeps (P := fun a : StSt => a.s.Inv)
      (fun _ _ ha => gives_after _ fun _ => gives_after _ fun _ => gives_ok (State.Inv.putParts ha ..)) _ i)
  cases v <;> exact hv
theorem State.Inv.runGdesc : (runGdesc hid x q h s).All State.Inv := by
  refine all_ite (fun _ => i) fun _ => ?_
  split
  · exact all_ofStop i _ _ _
  · exact all_ite (fun _ => State.Inv.servedSegs i ..) fun _ => i

end

end Sys2Proof.Machine
end

section
/-! What every step keeps: coded instructions, grids, scratchpads, VFENCE and the reader-count instructions. -/

open Sys2Proof Sys2Proof.Machine

namespace Sys2Proof.Machine

set_option Elab.async false

variable {s : State}

section
variable {P : State → Prop} {q : QEntry} {h : Hart} (hs : P s)
include hs

theorem all_codedElem (ok : Bool) (a : Codes) (b : Option Codes) (lim : Nat) (d : Option Reg) (f : Nat → Option CodeRes) :
    (codedElem q h s ok a b lim d f).All P := all_checked hs hs
theorem all_runVccat (x : VArgs) : (runVccat x q h s).All P := by
  refine all_checked hs ?_
  split
  split
  exact hs
theorem all_gridCheck (x : VArgs) {k : GSlot → VEnd} (hk : ∀ g, (k g).All P) : (gridCheck x q h s k).All P :=
  all_checked hs (all_ite (fun _ => hk _) fun _ => hs)
end

theorem foldl_fst_inv {α β : Type} {f : State × β → α → State × β} (hf : ∀ b x, b.1.Inv → (f b x).1.Inv)
    (l : List α) {b : State × β}
    (hb : b.1.Inv) : (l.foldl f b).1.Inv := by
  induction l generalizing b with
  | nil => exact hb
  | cons x l ih => exact ih (hf _ _ hb)

section
variable {hid : Nat} {h : Hart} (i : s.Inv)
include i

theorem State.Inv.runGload (x : VArgs) (q : QEntry) : (runGload hid x q h s).All State.Inv := by
  refine all_gridCheck i _ fun g => State.Inv.endLoad i _ _ _ ?_
  refine elemLoop_keeps (P := fun a : LdSt × Flags => a.1.s.Inv) (fun e a ha => ?_) _ i
  exact gives_after _ fun es => gives_after _ fun _ => gives_after _ fun _ => gives_ok ha.frame
theorem State.Inv.runGscat (x : VArgs) (q : QEntry) : (runGscat hid x q h s).All State.Inv := by
  refine all_gridCheck i _ fun g => State.Inv.endStore i (elemLoop_keeps (P := fun a : StSt => a.s.Inv) (fun e a ha => ?_) _ i)
  refine gives_after _ fun es => gives_after _ fun _ => gives_ite (fun _ => gives_after _ fun _ => gives_ok ?_) fun _ => gives_ok ?_
  all_goals
    refine foldl_fst_inv (fun b p hb => ?_) _ (b := (a.s, 0)) ha
    exact State.Inv.postAdd hb ..

/-! ## Scratchpads (R93, R121, R228, R229) -/

/-- What a scratchpad instruction keeps between its pop and its push: the invariant, and the tokens. -/
def TokKept (tok : List (Nat × Nat)) (t : State) : Prop := t.Inv ∧ t.tok = tok

omit i in
theorem TokKept.foldl {α : Type} {tok : List (Nat × Nat)} {f : State → α → State} (hf : ∀ t x, TokKept tok t → TokKept tok (f t x))
    (l : List α)
    {t : State} (ht : TokKept tok t) : TokKept tok (l.foldl f t) := by
  induction l generalizing t with
  | nil => exact ht
  | cons x l ih => exact ih (hf _ _ ht)
omit i in
theorem State.tok_clusterEvent (s : State) (c : Nat) (f : Part → Part) : (s.clusterEvent c f).tok = s.tok := by
  unfold State.clusterEvent
  split <;> rfl
omit i in
theorem State.tok_spRcSet (s : State) (c b n : Nat) : (s.spRcSet c b n).tok = s.tok := by
  unfold State.spRcSet
  dsimp only
  split
  · exact State.tok_clusterEvent ..
  · rfl
/-- A pop leaves room for the push; without one the push has waited for room (R121). -/
theorem State.Inv.spToken (x : SArgs) {t : State} (e : s.spToken hid x h = some t) :
    t.Inv ∧ (x.tp = true → t.tokens (clusterOf hid) x.kf.toNat + 1 ≤ 32) := by
  have le := i.tokens_le (clusterOf hid) x.kf.toNat
  unfold State.spToken at e
  dsimp only at e
  split at e
  · split at e
    · cases e
    · cases e
      refine ⟨i.setTokens _ _ (by omega), fun _ => ?_⟩
      unfold State.tokens State.setTokens
      rw [assocGet_put_same]
      unfold State.tokens at *
      omega
  · split at e
    · cases e
    · next full =>
      cases e
      refine ⟨i, fun tp => ?_⟩
      simp only [tp, Bool.true_and, decide_eq_true_eq] at full
      omega
theorem State.Inv.spEnd (x : SArgs) {s1 : State} (room : x.tp = true → s1.tokens (clusterOf hid) x.kf.toNat + 1 ≤ 32) {v : VEnd}
    (hv : v.All (TokKept s1.tok)) : (spEnd hid x s v).All State.Inv := by
  unfold Machine.spEnd
  split
  · refine inv_ite (fun tp => hv.1.setTokens _ _ ?_) fun _ => hv.1
    have := room tp
    unfold State.tokens at this ⊢
    rw [hv.2]
    exact this
  · exact hv.1
  · exact i
  · exact hv.mono fun _ a => a.1
theorem State.Inv.withToken (x : SArgs) (q : QEntry) {k : State → VEnd} (hk : ∀ s1 : State, s1.Inv → (k s1).All (TokKept s1.tok)) :
    (withToken hid x q h s k).All State.Inv := by
  refine all_checked i ?_
  split
  · exact i
  · next e =>
    obtain ⟨i1, room⟩ := State.Inv.spToken i x e
    exact State.Inv.spEnd i x room (hk _ i1)
theorem State.Inv.spLoad (x : SArgs) (q : QEntry) (rd : Bool) : (spLoad hid x q h s rd).All State.Inv := by
  refine State.Inv.withToken i x q fun s1 i1 => ?_
  have k1 : TokKept s1.tok s1 := ⟨i1, rfl⟩
  refine all_finishLoad k1 (fun _ _ _ k => ⟨k.1.served .., k.2⟩) _ _ _
    (elemLoop_keeps (P := fun a : LdSt => TokKept s1.tok a.s) (fun e a ha => ?_) _ k1)
  refine gives_after _ fun _ => gives_after _ fun _ => gives_ite (fun _ => ?_) fun _ => gives_ok ha
  dsimp only
  split
  · exact gives_error _
  · exact gives_ok (TokKept.foldl (fun _ _ k => ⟨k.1.spRdDec .., k.2⟩) _ ha)
theorem State.Inv.spStore (x : SArgs) (q : QEntry) (rc : Option Nat) (hrc : ∀ k, rc = some k → k ≤ 255) :
    (spStore hid x q h s rc).All State.Inv := by
  refine State.Inv.withToken i x q fun s1 i1 => ?_
  have k1 : TokKept s1.tok s1 := ⟨i1, rfl⟩
  refine all_finishStores k1 (fun _ _ _ k => ⟨k.1.served .., k.2⟩) (fun t _ k => ?_)
    (elemLoop_keeps (P := fun a : StSt => TokKept s1.tok a.s) (fun e a ha => ?_) _ k1)
  · split
    · exact k
    · exact ⟨k.1.frame, k.2⟩
  · refine gives_after _ fun _ => gives_ok (TokKept.foldl (fun _ _ k => ⟨k.1.spWrite .., k.2⟩) _ ?_)
    split
    · exact TokKept.foldl (fun t _ k => ⟨k.1.spRcSet _ _ (hrc _ rfl), (State.tok_spRcSet ..).trans k.2⟩) _ ha
    · exact ha
theorem State.Inv.runVldspRd (x : SArgs) (q : QEntry) : (runVldspRd hid x q h s).All State.Inv :=
  all_countOverrun (State.Inv.spLoad i ..) fun _ _ h => h.clusterEvent ..
theorem State.Inv.runVstspRc (x : SArgs) (q : QEntry) : (runVstspRc hid x q h s).All State.Inv :=
  State.Inv.spStore i x q _ fun _ e => by cases e; exact rcN_le ..

/-! ## VFENCE (R230) -/

theorem State.Inv.runVfence (x : MArgs) (q : QEntry) : (runVfence hid x q h s).All State.Inv := by
  unfold Machine.runVfence
  split
  · exact i
  · refine all_ite (fun _ => i) fun _ => all_ite (fun _ => ?_) fun _ => ?_
    · split
      · next e => exact State.Inv.drainPoint i hid _ e
      · exact all_ofStop i _ _ _
    · exact all_ite (fun _ => inv_ite (fun _ => State.Inv.settle (State.Inv.setRec i _) ..) fun _ => State.Inv.setRec i _) fun _ =>
        all_ite (fun _ => State.Inv.setRec i _) fun _ => i

/-! ## GSYNC and reader counts (R251 to R254) -/

theorem keeps_execGsync (x : VArgs) : Keeps (execGsync x s) :=
  keeps_onAgents i fun _ => keeps_ite (fun _ => keeps_next i.waitMe) fun _ => keeps_retire i _ id
theorem keeps_countedOp {k : Out} (hk : Keeps k) : Keeps (countedOp s k) :=
  keeps_onAgents i fun _ => keeps_ite (fun _ => keeps_next i.waitMe) fun _ => hk
theorem keeps_execRcclose (x : AArgs) : Keeps (execRcclose x s) :=
  keeps_countedOp i (keeps_ite (fun _ => keeps_retire i _ fun a => a.setG ..) fun _ => keeps_ite (fun _ => keeps_illegal i) fun _ =>
    keeps_onOk i (gives_trivial _) fun _ _ =>
      keeps_retire (State.Inv.servedSegs (i.foldl _ fun _ _ _ h => h.rcClose _) ..) _ fun a => a.setG ..)
theorem keeps_execRcclosesp (x : AArgs) : Keeps (execRcclosesp x s) :=
  keeps_countedOp i (keeps_ite (fun _ => keeps_retire i _ fun a => a.setG ..) fun _ => keeps_ite (fun _ => keeps_illegal i) fun _ =>
    keeps_ite (fun _ => keeps_raise i _ _) fun _ =>
      keeps_retire (i.foldl _ fun _ _ _ h => (h.clusterEvent ..).setSpCount _ _ (Nat.zero_le _)) _ fun a => a.setG ..)
theorem keeps_execRcquery (x : AArgs) : Keeps (execRcquery x s) := by
  refine keeps_countedOp i (keeps_onOk i (gives_trivial _) fun gs _ => ?_)
  split
  · exact keeps_retire (State.Inv.servedSegs i ..) _ fun a => a.setG ..
  · exact keeps_retire i _ fun a => a.setG ..
theorem keeps_execRcquerysp (x : AArgs) : Keeps (execRcquerysp x s) :=
  keeps_countedOp i (keeps_ite (fun _ => keeps_raise i _ _) fun _ => keeps_retire i _ fun a => a.setG ..)

end

end Sys2Proof.Machine
end

section
/-! What every step keeps: the matrix sequencer (R255 to R268). -/

open Sys2Proof Sys2Proof.Machine

namespace Sys2Proof.Machine

set_option Elab.async false

variable {s t : State}

/-! ## Tokens of commands (R121, R257) -/

section
variable (i : s.Inv)
include i

/-- A push into a FIFO that has room, or had it when its tokens were as they are. -/
theorem State.Inv.pushToken {c : Nat} {p : Option Nat} (room : t.pushRoom c p = true) (htok : s.tok = t.tok := by rfl) :
    (s.pushToken c p).Inv := by
  unfold State.pushToken
  split
  · refine i.setTokens _ _ ?_
    unfold State.pushRoom State.tokens at room
    rw [← htok] at room
    exact of_decide_eq_true room
  · exact i

/-- What the issue of a command keeps (R257). -/
def IssueKept (s : State) (r : Hart × State) : Prop := r.2.Inv ∧ r.2.cur = s.cur

theorem issueKept_popThen (hid : Nat) (x : XArgs) {k : State → Issue}
    (hk : ∀ t : State, t.Inv → t.cur = s.cur → Gives (IssueKept s) (k t)) :
    Gives (IssueKept s) (popThen hid x s k) := by
  have le := i.tokens_le (clusterOf hid) x.pop.toNat
  exact gives_ite (fun _ => gives_ite (fun _ => gives_error _) fun _ => hk _ (i.setTokens _ _ (by omega)) rfl) fun _ => hk _ i rfl

/-! ## Issue of the matrix commands (R259 to R267) -/

variable (hid : Nat) (x : XArgs) (o : XOps) (h : Hart)

theorem issueKept_issueMcfg : Gives (IssueKept s) (issueMcfg hid x o h s) := gives_ite (fun _ => gives_ok ⟨i, rfl⟩) fun _ => gives_error _
theorem issueKept_issueMsettl : Gives (IssueKept s) (issueMsettl hid x o h s) := gives_ok ⟨i, rfl⟩
theorem issueKept_enqueue (c : MCmd) : Gives (IssueKept s) (enqueue hid x c h s) := by
  unfold enqueue
  split
  · exact gives_error _
  · exact gives_ite (fun _ => gives_error _) fun _ => issueKept_popThen i _ _ fun _ ht hc => gives_ok ⟨ht.frame, hc⟩
theorem issueKept_issueMlda : Gives (IssueKept s) (issueMlda hid x o h s) := by
  refine gives_ite (fun _ => gives_error _) fun _ => ?_
  split
  · exact gives_error _
  · refine gives_ite (fun _ => gives_error _) fun _ => gives_ite (fun _ => gives_error _) fun _ =>
      gives_ite (fun _ => gives_error _) fun _ => ?_
    exact gives_ite (fun _ => gives_after _ fun _ => issueKept_enqueue i _ _ _ _) fun _ => issueKept_enqueue i _ _ _ _
theorem issueKept_issueMldb : Gives (IssueKept s) (issueMldb hid x o h s) := by
  refine gives_ite (fun _ => gives_error _) fun _ => ?_
  split
  · exact gives_error _
  · exact issueKept_enqueue i _ _ _ _
theorem issueKept_issueProduct (j : Instr) (kr : Bool) : Gives (IssueKept s) (issueProduct hid x j kr o h s) :=
  gives_ite (fun _ => gives_error _) fun _ => gives_ite (fun _ => gives_error _) fun _ => issueKept_enqueue i _ _ _ _
theorem issueKept_issueMld : Gives (IssueKept s) (issueMld hid x o h s) :=
  gives_ite (fun _ => gives_error _) fun _ => issueKept_enqueue i _ _ _ _
theorem issueKept_issueMst : Gives (IssueKept s) (issueMst hid x o h s) :=
  gives_ite (fun _ => gives_error _) fun _ => gives_ite (fun _ => gives_error _) fun _ => issueKept_enqueue i _ _ _ _

end

/-! ## The head of a matrix queue (R68, R119, R257) -/

/-- A hart may stand where the matrix engine's hart of a cluster stands: the hart of an application core there has to run or wait. -/
def State.EngineOk (s : State) (cl : Nat) (x : Hart) : Prop :=
  assocGet [] s.tails (seqBase + cl) = [] → kindOf (seqBase + cl) = .app → x.AppOk

theorem Hart.AppOk.accrueAll {h : Hart} (a : h.AppOk) (rs : List ERes) : (h.accrueAll rs).AppOk := by
  have all : ∀ (l : List ERes) {h : Hart}, h.AppOk → (l.foldl (fun (h : Hart) r => h.accrue r.fl) h).AppOk := fun l => by
    induction l with
    | nil => exact id
    | cons r l ih => exact fun a => ih (a.accrue _)
  have r := all rs a
  unfold Hart.accrueAll Hart.setSat
  split <;> exact r

section
variable (i : s.Inv) (cl : Nat)
include i

theorem State.Inv.engineHart : s.EngineOk cl (s.engineHart cl) := fun none app => by
  unfold State.engineHart
  rw [none]
  exact i.app app
theorem State.Inv.setEngineHart {x : Hart} (hx : s.EngineOk cl x) : (s.setEngineHart cl x).Inv := by
  unfold State.setEngineHart
  split
  · exact State.Inv.setTail i ..
  · next none => exact i.setHart (hx none)
theorem State.Inv.matrixLeft : (s.matrixLeft cl).Inv := by
  unfold State.matrixLeft
  split
  · exact inv_ite (fun _ => State.Inv.tailDone i ..) fun _ => i
  · exact State.Inv.endedSlot i ..
theorem State.Inv.matrixStrike (h : Hart) (tval : Word) : (s.matrixStrike cl h tval).Inv := by
  unfold State.matrixStrike
  split
  · exact State.Inv.matrixLeft (State.Inv.endOwner i ..) cl
  · exact State.Inv.strike i ..
omit i in
theorem State.tok_setEngineHart (s : State) (cl : Nat) (h : Hart) : (s.setEngineHart cl h).tok = s.tok := by
  unfold State.setEngineHart
  split <;> rfl

/-- What the head of a matrix queue does. -/
def MatrixKept (s : State) (h : Hart) (r : Hart × State) : Prop :=
  r.2.Inv ∧ r.2.tok = s.tok ∧ r.2.tails = s.tails ∧ (h.AppOk → r.1.AppOk)
omit i in
theorem foldl_spWrite {α : Type} (l : List α) (cl : Nat) (off : α → Nat) (bs : α → List Byte) {s : State} (h : s.Inv) :
    (l.foldl (fun (s : State) r => s.spWrite cl (off r) (bs r)) s).Inv ∧
      (l.foldl (fun (s : State) r => s.spWrite cl (off r) (bs r)) s).tok = s.tok ∧
      (l.foldl (fun (s : State) r => s.spWrite cl (off r) (bs r)) s).tails = s.tails := by
  induction l generalizing s with
  | nil => exact ⟨h, rfl, rfl⟩
  | cons r l ih => exact ih (h.spWrite ..)
theorem State.Inv.runDrain (x : XArgs) (c : MCmd) (h : Hart) : MatrixKept s h (runDrain x c cl h s) := by
  unfold Machine.runDrain
  extract_lets kind os rs off s0 s1 h1
  obtain ⟨i0, tok0, tails0⟩ : s0.Inv ∧ s0.tok = s.tok ∧ s0.tails = s.tails := foldl_spWrite rs cl _ _ i
  obtain ⟨i1, tok1, tails1⟩ : s1.Inv ∧ s1.tok = s.tok ∧ s1.tails = s.tails := by
    unfold s1
    split
    · exact ⟨i0, tok0, tails0⟩
    · exact ⟨i0.frame, tok0, tails0⟩
  refine ⟨i1, tok1, tails1, fun a => Hart.AppOk.accrueAll ?_ _⟩
  unfold h1
  split <;> exact a
theorem State.Inv.runMatrix (c : MCmd) (h : Hart) : MatrixKept s h (runMatrix c cl h s) := by
  have prod (d : Nat) (a : h.AppOk) : (runProduct c d h).AppOk := by
    unfold runProduct
    split
    · exact Hart.AppOk.accrueAll (h := h.updMx _) a _
    · exact a
  unfold Machine.runMatrix
  split
  case h_7 x _ => exact State.Inv.runDrain i cl x c h
  case h_3 | h_4 => exact ⟨i, rfl, rfl, prod _⟩
  all_goals exact ⟨i, rfl, rfl, id⟩
/-- A step of the matrix engine. -/
theorem State.Inv.matrixStep (e : s.matrixStep cl = some t) : t.Inv := by
  have ok := State.Inv.engineHart i cl
  unfold State.matrixStep at e
  dsimp only at e
  split at e
  · cases e
  · next c r _ =>
    have leave (u : State) (h : Hart) (hu : u.Inv) (hh : u.EngineOk cl h) (tok : u.tok = s.tok)
        (room : s.pushRoom cl (pushOf c.ins) = true) :
        (((u.setEngineHart cl h.popMatrix).pushToken cl (pushOf c.ins)).matrixLeft cl).Inv :=
      State.Inv.matrixLeft (State.Inv.pushToken (State.Inv.setEngineHart (x := h.popMatrix) hu cl fun n a => hh n a) room
        ((State.tok_setEngineHart ..).trans tok)) cl
    split at e
    · split at e
      · next room => cases e; exact leave _ _ i ok rfl room
      · cases e
    · split at e
      · cases e
      · split at e
        · cases e; exact State.Inv.matrixStrike (State.Inv.setEngineHart (x := (s.engineHart cl).popMatrix) i cl fun n a => ok n a) cl ..
        · cases e
        · cases e
          obtain ⟨i1, tok1, tails1, app1⟩ := State.Inv.runMatrix i cl c (s.engineHart cl)
          have ok1 : (Machine.runMatrix c cl (s.engineHart cl) s).2.EngineOk cl (Machine.runMatrix c cl (s.engineHart cl) s).1 := fun n a =>
            app1 (ok (tails1 ▸ n) a)
          refine inv_ite (fun room => leave _ _ i1 ok1 tok1 room) fun _ => State.Inv.setEngineHart i1 cl fun n a => ok1 n a
end

end Sys2Proof.Machine
end

section
/-! What every step keeps: the copy, scan and tier engines, tokens, EFENCE and LOOPB (R270 to R277). -/

open Sys2Proof Sys2Proof.Machine

namespace Sys2Proof.Machine

set_option Elab.async false

variable {s t : State}

/-- The counts that a command sets (R96). -/
def CmdKind.CountOk (k : CmdKind) : Prop := ∀ sp p steps run n, k = .copyIn sp p steps run (some n) → n ≤ 255
theorem countOk_scan (rbase : Word) (count thr fmt : Nat) (obuf : Word) (seg : Nat) (todo : List Nat) :
    (CmdKind.scan rbase count thr fmt obuf seg todo).CountOk := fun _ _ _ _ _ e => nomatch e
theorem countOk_tier (evict : Bool) (gs : List Nat) (sched : Bool) (stage : TierStage) : (CmdKind.tier evict gs sched stage).CountOk :=
  fun _ _ _ _ _ e => nomatch e

theorem State.cur_servedSegs (s : State) (who : Nat) (gs : List Seg) : (s.servedSegs who gs).cur = s.cur := by
  unfold State.servedSegs
  split
  · rfl
  · exact State.cur_foldl (f := fun s l => s.served who l) (fun _ _ => rfl) ..

section
variable (i : s.Inv)
include i

/-! ## Issue (R257, R270 to R276) -/

variable (hid : Nat) (x : XArgs) (o : XOps) (h : Hart)

theorem issueKept_issueNest : Gives (IssueKept s) (issueNest hid x o h s) := by
  refine gives_ite (fun _ => gives_error _) fun _ => gives_after _ fun gs => gives_after _ fun _ => gives_after _ fun _ => ?_
  split
  · exact gives_error _
  · exact gives_ok ⟨State.Inv.servedSegs i .., State.cur_servedSegs ..⟩
theorem issueKept_addCmd {kind : CmdKind} (hk : kind.CountOk) (xl : List (Nat × Nat)) (b : Option BObj) :
    Gives (IssueKept s) (addCmd hid x o h s kind xl b) := by
  refine issueKept_popThen i _ _ fun t ht hc => gives_ok ⟨?_, hc⟩
  refine State.Inv.frame (State.Inv.setCmds ht fun c hc => ?_)
  rcases List.mem_append.1 hc with old | new
  · exact ht.cmd old
  · rw [List.mem_singleton.1 new]; exact hk
theorem issueKept_issueCpy (out : Bool) : Gives (IssueKept s) (issueCpy out hid x o h s) := by
  refine gives_ite (fun _ => gives_error _) fun _ => ?_
  dsimp only
  split
  · exact gives_error _
  · split
    · exact gives_error _
    · refine gives_after _ fun xl => gives_after _ fun b => issueKept_addCmd i _ _ _ _ ?_ _ _
      intro sp p steps run n e
      split at e
      · cases e
      · injection e with _ _ _ _ rc
        split at rc
        · cases rc
          unfold cpyN
          omega
        · cases rc
theorem issueKept_issueScank : Gives (IssueKept s) (issueScank hid x o h s) := by
  refine gives_ite (fun _ => gives_error _) fun _ => gives_after _ fun gs => gives_after _ fun _ => gives_after _ fun _ => ?_
  refine gives_ite (fun _ => gives_error _) fun _ => gives_after _ fun _ => gives_after _ fun _ => gives_after _ fun _ => ?_
  exact (issueKept_addCmd (State.Inv.servedSegs i ..) _ _ _ _ (countOk_scan _ _ _ _ _ _ _) _ _).mono fun r a =>
    ⟨a.1, a.2.trans (State.cur_servedSegs ..)⟩
theorem issueKept_issueTier (evict : Bool) : Gives (IssueKept s) (issueTier evict hid x o h s) :=
  gives_ite (fun _ => gives_error _) fun _ => gives_after _ fun _ => gives_after _ fun _ =>
    issueKept_addCmd i _ _ _ _ (countOk_tier _ _ _ _) _ _
theorem issueKept_issueTokpost : Gives (IssueKept s) (issueTokpost hid x o h s) := by
  refine gives_ite (fun _ => gives_error _) fun _ => gives_ite (fun _ => gives_error _) fun room =>
    gives_ok ⟨State.Inv.pushToken i (t := s) ?_, rfl⟩
  simpa using room
theorem issueKept_issueTokwait : Gives (IssueKept s) (issueTokwait hid x o h s) := issueKept_popThen i _ _ fun _ ht hc => gives_ok ⟨ht, hc⟩

end

/-! ## Completion (R82, R117 to R119, R271 to R275) -/

section
variable (i : s.Inv)
include i

theorem State.Inv.writePieces (ps : List (Nat × Nat)) (bs : List Byte) : (s.writePieces ps bs).Inv := by
  induction ps generalizing s bs with
  | nil => exact i
  | cons p r ih => exact ih ((i.wrBytes ..).unpoison ..) _
theorem State.Inv.servedPieces (c : Cmd) (ps : List (Nat × Nat)) : (s.servedPieces c ps).Inv :=
  inv_ite (fun _ => i) fun _ => i.foldl _ fun _ _ _ h => h.served ..
theorem State.Inv.report (c : Cmd) (n : Nat) : (s.report c n).Inv := by
  unfold State.report
  split
  · exact (inv_bobjAct i ..).served ..
  · exact i
theorem State.Inv.dropCmd (c : Cmd) : (s.dropCmd c).Inv := by
  unfold State.dropCmd
  split <;> exact i.filterCmds _
theorem State.Inv.setKind (id : Nat) {k : CmdKind} (hk : k.CountOk) : (s.setKind id k).Inv := by
  refine i.mapCmds fun c hc => ?_
  split
  · exact hk
  · exact hc
theorem State.Inv.retireCmd {c : Cmd} (room : s.pushRoom c.cluster c.push = true) : (s.retireCmd c).Inv := by
  have tok : (s.dropCmd c).tok = s.tok := by unfold State.dropCmd; split <;> rfl
  exact inv_ite (fun _ => State.Inv.tryComplete (State.Inv.pushToken (State.Inv.dropCmd i c) room tok) ..) fun _ =>
    State.Inv.pushToken (State.Inv.dropCmd i c) room tok
theorem State.Inv.finishCmd (c : Cmd) : (s.finishCmd c).Inv := by
  refine inv_ite (fun room => State.Inv.retireCmd i room) fun _ => i.mapCmds fun k hk => ?_
  split <;> exact hk
theorem State.Inv.copyInNow {c : Cmd} {sp : Nat} {p : Word} {steps : List (Int × Int)} {run : Nat} {rc : Option Nat}
    (hk : (CmdKind.copyIn sp p steps run rc).CountOk) : Gives State.Inv (s.copyInNow c sp p steps run rc) := by
  refine gives_ite (fun _ => gives_error _) fun _ => gives_after _ fun _ => gives_after _ fun _ => gives_after _ fun _ => ?_
  refine gives_ok (State.Inv.finishCmd (State.Inv.report (State.Inv.servedPieces (State.Inv.foldl _ ?_ fun _ _ _ h => ?_) ..) ..) _)
  · split
    · exact i.foldl _ fun _ _ _ h => h.spRcSet _ _ (hk _ _ _ _ _ rfl)
    · exact i
  · exact State.Inv.frame (h.spWrite ..)
theorem State.Inv.copyOutNow (c : Cmd) (sp : Nat) (p : Word) (steps : List (Int × Int)) (run : Nat) :
    Gives State.Inv (s.copyOutNow c sp p steps run) := by
  refine gives_ite (fun _ => gives_error _) fun _ => gives_after _ fun _ => gives_after _ fun _ => gives_after _ fun _ => ?_
  exact gives_ok (State.Inv.finishCmd (State.Inv.report (State.Inv.servedPieces (i.foldl _ fun _ _ _ h =>
    State.Inv.writePieces h ..) ..) ..) _)
theorem State.Inv.scanNow (c : Cmd) (ch : Nat) : Gives State.Inv (s.scanNow c ch) := by
  unfold State.scanNow
  split
  · refine gives_after _ fun _ => gives_after _ fun _ => gives_after _ fun _ => gives_after _ fun _ => gives_ok ?_
    refine inv_when ?_ fun h => State.Inv.finishCmd h _
    exact State.Inv.setKind (State.Inv.report (State.Inv.servedPieces (State.Inv.writePieces i ..) ..) ..) _ (countOk_scan _ _ _ _ _ _ _)
  · exact gives_error _
theorem State.Inv.setTier (c : Cmd) (evict : Bool) (gs : List Nat) (sched : Bool) (stage : TierStage) :
    (s.setTier c evict gs sched stage).Inv := State.Inv.setKind i _ (countOk_tier _ _ _ _)
theorem State.Inv.tierReport (c : Cmd) (evict : Bool) (rest : List Nat) (sched : Bool) : (s.tierReport c evict rest sched).Inv :=
  inv_when (State.Inv.setTier (State.Inv.report i ..) ..) fun h => State.Inv.finishCmd h _
theorem State.Inv.tierNow (c : Cmd) : Gives State.Inv (s.tierNow c) := by
  unfold State.tierNow
  split
  · exact gives_ok (State.Inv.finishCmd i _)
  · exact gives_ok (State.Inv.setTier ((State.Inv.setRemap i ..).lineEvent ..) ..)
  · exact gives_after _ fun _ => gives_ok (State.Inv.tierReport i ..)
  · refine gives_ite (fun _ => gives_error _) fun _ => gives_ite (fun _ => gives_after _ fun _ =>
      gives_ok (State.Inv.tierReport (i.lineEvent ..) ..)) fun _ => ?_
    split
    · exact gives_ok (State.Inv.setTier (State.Inv.setRemap i ..) ..)
    · exact gives_after _ fun _ => gives_ok (State.Inv.tierReport i ..)
  · exact gives_error _
theorem State.Inv.strikeCmd (c : Cmd) (tval : Word) : (s.strikeCmd c tval).Inv := by
  unfold State.strikeCmd
  dsimp only
  split
  · exact inv_ite (fun _ => State.Inv.dropCmd i _) fun _ => State.Inv.endRecord (State.Inv.dropCmd i _) ..
  · exact State.Inv.dropCmd i _
theorem State.Inv.cmdAnswer {c : Cmd} {r : Except Stop State} (hr : Gives State.Inv r) (e : s.cmdAnswer c r = some t) : t.Inv := by
  unfold State.cmdAnswer at e
  split at e
  · cases e; exact hr _ rfl
  · cases e; exact State.Inv.strikeCmd i ..
  · split at e
    · cases e
    · cases e; exact i.refuse ..
  · cases e
theorem State.Inv.retireStep {c : Cmd} (e : s.retireStep c = some t) : t.Inv := by
  unfold State.retireStep at e
  split at e
  · next room => cases e; exact State.Inv.retireCmd i room
  · cases e
omit i in
theorem State.mem_of_cmdOf {c : Cmd} {id : Nat} (e : s.cmdOf id = some c) : c ∈ s.cmds := List.mem_of_find?_eq_some e
theorem State.Inv.copyStep {id : Nat} (e : s.copyStep id = some t) : t.Inv := by
  unfold State.copyStep at e
  split at e
  · next c hc =>
    have ok := i.cmd (State.mem_of_cmdOf hc)
    split at e
    · next kind =>
      split at e
      · exact State.Inv.retireStep i e
      · exact State.Inv.cmdAnswer i (State.Inv.copyInNow i (kind ▸ ok)) e
    · split at e
      · exact State.Inv.retireStep i e
      · exact State.Inv.cmdAnswer i (State.Inv.copyOutNow i _ _ _ _ _) e
    · cases e
  · cases e
theorem State.Inv.scanStep {id ch : Nat} (e : s.scanStep id ch = some t) : t.Inv := by
  unfold State.scanStep at e
  split at e
  · split at e
    · split at e
      · exact State.Inv.retireStep i e
      · split at e
        · exact State.Inv.cmdAnswer i (State.Inv.scanNow i _ _) e
        · cases e
    · cases e
  · cases e
theorem State.Inv.tierStep {id : Nat} (e : s.tierStep id = some t) : t.Inv := by
  unfold State.tierStep at e
  split at e
  · split at e
    · split at e
      · exact State.Inv.retireStep i e
      · exact State.Inv.cmdAnswer i (State.Inv.tierNow i _) e
    · cases e
  · cases e
theorem State.Inv.cmdStep {c : Cmd} (e : s.cmdStep c = some t) : t.Inv := by
  unfold State.cmdStep at e
  split at e
  · exact State.Inv.copyStep i e
  · exact State.Inv.copyStep i e
  · split at e
    · exact State.Inv.retireStep i e
    · obtain ⟨ch, -, e⟩ := List.exists_of_findSome?_eq_some e
      exact State.Inv.scanStep i e
  · exact State.Inv.tierStep i e
theorem State.Inv.engineStep (e : s.engineStep = some t) : t.Inv := by
  unfold State.engineStep at e
  split at e
  · next e' =>
    cases e
    obtain ⟨c, -, e⟩ := List.exists_of_findSome?_eq_some e'
    exact State.Inv.cmdStep i e
  · obtain ⟨a, -, e⟩ := List.exists_of_findSome?_eq_some e
    split at e
    · exact State.Inv.matrixStep i _ e
    · cases e
theorem State.Inv.engineRun (fuel : Nat) : (State.engineRun fuel s).Inv := by
  induction fuel generalizing s with
  | zero => exact i
  | succ fuel ih =>
    unfold State.engineRun
    split
    · exact ih (State.Inv.engineStep i ‹_›)
    · exact i
theorem State.Inv.settleEngines : s.settleEngines.Inv := inv_ite (fun _ => State.Inv.engineRun i _) fun _ => i

/-! ## Format X at the front end (R257, R272, R277) -/

/-- The executing agent of a format-X instruction is no application core. -/
theorem keeps_issueNow (hk : kindOf s.cur ≠ .app) (x : XArgs) {f : Nat → XArgs → XOps → Hart → State → Issue}
    (hf : ∀ hid o h, Gives (IssueKept s) (f hid x o h s)) : Keeps (issueNow x s f) :=
  keeps_onOk i (hf _ _ _) fun _ ⟨inv, cur⟩ => keeps_next (State.Inv.settleEngines (inv.setSlot _ (cur ▸ hk)))
theorem issueKept_issueBody (hid : Nat) (w : Word) (j : Instr) (n : Nest) (q k : Nat) (h : Hart) :
    Gives (IssueKept s) (issueBody hid w j n q k h s) := by
  have body {x : XArgs} {f : Nat → XArgs → XOps → Hart → State → Issue} (e : bodyIssue (kindOf hid == .sequencer) j = some (x, f))
      (o : XOps) :
      Gives (IssueKept s) (f hid x o h s) := by
    unfold bodyIssue at e
    split at e
    case h_1 => split at e <;> cases e; exact issueKept_issueMlda i _ _ _ _
    case h_2 => split at e <;> cases e; exact issueKept_issueMldb i _ _ _ _
    case h_3 => split at e <;> cases e; exact issueKept_issueProduct i _ _ _ _ _ _
    case h_4 => split at e <;> cases e; exact issueKept_issueProduct i _ _ _ _ _ _
    case h_5 => split at e <;> cases e; exact issueKept_enqueue i _ _ _ _
    case h_6 => split at e <;> cases e; exact issueKept_issueMld i _ _ _ _
    case h_7 => split at e <;> cases e; exact issueKept_issueMst i _ _ _ _
    case h_8 => split at e <;> cases e; exact issueKept_issueCpy i _ _ _ _ _
    case h_9 => split at e <;> cases e; exact issueKept_issueCpy i _ _ _ _ _
    case h_10 => cases e; exact issueKept_issueTokpost i _ _ _ _
    case h_11 => cases e; exact issueKept_issueTokwait i _ _ _ _
    case h_12 => cases e
  unfold issueBody
  split
  · exact gives_error _
  · next e =>
    split
    · exact gives_ite (fun _ => gives_error _) fun _ => body e _
    · exact body e _
theorem keeps_seqLoopb (hk : kindOf s.cur ≠ .app) (x : XArgs) : Keeps (seqLoopb x s) := by
  have back (h : Hart) : (s.setMe h).Inv := i.setSlot h hk
  unfold seqLoopb
  dsimp only
  split
  · exact keeps_answerStop (back _) _
  · split
    · exact keeps_raise (back _) _ _
    · exact keeps_raise (back _) _ _
    · split
      · exact keeps_illegal (back _)
      · split
        · next e =>
          obtain ⟨inv, cur⟩ := issueKept_issueBody i _ _ _ _ _ _ _ _ e
          exact keeps_next (State.Inv.settleEngines (inv.setSlot _ (cur ▸ hk)))
        · exact keeps_raise (back _) _ _
        · exact keeps_answerStop (back _) _
theorem State.Inv.runLoopb (hid : Nat) (x : XArgs) (q : QEntry) (h : Hart) : (runLoopb hid x q h s).All State.Inv := by
  refine all_checked i ?_
  split
  · exact all_ofStop i _ _ _
  · split
    · exact i
    · exact i
    · split
      · exact i
      · split
        · next e =>
          obtain ⟨inv, -⟩ := issueKept_issueBody i _ _ _ _ _ _ _ _ e
          split <;> exact inv
        · exact all_ofStop i _ _ _
theorem keeps_efenceWait (x : XArgs) : Keeps (efenceWait x s) := by
  refine keeps_ite (fun _ => keeps_next i.waitMe) fun held => keeps_next (State.Inv.settleEngines (State.Inv.retire ?_ _ fun a => a))
  refine State.Inv.pushToken i (t := s) ?_
  rw [Bool.or_eq_true, not_or, Bool.not_eq_true', Bool.not_eq_false] at held
  exact held.2
theorem keeps_execEfence (x : XArgs) : Keeps (execEfence x s) := by
  refine keeps_onAgents i fun ha => keeps_ite (fun _ => keeps_next i.waitMe) fun _ => keeps_ite (fun _ => keeps_efenceWait i x) fun _ => ?_
  refine keeps_onOk i (P := IssueKept s) (issueKept_popThen i _ _ fun _ ht hc => gives_ok ⟨ht, hc⟩) fun r ⟨inv, cur⟩ => ?_
  refine keeps_efenceWait (State.Inv.setHart inv fun a => ?_) x
  rw [cur] at a
  exact i.app a

end

end Sys2Proof.Machine
end

section
/-! What every step keeps: the vector queues (R79, R80, R194, R344), and stops (R345 to R349). -/

open Sys2Proof Sys2Proof.Machine

namespace Sys2Proof.Machine

set_option Elab.async false

variable {s t : State}

/-! ## Entries -/

section
variable {hid : Nat} {h : Hart} (i : s.Inv)
include i

theorem State.Inv.runX (x : XArgs) {f : Nat → XArgs → XOps → Hart → State → Issue} (hf : ∀ o, Gives (IssueKept s) (f hid x o h s))
    (q : QEntry) : (runX hid x f q h s).All State.Inv := by
  refine all_checked i ?_
  split
  · next e => exact (hf _ _ e).1
  · exact all_ofStop i _ _ _
theorem State.Inv.runGrant (q : QEntry) : (runGrant q h s).All State.Inv := all_ite (fun _ => i) fun _ => i
omit i in
theorem all_vint2 {P : State → Prop} (hs : P s) {q : QEntry} (x : VArgs) (f : Nat → Nat → Nat → ERes) : (vint2 x q h s f).All P :=
  all_pureV hs _ _
omit i in
theorem all_vcmp {P : State → Prop} (hs : P s) {q : QEntry} (x : VArgs) (f : Nat → Nat → Nat → Bool) : (vcmp x q h s f).All P :=
  all_pureV hs _ _
omit i in
theorem all_vfp1 {P : State → Prop} (hs : P s) {q : QEntry} (x : VArgs) (f : Fmt → Nat → Nat → FVal → Nat × Flags) :
    (vfp1 x q h s f).All P :=
  all_pureV hs _ _
omit i in
theorem all_vfp2 {P : State → Prop} (hs : P s) {q : QEntry} (x : VArgs) (f : Fmt → Nat → Nat → FVal → FVal → Nat × Flags) :
    (vfp2 x q h s f).All P := all_pureV hs _ _
omit i in
theorem all_vfp3 {P : State → Prop} (hs : P s) {q : QEntry} (x : VArgs) (nx nz : Bool) : (vfp3 x q h s nx nz).All P := all_pureV hs _ _
omit i in
theorem all_vfpMinMax {P : State → Prop} (hs : P s) {q : QEntry} (x : VArgs) (isMax : Bool) : (vfpMinMax x q h s isMax).All P :=
  all_pureV hs _ _
omit i in
theorem all_vfcmp {P : State → Prop} (hs : P s) {q : QEntry} (x : VArgs) (nvQuiet : Bool) (f : FVal → FVal → Bool) :
    (vfcmp x q h s nvQuiet f).All P := all_pureV hs _ _
omit i in
theorem all_vperm {P : State → Prop} (hs : P s) {q : QEntry} (x : VArgs) (ok : Bool) (n : Nat) (f : Hart → Nat → Nat) :
    (vperm x q h s ok n f).All P := all_pureV hs _ _
omit i in
theorem all_vmask {P : State → Prop} (hs : P s) {q : QEntry} (x : VArgs) (f : Nat → Nat → Nat) : (vmask x q h s f).All P := all_pureV hs _ _
omit i in
theorem all_vred {P : State → Prop} (hs : P s) {q : QEntry} (x : VArgs) (ok : Bool) (k : RedKind) : (vred x q h s ok k).All P :=
  all_pureV hs _ _
omit i in
theorem all_vscan {P : State → Prop} (hs : P s) {q : QEntry} (x : VArgs) (ok : Bool) (k : RedKind) : (vscan x q h s ok k).All P :=
  all_pureV hs _ _
omit i in
theorem all_coded2 {P : State → Prop} (hs : P s) {q : QEntry} (x : VArgs) (f : Int → Int → Int) : (coded2 x q h s f).All P := by
  unfold coded2
  exact all_codedElem hs _ _ _ _ _ _
/-- Every entry keeps the invariant. Those not named here compute in registers alone. -/
theorem State.Inv.runEntry (q : QEntry) : (runEntry hid q h s).All State.Inv := by
  unfold Machine.runEntry
  split
  case h_1 => exact i
  case h_2 => exact State.Inv.runGrant i q
  case h_3 => exact all_checked i (State.Inv.runGrant i q)
  case h_5 | h_6 | h_7 | h_8 | h_9 | h_10 | h_11 | h_12 | h_13 | h_14 | h_15 | h_16 | h_17 | h_18 | h_19 | h_20 | h_21 | h_22 | h_23 =>
    exact all_vint2 i _ _
  case h_28 | h_26 | h_27 | h_29 => exact all_vfp2 i _ _
  case h_30 | h_36 | h_37 => exact all_vfp1 i _ _
  case h_31 | h_32 => exact all_vfpMinMax i _ _
  case h_33 | h_34 | h_35 => exact all_vfp3 i _ _ _
  case h_38 | h_39 => exact all_checked i (all_vfp1 i _ _)
  case h_40 => exact all_checked i (all_vfp2 i _ _)
  case h_41 | h_42 | h_43 | h_44 | h_45 | h_46 => exact all_vcmp i _ _
  case h_47 | h_48 | h_49 | h_50 => exact all_vfcmp i _ _ _
  case h_51 =>
    unfold runCvt
    exact all_pureV i _ _
  case h_56 =>
    unfold runVexpand6
    exact all_pureV i _ _
  case h_52 =>
    unfold runCvtSr
    dsimp only
    split
    · exact all_pureV i _ _
    · exact i
  case h_53 =>
    unfold runVqmx
    dsimp only
    split
    · exact all_pureV i _ _
    · exact i
  case h_54 =>
    unfold runVdqmx
    dsimp only
    split
    · exact all_pureV i _ _
    · exact i
  case h_59 | h_60 | h_61 | h_62 | h_64 | h_66 | h_67 | h_68 => exact all_vperm i _ _ _ _
  case h_65 => exact all_ite (fun _ => all_pureV i _ _) fun _ => all_pureV i _ _
  case h_69 | h_70 | h_71 | h_72 => exact all_vmask i _ _
  case h_77 | h_78 | h_79 | h_80 => exact all_vred i _ _ _
  case h_81 | h_82 => exact all_vscan i _ _ _
  case h_83 | h_84 | h_85 => exact State.Inv.vload i ..
  case h_86 => exact State.Inv.runVst i ..
  case h_87 | h_88 => exact State.Inv.vstore i ..
  case h_89 => exact State.Inv.runVstxa i ..
  case h_90 => exact State.Inv.spLoad i ..
  case h_91 => exact State.Inv.spStore i _ _ _ (fun _ e => nomatch e)
  case h_93 | h_97 => exact all_countOverrun (State.Inv.vloadRd i ..) fun _ _ h => State.Inv.overrunAt h ..
  case h_94 => exact State.Inv.runVstRc i ..
  case h_95 => exact State.Inv.runVldspRd i ..
  case h_96 => exact State.Inv.runVstspRc i ..
  case h_98 => exact State.Inv.runVfence i ..
  case h_99 => exact State.Inv.runVcld i ..
  case h_100 => exact State.Inv.runVcst i ..
  case h_101 =>
    unfold runVcpos
    exact all_codedElem i _ _ _ _ _ _
  case h_102 =>
    unfold runVclen
    exact all_codedElem i _ _ _ _ _ _
  case h_103 =>
    unfold runVcdec
    exact all_codedElem i _ _ _ _ _ _
  case h_104 =>
    unfold runVcenc
    exact all_codedElem i _ _ _ _ _ _
  case h_107 =>
    unfold runVcskip
    exact all_codedElem i _ _ _ _ _ _
  case h_105 | h_106 => exact all_coded2 i _ _
  case h_108 => exact all_runVccat i _
  case h_109 => exact State.Inv.runGdesc i ..
  case h_110 => exact State.Inv.runGload i ..
  case h_111 => exact State.Inv.runGscat i ..
  case h_112 | h_113 => exact State.Inv.runX i _ (fun o => issueKept_issueCpy i _ _ _ _ _) q
  case h_114 => exact State.Inv.runX i _ (fun o => issueKept_issueNest i _ _ _ _) q
  case h_115 => exact State.Inv.runX i _ (fun o => issueKept_issueScank i _ _ _ _) q
  case h_116 | h_117 => exact State.Inv.runX i _ (fun o => issueKept_issueTier i _ _ _ _ _) q
  case h_118 => exact State.Inv.runX i _ (fun o => issueKept_issueTokpost i _ _ _ _) q
  case h_119 => exact State.Inv.runX i _ (fun o => issueKept_issueTokwait i _ _ _ _) q
  case h_120 => exact State.Inv.runLoopb i ..
  case h_121 => exact i
  all_goals exact all_pureV i _ _
theorem State.Inv.runHeld (q : QEntry) : (runHeld hid q h s).All State.Inv := by
  refine all_ite (fun _ => State.Inv.runEntry i q) fun _ => ?_
  generalize e : Machine.runEntry hid q h _ = v
  have hv : v.All State.Inv := by
    rw [← e]
    exact State.Inv.runEntry (State.Inv.frame (s := s) i) q
  cases v
  case poison => trivial
  all_goals exact State.Inv.frame hv

/-! ## The queue of a slot (R79, R80, R344) -/

end

section
variable (i : s.Inv) (hid : Nat) (h : Hart)
include i

theorem keeps_refuseOnce {line : Nat} {o : Out} (e : s.refuseOnce hid line = some o) : Keeps o := by
  unfold State.refuseOnce at e
  dsimp only at e
  split at e
  · cases e
  · cases e; exact keeps_next (i.refuse ..)
theorem State.Inv.unitServed : (s.unitServed hid h).Inv := inv_ite (fun _ => i) fun _ => i
theorem State.Inv.queueDone (passed : Bool) : (s.queueDone hid passed).Inv :=
  inv_ite (fun _ => State.Inv.endedSlot i ..) fun _ => inv_ite (fun _ => State.Inv.lanesPass i _) fun _ => i
theorem keeps_tailStep (r : List Hart) {o : Out} (e : s.tailStep hid h r = some o) : Keeps o := by
  unfold State.tailStep at e
  split at e
  · cases e; exact keeps_next (State.Inv.tailDone i ..)
  · next q qs _ =>
    have run := State.Inv.runHeld (hid := hid) (h := h) i q
    split at e
    · next e' => rw [e'] at run; cases e; exact keeps_next (State.Inv.settleEngines (State.Inv.setTail (State.Inv.unitServed run ..) ..))
    · next e' => rw [e'] at run; cases e; exact keeps_next (State.Inv.setTail (run.unrefuse _) ..)
    · exact keeps_refuseOnce i _ e
    · cases e
    · next e' => rw [e'] at run; cases e; exact keeps_next run
    · next e' => rw [e'] at run; cases e; exact keeps_next (State.Inv.settleEngines (State.Inv.setTail run ..))
    · cases e; exact keeps_next (State.Inv.endOwner (State.Inv.setTail (i.unrefuse ..) ..) ..)
/-- The queue of an application core is empty. -/
theorem keeps_headStep {o : Out} (e : s.headStep hid = some o) : Keeps o := by
  unfold State.headStep at e
  dsimp only at e
  split at e
  · cases e
  · next q qs hq =>
    have hk : kindOf hid ≠ .app := fun a => by
      have empty := (i.app a).queue
      rw [hq] at empty
      cases empty
    have run := State.Inv.runHeld (hid := hid) (h := s.hart hid) i q
    split at e
    · cases e
    · split at e
      · next e' =>
        rw [e'] at run
        cases e
        exact keeps_next (State.Inv.queueDone (State.Inv.settleEngines ((State.Inv.unitServed run ..).setSlot _ hk)) ..)
      · next e' =>
        rw [e'] at run
        cases e
        have clean := (run.dropPins hid).unrefuse (vectorUnit hid)
        exact keeps_next (inv_ite (fun _ => State.Inv.queueDone (clean.setSlot _ hk) ..) fun _ => clean.setSlot _ hk)
      · exact keeps_refuseOnce i _ e
      · cases e
      · next e' => rw [e'] at run; cases e; exact keeps_next run
      · next e' => rw [e'] at run; cases e; exact keeps_next (State.Inv.queueDone (State.Inv.settleEngines (run.setSlot _ hk)) ..)
      · cases e; exact keeps_next (State.Inv.strike ((i.unrefuse _).setSlot _ hk) ..)
theorem keeps_queueStep {o : Out} (e : s.queueStep hid = some o) : Keeps o := by
  unfold State.queueStep at e
  dsimp only at e
  split at e
  · next e' =>
    cases e
    obtain ⟨a, -, e⟩ := List.exists_of_findSome?_eq_some e'
    split at e
    · exact keeps_tailStep i _ _ _ e
    · cases e
  · split at e
    · cases e
    · exact keeps_headStep i _ e
theorem keeps_queueRun (fuel : Nat) : Keeps (queueRun hid fuel s) := by
  induction fuel generalizing s with
  | zero => exact keeps_next i
  | succ fuel ih =>
    unfold queueRun
    split
    · next e => exact ih (keeps_queueStep i _ e _ rfl)
    · next e => exact keeps_queueStep i _ e
    · exact keeps_next i
theorem keeps_settleQueue : Keeps (s.settleQueue hid) := keeps_ite (fun _ => keeps_queueRun i _ _) fun _ => keeps_next i
theorem keeps_settleTails : Keeps s.settleTails := by
  have all (l : List Nat) {o : Out} (ho : Keeps o) : Keeps (l.foldl (fun (o : Out) hid => andThen o fun t => t.settleQueue hid) o) := by
    induction l generalizing o with
    | nil => exact ho
    | cons a l ih => exact ih (keeps_andThen ho fun _ ht => keeps_settleQueue ht _)
  exact all _ (keeps_next i)
theorem State.Inv.passQueue (e : s.passQueue hid = some t) : t.Inv := by
  unfold State.passQueue at e
  dsimp only at e
  split at e
  · cases e; exact i
  · next checked =>
    have hk : kindOf hid ≠ .app := fun a => checked (by rw [(i.app a).queue]; rfl)
    obtain ⟨qs, -, rfl⟩ := Option.map_eq_some_iff.1 e
    exact i.setSlot _ hk
end

/-! ## Entering the queue (R79, R194, R202 to R204, R272) -/

section
variable (i : s.Inv)
include i

omit i in
theorem ne_app_of_allowed {v q : Bool} (ha : allowed v q false s.cur = true) : kindOf s.cur ≠ .app := fun a => by
  unfold allowed at ha
  rw [a] at ha
  cases ha
theorem keeps_queueUp (hk : kindOf s.cur ≠ .app) (e : QEntry) : Keeps (queueUp s e) :=
  keeps_ite (fun _ => keeps_next i.waitMe) fun _ => keeps_settleQueue (i.setSlot _ hk) _
theorem keeps_vecIssue (j : Instr) (a b c d : Reg) : Keeps (vecIssue j a b c d s) :=
  keeps_onAgents i fun ha => keeps_queueUp i (ne_app_of_allowed ha) _
theorem keeps_xIssue (j : Instr) (x : XArgs) {f : Nat → XArgs → XOps → Hart → State → Issue}
    (hf : ∀ hid o h, Gives (IssueKept s) (f hid x o h s)) : Keeps (xIssue j x f s) :=
  keeps_onAgents i fun ha => keeps_ite (fun _ => keeps_queueUp i (ne_app_of_allowed ha) _) fun _ =>
    keeps_issueNow i (ne_app_of_allowed ha) x hf
theorem keeps_mxIssue (x : XArgs) {f : Nat → XArgs → XOps → Hart → State → Issue}
    (hf : ∀ hid o h, Gives (IssueKept s) (f hid x o h s)) : Keeps (mxIssue x f s) :=
  keeps_onAgents i fun ha => keeps_issueNow i (ne_app_of_allowed ha) x hf
theorem keeps_queueLoopb (hk : kindOf s.cur ≠ .app) (x : XArgs) : Keeps (queueLoopb x s) :=
  keeps_ite (fun _ => keeps_next i.waitMe) fun _ => keeps_onOk i (gives_trivial _) fun _ _ =>
    keeps_ite (fun _ => keeps_next i.waitMe) fun _ => keeps_settleQueue (i.setSlot _ hk) _
theorem keeps_execLoopb (x : XArgs) : Keeps (execLoopb x s) :=
  keeps_onAgents i fun ha => keeps_ite (fun _ => keeps_queueLoopb i (ne_app_of_allowed ha) x) fun _ =>
    keeps_seqLoopb i (ne_app_of_allowed ha) x
theorem keeps_execVconf (x : GArgs) : Keeps (execVconf x s) :=
  keeps_onAgents i fun ha => keeps_ite (fun _ => keeps_next i.waitMe) fun _ => keeps_settleQueue (i.setSlot _ (ne_app_of_allowed ha)) _
theorem keeps_grantIssue (hk : kindOf s.cur ≠ .app) (j : Instr) (x : VArgs) (request : Nat) (shown : Nat → Nat) :
    Keeps (grantIssue j x request shown s) :=
  keeps_ite (fun _ => keeps_next i.waitMe) fun _ => keeps_settleQueue (i.setSlot _ hk) _
theorem keeps_execVsetb (x : VArgs) : Keeps (execVsetb x s) := keeps_onAgents i fun ha => keeps_grantIssue i (ne_app_of_allowed ha) _ _ _ _
theorem keeps_execVsete (x : VArgs) : Keeps (execVsete x s) :=
  keeps_onAgents i fun ha => keeps_ite (fun _ => keeps_queueUp i (ne_app_of_allowed ha) _) fun _ =>
    keeps_grantIssue i (ne_app_of_allowed ha) _ _ _ _

/-! ## The engines' events -/

theorem keeps_getD {o : Option State} (ho : ∀ t, o = some t → t.Inv) : Keeps (.next (o.getD s)) := by
  cases o with
  | none => exact keeps_next i
  | some t => exact keeps_next (ho t rfl)
theorem keeps_execVectorInstructionComplete (hid : Nat) : Keeps (execVectorInstructionComplete hid s) := by
  unfold execVectorInstructionComplete
  cases e : s.queueStep hid with
  | none => exact keeps_next i
  | some o => exact keeps_queueStep i _ e

/-! ## Stops (R345 to R349) -/

theorem State.Inv.preempted (hid : Nat) : (s.preempted hid).Inv := by
  have stop (hk : kindOf hid ≠ .app) (h : Hart) (n : Nat) (pc : Word) : (s.stopFor hid h n pc).Inv :=
    ((i.unrefuse _).unrefuse _).setSlot _ hk
  refine inv_ite (fun _ => i) fun live => ?_
  have hk : kindOf hid ≠ .app := fun a => by
    obtain ⟨-, preempt, -⟩ := i.app a
    rw [preempt] at live
    simp at live
  refine inv_ite (fun _ => stop hk ..) fun _ => ?_
  split
  · exact stop hk ..
  · exact i
theorem keeps_hartStop (hid : Nat) : Keeps (s.hartStop hid) :=
  keeps_andThen (State.Inv.saveHart (State.Inv.preempted i hid) hid) fun _ ht =>
    keeps_next (inv_ite (fun _ => State.Inv.lanesPass ht _) fun _ => ht)
theorem keeps_execGroupMembershipTake (p : Nat) : Keeps (execGroupMembershipTake p s) := keeps_next (State.Inv.takeGroup i p)
theorem keeps_execShutterWindowExpiry (hid : Nat) : Keeps (execShutterWindowExpiry hid s) := by
  refine keeps_next (inv_ite (fun v => i.setSlot _ fun a => ?_) fun _ => i)
  obtain ⟨-, -, victim, -⟩ := i.app a
  rw [victim] at v
  cases v
theorem keeps_execLanesRelease (hid : Nat) : Keeps (execLanesRelease hid s) := by
  refine keeps_next ?_
  split
  · exact inv_ite (fun _ => State.Inv.tailDone i ..) fun _ => i
  · exact i
theorem keeps_execDrainRound (p launch : Nat) : Keeps (execDrainRound p launch s) := by
  refine keeps_next ?_
  split
  · exact State.Inv.groupsCheck (State.Inv.drainRound i ‹_›) _
  · exact State.Inv.roundRefused i ..
theorem keeps_execTrapEntry (hid cause : Nat) (tval : Word) : Keeps (execTrapEntry hid cause tval s) :=
  keeps_next (inv_ite (fun _ => (i.dropPins hid).updHart fun a => a.enter ..) fun _ => i)
omit i in
theorem Hart.AppOk.endXwait {h : Hart} (a : h.AppOk) : h.endXwait.AppOk := by
  unfold Hart.endXwait
  split
  · exact Hart.AppOk.retire (h := h.updApp _) a 8
  · exact a
omit i in
theorem Hart.AppOk.takeInterrupt {h : Hart} (a : h.AppOk) : h.takeInterrupt.AppOk := by
  unfold Hart.takeInterrupt
  split
  · exact Hart.AppOk.enter (h := h.endXwait.updApp _) a.endXwait ..
  · exact a
theorem keeps_execInterruptEntry (hid : Nat) : Keeps (execInterruptEntry hid s) :=
  keeps_next (inv_ite (fun _ => i.updHart Hart.AppOk.takeInterrupt) fun _ => i)
theorem keeps_execResume (p : Nat) (area : Word) (target : Nat) : Keeps (execResume p area target s) := by
  refine keeps_next ?_
  split
  · exact State.Inv.resume i ..
  · exact i
theorem keeps_execKill (p : Nat) (area : Word) (n : Nat) : Keeps (execKill p area n s) := by
  refine keeps_next ?_
  split
  · exact State.Inv.kill i ..
  · exact i

end

end Sys2Proof.Machine
end

section
/-! What every step keeps: errors, links, the tracker, accesses from outside, reset, and caches (R335 to R376). -/

open Sys2Proof Sys2Proof.Machine

namespace Sys2Proof.Machine

set_option Elab.async false

variable {s t : State}

/-! ## Errors that the hardware finds (R355, R356, R361) -/

section
variable (i : s.Inv)
include i

theorem State.Inv.respond (pa : Nat) (data : List Byte) (kind : OutKind) : (s.respond pa data kind).Inv := i
theorem inv_poisonLine (line kind unit asid : Nat) : (s.poisonLine line kind unit asid).1.Inv := inv_fst_ite (fun _ => i) fun _ => i
theorem inv_poisonBlock (c blk kind asid : Nat) : (s.poisonBlock c blk kind asid).1.Inv := inv_fst_ite (fun _ => i) fun _ => i
theorem State.Inv.strikeTail (x : Nat × Hart) (tval : Word) : (s.strikeTail x tval).Inv := State.Inv.endOwner (State.Inv.frame i) ..
theorem State.Inv.strikeLogical (p launch l : Nat) (tval : Word) : (s.strikeLogical p launch l tval).Inv := by
  unfold State.strikeLogical
  split
  · exact i
  · exact State.Inv.strikeTail i ..
  · split
    · exact inv_ite (fun _ => State.Inv.strike i ..) fun _ => i
    · exact inv_ite (fun _ => i) fun _ => State.Inv.endRecord i ..
theorem State.Inv.strikeWho (who : Struck) (tval : Word) : (s.strikeWho who tval).Inv := by
  unfold State.strikeWho
  split
  · exact inv_ite (fun _ => i) fun _ => State.Inv.strike i ..
  · split
    · exact State.Inv.strikeCmd i ..
    · exact i
  · exact State.Inv.strikeLogical i ..
theorem inv_upset (u : Upset) : (s.upset u).1.Inv := by
  have engine (c : Nat) (f : Mx → Mx) : (s.setEngineHart c ((s.engineHart c).updMx f)).Inv :=
    State.Inv.setEngineHart (x := (s.engineHart c).updMx f) i c fun none app => State.Inv.engineHart i c none app
  fun_cases State.upset s u
  case case2 | case4 | case6 => exact inv_poisonLine i ..
  case case8 | case26 => exact inv_poisonBlock i ..
  case case11 | case14 => exact engine _ _
  case case17 | case21 => exact i.frame
  case case20 => exact State.Inv.foldl _ (i.foldl _ fun _ _ _ h => State.Inv.strike h ..) fun _ _ _ h => State.Inv.strikeTail h ..
  case case24 => exact inv_ite (fun _ => i.frame) fun _ => i
  case case27 => exact State.Inv.strikeWho i ..
  all_goals exact i
theorem State.Inv.upsets (us : List Upset) : (s.upsets us).Inv :=
  State.Inv.errEvents (foldl_fst_inv (f := fun (a : State × List ErrEv) u => ((a.1.upset u).1, a.2 ++ (a.1.upset u).2))
    (fun _ u hb => inv_upset hb u) us (b := (s, [])) i) _
theorem State.Inv.scrub (line : Nat) (res : ScrubResult) : (s.scrub line res).Inv := by
  cases res
  case clean => exact i
  all_goals exact State.Inv.upsets i _
theorem State.Inv.errorResponse (who : Struck) (pa : Nat) : (s.errorResponse who pa).Inv :=
  inv_ite (fun _ => State.Inv.strikeWho i ..) fun _ => i

/-! ## Links (R362) -/

theorem State.Inv.setLink (port : Nat) (l : Link) : (s.setLink port l).Inv := i
theorem State.Inv.linkOut (port : Nat) (kind : OutKind) (seqs : List Nat) : (s.linkOut port kind seqs).Inv := i
theorem State.Inv.flitSend (port : Nat) : (s.flitSend port).Inv := inv_ite (fun _ => i) fun _ => i
theorem State.Inv.resend (port seq : Nat) : (s.resend port seq).Inv := i
theorem keeps_execFlitReceive (port seq ack : Nat) (good : Bool) : Keeps (execFlitReceive port seq ack good s) :=
  keeps_next (inv_ite (fun _ => i) fun _ => inv_ite (fun _ => i) fun _ => inv_ite (fun _ => i) fun _ => i)
theorem keeps_execReplayRequest (port seq : Nat) : Keeps (execReplayRequest port seq s) :=
  keeps_next (inv_ite (fun _ => i) fun _ => State.Inv.errEvent (inv_ite (fun _ => State.Inv.resend i ..) fun _ => i) ..)
theorem keeps_execLinkRetrain (port : Nat) (gap : LinkGap) (core : Nat) : Keeps (execLinkRetrain port gap core s) := by
  refine keeps_next (inv_ite (fun _ => i) fun _ => State.Inv.pend (inv_ite (fun _ =>
    State.Inv.resend (State.Inv.linkOut i ..) ..) fun _ => ?_) ..)
  refine State.Inv.foldl _ (State.Inv.errEvent (State.Inv.setLink (State.Inv.linkOut i ..) ..) ..) fun u x _ hu => ?_
  exact inv_ite (fun _ => State.Inv.strikeWho hu ..) fun _ => hu

/-! ## Registers, the fingerprint tree and the tracker (R339 to R341, R363, R364) -/

theorem keeps_execRegisterWrite (pa : Nat) (v : Word) : Keeps (execRegisterWrite pa v s) :=
  keeps_next (inv_ite (fun _ => State.Inv.devStore i ..) fun _ => i)
theorem keeps_execRemapPinWrite (g : Nat) (v : Word) : Keeps (execRemapPinWrite g v s) :=
  keeps_next (inv_ite (fun _ => State.Inv.remapPinWrite i ..) fun _ => i)
theorem State.Inv.fpGo : s.fpGo.Inv := i.frame
theorem keeps_execFingerprintIntervalExpiry : Keeps (execFingerprintIntervalExpiry s) :=
  keeps_next (inv_ite (fun _ => State.Inv.fpGo i) fun _ => i)
theorem keeps_execFingerprintPassEnd : Keeps (execFingerprintPassEnd s) := by
  refine keeps_next (inv_ite (fun _ => ?_) fun _ => i)
  split
  · have written := (i.wrBytes (s.fp.tree.toNat + 8) (s.fpNodes.flatMap fun w => bytesOfNat 8 w.toNat)).unpoison (s.fp.tree.toNat + 8)
      (s.fpNodes.flatMap fun w => bytesOfNat 8 w.toNat).length
    exact State.Inv.frame (inv_ite (fun _ => written) fun _ => written.foldl _ fun _ _ _ h => h.served ..)
  · exact i.refuse ..
  · exact i
theorem State.Inv.halve (p : Nat) : (s.halve p).Inv := i.frame
theorem State.Inv.swapStart (p : Nat) : (s.swapStart p).Inv := by
  refine inv_ite (fun _ => i) fun _ => ?_
  split
  · exact i
  · exact inv_ite (fun _ => State.Inv.updPart i ..) fun _ => inv_ite (fun _ => (State.Inv.updPart i ..).lineEvent ..) fun _ =>
      State.Inv.updPart (State.Inv.setRemap (State.Inv.updPart i ..) ..) ..
theorem State.Inv.swapComplete (g : Nat) : (s.swapComplete g).Inv := by
  unfold State.swapComplete
  split
  · exact i
  · split
    · exact i
    · exact State.Inv.updPart ((State.Inv.setRemap i ..).lineEvent ..) ..

/-! ## Accesses from outside (R365 to R369) -/

theorem State.Inv.unlessPoison (a n : Nat) {f : State → State} (hf : (f s).Inv) : (s.unlessPoison a n f).Inv := by
  unfold State.unlessPoison
  split
  · exact hf
  · exact State.Inv.respond i ..
theorem State.Inv.outsidePerform (a : Nat) (op : OutsideOp) : (s.outsidePerform a op).Inv := by
  cases op with
  | read n => exact i.frame
  | write data => exact (i.wrBytes ..).unpoison ..
  | loadRd n =>
    unfold State.outsidePerform
    dsimp only
    split
    · exact State.Inv.respond (i.lineEvent ..) ..
    · exact State.Inv.unlessPoison i _ _ ((State.Inv.respond i ..).foldl _ fun _ _ _ h => h.rdDec _)
  | storeRc k data => exact ((i.foldl _ fun _ _ _ h => h.rcSet _ (by omega)).wrBytes ..).unpoison ..
  | close n => exact State.Inv.respond (i.foldl _ fun _ _ _ h => h.rcClose _) ..
  | atomic f n v c =>
    refine State.Inv.unlessPoison i _ _ (State.Inv.respond ?_ ..)
    split
    · exact i.wrBytes ..
    · exact i
  | add ef val grid => exact State.Inv.unlessPoison i _ _ (State.Inv.addAt i ..)
  | query => exact State.Inv.respond i ..
  | arrive | report n | expect n => exact State.Inv.unlessPoison i _ _ (inv_bobjAct i ..)
theorem State.Inv.outsideTry {r : OutsideReq} (e : s.outsideTry r = some t) : t.Inv := by
  unfold State.outsideTry at e
  split at e
  · cases e; exact (State.Inv.outsidePerform i ..).foldl _ fun _ _ _ h => h.served ..
  · cases e
theorem State.Inv.outsideRefused (r : OutsideReq) : (s.outsideRefused r).Inv := by
  unfold State.outsideRefused
  split
  · exact i.refuse ..
  · exact i
omit i in
theorem inv_outsideRun (rs : List OutsideReq) (held : List Nat) (h : s.Inv) : (outsideRun held rs s).Inv := by
  induction rs generalizing held s with
  | nil => exact h
  | cons r rs ih =>
    refine inv_ite (fun _ => ih held h.frame) fun _ => ?_
    split
    · exact ih held (State.Inv.outsideTry h ‹_›)
    · exact ih _ (State.Inv.frame (State.Inv.outsideRefused h r))
theorem State.Inv.settleReqs : s.settleReqs.Inv := inv_outsideRun _ _ i.frame
theorem State.Inv.arrives (src a : Nat) (op : OutsideOp) : (s.arrives src a op).Inv := State.Inv.settleReqs (State.Inv.frame i)
theorem State.Inv.asHostWrite (src a : Nat) (data : List Byte) : (s.asHostWrite src a data).Inv :=
  inv_ite (fun _ => State.Inv.arrives i ..) fun _ => i
theorem State.Inv.asHostRead (src a n : Nat) : (s.asHostRead src a n).Inv :=
  inv_ite (fun _ => State.Inv.respond i ..) fun _ => inv_ite (fun _ => State.Inv.arrives i ..) fun _ => i
theorem State.Inv.bar2Read (off n : Nat) : (s.bar2Read off n).Inv := i.frame
theorem keeps_execInboundRequest (src a n : Nat) (op : OutsideOp) : Keeps (execInboundRequest src a n op s) := by
  refine keeps_next (inv_ite (fun _ => i) fun _ => inv_ite (fun _ => State.Inv.respond i ..) fun _ => ?_)
  split
  · exact State.Inv.asHostWrite i ..
  · exact State.Inv.asHostRead i ..
  · exact inv_ite (fun _ => State.Inv.arrives i ..) fun _ => State.Inv.respond i ..
theorem keeps_execRootPortInterrupt (r core : Nat) : Keeps (execRootPortInterrupt r core s) :=
  keeps_next (inv_ite (fun _ => State.Inv.pend i ..) fun _ => i)

/-! ## Reset (R371) -/

omit i in
theorem appOk_reset {k : Nat} (hk : kindOf k = .app) : (State.reset.hart k).AppOk := by
  obtain ⟨lo, hi⟩ := kindOf_eq_app_iff.1 hk
  have at_k : State.reset.hart k = Hart.appReset (k - appBase) := by
    have mem : (k, Hart.appReset (k - appBase)) ∈ State.reset.harts :=
      List.mem_map.2 ⟨k - appBase, List.mem_range.2 (by unfold appBase hartEnd at *; omega), by rw [Nat.add_sub_cancel' lo]⟩
    exact assocGet_of_mem (by decide) mem
  rw [at_k]
  refine ⟨?_, rfl, rfl, rfl⟩
  unfold Hart.appReset
  split
  · exact .inl rfl
  · exact .inr rfl
omit i in
theorem le_assocGet_filter {m : List (Nat × Nat)} {n : Nat} (h : ∀ k, assocGet 0 m k ≤ n) (p : Nat → Bool) (k : Nat) :
    assocGet 0 (m.filter fun e => p e.1) k ≤ n := by
  by_cases hp : p k = true
  · rw [assocGet_filter (fun _ => hp)]; exact h k
  · have none := assocGet_append_of_not_mem (d := 0) (n := []) (m := m.filter fun e => p e.1) (a := k) fun e he eq =>
      hp (eq ▸ (List.mem_filter.1 he).2)
    rw [List.append_nil] at none
    rw [none]
    exact Nat.zero_le n
theorem State.Inv.boot (fail : Nat) : (s.boot fail).Inv := by
  obtain ⟨mem, -, cnt, -⟩ := i
  exact ⟨assocWfFrom_filter _ mem, rfl, le_assocGet_filter cnt fun a => decide (domainBase / 128 ≤ a), fun _ => Nat.zero_le _,
    fun _ => Nat.zero_le _, fun _ hc => (by cases hc), fun _ hk => appOk_reset hk⟩
theorem State.Inv.bootStep : s.bootStep.Inv :=
  inv_ite (fun _ => i) fun _ => inv_ite (fun _ => inv_ite (fun _ => i.frame) fun _ => i) fun _ =>
    inv_ite (fun _ => inv_ite (fun _ => i.frame) fun _ => i) fun _ => inv_ite (fun _ => i.frame) fun _ => i

/-! ## Walks and caches (R95, R97, R335, R341) -/

theorem State.Inv.tlbAdd (e : TlbEntry) : (s.tlbAdd e).Inv := inv_ite (fun _ => i) fun _ => i.frame
theorem State.Inv.walkCache (cache asid va : Nat) : (s.walkCache cache asid va).Inv := by
  unfold State.walkCache
  -- opaque, so that the kernel does not evaluate a walk to compare two states
  obtain ⟨entry, he⟩ : ∃ f, f = State.entryAt := ⟨_, rfl⟩
  obtain ⟨word, hw⟩ : ∃ f, f = State.devWord := ⟨_, rfl⟩
  rw [← he, ← hw]
  refine State.Inv.foldl _ i fun u level _ hu => ?_
  dsimp only
  split
  · exact hu
  · split
    · exact State.Inv.tlbAdd hu _
    · exact hu
theorem keeps_execPageTableWalk (space : CachedSpace) (va : Nat) : Keeps (execPageTableWalk space va s) :=
  keeps_next (inv_ite (fun _ => i) fun _ => State.Inv.walkCache i ..)
theorem State.Inv.tlbHalf (second : Bool) (cache asid level : Nat) (va : Word) : (s.tlbHalf second cache asid level va).Inv := by
  fun_cases State.tlbHalf s second cache asid level va
  case case4 => exact i.frame
  all_goals exact i
theorem State.Inv.tlbFill (k : Nat) : (s.tlbFill k).Inv := by
  fun_cases State.tlbFill s k
  case case2 => exact State.Inv.tlbAdd i.frame _
  all_goals exact i
theorem State.Inv.icTake (cache asid vline : Nat) : (s.icTake cache asid vline).Inv := by
  refine inv_ite (fun _ => i) fun _ => ?_
  split
  · exact i
  · exact State.Inv.icFillLine i ..
theorem State.Inv.evictEarly (line : Nat) : (s.evictEarly line).Inv := inv_ite (fun _ => i) fun _ => i.frame
theorem State.Inv.addHeat (line : Nat) : (s.addHeat line).Inv := by
  unfold State.addHeat
  dsimp only
  split
  · exact inv_ite (fun _ => i) fun _ => State.Inv.setRemap i ..
  · exact i
theorem State.Inv.fetchLine (line : Nat) : (s.fetchLine line).Inv := State.Inv.addHeat (i.fetched line) line

end

end Sys2Proof.Machine
end

section
/-! What every step keeps (R82, R96 to R98, R121, R304): the front end, every instruction and event, and the step. -/

open Sys2Proof Sys2Proof.Machine

namespace Sys2Proof.Machine

set_option Elab.async false

variable {s : State} (h : s.Inv)
include h

/-! ## Instructions and events -/

/-- Every instruction and event. Those not named here are vector instructions, which enter the queue. -/
theorem keeps_exec (j : Instr) : Keeps (exec j s) := by
  unfold exec
  cases j with
  | add x | sub x | and x | or x | xor x | andn x | sll x | srl x | sra x | rol x | ror x | slt x | sltu x | min x | max x | minu x
  | maxu x | mul x | mulh x | mulhu x | div x | divu x | rem x | remu x | clz x | ctz x | popc x | bswap x => exact keeps_regForm h _ _
  | sel x => exact keeps_execSel h x
  | addi x | andi x | ori x | xori x | slli x | srli x | srai x | slti x | sltiu x | addpc x => exact keeps_immForm h _ _
  | fadd x | fsub x | fmul x | fdiv x | fsqrt x | fmin x | fmax x | fmadd x | fmsub x | feq x | flt x | fle x | fcvt x | fclass x =>
    exact keeps_fpForm h _ _
  | beq x | bne x | blt x | bge x | bltu x | bgeu x => exact keeps_branch h _ _
  | j x => exact keeps_execJ h x
  | call x => exact keeps_execCall h x
  | jr x => exact keeps_jump h x id
  | callr x => exact keeps_jump h x fun a => a.setG ..
  | ld x | ldu x => exact keeps_load h _ _
  | st x => exact keeps_execSt h x
  | ldRd x | lduRd x => exact keeps_loadRd h _ _
  | stRc x => exact keeps_execStRc h x
  | ipref x => exact keeps_execIpref h x
  | isync x => exact keeps_execIsync h x
  | amoswap x | amoadd x | amoand x | amoor x | amoxor x | amomin x | amomax x | amominu x | amomaxu x | amocas x | amofadd x =>
    exact keeps_amo h _ _
  | fence x => exact keeps_execFence h x
  | arrive x | arriveRel x => exact keeps_arrive h _ _
  | expect x => exact keeps_execExpect h x
  | waitb x => exact keeps_execWaitb h x
  | join x => exact keeps_execJoin h x
  | leave x => exact keeps_execLeave h x
  | gbar x => exact keeps_execGbar h x
  | spawn x => exact keeps_execSpawn h x
  | idone x => exact keeps_execIdone h x
  | claim x => exact keeps_execClaim h x
  | clwait x => exact keeps_execClwait h x
  | vdrain x => exact keeps_execVdrain h x
  | csrr x | csrw x | csrs x | csrc x => exact keeps_csrForm h _ _
  | syscall x => exact keeps_execSyscall h x
  | brk x => exact keeps_execBrk h x
  | xret x => exact keeps_execXret h x
  | xwait x => exact keeps_execXwait h x
  | xinvt x => exact keeps_execXinvt h x
  | xinvta x => exact keeps_execXinvta h x
  | xinvtd x => exact keeps_execXinvtd h x
  | vconf x => exact keeps_execVconf h x
  | vsetb x => exact keeps_execVsetb h x
  | vsete x => exact keeps_execVsete h x
  | gsync x => exact keeps_execGsync h x
  | rcclose x => exact keeps_execRcclose h x
  | rcclosesp x => exact keeps_execRcclosesp h x
  | rcquery x => exact keeps_execRcquery h x
  | rcquerysp x => exact keeps_execRcquerysp h x
  | mcfg x => exact keeps_mxIssue h x fun _ _ _ => issueKept_issueMcfg h _ _ _ _
  | msettl x => exact keeps_mxIssue h x fun _ _ _ => issueKept_issueMsettl h _ _ _ _
  | mlda x => exact keeps_mxIssue h x fun _ _ _ => issueKept_issueMlda h _ _ _ _
  | mldb x => exact keeps_mxIssue h x fun _ _ _ => issueKept_issueMldb h _ _ _ _
  | mma x | mopa x => exact keeps_mxIssue h x fun _ _ _ => issueKept_issueProduct h _ _ _ _ _ _
  | mzero x => exact keeps_mxIssue h x fun _ _ _ => issueKept_enqueue h _ _ _ _
  | mld x => exact keeps_mxIssue h x fun _ _ _ => issueKept_issueMld h _ _ _ _
  | mst x => exact keeps_mxIssue h x fun _ _ _ => issueKept_issueMst h _ _ _ _
  | cpyin x | cpyout x => exact keeps_xIssue h _ x fun _ _ _ => issueKept_issueCpy h _ _ _ _ _
  | nest x => exact keeps_xIssue h _ x fun _ _ _ => issueKept_issueNest h _ _ _ _
  | scank x => exact keeps_xIssue h _ x fun _ _ _ => issueKept_issueScank h _ _ _ _
  | pftier x | evtier x => exact keeps_xIssue h _ x fun _ _ _ => issueKept_issueTier h _ _ _ _ _
  | tokpost x => exact keeps_xIssue h _ x fun _ _ _ => issueKept_issueTokpost h _ _ _ _
  | tokwait x => exact keeps_xIssue h _ x fun _ _ _ => issueKept_issueTokwait h _ _ _ _
  | loopb x => exact keeps_execLoopb h x
  | efence x => exact keeps_execEfence h x
  | waveForm p launch => exact keeps_next (State.Inv.tryWave h ..)
  | copyComplete id => exact keeps_getD h fun _ => State.Inv.copyStep h
  | scanSegmentWritten id ch => exact keeps_getD h fun _ => State.Inv.scanStep h
  | tierGranuleReport id => exact keeps_getD h fun _ => State.Inv.tierStep h
  | matrixCommandComplete c => exact keeps_getD h fun _ => State.Inv.matrixStep h c
  | recordSelect p => exact keeps_next (State.Inv.selectRec h p)
  | groupMembershipTake p => exact keeps_execGroupMembershipTake h p
  | priorityAging p q => exact keeps_next (State.Inv.age h p q)
  | clusterGrant p => exact keeps_next (State.Inv.clusterGrant h p)
  | shutterLanesPass core => exact keeps_next (State.Inv.lanesPass h core)
  | shutterWindowExpiry hid => exact keeps_execShutterWindowExpiry h hid
  | lanesRelease hid => exact keeps_execLanesRelease h hid
  | recordComplete p launch => exact keeps_next (State.Inv.tryComplete h p launch)
  | drainRound p launch => exact keeps_execDrainRound h p launch
  | pinWiden line => exact keeps_next (h.endPins _)
  | hartStop hid => exact keeps_hartStop h hid
  | trapEntry hid cause tval => exact keeps_execTrapEntry h hid cause tval
  | interruptEntry hid => exact keeps_execInterruptEntry h hid
  | asidtabWrite v => exact keeps_execAsidtabWrite h v
  | release p area target => exact keeps_next (State.Inv.release h target)
  | resume p area target => exact keeps_execResume h p area target
  | kill p area target => exact keeps_execKill h p area target
  | curasidWrite hid v => exact keeps_execCurasidWrite h hid v
  | partcfgWrite p v => exact keeps_execPartcfgWrite h p v
  | rcvalWrite hid v => exact keeps_execRcvalWrite h hid v
  | tokvalWrite hid v => exact keeps_execTokvalWrite h hid v
  | registerWrite pa v => exact keeps_execRegisterWrite h pa v
  | eseqRead => exact keeps_next (State.Inv.eseqRead h)
  | ltailWrite v => exact keeps_next (State.Inv.ltailWrite h v)
  | patrolScrub line res => exact keeps_next (State.Inv.scrub h line res)
  | flitReceive port seq ack good => exact keeps_execFlitReceive h port seq ack good
  | replayRequest port seq => exact keeps_execReplayRequest h port seq
  | linkRetrain port gap core => exact keeps_execLinkRetrain h port gap core
  | fingerprintGo => exact keeps_next (State.Inv.fpGo h)
  | fingerprintIntervalExpiry => exact keeps_execFingerprintIntervalExpiry h
  | fingerprintPassEnd => exact keeps_execFingerprintPassEnd h
  | heatHalving p => exact keeps_next (inv_ite (fun _ => h) fun _ => State.Inv.halve h p)
  | swapStart p => exact keeps_next (State.Inv.swapStart h p)
  | swapComplete g => exact keeps_next (State.Inv.swapComplete h g)
  | remapPinWrite g v => exact keeps_execRemapPinWrite h g v
  | probe | inval => exact keeps_next (State.Inv.codeCommand h _)
  | hirqWrite v => exact keeps_next (State.Inv.hirq h v)
  | devnumWrite v => exact keeps_next (State.Inv.devnumWrite h v)
  | hostBar0Write a data => exact keeps_next (State.Inv.asHostWrite h ..)
  | hostBar0Read a n => exact keeps_next (State.Inv.asHostRead h ..)
  | inboundRequest src a n op => exact keeps_execInboundRequest h src a n op
  | powerLimitExceeded core | aerError core => exact keeps_next (State.Inv.pend h ..)
  | rootPortInterrupt r core => exact keeps_execRootPortInterrupt h r core
  | deviceReset fail => exact keeps_next (State.Inv.boot h fail)
  | functionLevelReset => exact keeps_next (State.Inv.boot h.frame _)
  | vectorInstructionComplete hid => exact keeps_execVectorInstructionComplete h hid
  | pageTableWalk space va => exact keeps_execPageTableWalk h space va
  | codeRangeCommandComplete => exact keeps_next (State.Inv.codeComplete h)
  | _ => exact keeps_vecIssue h _ _ _ _ _

/-! ## The front end (R95, R152, R164) -/

theorem State.Inv.fetchServed (hid : Nat) (pc : Word) : (s.fetchServed hid pc).Inv := by
  refine inv_ite (fun _ => h) fun _ => h.foldl _ fun u a _ hu => ?_
  split
  · exact hu.served ..
  · exact hu
theorem keeps_rejected (pair : Bool) (r : Reject) : Keeps (rejected pair r s) := by
  unfold rejected
  split
  · exact keeps_raise h _ _
  · exact keeps_ite (fun _ => keeps_raise h _ _) fun _ => keeps_raise h _ _
  · exact keeps_raise h _ _
theorem State.Inv.takesIn {j : Instr} {t : State} (e : s.takesIn j = some t) : t.Inv := by
  unfold State.takesIn at e
  split at e
  · cases e
  · split at e
    · cases e; exact h
    · exact State.Inv.passQueue h _ e
theorem State.Inv.setCur (hid : Nat) : ({ s with cur := hid } : State).Inv := h.frame
theorem State.Inv.yieldTurn : s.yieldTurn.Inv := State.Inv.setCur (State.Inv.settleSched h) _
theorem keeps_settleAll : Keeps s.settleAll :=
  keeps_andThen (keeps_settleTails (State.Inv.settleEngines h)) fun _ ht => keeps_next (State.Inv.settleSched (State.Inv.settleReqs ht))
theorem keeps_after : Keeps s.after := by
  refine keeps_andThen (keeps_settleAll h) fun t ht => keeps_next ?_
  have served : (if t.me.status = .waiting then t else t.unrefuse t.cur).Inv := inv_ite (fun _ => ht) fun _ => ht.unrefuse _
  exact inv_ite (fun _ => served) fun _ => served.frame

/-! ## Turns and the step (R79, R164, R305) -/

theorem keeps_runStatement : Keeps (runStatement s) := by
  unfold runStatement
  split
  · exact keeps_answerStop h _
  · dsimp only
    have served := State.Inv.fetchServed h s.cur s.me.pc
    split
    · exact keeps_rejected served _ _
    · split
      · next e => exact keeps_exec (State.Inv.takesIn (State.Inv.frame served) e) _
      · exact keeps_next (State.Inv.waitMe (State.Inv.frame served))
theorem keeps_runAndSettle : Keeps (runAndSettle s) := keeps_andThen (keeps_runStatement h) fun _ ht => keeps_after ht
theorem keeps_moveApp : Keeps (moveApp s) := by
  refine keeps_ite (fun _ => keeps_ite (fun _ => keeps_next (h.setMe fun a => ?_)) fun _ => keeps_next (State.Inv.yieldTurn h)) fun _ =>
    keeps_ite (fun _ => keeps_next ((h.unrefuse _).setMe fun a => (h.app a).takeInterrupt)) fun _ => keeps_runAndSettle h
  exact (h.app a).endXwait
theorem keeps_moveHart : Keeps (moveHart s) := by
  refine keeps_andThen (keeps_settleQueue h _) fun t ht => ?_
  split
  · exact keeps_andThen (keeps_hartStop ht _) fun _ hu => keeps_next (State.Inv.yieldTurn hu)
  case h_4 => exact keeps_next (State.Inv.yieldTurn (State.Inv.preempted ht _))
  case h_5 => exact keeps_next (State.Inv.yieldTurn (State.Inv.queueDone ht ..))
  case h_6 | h_7 => exact keeps_next (State.Inv.yieldTurn ht)
  all_goals
    exact keeps_ite (fun _ => keeps_next (State.Inv.yieldTurn (State.Inv.preempted ht _))) fun _ =>
      keeps_ite (fun _ => keeps_next (State.Inv.yieldTurn ht)) fun _ => keeps_runAndSettle ht
theorem keeps_moveAgent : Keeps (moveAgent s) := by
  have stalled : s.stall.Inv := h.setMe fun a => h.app a
  unfold moveAgent
  dsimp only
  split
  · exact keeps_moveApp stalled
  · exact keeps_moveHart stalled
  · exact keeps_moveHart stalled
  · exact keeps_next (State.Inv.yieldTurn stalled)
theorem keeps_hardware (t : Turn) : Keeps (hardware t s) := by
  cases t with
  | event i => exact keeps_ite (fun _ => keeps_exec h _) fun _ => keeps_next h
  | agent _ => exact keeps_next h
  | icFill cache asid vline => exact keeps_next (State.Inv.icTake h ..)
  | icEvict cache line => exact keeps_next h.frame
  | tlbEvict k => exact keeps_next h.frame
  | tlbUse k => exact keeps_next h.frame
  | tlbHalf second cache asid level va => exact keeps_next (State.Inv.tlbHalf h ..)
  | tlbFill k => exact keeps_next (State.Inv.tlbFill h k)
  | earlyEvict line => exact keeps_next (State.Inv.evictEarly h line)
  | heat line => exact keeps_next (State.Inv.fetchLine h line)
  | upsets us => exact keeps_next (State.Inv.upsets h us)
  | errorResponse who pa => exact keeps_next (State.Inv.errorResponse h ..)
  | flitSend port => exact keeps_next (State.Inv.flitSend h port)
  | bootStep => exact keeps_next (State.Inv.bootStep h)
  | bar2Read off n => exact keeps_next (State.Inv.bar2Read h ..)
theorem keeps_haltedTurn (t : Turn) : Keeps (haltedTurn t s) := by
  unfold haltedTurn
  split
  case h_5 => exact keeps_next (State.Inv.bar2Read h ..)
  case h_6 => exact keeps_next h
  all_goals exact keeps_exec h _
theorem keeps_takeTurn (t : Turn) : Keeps (takeTurn t s) := by
  refine keeps_ite (fun _ => keeps_haltedTurn h t) fun _ => ?_
  split
  · exact keeps_moveAgent h.frame
  · exact keeps_andThen (keeps_hardware h t) fun _ ht => keeps_settleAll ht
theorem keeps_step : Keeps (step s) := by
  unfold step
  split
  · exact keeps_ite (fun _ => keeps_next h.frame) fun _ => keeps_moveAgent h.frame
  · exact keeps_takeTurn h.frame _

omit h
/-- Settles O59: the invariant goes through every operation of the state, every instruction and event, and every turn. -/
theorem invariantKept : Obligations.InvariantKept := by
  unfold Obligations.InvariantKept
  exact ⟨fun _ t inv e => keeps_step inv t e, fun i _ t inv e => keeps_exec inv i t e⟩

end Sys2Proof.Machine
end
